-- ==== Sys2Proof/Word.lean ====
section
/-! DEFINITION. The word types of the manual: bytes, 64-bit registers, and sparse tables of plain data. -/
namespace Sys2Proof

/-- One byte of memory or of a packet. -/
abbrev Byte := BitVec 8

/-- A register of control space: every register is 64 bits wide (R6). -/
abbrev W64 := BitVec 64

/-- A run of bytes, lowest address first. -/
abbrev Bytes := List Byte

/-- A sparse table: entries in rising order of their index, none equal to what an unlisted index reads as. -/
abbrev Table (α : Type) := List (Nat × α)

end Sys2Proof
end

