-- ==== Sys2Proof/Types.lean ====
section
/-! DEFINITION. The plain data that commands carry and State holds: element formats, decoded elements, accumulator states, output
control, top-k lists, packets and frames. -/
namespace Sys2Proof

/-- The element formats (R34), in code order 0x0 to 0xA. -/
inductive Fmt where
  | e4m3 | e5m2 | e2m3 | e3m2 | e2m1 | mxint8 | plainE4m3 | plainE5m2 | bf16 | fp16 | fp32
  deriving DecidableEq, Repr, Inhabited

/-- The storage layouts of the layout code table. -/
inductive Layout where
  | dense | mxVector | square
  deriving DecidableEq, Repr, Inhabited

/-- The class of a decoded element, a product or a result (R41, R66, R75). -/
inductive Cls where
  | finite | inf | nan
  deriving DecidableEq, Repr, Inhabited

/-- A decoded element, a term or an exact value: for class finite, (-1)^sign * sig * 2^exp (R41), with its poison mark (R66). -/
structure Elem where
  cls : Cls
  sign : Bool
  sig : Nat
  exp : Int
  poison : Bool
  deriving DecidableEq, Repr, Inhabited

/-- The state of one long accumulator (R71). The value of VALUE is I, a multiple of 2^-304. -/
structure Acc where
  value : Int
  terms : Nat
  nan : Bool
  pinf : Bool
  ninf : Bool
  negz : Bool
  poison : Bool
  deriving DecidableEq, Repr, Inhabited

/-- Rounding modes of the output control word (R140). -/
inductive RoundMode where
  | rne | rtz | sr
  deriving DecidableEq, Repr, Inhabited

/-- Overflow modes of the output control word (R140). -/
inductive OvfMode where
  | ieee | satFinite | satAll
  deriving DecidableEq, Repr, Inhabited

/-- Scale sources of the output control word (R140). -/
inductive ScaleSrc where
  | none | caddy | ownFloor | ownFit
  deriving DecidableEq, Repr, Inhabited

/-- Activations (R145). -/
inductive Act where
  | none | relu | leakyRelu | clamp | abs | square | reluSquare | pwl
  deriving DecidableEq, Repr, Inhabited

/-- The output control word, decoded (R140). -/
structure Ctl where
  topkClose : Bool
  slotEn : Bool
  slot : Nat
  topkK : Nat
  topkOrder : Bool
  raw : Bool
  bias : Bool
  act : Act
  scaleSrc : ScaleSrc
  blockAxis : Bool
  layout : Layout
  format : Fmt
  round : RoundMode
  ovf : OvfMode
  deriving DecidableEq, Repr, Inhabited

/-- A top-k list (R164): records are (value code, column index), in list order. -/
structure TopList where
  nanCount : Nat
  k : Nat
  order : Bool
  poison : Bool
  bad : Bool
  row : Nat
  recs : List (Nat × Nat)
  deriving DecidableEq, Repr, Inhabited

/-- Causes of EXACT_LOST, with the codes of ACC_LAST_LOSS (R99). -/
inductive LossCause where
  | belowAnchor | beyond16 | anchorRange
  deriving DecidableEq, Repr, Inhabited

/-- Vector operations (R130). -/
inductive VecOp where
  | vadd | vmul | vfma | vscale | vmax | vmin | updPlain | updMomentum | updAdamw
  deriving DecidableEq, Repr, Inhabited

/-- Causes of a memory error that a command meets, as the environment says (R250): what its bits or its check bits do. -/
inductive ErrKind where
  /-- A single-bit error, corrected. -/
  | correctable
  /-- An error the line's own code detects and cannot correct. -/
  | lost
  /-- Bits of the line that change in a way its code may miss (R250, R251): bit i of the mask is bit i % 8 of byte i / 8. -/
  | silent (mask : Nat)
  /-- The stored tag of the granule that holds the line reads with an error (R269). -/
  | tag
  deriving DecidableEq, Repr, Inhabited

/-- A memory error at the line of device physical address 64 * line. -/
structure MemErr where
  line : Nat
  kind : ErrKind
  deriving DecidableEq, Repr, Inhabited

/-- A granule of 256 bytes on its way, with its poison mark (R266, R301). -/
structure Gran where
  data : Bytes
  poison : Bool
  deriving DecidableEq, Repr, Inhabited

/-- An ELT packet: the header fields of R300, the granules of R301 or the control payload of R302. `w3` is W3 bits 63:32. -/
structure Pkt where
  op : Nat
  last : Bool
  first : Bool
  retx : Bool
  areq : Bool
  prov : Bool
  done : Bool
  cee : Bool
  dconn : Nat
  sconn : Nat
  tgen : Nat
  hops : Nat
  status : Nat
  psn : Nat
  ackpsn : Nat
  w2 : Nat
  w3 : Nat
  grans : List Gran
  ctl : Bytes
  deriving DecidableEq, Repr, Inhabited

/-- A received frame that claims to carry an ELT packet: where it arrived, what the layers below found (R293 to R295, R299), the codewords
that FEC corrected and could not correct (R339), and the packet as it stands on the wire (R300 to R302). Port 16 is MGMT; 17 and 18 are the
package network for addresses of plane A and plane B. -/
structure Rx where
  port : Nat
  sub : Nat
  v4 : Bool
  src : Nat
  dst : Nat
  dport : Nat
  vid : Option Nat
  stacked : Bool
  pcp : Nat
  fecCorr : Nat
  fecUncorr : Nat
  fragment : Bool
  sumBad : Bool
  ce : Bool
  w0 : Nat
  w1 : Nat
  w2 : Nat
  w3 : Nat
  grans : List Bytes
  mask : Nat
  tags : List Nat
  ctl : Bytes
  check : Nat
  ttl : Nat
  fcsBad : Bool
  roomFull : Bool
  errs : List MemErr
  deriving DecidableEq, Repr, Inhabited

/-- How a PTP message travels (R197). -/
inductive PtpMap where
  | udp6 | udp4 | ethernet
  deriving DecidableEq, Repr, Inhabited

/-- A PTP message (R197, R337; log 138): its messageType, the domain, whether a Follow_Up carries its time, the correctionField in units of
2^-16 ns, the sourcePortIdentity, the sequence number, the logMessageInterval, the timestamp in ns of TAI, and the port that a Delay_Resp
answers. -/
structure PtpMsg where
  kind : Nat
  domain : Nat
  twoStep : Bool
  corr : Int
  source : Nat
  seq : Nat
  interval : Int
  stamp : Nat
  target : Nat
  deriving DecidableEq, Repr, Inhabited

/-- A PTP message as a frame carries it: the mapping, the IP addresses and the hop limit of a message over UDP, and the UDP checksum, 0 for
none. -/
structure PtpFrame where
  map : PtpMap
  src : Nat
  dst : Nat
  ttl : Nat
  sum : Nat
  msg : PtpMsg
  deriving DecidableEq, Repr, Inhabited

/-- How a frame with a PTP message came: where, its tag, what the layers below found, and how long the module holds it before it goes on
(R337). -/
structure PtpLink where
  port : Nat
  sub : Nat
  vid : Option Nat
  stacked : Bool
  pcp : Nat
  fcsBad : Bool
  sumBad : Bool
  residence : Nat
  deriving DecidableEq, Repr, Inhabited

/-- A frame with a PTP message received, the rate correction in parts per million that the servo asks for (R199), and how far the clock
recovered from the port stands from nominal in parts per million, none where there is none (R198). -/
structure PtpRx extends PtpLink where
  frame : PtpFrame
  rate : Int
  synce : Option Int
  deriving DecidableEq, Repr, Inhabited

/-- What the module forwards for a peer: an ELT packet (R333) or a PTP message (R337). -/
inductive Transit where
  | packet (rx : Rx)
  | ptp (x : PtpRx)
  deriving DecidableEq, Repr, Inhabited

/-- The originator of a command that a CTL write stands for: the connection that the write arrived on, in PSN order, and
its OPID (R303, R542). -/
structure Via where
  conn : Nat
  opid : Nat
  deriving DecidableEq, Repr, Inhabited

/-- What the input, current and regulator sensors read: 10 mV, 10 mA, W, 0.1 °C. -/
structure PowerIn where
  volts : Nat
  amps : Nat
  watts : Nat
  regTemp : Nat
  deriving DecidableEq, Repr, Inhabited

/-- What the power manager measured for one column, and the lowest bin its column limit requires (R517). `spare` says that
every limit holds with 5% to spare at the bin above. -/
structure ColMeasure where
  power : Nat
  limitBin : Nat
  spare : Bool
  deriving DecidableEq, Repr, Inhabited

/-- One remaining-life record (R531): `kind` 0 is an empty record. -/
structure LifeRec where
  index : Nat
  kind : Nat
  prior : Bool
  out : Bool
  days : Nat
  low : Nat
  high : Nat
  margin : Nat
  ageS : Nat
  deriving DecidableEq, Repr, Inhabited

/-- Where a neighbour request came in: the port or MGMT, its sub-port, and the tag (R295, R296). -/
structure Arrival where
  port : Nat
  sub : Nat
  vid : Option Nat
  deriving DecidableEq, Repr, Inhabited

/-- The sender of a neighbour request: its IP and its MAC address (R296). -/
structure Asker where
  ip : Nat
  mac : Nat
  deriving DecidableEq, Repr, Inhabited

/-- A pass of the sweep over a region and the errors that it met (R260). -/
structure Sweep where
  region : Nat
  errs : List MemErr
  deriving DecidableEq, Repr, Inhabited

end Sys2Proof
end

