-- ==== Sys2Proof/Syntax.lean ====
section
/-! DEFINITION. The commands of the module: one constructor per row of spec/opcode_table.json, in its order. What the
module does not decide itself (sensor readings, test results, which lines meet an error, what a peer sends) is an operand.
A command that a CTL write stands for names the connection it arrived on (`Via`). -/
namespace Sys2Proof

inductive Instr where
  | powerUp (rom shares : Nat)
  | baseStageStart
  | selftestDone (col : Nat) (pass : Bool)
  | storedImageApply
  | modEnAssert (us : Nat)
  | modEnDeassert (us : Nat)
  | regulatorsOff
  | throtNAssert (ns : Nat)
  | throtNDeassert (ns : Nat)
  | resetReqNAssert (us : Nat)
  | resetReqNRelease
  | pinHeld (pin : Nat)
  | ppsInEdge (ns : Nat)
  | powerEmergency (m : PowerIn) (us : Nat)
  | powerClear (m : PowerIn) (ms : Nat)
  | inputSag (low : Nat) (m : PowerIn) (us : Nat)
  | brownOut (volts us : Nat)
  | overVoltageOff (volts us : Nat)
  | phaseFail (conv : Bool) (unit : Nat) (volts : Nat)
  | pwrManagerTick (cols : List ColMeasure)
  | fastLimiter (m : PowerIn)
  | thermalSample (tj : List Nat)
  | thermalClear
  | thermalTrip (ms regTemp : Nat)
  | coolantSample (inlet outlet watts : Nat)
  | coolantWarn
  | lifeUpdate (recs : List LifeRec)
  | pwrRemoveRequest (v : Via)
  | pwrRemoveCancel (v : Via)
  | removeReady
  | wdFire (col : Nat)
  | standbyTakeover (col : Nat)
  | heartbeatSample (col : Nat) (beats : List (Nat × Nat))
  | laneSelftest (cluster : Nat) (pass : Bool)
  | logDigestCheck (upset : Nat)
  | plogCopy
  | devDumpTake (v : Via)
  | devDumpAck (v : Via)
  | dumpDone (unreachable : List Nat)
  | dumpCopy
  | devResetCore (v : Via) (target : Nat)
  | devResetCluster (v : Via) (target : Nat)
  | devResetColumn (v : Via) (target : Nat)
  | devResetPort (v : Via) (target : Nat)
  | devResetModuleWarm (v : Via)
  | devResetModuleCold (v : Via)
  | columnReset (col : Nat) (pass : Bool)
  | xsiStageClaim (v : Via)
  | xsiStageRelease (v : Via)
  | stageClaimLapse (fw : Bool)
  | xsiLoadStart (v : Via)
  | xsiApply
  | teardownPeerTimeout (part : Nat)
  | teardownDrainDone (part : Nat)
  | xsiDrainStuck (part : Nat)
  | drainStuckColumnReset (part col : Nat)
  | regionInitDone (region : Nat)
  | fwStageClaim (v : Via)
  | fwStageRelease (v : Via)
  | fwActivateStart (v : Via)
  | fwHandover (us : Nat)
  | fwHandoverTimeout
  | fwHandoverPointTimeout
  | fwProbationEnd
  | fwAttestStart (v : Via)
  | schLoad (v : Via) (part addr : Nat) (errs : List MemErr)
  | roundStart (part : Nat)
  | tileIssue (part stream : Nat) (errs : List MemErr) (upset : List Nat)
  | tileLaReplay (part stream : Nat) (errs : List MemErr) (upset : List Nat)
  | drainStart (part stream : Nat) (errs : List MemErr) (upset : List Nat)
  | convIssue (part stream : Nat) (errs : List MemErr) (upset : List Nat)
  | vecIssue (part stream : Nat) (errs : List MemErr)
  | mergeIssue (part stream : Nat) (errs : List MemErr)
  | xferIssue (part stream : Nat) (errs : List MemErr)
  | reserveIssue (part stream : Nat) (errs : List MemErr)
  | collIssue (part stream : Nat) (errs : List MemErr)
  | pullTimeout (part seg : Nat)
  | layerIssue (part stream : Nat) (errs : List MemErr)
  | waitIssue (part stream : Nat) (errs : List MemErr)
  | layerClose (part lidx : Nat)
  | layerReplayIssue (part lidx : Nat)
  | stepEnd (part stream : Nat) (errs : List MemErr)
  | stepBoundary (part : Nat)
  | tokenTimeout (part stream : Nat) (errs : List MemErr)
  | tileCheckDone (cluster : Nat) (lane : Bool)
  | verdictReady (part : Nat)
  | carrierComplete (part : Nat)
  | quiescedSend (part : Nat)
  | memWipe (v : Via) (part region : Nat)
  | sweepPassDone (pass : Sweep)
  | scrubPass (region : Nat) (errs codes : List MemErr)
  | memDmaResume (v : Via) (part channel : Nat)
  | memDmaAbort (v : Via) (part channel : Nat)
  | linkDown (port sub : Nat)
  | linkUp (port sub : Nat)
  | writeReceive (rx : Rx)
  | readReceive (rx : Rx)
  | readRespReceive (rx : Rx)
  | sendReceive (rx : Rx)
  | reduceReceive (rx : Rx)
  | tokenReceive (rx : Rx)
  | regRead (rx : Rx)
  | regWrite (rx : Rx)
  | cadSlotCfgWrite (v : Via) (slot : Nat) (value : W64)
  | cadSlotStateWrite (v : Via) (slot : Nat) (value : W64)
  | netConnOpen (v : Via) (conn : Nat)
  | netConnClose (v : Via) (conn : Nat)
  | memberOpenReceive (rx : Rx)
  | sessionOpen (rx : Rx)
  | openAckReceive (rx : Rx)
  | closeReceive (rx : Rx)
  | closeAckReceive (rx : Rx)
  | ackReceive (rx : Rx)
  | ackSend (conn : Nat)
  | holeRetransmit (conn psn : Nat)
  | rtoTimeout (conn : Nat)
  | opTimeout (conn opid : Nat)
  | rateIncrease (conn : Nat)
  | forwardPacket (f : Transit)
  | pfcFrameReceive (port mask : Nat)
  | pfcPauseSend (port prio fill : Nat)
  | neighbourReceive (arr : Arrival) (v6 : Bool) (target : Nat) (asker : Asker)
  | ptpSyncReceive (link : PtpLink) (frame : PtpFrame) (rate : Int) (synce : Option Int)
  | ptpSourceLost (plane : Nat)
  | slipReceive (rx : Rx)
  | verdictVoteReceive (rx : Rx)
  | verdictTreeVoteReceive (rx : Rx)
  | verdictDecideReceive (rx : Rx)
  | verdictRequestReceive (rx : Rx)
  | verdictRetractReceive (rx : Rx)
  | verdictQuiescedReceive (rx : Rx)
  | verdictResumeReceive (rx : Rx)
  | verdictHandoverReceive (rx : Rx)
  | abortReceive (rx : Rx)
  | faultNoticeFlush
  | devPartPark (v : Via) (part : Nat)
  | devPartResume (v : Via) (part : Nat)
  | devPartEnd (v : Via) (part : Nat)
  | devPartAbort (v : Via) (part : Nat)
  | devPartVacate (v : Via) (part : Nat)
  | leaseExpired (conn : Nat)
  | partitionParked (part : Nat)
  | orphanExpired (part : Nat)
  | holdoverErrorLimit (err : Nat)
  | probationFailureReport
  deriving DecidableEq, Repr, Inhabited

end Sys2Proof
end

