-- ==== Sys2Proof/Machine/Bits.lean ====
section
/-! DEFINITION. Bit fields of a 64-bit word, bytes of a number, and the counters of R12. -/
namespace Sys2Proof.Machine

/-- Field hi:lo of a register, as a number. -/
def fld (w : W64) (hi lo : Nat) : Nat := w.toNat / 2 ^ lo % 2 ^ (hi - lo + 1)

/-- Bit n of a register. -/
def bit (w : W64) (n : Nat) : Bool := fld w n n = 1

/-- A number in field hi:lo of an otherwise zero word; a number too large is cut to the field. -/
def at_ (hi lo v : Nat) : W64 := BitVec.ofNat 64 (v % 2 ^ (hi - lo + 1) * 2 ^ lo)

/-- A flag as a one-bit field. -/
def flag (n : Nat) (b : Bool) : W64 := if b then at_ n n 1 else 0

/-- Fields that do not overlap, put together into one word. -/
def fields (l : List W64) : W64 := l.foldl (· ||| ·) 0

/-- The value of `v` as a `w`-bit two's-complement number. -/
def sext (w v : Nat) : Int := if 2 * v < 2 ^ w then (v : Int) else (v : Int) - (2 ^ w : Nat)

/-- A whole number as `w`-bit two's complement. -/
def twos (w : Nat) (v : Int) : Nat := (v % ((2 ^ w : Nat) : Int)).toNat

/-- Bytes, lowest first, as a little-endian number. -/
def leNat : Bytes → Nat
  | [] => 0
  | b :: t => b.toNat + 256 * leNat t

/-- A number as `n` little-endian bytes. -/
def natLE : Nat → Nat → Bytes
  | 0, _ => []
  | n + 1, v => BitVec.ofNat 8 v :: natLE n (v / 256)

/-- `n` zero bytes. -/
def zeros (n : Nat) : Bytes := List.replicate n 0

/-- `n` bytes from offset `o`; bytes beyond the end read as zero. -/
def slice (bs : Bytes) (o n : Nat) : Bytes :=
  let t := (bs.drop o).take n
  t ++ zeros (n - t.length)

/-- The little-endian number of `n` bytes at offset `o`. -/
def leAt (bs : Bytes) (o n : Nat) : Nat := leNat (slice bs o n)

/-- Whether `n` bytes at offset `o` are all zero. -/
def zeroAt (bs : Bytes) (o n : Nat) : Bool := leAt bs o n = 0

/-- The bytes cut into runs of `n`; fuel is the number of runs at most. -/
def chunks (n : Nat) : Nat → Bytes → List Bytes
  | 0, _ => []
  | f + 1, bs => if bs.isEmpty then [] else slice bs 0 n :: chunks n f (bs.drop n)

/-- An event counter counts one event; it saturates at all ones (R12). -/
def inc (c : W64) : W64 := if c = BitVec.allOnes 64 then c else c + 1

/-- An event counter counts `n` events; it saturates at all ones (R12). -/
def incBy (c : W64) (n : Nat) : W64 :=
  if c.toNat + n < 2 ^ 64 then BitVec.ofNat 64 (c.toNat + n) else BitVec.allOnes 64

/-- The smaller of a value and the largest number of `w` bits. -/
def sat (w v : Nat) : Nat := min v (2 ^ w - 1)

/-- ceil(a / b). -/
def ceilDiv (a b : Nat) : Nat := (a + b - 1) / b

/-- `l` with entry `i` changed by `f`. -/
def modAt {α : Type} (l : List α) (i : Nat) (f : α → α) : List α := l.modify i f

end Sys2Proof.Machine
end

