-- ==== Sys2Proof/Machine/Formats.lean ====
section
/-! DEFINITION. Element formats: codes, widths, the exact decoding of R41, packing (R45, R46), the storage layouts
(R51 to R54) and the exact widening of R58. -/
namespace Sys2Proof.Machine

/-- The format of a code (R34); none for the reserved codes. -/
def fmtOfCode : Nat → Option Fmt
  | 0 => some .e4m3 | 1 => some .e5m2 | 2 => some .e2m3 | 3 => some .e3m2 | 4 => some .e2m1 | 5 => some .mxint8
  | 6 => some .plainE4m3 | 7 => some .plainE5m2 | 8 => some .bf16 | 9 => some .fp16 | 10 => some .fp32 | _ => none

/-- The code of a format (R34). -/
def fmtCode : Fmt → Nat
  | .e4m3 => 0 | .e5m2 => 1 | .e2m3 => 2 | .e3m2 => 3 | .e2m1 => 4 | .mxint8 => 5
  | .plainE4m3 => 6 | .plainE5m2 => 7 | .bf16 => 8 | .fp16 => 9 | .fp32 => 10

/-- The layout of a code; none for the reserved code (layout code table). -/
def layoutOfCode : Nat → Option Layout
  | 0 => some .dense | 1 => some .mxVector | 2 => some .square | _ => none

/-- Width of an element in bits (R34). -/
def fmtWidth : Fmt → Nat
  | .e2m3 | .e3m2 => 6
  | .e2m1 => 4
  | .bf16 | .fp16 => 16
  | .fp32 => 32
  | _ => 8

/-- Whether a format carries block scales (R34). -/
def fmtScaled : Fmt → Bool
  | .e4m3 | .e5m2 | .e2m3 | .e3m2 | .e2m1 | .mxint8 => true
  | _ => false

/-- The operand class, as its place in the order MX4, MX6, MX8, 16-bit, FP32 (R34, R105). -/
def fmtClass : Fmt → Nat
  | .e2m1 => 0
  | .e2m3 | .e3m2 => 1
  | .bf16 | .fp16 => 3
  | .fp32 => 4
  | _ => 2

/-- Whether a layout allows a format (R48). -/
def layoutAllows (l : Layout) (f : Fmt) : Bool :=
  match l with
  | .dense => !fmtScaled f
  | _ => fmtScaled f

/-- (exponent bits, fraction bits, bias) of a floating-point format (R41). -/
def fmtParams : Fmt → Nat × Nat × Nat
  | .e2m1 => (2, 1, 1)
  | .e2m3 => (2, 3, 1)
  | .e3m2 => (3, 2, 3)
  | .e4m3 | .plainE4m3 => (4, 3, 7)
  | .e5m2 | .plainE5m2 => (5, 2, 15)
  | .fp16 => (5, 10, 15)
  | .bf16 => (8, 7, 127)
  | .fp32 => (8, 23, 127)
  | .mxint8 => (0, 0, 0)

/-- Whether a format has infinity codes (format limits table). -/
def fmtHasInf : Fmt → Bool
  | .e5m2 | .plainE5m2 | .bf16 | .fp16 | .fp32 => true
  | _ => false

/-- decode_element of R41. -/
def decodeElement (f : Fmt) (code : Nat) : Elem :=
  if f = .mxint8 then
    if 128 ≤ code then ⟨.finite, true, 256 - code, -6, false⟩ else ⟨.finite, false, code, -6, false⟩
  else
    let (eb, mb, bias) := fmtParams f
    let sign := decide (code / 2 ^ (eb + mb) % 2 = 1)
    let e := code / 2 ^ mb % 2 ^ eb
    let m := code % 2 ^ mb
    if (f = .e4m3 ∨ f = .plainE4m3) ∧ e = 15 ∧ m = 7 then ⟨.nan, sign, 0, 0, false⟩
    else if fmtHasInf f ∧ e = 2 ^ eb - 1 then
      if m = 0 then ⟨.inf, sign, 0, 0, false⟩ else ⟨.nan, sign, 0, 0, false⟩
    else if e = 0 then ⟨.finite, sign, m, 1 - (bias : Int) - (mb : Int), false⟩
    else ⟨.finite, sign, 2 ^ mb + m, (e : Int) - bias - mb, false⟩

/-- decode_scale of R41: none is the NaN scale (R38). -/
def decodeScale (f : Fmt) (scode : Nat) : Option Int :=
  if fmtScaled f then (if scode = 255 then none else some ((scode : Int) - 127)) else some 0

/-- decode_scaled of R41, with the poison mark of R67: a poisoned granule's elements have class nan and mark 1. -/
def decodeScaled (f : Fmt) (code scode : Nat) (poisoned : Bool) : Elem :=
  let e := decodeElement f code
  if poisoned then ⟨.nan, e.sign, 0, 0, true⟩
  else match decodeScale f scode with
    | none => ⟨.nan, e.sign, 0, 0, false⟩
    | some x => if e.cls = .finite then { e with exp := e.exp + x } else e

/-- Decoding of an FP32 code with scale exponent 0. -/
def fp32 (code : Nat) : Elem := decodeElement .fp32 code

/-- Element `i` of width `w` in a vector packed as a little-endian bit stream (R45, R46). -/
def unpackAt (w : Nat) (bs : Bytes) (i : Nat) : Nat :=
  let b := i * w
  leAt bs (b / 8) 5 / 2 ^ (b % 8) % 2 ^ w

/-- Codes packed into a little-endian bit stream (R45, R46). -/
def pack (w : Nat) (codes : List Nat) : Bytes :=
  natLE (ceilDiv (codes.length * w) 8) (codes.foldr (fun c acc => c % 2 ^ w + 2 ^ w * acc) 0)

/-- Bytes of one square-scaled tile (R53). -/
def tileBytes (f : Fmt) : Nat := 1024 * fmtWidth f / 8

/-- Bit offset in the payload of the element `e` of vector `v` of a tensor whose vectors hold `vlen` blocks of 32
elements (R51, R53, R54): in a square-scaled tensor, matrix row `v` and column `e`. -/
def elemBit (l : Layout) (f : Fmt) (vlen v e : Nat) : Nat :=
  match l with
  | .square => ((v / 32) * vlen + e / 32) * (tileBytes f * 8) + (32 * (v % 32) + e % 32) * fmtWidth f
  | _ => (v * (vlen * 32) + e) * fmtWidth f

/-- Byte of the scale plane that holds the scale of that element (R51, R53). -/
def scaleByte (l : Layout) (vlen v e : Nat) : Nat :=
  match l with
  | .square => (v / 32) * vlen + e / 32
  | _ => v * vlen + e / 32

/-- The exact element widening table of R58. -/
def widens (a b : Fmt) : Bool :=
  match a, b with
  | .e2m1, .e2m3 | .e2m1, .e3m2 | .e2m1, .e4m3 | .e2m1, .e5m2 => true
  | .e2m3, .e4m3 | .e3m2, .e4m3 | .e3m2, .e5m2 => true
  | _, _ => false

/-- The one code of format `b` whose finite value is `sig * 2^exp` with the given sign, for a value the format holds
exactly. -/
def encodeExact (b : Fmt) (sign : Bool) (sig : Nat) (exp : Int) : Nat :=
  let (eb, mb, bias) := fmtParams b
  let s := if sign then 2 ^ (eb + mb) else 0
  if sig = 0 then s
  else
    let top : Int := Nat.log2 sig + exp
    let emin : Int := 1 - (bias : Int)
    let q : Int := (if top < emin then emin else top) - mb
    let n : Nat := if q ≤ exp then sig * 2 ^ (exp - q).toNat else sig / 2 ^ (q - exp).toNat
    if n < 2 ^ mb then s + n else s + ((top + bias).toNat) * 2 ^ mb + (n - 2 ^ mb)

/-- One element re-encoded exactly by a transfer (R58, R60): a widening under the same scale code, or bfloat16 and FP16
into FP32, where Inf keeps its sign and NaN becomes 0x7FC0_0000 or 0xFFC0_0000. -/
def reencode (a b : Fmt) (code : Nat) : Nat :=
  if a = b then code
  else
    let e := decodeElement a code
    match e.cls with
    | .finite => encodeExact b e.sign e.sig e.exp
    | .inf => if e.sign then 0xFF800000 else 0x7F800000
    | .nan => if e.sign then 0xFFC00000 else 0x7FC00000

end Sys2Proof.Machine
end

