-- ==== Sys2Proof/Machine/Accum.lean ====
section
/-! DEFINITION. The exact dot product: products, terms, merges, classification, accumulator images and the short
accumulator (chapter 03). -/
namespace Sys2Proof.Machine

/-- CLEAR of the reference algorithm (R77). -/
def accClear : Acc := ⟨0, 0, false, false, false, true, false⟩

/-- LIMIT, the limit state of R73. -/
def accLimit : Acc := ⟨0, 2 ^ 40 + 1, true, false, false, false, false⟩

/-- The product of two decoded elements (R66). -/
def product (a b : Elem) : Elem :=
  let s := a.sign ^^ b.sign
  let p := a.poison || b.poison
  if a.cls = .nan ∨ b.cls = .nan then ⟨.nan, s, 0, 0, p⟩
  else if a.cls = .inf ∨ b.cls = .inf then
    if (a.cls = .finite ∧ a.sig = 0) ∨ (b.cls = .finite ∧ b.sig = 0) then ⟨.nan, s, 0, 0, p⟩
    else ⟨.inf, s, 0, 0, p⟩
  else ⟨.finite, s, a.sig * b.sig, a.exp + b.exp, p⟩

/-- A finite term as a multiple of 2^-304 (R77): every term's exponent is at least -304. -/
def fixed (t : Elem) : Int :=
  let v : Int := t.sig * 2 ^ (t.exp + 304).toNat
  if t.sign then -v else v

/-- Whether one more addition takes TERMS above 2^40, so that TERM_LIMIT is raised (R73). -/
def addRaises (st : Acc) : Bool := st.terms ≠ 2 ^ 40 + 1 ∧ 2 ^ 40 < st.terms + 1

/-- add_term (R72, R77). -/
def addTerm (st : Acc) (t : Elem) : Acc :=
  if st.terms = 2 ^ 40 + 1 then accLimit
  else if 2 ^ 40 < st.terms + 1 then accLimit
  else
    { value := if t.cls = .finite then st.value + fixed t else st.value
      terms := st.terms + 1
      nan := st.nan || t.cls = .nan
      pinf := st.pinf || (t.cls = .inf && !t.sign)
      ninf := st.ninf || (t.cls = .inf && t.sign)
      negz := st.negz && (t.cls = .finite && t.sig = 0 && t.sign)
      poison := st.poison || t.poison }

/-- Whether a merge raises TERM_LIMIT (R73). -/
def mergeRaises (st im : Acc) : Bool :=
  st.terms ≠ 2 ^ 40 + 1 ∧ im.terms ≠ 2 ^ 40 + 1 ∧ 2 ^ 40 < st.terms + im.terms

/-- merge (R77, R82). -/
def merge (st im : Acc) : Acc :=
  if st.terms = 2 ^ 40 + 1 ∨ im.terms = 2 ^ 40 + 1 then accLimit
  else if 2 ^ 40 < st.terms + im.terms then accLimit
  else
    { value := st.value + im.value
      terms := st.terms + im.terms
      nan := st.nan || im.nan
      pinf := st.pinf || im.pinf
      ninf := st.ninf || im.ninf
      negz := st.negz && im.negz
      poison := st.poison || im.poison }

/-- The terms of a list added one after another; in LA mode the order does not matter (R63). -/
def addTerms (st : Acc) (ts : List Elem) : Acc := ts.foldl addTerm st

/-- The terms of a contraction: the products of a row of A and a column of B. -/
def products (arow bcol : List Elem) : List Elem := List.zipWith product arow bcol

/-- dot_la (R77). -/
def dotLa (arow bcol : List Elem) (seed : Acc) : Acc := addTerms seed (products arow bcol)

/-- classify (R75): the exact value I * 2^-304, with class and sign. -/
def classify (st : Acc) : Elem :=
  if st.nan ∨ (st.pinf ∧ st.ninf) then ⟨.nan, false, 0, 0, st.poison⟩
  else if st.pinf then ⟨.inf, false, 0, 0, st.poison⟩
  else if st.ninf then ⟨.inf, true, 0, 0, st.poison⟩
  else if st.value = 0 then ⟨.finite, st.negz && decide (0 < st.terms), 0, 0, st.poison⟩
  else ⟨.finite, decide (st.value < 0), st.value.natAbs, -304, st.poison⟩

/-- The state word of an accumulator image (R79). -/
def accStateWord (a : Acc) : W64 :=
  fields [at_ 40 0 a.terms, flag 48 a.nan, flag 49 a.pinf, flag 50 a.ninf, flag 51 a.negz, flag 52 a.poison]

/-- An accumulator image: VALUE, STATE, eight reserved bytes (R79). -/
def accImage (a : Acc) : Bytes :=
  natLE 80 (twos 640 a.value) ++ natLE 8 (accStateWord a).toNat ++ zeros 8

/-- The state an image's 96 bytes spell, before the image check. -/
def accOfImage (bs : Bytes) : Acc :=
  let w : W64 := BitVec.ofNat 64 (leAt bs 80 8)
  ⟨sext 640 (leAt bs 0 80), fld w 40 0, bit w 48, bit w 49, bit w 50, bit w 51, bit w 52⟩

/-- Whether the reserved bits of an image are zero (R79). -/
def imageReservedZero (bs : Bytes) : Bool :=
  let w : W64 := BitVec.ofNat 64 (leAt bs 80 8)
  fld w 63 53 = 0 ∧ fld w 47 41 = 0 ∧ zeroAt bs 88 8

/-- The image check on a decoded state (R81), its reserved bits apart. -/
def stateCheck (a : Acc) : Bool :=
  if 2 ^ 40 + 1 < a.terms then false
  else if a.terms = 2 ^ 40 + 1 then a = accLimit
  else if a.terms = 0 then a = accClear
  else decide (a.value.natAbs < a.terms * 2 ^ 591)

/-- The image check (R81). -/
def imageCheck (bs : Bytes) : Bool := imageReservedZero bs && stateCheck (accOfImage bs)

/-- The term added in place of a failing image: class nan, poison mark 0 (R81). -/
def nanTerm : Elem := ⟨.nan, false, 0, 0, false⟩

/-- An image merged into a state: (state, LA_IMAGE_BAD raised, TERM_LIMIT raised) (R81, R82, R97). -/
def mergeImage (st : Acc) (bs : Bytes) : Acc × Bool × Bool :=
  if imageCheck bs then (merge st (accOfImage bs), false, mergeRaises st (accOfImage bs))
  else (addTerm st nanTerm, true, addRaises st)

/-- The exact contribution of one block, in units of 2^-304 (R90). -/
def blockSum (ps : List Elem) : Int :=
  ps.foldl (fun c p => if p.cls = .finite then c + fixed p else c) 0

/-- The running state of one SA output over its blocks (R90, R92). -/
structure SaRun where
  s : Int
  st : Acc

/-- The exactness tests of one block of one output (R90): the run after the block, or the cause of the loss. -/
def saBlock (anchor : Int) (r : SaRun) (ps : List Elem) : Except LossCause SaRun :=
  let q : Int := 2 ^ (anchor + 304).toNat
  let c := blockSum ps
  if c % q ≠ 0 then .error .belowAnchor
  else
    let s := r.s + c / q
    if s < -32768 ∨ 32767 < s then .error .beyond16
    else .ok ⟨s, addTerms r.st ps⟩

/-- The blocks of one output, in ascending order; a loss gives its block and cause (R90, R91). -/
def saBlocks (anchor : Int) : Nat → SaRun → List (List Elem) → Except (Nat × LossCause) SaRun
  | _, r, [] => .ok r
  | k, r, b :: t =>
    match saBlock anchor r b with
    | .error e => .error (k, e)
    | .ok r' => saBlocks anchor (k + 1) r' t

/-- Whether an anchor lies in range (R89). -/
def anchorOk (a : Int) : Bool := decide (-304 ≤ a ∧ a ≤ 320)

/-- sa_output (R92), on the products of the blocks: the state, or the block and cause of the loss. -/
def saOutput (anchor : Int) (blocks : List (List Elem)) : Except (Nat × LossCause) Acc :=
  if anchorOk anchor then
    match saBlocks anchor 0 ⟨0, accClear⟩ blocks with
    | .error e => .error e
    | .ok r => .ok r.st
  else .error (0, .anchorRange)

/-- The highest set bit of a number; none for 0. -/
def topBit (n : Nat) : Option Nat := if n = 0 then none else some (Nat.log2 n)

/-- The number of trailing zeros, below `fuel`. -/
def tzAux : Nat → Nat → Nat
  | 0, _ => 0
  | f + 1, n => if n % 2 = 1 then 0 else 1 + tzAux f (n / 2)

/-- The lowest set bit of a number; none for 0. -/
def lowBit (n : Nat) : Option Nat := if n = 0 then none else some (tzAux 1024 n)

end Sys2Proof.Machine
end

