-- ==== Sys2Proof/Machine/Compact.lean ====
section
/-! DEFINITION. The compact exact encoding of segments (R349 to R353) and the check of a received part (R355). -/
namespace Sys2Proof.Machine

/-- A segment encoded: T, the anchors A_b, V_e (none for the escape code), NEGZ, and the escape records (R353). -/
structure SegEnc where
  terms : Nat
  anchors : List Nat
  vals : List (Option Int)
  negz : List Bool
  recs : List (Nat × Acc)
  deriving DecidableEq, Repr

/-- Whether a state is escaped whatever its value (R353). -/
def escaped (t : Nat) (a : Acc) : Bool := a.nan || a.pinf || a.ninf || a.poison || decide (a.terms ≠ t)

/-- The anchor of block b (R353). -/
def anchorAt (t : Nat) (sts : List Acc) (b : Nat) : Nat :=
  let zs := ((sts.drop (32 * b)).take 32).filterMap fun a =>
    if escaped t a then none else lowBit a.value.natAbs
  match zs with
  | [] => 0
  | z :: r => min 592 (r.foldl min z)

/-- V_e under an anchor; none where the element is escaped. -/
def narrowVal (t anchor : Nat) (a : Acc) : Option Int :=
  if escaped t a then none
  else
    let v := a.value / (2 ^ anchor : Int)
    if v ≤ -(2 ^ 47) ∨ 2 ^ 47 ≤ v then none else some v

/-- encode_segment (R353). -/
def encodeSegment (sts : List Acc) : SegEnc :=
  let t := (sts.headD accClear).terms
  let anchors := (List.range 32).map (anchorAt t sts)
  let vals := (List.range sts.length).map fun e => narrowVal t (anchors.getD (e / 32) 0) (sts.getD e accClear)
  { terms := t, anchors := anchors, vals := vals
    negz := (List.range sts.length).map fun e => (vals.getD e none).isSome && (sts.getD e accClear).negz
    recs := (List.range sts.length).filterMap fun e =>
      if (vals.getD e none).isNone then some (e, sts.getD e accClear) else none }

/-- The narrow state of an element (R352). -/
def narrowState (terms anchor : Nat) (negz : Bool) (v : Int) : Acc :=
  ⟨v * 2 ^ anchor, terms, false, false, false, negz, false⟩

/-- An escape record (R351). -/
def escRecord (r : Nat × Acc) : Bytes := (accImage r.2).take 88 ++ natLE 2 r.1 ++ zeros 6

/-- An unused record slot (R351). -/
def emptySlot : Bytes := zeros 88 ++ [0xFF, 0xFF] ++ zeros 6

/-- The escape granules that `n` records take. -/
def escGrans (n : Nat) : Nat := ceilDiv (96 * n) 256

/-- The escape granules of a part, 256 bytes each. -/
def escBytes (rs : List (Nat × Acc)) : Bytes :=
  let e := escGrans rs.length
  let slots := 256 * e / 96
  slice (rs.flatMap escRecord ++ (List.replicate (slots - rs.length) emptySlot).flatten) 0 (256 * e)

/-- Fields of a header granule (R349). -/
structure PartHdr where
  anchors : List Nat
  negz : Nat
  terms : Nat
  contrib : Nat
  part : Nat
  nparts : Nat
  nrec : Nat
  solo : Bool
  attempt : Nat
  elems : Nat
  spillIdx : Nat
  deriving DecidableEq, Repr

/-- The header granule of a part (R349). -/
def hdrBytes (h : PartHdr) : Bytes :=
  h.anchors.flatMap (natLE 2) ++ natLE 128 h.negz ++ natLE 8 h.terms ++ natLE 8 h.contrib ++ natLE 1 h.part ++ natLE 1 h.nparts
    ++ natLE 2 h.nrec ++ natLE 1 (if h.solo then 1 else 0) ++ natLE 1 h.attempt ++ natLE 2 h.elems ++ natLE 4 h.spillIdx
    ++ zeros 36

/-- The fields that a header granule spells. -/
def hdrOf (b : Bytes) : PartHdr :=
  { anchors := (List.range 32).map fun i => leAt b (2 * i) 2, negz := leAt b 64 128, terms := leAt b 192 8
    contrib := leAt b 200 8, part := leAt b 208 1, nparts := leAt b 209 1, nrec := leAt b 210 2
    solo := leAt b 212 1 % 2 = 1, attempt := leAt b 213 1, elems := leAt b 214 2, spillIdx := leAt b 216 4 }

/-- The 48-bit code of V_e (R350). -/
def valCode : Option Int → Nat
  | none => 2 ^ 47
  | some v => twos 48 v

/-- Records of part k: 18 in part 0, then 82 in each continuation part (R353). -/
def partRecs (rs : List (Nat × Acc)) (k : Nat) : List (Nat × Acc) :=
  if k = 0 then rs.take 18 else (rs.drop (18 + 82 * (k - 1))).take 82

/-- NPARTS of `n` records. -/
def partsOf (n : Nat) : Nat := 1 + ceilDiv (n - 18) 82

/-- The parts of a contribution, each as its bytes (R349 to R353). -/
def encodeParts (e : SegEnc) (contrib attempt spillIdx : Nat) (solo : Bool) : List Bytes :=
  let n := partsOf e.recs.length
  let mask := (List.range e.negz.length).foldl (fun m i => if e.negz.getD i false then m + 2 ^ i else m) 0
  (List.range n).map fun k =>
    let rs := partRecs e.recs k
    let first := decide (k = 0)
    let h : PartHdr :=
      { anchors := if first then e.anchors else List.replicate 32 0, negz := if first then mask else 0, terms := e.terms
        contrib := contrib, part := k, nparts := n, nrec := rs.length, solo := solo, attempt := attempt
        elems := e.vals.length, spillIdx := if first && decide (1 < n) then spillIdx else 0 }
    let vals := if first then slice (e.vals.flatMap fun v => natLE 6 (valCode v)) 0 6144 else []
    hdrBytes h ++ vals ++ escBytes rs

/-- The bytes of V_e in part 0. -/
def valOf (b : Bytes) (e : Nat) : Nat := leAt b (256 + 6 * e) 6

/-- The byte at which record i of a part begins. -/
def recAt (h : PartHdr) (i : Nat) : Nat := (if h.part = 0 then 6400 else 256) + 96 * i

/-- Record i of a part: its element, and its 96 bytes as an accumulator image. -/
def recOf (h : PartHdr) (b : Bytes) (i : Nat) : Nat × Bytes :=
  (leAt b (recAt h i + 88) 2, slice b (recAt h i) 88 ++ zeros 8)

/-- The bits and bytes of a header granule that R349 marks reserved or zero; SPILL_IDX, a field of its own, is not among them (log 111). -/
def hdrReserved (b : Bytes) (h : PartHdr) : Bool :=
  h.anchors.all (· < 1024) && decide (h.terms < 2 ^ 41) && decide (leAt b 212 1 < 2) && zeroAt b 220 36

/-- The content checks of R355 on a part of `grans` granules for a segment of `elems` elements; CONTRIB apart. -/
def partOk (b : Bytes) (grans elems : Nat) : Bool :=
  let h := hdrOf b
  let e := escGrans h.nrec
  let first := decide (h.part = 0)
  let idx := (List.range h.nrec).map fun i => (recOf h b i).1
  hdrReserved b h && h.anchors.all (· ≤ 592) && decide (h.terms ≤ 2 ^ 40 + 1) && decide (h.part < h.nparts) && decide (h.nparts ≤ 14)
    && (if first then decide (grans = 25 + e) && decide (e ≤ 7) && decide (h.nrec ≤ 18)
        else decide (grans = 1 + e) && decide (1 ≤ e ∧ e ≤ 31) && decide (h.nrec ≤ 82)
          && h.anchors.all (· = 0) && decide (h.negz = 0))
    && decide (h.elems = elems) && decide (1 ≤ elems ∧ elems ≤ 1024)
    && (!first || ((List.range 1024).all fun i =>
        let v := valOf b i
        (!negzAt h.negz i || decide (v = 0)) && (decide (i < elems) || (decide (v = 0) && !negzAt h.negz i))))
    && (List.range h.nrec).all (fun i => imageCheck (recOf h b i).2 && decide ((recOf h b i).1 < elems)
        && zeroAt b (recAt h i + 90) 6 && !(idx.take i).contains (recOf h b i).1)
    && (List.range (256 * e / 96 - h.nrec)).all (fun i =>
        let a := recAt h (h.nrec + i)
        zeroAt b a 88 && decide (leAt b (a + 88) 2 = 0xFFFF) && zeroAt b (a + 90) 6)
where
  negzAt (m i : Nat) : Bool := decide (m / 2 ^ i % 2 = 1)

/-- The states that a part whose content passes gives an element: its narrow state in part 0, and its record if it has one (R352).
`bad` holds the granules of the part that are poisoned: a poisoned value granule makes its elements one poisoned nan term, and
any other makes every element so. A record that fails the image check counts as one nan term (R81). -/
def partStates (b : Bytes) (bad : List Nat) (e : Nat) : List Acc :=
  let h := hdrOf b
  let first := decide (h.part = 0)
  let lo := 1 + 6 * e / 256
  let hi := 1 + (6 * e + 5) / 256
  let lost := bad.any fun g => !first || g = 0 || decide (25 ≤ g) || g = lo || g = hi
  if lost then [addTerm accClear ⟨.nan, false, 0, 0, true⟩]
  else
    let v := valOf b e
    let own := if !first then [] else if v = 2 ^ 47 then [accClear]
      else [narrowState h.terms (h.anchors.getD (e / 32) 0) (decide (h.negz / 2 ^ e % 2 = 1)) (sext 48 v)]
    own ++ ((List.range h.nrec).filterMap fun i =>
      let r := recOf h b i
      if r.1 = e then some (if imageCheck r.2 then accOfImage r.2 else addTerm accClear nanTerm) else none)

/-- Records of a part that fail the image check (R81). -/
def badRecords (b : Bytes) : Nat := (List.range (hdrOf b).nrec).countP fun i => !imageCheck (recOf (hdrOf b) b i).2

/-- States merged one after another, with the number of TERM_LIMIT events (R352). -/
def mergeStates (st : Acc) (l : List Acc) : Acc × Nat :=
  l.foldl (fun (a : Acc × Nat) x => (merge a.1 x, if mergeRaises a.1 x then a.2 + 1 else a.2)) (st, 0)

end Sys2Proof.Machine
end

