-- ==== Sys2Proof/Config.lean ====
section
/-! DEFINITION. What an implementation fixes and the spec leaves open: constants without a body, which no proof can
evaluate. -/
namespace Sys2Proof.Config

/-- The module secret S (R452): 256 bits that each module draws for itself. -/
opaque moduleSecret : BitVec 256

/-- The public keys of the four Tchiwarno firmware keys that the ROM holds (firmware image header). -/
opaque firmwareKey : Nat → BitVec 256

/-- The ROM's measurement, a constant of the stepping (R455). -/
opaque romMeasurement : BitVec 512

/-- A draw for the pseudo-channel that serves an HBM line (R238, R249): the placement is internal to the controller. A line of a strong
region takes one of the channels that its stripe leaves in its stack. -/
opaque pseudoChannel : Nat → BitVec 6

/-- The base of an output tensor's scale plane in core store, in units of 64 bytes, from its OUT and OUT_VLEN fields: the entry
names no scale plane (R212; log 11). -/
opaque outScaleBase : Nat → Nat → BitVec 14

/-- The base of a collective result's scale plane in partition memory, in units of 64 bytes, from the CID and the result's address:
the entry names no scale plane (R361; log 19). -/
opaque collScaleBase : Nat → Nat → BitVec 34

/-- A byte of a unit's debug latch, or of the diagnostic state of a unit that is no core slot, in a crash dump (R495; log 20): by
the dump's count, the unit, and the byte's offset in the body. -/
opaque dumpByte : Nat → Nat → Nat → BitVec 8

/-- The next-hop MAC address of a packet to an address on MGMT (R296): the spec gives MGMT no register for it (log 140). -/
opaque mgmtNextHop : Nat → BitVec 48

/-- The number of a trace point (R475): by the trace class, and the place of the point in the class's row of the table. -/
opaque tracePoint : Nat → Nat → BitVec 64

/-- A free value of 64 bits for each count of the model's counter (log 3): what the spec leaves open. -/
opaque freeWord : Nat → BitVec 64

end Sys2Proof.Config
end

