-- ==== Sys2Proof/Machine/State.lean ====
section
/-! DEFINITION. The state of the module as plain data, its value after power has been removed, and the reasons a step can
stop. Numbered arrays of the manual are sparse tables (Sys2Proof.Table): an index not listed reads as the array's default.
Each structure names the rule that gives its fields; INVENTORY.md lists them with their reset values. -/
namespace Sys2Proof.Machine

/-- Time state of the module (R200). -/
inductive TimeState where
  | neverLocked | acquiring | locked | holdover | unlocked
  deriving DecidableEq, Repr, Inhabited

/-- What the module knows of a plane's PTP source (R197, R198): the frequency recovered there, the Sync whose Follow_Up is still to come
(its source, sequence number, time of arrival and correction), the latest Sync (its time at the source and its time of arrival), the
Delay_Req under way (its sequence number and when it left), and the path delay measured. -/
structure PtpSide where
  freq : Option Int
  wait : Option (Nat × Nat × Nat × Int)
  sync : Option (Int × Int)
  req : Option (Nat × Nat)
  seq : Nat
  path : Option Int
  deriving DecidableEq, Repr, Inhabited

def PtpSide.reset : PtpSide := ⟨none, none, none, none, 0, none⟩

/-- Module time (R197 to R202, R237). `clk` is the model's elapsed-time clock in ns (log 5); `drift` and `acc` are the
rate correction in parts per million and its accumulated fraction (R199), `freq` the deviation of the frequency in force in parts per
million, and `sides` what is known of the planes' sources (R197, R198). -/
structure TimeSt where
  clk : Nat
  now : W64
  drift : Int
  acc : Int
  st : TimeState
  source : Nat
  synce : Bool
  ppsOk : Bool
  holdAt : Nat
  errNs : Nat
  good : Nat
  everLocked : Bool
  usable : Nat
  ppsReject : W64
  unlocks : W64
  ppsEn : Bool
  ppsLast : Nat
  freq : Int
  sides : Table PtpSide
  deriving DecidableEq, Repr, Inhabited

/-- Power phase of the module (R482, R511, R521, R530). -/
inductive Phase where
  /-- The module is off; MOD_EN or the input may start it. -/
  | off
  /-- The rails are coming up. -/
  | starting
  /-- Every rail is in regulation. -/
  | on
  /-- MOD_EN was deasserted; the regulators turn off 10 ms later. -/
  | turningOff
  /-- A thermal trip: off until MOD_EN has been deasserted and asserted again. -/
  | tripped
  deriving DecidableEq, Repr, Inhabited

/-- Power of one column (R514 to R521, R536). `belowContract` marks a CAP_LIMIT episode; `cooling` that the rule of R521 still lowers
the bin. -/
structure ColPwr where
  limit : W64
  bin : Nat
  cause : Nat
  power : Nat
  tj : Nat
  phases : Nat
  phaseFails : W64
  raisedAt : Nat
  belowContract : Bool
  phaseCap : Option Nat
  cooling : Bool
  deriving DecidableEq, Repr, Inhabited

/-- The reset value of one column's power state (R536). -/
def ColPwr.reset : ColPwr := ⟨0xE1, 0, 0, 0, 0, 12, 0, 0, false, none, false⟩

/-- Power, heat and pins (R511 to R536). `pins` has a bit for each pin that is active, in the order of the sideband pin table. `pinAt` is the clock of
each pin's last accepted change. -/
structure Pwr where
  phase : Phase
  phaseAt : Nat
  pins : Nat
  held : Nat
  pinAt : Table Nat
  pinLogAt : Table Nat
  modPg : Bool
  alertStrap : Bool
  volts : Nat
  amps : Nat
  watts : Nat
  cap : W64
  ageing : Bool
  coolant : Bool
  phaseAlert : Bool
  thermal : Bool
  thermalAt : Nat
  power : Bool
  throt : Bool
  throtOffAt : Option Nat
  filtered : W64
  throttleUs : W64
  emergencies : W64
  inlet : Nat
  outlet : Nat
  flow : Nat
  coolantBadAt : Option Nat
  hotAt : Option Nat
  remove : Nat
  stretch : Nat
  converters : Nat
  ageLogAt : Option Nat
  cols : Table ColPwr
  life : Table LifeRec
  grants : Table W64
  deriving DecidableEq, Repr, Inhabited

/-- One log entry before it takes its bytes (R473). -/
structure LogEntry where
  time : W64
  seq : Nat
  event : Nat
  sev : Nat
  col : Nat
  unit : Nat
  part : Nat
  flags : Nat
  payload : List W64
  deriving DecidableEq, Repr, Inhabited

/-- The steward of one column (R471 to R473, R479): its log ring, newest entry first, and how far a read has reached. -/
structure Steward where
  held : Bool
  stage : Nat
  kickAt : Nat
  carrying : Bool
  ring : List LogEntry
  head : Nat
  seen : Nat
  lost : W64
  fires : W64
  deriving DecidableEq, Repr, Inhabited

def Steward.reset : Steward := ⟨false, 0, 0, false, [], 0, 0, 0, 0⟩

/-- Memory, collective and Caddy counters of one column (R194, R286, R370), and its reset count (R510). -/
structure ColRegs where
  ce : W64
  rebuilds : W64
  ue : W64
  tagFail : W64
  stale : W64
  scrubLag : W64
  lastErr : W64
  pcFailed : W64
  pcRebuilds : Table (List Nat)
  ceLines : List (Nat × Nat)
  ceTimes : List Nat
  cadReplays : W64
  cadPromotions : W64
  cadCeiling : W64
  cadDeclined : W64
  cadLast : W64
  colSteps : W64
  colPartsIn : W64
  colEsc : W64
  colInpath : W64
  colSolo : W64
  colPulls : W64
  colDiscard : W64
  colBad : W64
  colSpillFull : W64
  colLastErr : W64
  colTermLimit : W64
  devResets : W64
  deriving DecidableEq, Repr, Inhabited

def ColRegs.reset : ColRegs :=
  ⟨0, 0, 0, 0, 0, 0, 0, 0, [], [], [], 0, 0, 0, 0, 0, 0, 0, 0, 0, 0, 0, 0, 0, 0, 0, 0, 0⟩

/-- One entry of the margin record (R488): a cluster's voltage steps, clock bins, and the spare's use. -/
structure Margin where
  vsteps : Nat
  fbins : Nat
  spare : Option (Nat × Nat)
  deriving DecidableEq, Repr, Inhabited

def Margin.reset : Margin := ⟨0, 0, none⟩

/-- One heartbeat as the steward last sampled it (R490). -/
structure Beat where
  value : Nat
  same : Nat
  at_ : Nat
  deriving DecidableEq, Repr, Inhabited

def Beat.reset : Beat := ⟨0, 0, 0⟩

/-- Positions carried through a dump record: the accumulator state words and the register words of a core slot (R495). -/
structure DumpRec where
  unit : Nat
  kind : Nat
  status : Nat
  hbAt : Nat
  hb : Nat
  words : List W64
  regs : List W64
  operands : Bytes
  deriving DecidableEq, Repr, Inhabited

/-- The crash dump (R493 to R495). `free` is the count of the free values that its debug latches take (log 20). -/
structure Dump where
  state : Nat
  acked : Bool
  truncated : Bool
  trigger : Nat
  triggerUnit : Nat
  seq : Nat
  time : W64
  fwStatus : W64
  colStatus : W64
  baseBuild : W64
  opBuild : W64
  recs : List DumpRec
  resetAfter : List Nat
  free : Nat
  deriving DecidableEq, Repr, Inhabited

def Dump.reset : Dump := ⟨0, false, false, 0, 0, 0, 0, 0, 0, 0, 0, [], [], 0⟩

/-- Faults, resets and recovery (R481 to R510), the module's part. `inService` and the rest of DEV_COLUMN_STATUS are R24. -/
structure Dev where
  selftest : Nat
  inService : Nat
  standbyActive : Nat
  lead : Nat
  tested : Nat
  domain : Nat
  source : Nat
  warmCount : Nat
  resetHeld : Bool
  dump : Dump
  dumpSkipped : W64
  hangs : W64
  hangLast : W64
  noticeLost : W64
  notices : List LogEntry
  beats : Table Beat
  heldUnits : List Nat
  margins : Table Margin
  resetDue : List Nat
  warmDue : Option Nat
  deriving DecidableEq, Repr, Inhabited

/-- A firmware image's header fields (firmware image header), its measurement, and whether it verifies. -/
structure FwInfo where
  kind : Nat
  revoke : Nat
  svn : Nat
  iface : Nat
  stateMin : Nat
  stateVer : Nat
  opFloor : Nat
  build : W64
  digest : Bytes
  signer : Nat
  ok : Bool
  deriving DecidableEq, Repr, Inhabited

/-- A security record that is in force (R450). -/
structure SecRec where
  counter : Nat
  ownerKey : Bytes
  ownerSeq : Nat
  transfers : Nat
  minRec : Nat
  minOp : Nat
  revoked : Nat
  deriving DecidableEq, Repr, Inhabited

/-- A sequence record that is in force (R451). -/
structure SeqRec where
  counter : Nat
  seqs : Table Nat
  fps : Table Bytes
  deriving DecidableEq, Repr, Inhabited

/-- What keeps state without power: the flash (R445 to R451, R474, R489), and the four firmware keys that the ROM holds, which no command
changes (firmware image header, R462). -/
structure Flash where
  prefer : Bool
  trial : Nat
  sec : Option SecRec
  seq : Option SeqRec
  copyA : FwInfo
  copyB : FwInfo
  half0 : Bytes
  half1 : Bytes
  plog : List LogEntry
  plogHead : Nat
  dumpCopy : Option Dump
  romKeys : List (BitVec 256)
  deriving DecidableEq, Repr, Inhabited

/-- A measurement log entry (R456). -/
structure MEntry where
  kind : Nat
  col : Nat
  part : Nat
  time : W64
  seq : Nat
  id : Nat
  digest : Bytes
  deriving DecidableEq, Repr, Inhabited

/-- A staging claim and its buffer (R417, R418, R461). -/
structure Stage where
  holder : Option Nat
  buf : Bytes
  at_ : Nat
  deriving DecidableEq, Repr, Inhabited

def Stage.reset : Stage := ⟨none, [], 0⟩

/-- Service states (R443), in code order. -/
inductive Service where
  | rom | starting | standby | operational | handover | recovery
  deriving DecidableEq, Repr, Inhabited

/-- Activation states (R479), in code order. -/
inductive ActState where
  | idle | verifying | awaiting | deferred | handover | probation | done | failed
  deriving DecidableEq, Repr, Inhabited

/-- Boot, firmware and security (R442 to R480). `latch` is the recovery latch of R478; `aliasKeys` says whether CDI1, K_rec
and the alias keys are present (R453, R477); `romRecovery` is R446; `actBounds` are the partitions that have yet to complete
a step boundary (R465). -/
structure Fw where
  service : Service
  bootCopy : Bool
  aOk : Bool
  bOk : Bool
  owner : Bool
  alarm : Bool
  act : ActState
  cause : Nat
  iface : Nat
  base : Option FwInfo
  op : Option FwInfo
  newOp : Option FwInfo
  oldOp : Option FwInfo
  minRec : Nat
  minOp : Nat
  secBad : Bool
  seqBad : Bool
  identity : Bool
  aliasKeys : Bool
  latch : Bool
  romRecovery : Bool
  romOk : Nat
  stage : Stage
  nonces : List W64
  attest : Nat
  quote : Bytes
  alarms : W64
  alarmLast : W64
  trace : W64
  activations : W64
  actAt : Nat
  actBounds : List Nat
  deferLogged : Bool
  probationAt : Nat
  plogWait : List LogEntry
  plogLost : W64
  plogAt : Nat
  plogCount : Nat
  plogBase : Nat
  zeroDue : Bool
  mlog : List MEntry
  digest : Bytes
  digestCopy : Bytes
  dropped : Nat
  deriving DecidableEq, Repr, Inhabited

/-- Structure loads (R413 to R441). `image` is a validated image that waits to be applied. -/
structure Xsi where
  stage : Stage
  st : Nat
  cause : Nat
  sect : Nat
  offset : Nat
  ownerSeq : Nat
  loads : W64
  rejects : W64
  image : Option Bytes
  loader : Option Nat
  ownerImage : Bool
  poly : List Bytes
  tornWait : List Nat
  deriving DecidableEq, Repr, Inhabited

/-- One memory region (R244 to R261). `sweeping`: a sweep pass is under way; `waiting`: how many wipes wait for it (R259). -/
structure Region where
  pmap : W64
  dmap : W64
  attr : W64
  gen : Nat
  st : Nat
  debt : Nat
  sweeping : Bool
  waiting : Nat
  deriving DecidableEq, Repr, Inhabited

def Region.reset : Region := ⟨0, 0, 0, 0, 0, 0, false, 0⟩

/-- Metadata of an HBM line, or of an SRAM line that is poisoned (R255, R263, R274). A line not listed is invalid, unwritten,
or an SRAM line that is not poisoned. -/
structure LineMeta where
  gen : Nat
  poisoned : Bool
  deriving DecidableEq, Repr, Inhabited

/-- The CRC-32C of 256 zero bytes: the tag of a granule of an SRAM that nothing has written (R240), and of invalid lines (R256). -/
def zeroTag : BitVec 32 := 0xB872B190

/-- The three memories (R238 to R243): bytes by physical address, line metadata by physical line, and the tag arrays of the core and
column stores by physical granule (R254). HBM holds its tags and its parity lines among its bytes (R248, R249). -/
structure Mem where
  cells : List Host.Cell
  lines : Table (Option LineMeta)
  tags : Table (BitVec 32)
  regions : Table Region
  deriving DecidableEq, Repr, Inhabited

/-- A plane's registers (R339). -/
structure Plane where
  ip6Hi : W64
  ip6Lo : W64
  ip4 : W64
  cfg : W64
  deriving DecidableEq, Repr, Inhabited

/-- A port (R290, R298, R339). `paused` are the priorities paused by PFC; `pfcAt` says when the module's own pause of
a priority was last sent, plus one. -/
structure Port where
  cfg : W64
  mac : W64
  gw : W64
  lanes : Nat
  subs : Nat
  tx : W64
  rx : W64
  fecCorr : W64
  fecUncorr : W64
  hdrDrop : W64
  staleGen : W64
  fwd : W64
  fwdDrop : W64
  retx : W64
  dup : W64
  tagFail : W64
  robDrop : W64
  pfcSent : W64
  ceSched : W64
  opTimeout : W64
  pfcIgnored : W64
  paused : Nat
  pfcAt : Table Nat
  deriving DecidableEq, Repr, Inhabited

def Port.reset : Port := ⟨0, 0, 0, 0, 0, 0, 0, 0, 0, 0, 0, 0, 0, 0, 0, 0, 0, 0, 0, 0, 0, 0, []⟩

/-- A route table entry (R332, R339). -/
structure Route where
  hi : W64
  lo : W64
  ctl : W64
  mac : W64
  deriving DecidableEq, Repr, Inhabited

def Route.reset : Route := ⟨0, 0, 0, 0⟩

/-- An unacknowledged copy of a packet sent (R322, R323). -/
structure Copy where
  pkt : Pkt
  sentAt : Nat
  tries : Nat
  port : Nat
  deriving DecidableEq, Repr, Inhabited

/-- What an operation that the module originated is for. -/
inductive OpKind where
  /-- A transfer, collective part or control packet of a stream (R320). -/
  | data
  /-- A CTL request or response. -/
  | ctl
  /-- A fault notice (R497). -/
  | notice
  deriving DecidableEq, Repr, Inhabited

/-- An operation the module originated on a connection (R320, R325): when its first packet left, none while that packet waits. -/
structure TxOp where
  opid : Nat
  kind : OpKind
  startAt : Option Nat
  deriving DecidableEq, Repr, Inhabited

/-- What a granule of region `rgn` held before a WRITE placed `new` there under generation `gen` (R306): each line's bytes and poison
mark; none for a line that was invalid or unwritten. -/
structure Undo where
  rgn : Nat
  addr : Nat
  gen : Nat
  old : List (Option (Bytes × Bool))
  new : Bytes
  deriving DecidableEq, Repr, Inhabited

/-- An operation under way at a receiver (R262, R306, R320, R321, R326, R327): its status so far, the PSN of its LAST packet, the Token
that it releases with its step and provisional mark, the packets whose tags failed with their PSN, the address they were for and their
granules, the bytes of a SEND, the generation of each region of the partition when the operation was accepted, and what its granules
replaced, the latest first. -/
structure RxOp where
  opid : Nat
  op : Nat
  status : Nat
  lastPsn : Option Nat
  dtok : Nat
  step : Nat
  prov : Bool
  bad : List (Nat × Nat × List Bytes)
  data : Bytes
  gens : List (Nat × Nat)
  undo : List Undo
  deriving DecidableEq, Repr, Inhabited

/-- A connection entry and its transport state (R306 to R331, R339). `paceAt` says when the pace of R331 lets its next new packet go. -/
structure Conn where
  cfg : W64
  peerAHi : W64
  peerALo : W64
  peerBHi : W64
  peerBLo : W64
  job : W64
  timers : W64
  st : Nat
  planeNow : Bool
  moved : Bool
  peerTgen : Nat
  txPsn : Nat
  rxNext : Nat
  rxGot : List Nat
  rxHeld : List Pkt
  rxOps : List RxOp
  rxDebt : Nat
  rxDebtAt : Nat
  ackNow : Bool
  rxCe : Bool
  spray : Nat
  copies : List Copy
  txWait : List Pkt
  holes : List Nat
  ackAt : Nat
  ops : List TxOp
  rate : Nat
  cutAt : Nat
  raiseAt : Nat
  level : Nat
  leaseAt : Nat
  session : Nat
  viaMgmt : Bool
  paceAt : Nat
  deriving DecidableEq, Repr, Inhabited

def Conn.reset : Conn :=
  ⟨0, 0, 0, 0, 0, 0, 0x00C808703E800000, 0, false, false, 0, 0, 0, [], [], [], 0, 0, false, false, 0, [], [], [], 0, [], 0, 0, 0,
    0, 0, 0, false, 0⟩

/-- The link layer of a frame that the module sends (R295, R296): the sub-port (port 16 is MGMT; 17 and 18 are the package network for
plane A and plane B), the MAC addresses, the VID of its tag, the PCP, and the DSCP of an IP packet. -/
structure Link where
  port : Nat
  sub : Nat
  srcMac : Nat
  dstMac : Nat
  vid : Option Nat
  pcp : Nat
  dscp : Nat
  deriving DecidableEq, Repr, Inhabited

/-- An ELT datagram that the module sends (R293, R294, R299, R301, R302, R329): addresses, UDP ports, the ECN mark, the UDP checksum, the
packet, and the trailer or the check that follows its payload. -/
structure Datagram where
  link : Link
  src : Nat
  dst : Nat
  sport : Nat
  dport : Nat
  v4 : Bool
  ect : Bool
  sum : Nat
  pkt : Pkt
  trailer : Bytes
  deriving DecidableEq, Repr, Inhabited

/-- What the module sends (R293 to R298, R337): an ELT datagram, a forwarded packet, whose frame check may be inverted, an answer to a
neighbour request with the MAC address asked for, a PTP message, a PFC pause. -/
inductive Sent where
  | elt (d : Datagram)
  | forward (l : Link) (rx : Rx) (bad : Bool)
  | neighbour (l : Link) (v6 : Bool) (target asker mac : Nat)
  | ptp (l : Link) (f : PtpFrame)
  | pfc (l : Link) (prio : Nat)
  deriving DecidableEq, Repr, Inhabited

/-- A frame that waits at its port (R297): its class, 0 control to 3 host, the priority of its partition, the partition or the connection
whose turn it takes, and the connection of an ELT packet of the module's own. -/
structure Queued where
  frame : Sent
  cls : Nat
  pri : Nat
  who : Nat
  conn : Option Nat
  deriving DecidableEq, Repr, Inhabited

/-- What the egress of a port remembers (R297, R331): when each sub-port is free again, the microsecond and the bytes of the control class
in it, when the host class may send again within its share, and the partition and the connection served last. -/
structure Line where
  free : Table Nat
  ctrlAt : Nat
  ctrlUsed : Nat
  hostAt : Nat
  rrPart : Nat
  rrConn : Nat
  deriving DecidableEq, Repr, Inhabited

def Line.reset : Line := ⟨[], 0, 0, 0, 0, 0⟩

/-- The network (R288 to R341). -/
structure Net where
  planes : Table Plane
  mgmt : Plane
  mgmtUp : Bool
  ports : Table Port
  routes : Table Route
  conns : Table Conn
  egress : List Queued
  lines : Table Line
  out : List Sent
  opid : Nat
  deriving DecidableEq, Repr, Inhabited

def Plane.reset : Plane := ⟨0, 0, 0, 0xB8D8⟩
def Plane.mgmtReset : Plane := ⟨0, 0, 0, 0⟩

/-- A DMA channel of a session (R272, R275): the faulting operation and the packets of operations held behind it. -/
structure Dma where
  halted : Bool
  addr : Nat
  conn : Nat
  held : List Pkt
  faulting : Option Pkt
  deriving DecidableEq, Repr, Inhabited

def Dma.reset : Dma := ⟨false, 0, 0, [], none⟩

/-- A stream of the schedule (R206, R217, R218). `entry` is the image offset of entry 0; tokens are counters by index and
parity (2 * index + parity), and `provs` those of them that a release with a provisional mark has reached (R221). -/
structure Stream where
  live : Bool
  count : Nat
  entry : Nat
  next : Nat
  ended : Bool
  stopped : Bool
  timedOut : Bool
  heldUpd : Bool
  tokens : Table Nat
  provs : List Nat
  deriving DecidableEq, Repr, Inhabited

def Stream.reset : Stream := ⟨false, 0, 0, 0, false, false, false, false, [], []⟩

/-- The admitted schedule's header (R207). -/
structure Sched where
  addr : Nat
  jobId : Nat
  member : Nat
  lam : Nat
  qexp : Nat
  mhz : Nat
  epoch : Nat
  first : Nat
  steps : Nat
  period : Nat
  slack : Nat
  lead : Nat
  waitLimit : Nat
  digest : Bytes
  ckpt : Nat
  deriving DecidableEq, Repr, Inhabited

/-- One stream that takes part in a layer (R189, R215): the entry after its LAYER entry, and while a replay runs the entry it
reissues next. `closed`: its LLAST entry has completed its own work. -/
structure LayerStream where
  stream : Nat
  first : Nat
  cursor : Option Nat
  closed : Bool
  deriving DecidableEq, Repr, Inhabited

/-- A layer that is open in the step (R186 to R193, R215): its slot and identifier, how many streams it has, its attempt, what
its entries reported, and the releases it withholds. `sa`: a tile of the attempt ran in SA mode. -/
structure Layer where
  lidx : Nat
  layerId : Nat
  slot : Nat
  npos : Nat
  attempt : Nat
  lost : Bool
  lostPos : Nat
  lostTiles : Nat
  ovf : Bool
  ovfPos : Nat
  ovfEntries : Nat
  amax : Nat
  sa : Bool
  la : Bool
  rels : List Nat
  streams : List LayerStream
  waiting : Bool
  closedAt : Nat
  ceilRaised : Bool
  deriving DecidableEq, Repr, Inhabited

def Layer.reset : Layer :=
  { lidx := 0, layerId := 0, slot := 0, npos := 0, attempt := 1, lost := false, lostPos := 0xFFF, lostTiles := 0, ovf := false,
    ovfPos := 0xFFF, ovfEntries := 0, amax := 0, sa := false, la := false, rels := [], streams := [], waiting := false,
    closedAt := 0, ceilRaised := false }

/-- A part that a COLL entry has accepted for a segment (R349, R355): `bad` says that its content is replaced. -/
structure CollPart where
  seg : Nat
  contrib : Nat
  part : Nat
  nparts : Nat
  bad : Bool
  grans : List Gran
  deriving DecidableEq, Repr, Inhabited

/-- A REDUCE packet that waits for the COLL entry that receives it (R363). -/
structure CollIn where
  conn : Nat
  cid : Nat
  stage : Nat
  stepno : Nat
  step : Nat
  goff : Nat
  grans : List Gran
  deriving DecidableEq, Repr, Inhabited

/-- A SOLO part that an in-path member owes once its entry has issued (R365, R366): the connection to the owner, the chunk and
the segment within it. -/
structure CollAsk where
  cid : Nat
  stage : Nat
  step : Nat
  conn : Nat
  chunk : Nat
  seg : Nat
  deriving DecidableEq, Repr, Inhabited

/-- A COLL entry that has issued (R357): what it has received, and for an in-path stage the pulls it has sent and the segments
that passed it unaided. `done`: its result is written. `due` is the round it was planned with (R226), `reports` says that its rounding
reports to a Caddy slot (R182), and `gens` are the generations of the partition's regions as it issued (R262). -/
structure CollRun where
  stream : Nat
  entry : Nat
  step : Nat
  words : List W64
  done : Bool
  parts : List CollPart
  data : List (Nat × Gran)
  pulled : List (Nat × Nat)
  owed : List (Nat × Nat)
  due : Int
  reports : Bool
  gens : List (Nat × Nat)
  deriving DecidableEq, Repr, Inhabited

/-- Where the latest step of a stage wrote its result in a step of the job: address, and the segments it holds (R357). -/
structure CollRes where
  step : Nat
  cid : Nat
  stage : Nat
  addr : Nat
  lo : Nat
  hi : Nat
  deriving DecidableEq, Repr, Inhabited

/-- The Strainer's protocol state of a member (R385 to R412). Votes are OR-ed flags by step. -/
structure Stn where
  cfg : W64
  committed : W64
  st : Nat
  attempts : Table Nat
  verdicts : Table (Option Nat)
  votes : Table Nat
  treeVotes : List (Nat × Nat)
  rseq : Nat
  oldest : Nat
  retracts : W64
  fails : W64
  poisoned : W64
  drops : W64
  heldUpd : W64
  retracted : Option Nat
  count : Nat
  passed : List (Nat × Nat)
  quiesced : List Nat
  quiescedSent : Bool
  failing : List (Nat × Nat)
  poisonSteps : List Nat
  exhausted : Bool
  carrierAt : Nat
  handover : Bool
  deriving DecidableEq, Repr, Inhabited

def Stn.reset : Stn :=
  ⟨0, BitVec.allOnes 64, 0, [], [], [], [], 0, 0, 0, 0, 0, 0, 0, none, 0, [], [], false, [], [], false, 0, false⟩

/-- Partition states (XSI_PART_STATUS), in code order. -/
inductive PState where
  | absent | building | ready | running | parked | orphaned | tearing
  deriving DecidableEq, Repr, Inhabited

/-- A teardown under way (R436 to R438): whether it removes, the step it waits in, and since when. -/
structure Tear where
  remove : Bool
  at_ : Nat
  closing : List Nat
  stage : Nat
  deriving DecidableEq, Repr, Inhabited

/-- A partition (R413 to R441, R207 to R237, R496 to R510). -/
structure Part where
  st : PState
  pri : Nat
  tgen : Nat
  tgenAt : Option Nat
  clusters : Nat
  stuck : Bool
  seq : Nat
  connFirst : Nat
  connCount : Nat
  slotFirst : Nat
  slotCount : Nat
  cfgDefault : W64
  forceLa : Bool
  policy : Nat
  leaseMs : Nat
  orphanS : Nat
  job : Bytes
  insts : List Bytes
  recs : List Bytes
  tear : Option Tear
  schSt : Nat
  schRej : Bool
  poolDebt : Table Nat
  schCause : Nat
  schStream : Nat
  schEntry : Nat
  sched : Option Sched
  step : Nat
  shift : Int
  prevShift : Int
  streams : Table Stream
  layers : List Layer
  slipD : Nat
  slipLabel : Nat
  slipBest : Table Nat
  slipApplied : Table Nat
  slipsSent : W64
  slipsLate : W64
  lateMax : W64
  tokenStray : W64
  overrun : W64
  preempt : W64
  tokenTimeout : W64
  roundIn : Table Nat
  colls : List CollRun
  collIn : List CollIn
  collAsk : List CollAsk
  collRes : List CollRes
  spill : Table Nat
  stn : Stn
  wipeSt : Nat
  wipeCause : Nat
  wipeRegion : Nat
  wipeGen : Nat
  dma : Table Dma
  faultEvent : Nat
  faultStep : Nat
  faults : W64
  isParked : Bool
  parking : Bool
  parkStep : Nat
  parkHost : Bool
  parkStop : Bool
  aborted : Bool
  abortedJob : Option Nat
  holdAt : Option Nat
  deriving DecidableEq, Repr, Inhabited

/-- A partition that does not exist (R431: creation leaves its transport generation unchanged). -/
def Part.reset : Part :=
  { st := .absent, pri := 0, tgen := 0, tgenAt := none, clusters := 0, stuck := false, seq := 0, connFirst := 0,
    connCount := 0, slotFirst := 0, slotCount := 0, cfgDefault := 0, forceLa := false, policy := 0, leaseMs := 0,
    orphanS := 0, job := [], insts := [], recs := [], tear := none, schSt := 0, schRej := false, poolDebt := [], schCause := 0,
    schStream := 0, schEntry := 0, sched := none, step := 0, shift := 0, prevShift := 0, streams := [], layers := [],
    slipD := 0, slipLabel := 0, slipBest := [], slipApplied := [], slipsSent := 0, slipsLate := 0, lateMax := 0,
    tokenStray := 0, overrun := 0, preempt := 0, tokenTimeout := 0, roundIn := [], colls := [], collIn := [], collAsk := [], collRes := [], spill := [],
    stn := .reset, wipeSt := 0, wipeCause := 0, wipeRegion := 0, wipeGen := 0, dma := [], faultEvent := 0, faultStep := 0,
    faults := 0, isParked := false, parking := false, parkStep := 0, parkHost := false, parkStop := false, aborted := false, abortedJob := none, holdAt := none }

/-- A Caddy slot (R172 to R177, R195), with the retained copy of STATE, PENDING and HIST, and STATE as it stood at the start of
the member's current step. -/
structure Slot where
  cfg : W64
  state : W64
  pending : W64
  ovf : W64
  replays : W64
  lost : W64
  hist : List W64
  keepState : W64
  keepPending : W64
  keepHist : List W64
  startState : W64
  deriving DecidableEq, Repr, Inhabited

def Slot.reset : Slot :=
  { cfg := 0x00007F0000000000, state := 0x7F00000000000000, pending := 0x00000000FFFFF200, ovf := 0, replays := 0, lost := 0,
    hist := List.replicate 16 0, keepState := 0x7F00000000000000, keepPending := 0x00000000FFFFF200,
    keepHist := List.replicate 16 0, startState := 0x7F00000000000000 }

/-- A tile that has run and waits to drain (R113, R114), or waits for its LA replay (R118): its entry's words, the accumulator
set it uses, the rung, format, layout, scale source and block exponent of its issue (R156, R180), LOW of R178, and what the
Strainer will find in its states (R372, R373). -/
structure Tile where
  part : Nat
  stream : Nat
  entry : Nat
  step : Nat
  words : List W64
  set1 : Bool
  sampled : Bool
  fmt : Fmt
  lay : Layout
  src : ScaleSrc
  x : Int
  lidx : Nat
  low : Nat
  bad : Option (Nat × Nat)
  limit : Bool
  deriving DecidableEq, Repr, Inhabited

/-- An element of an OWN block that waits for the block's last element (R161): its place in the block, its value before
narrowing, its random word, its output index, whether it was counted in OUT_VANISHED, and whether it has raised no RANGE_OVF yet
(R152); the rounding and overflow modes of its own entry (R139), that entry and its step, and its place in the drain order. -/
structure Held where
  k : Nat
  y : Elem
  r : Nat
  out : Nat
  vanished : Bool
  free : Bool
  round : RoundMode
  ovf : OvfMode
  entry : Nat
  step : Nat
  seq : Nat
  deriving DecidableEq, Repr, Inhabited

/-- An entry of a position that has drained and whose elements an OWN block still holds: its release waits for the block (R161, R210,
R280), and what it raises then goes to its own slot and layer, once (R152). -/
structure Owed where
  entry : Nat
  step : Nat
  words : List W64
  slotEn : Bool
  slot : Nat
  lidx : Nat
  raised : Bool
  deriving DecidableEq, Repr, Inhabited

/-- An MX output block that a position has begun and not finished (R155 to R161): where it is written, its decision, how many
elements it has, whether one was NaN and whether one was written as a nonzero code. -/
structure Block where
  base : Nat
  vlen : Nat
  lay : Layout
  fmt : Fmt
  va : Nat
  eb : Nat
  src : ScaleSrc
  x : Int
  lidx : Nat
  count : Nat
  nan : Bool
  nonzero : Bool
  held : List Held
  deriving DecidableEq, Repr, Inhabited

/-- The state that a top-k list had before the first insertion of a layer's attempt (R545); none: the attempt opened it. -/
structure TopSave where
  lidx : Nat
  row : Nat
  old : Option TopList
  deriving DecidableEq, Repr, Inhabited

/-- What the cube's activity does (R120 to R123). -/
inductive Ramp where
  /-- Level 0. -/
  | still
  /-- Rising, or at level 5. -/
  | up
  /-- Falling: `level` is that before the fall. -/
  | fall
  deriving DecidableEq, Repr, Inhabited

/-- The cube's timing at one position (R112 to R125): the first cycle in which the cube is free, the ramp, its phase's first
cycle and length, the set of the next tile, and the cycles after the last drain read of each set and of the latest drain.
`at_`, in thousandths of a cycle, and `clk` tie the cycle count to the module's clock. What CUB_STATUS shows while issued tiles are under
way: `hist` the cycles at which the level rises, with the level; `marks` the spans of drain stalls (STATE 3), seed loads and merges
(STATE 5); `drains` the ends of drains; `adds` the last additions. -/
structure Timer where
  cycle : Nat
  ramp : Ramp
  phase : Nat
  level : Nat
  len : Nat
  set1 : Bool
  read0 : Nat
  read1 : Nat
  drained : Nat
  at_ : Nat
  clk : Nat
  hist : List (Nat × Nat)
  marks : List (Nat × Nat × Nat)
  drains : List Nat
  adds : List Nat
  deriving DecidableEq, Repr, Inhabited

def Timer.reset : Timer := ⟨0, .still, 0, 0, 64, false, 0, 0, 0, 0, 0, [], [], [], []⟩

/-- A check that waits in a Strainer lane (R372, R374, R382): the failure it will find, if any. -/
structure Check where
  part : Nat
  step : Nat
  pos : Nat
  entry : Nat
  conv : Bool
  skip : Bool
  fail : Option (Nat × Nat)
  deriving DecidableEq, Repr, Inhabited

/-- A position's registers, accumulators and sequencer (R98, R108, R113, R135, R170, R376, R404). -/
structure Pos where
  saTiles : W64
  exactLost : W64
  termLimit : W64
  imageBad : W64
  lastLoss : W64
  tiles : W64
  advance : W64
  drainStall : W64
  fill : W64
  gated : W64
  vecNan : W64
  converted : W64
  rangeOvf : W64
  clipped : W64
  vanished : W64
  nan : W64
  topkNan : W64
  topkDup : W64
  lastOvf : W64
  set0 : List Acc
  set1 : List Acc
  operands : Bytes
  waiting : List Tile
  replay : Option Tile
  timer : Timer
  g : Nat
  h : Nat
  keepG : Nat
  keepH : Nat
  startG : Nat
  startH : Nat
  fails : Nat
  clean : Nat
  blocks : List Block
  owed : List Owed
  tops : List TopList
  saves : List TopSave
  deriving DecidableEq, Repr, Inhabited

def Pos.reset : Pos :=
  { saTiles := 0, exactLost := 0, termLimit := 0, imageBad := 0, lastLoss := 0, tiles := 0, advance := 0, drainStall := 0,
    fill := 0, gated := 0, vecNan := 0, converted := 0,
    rangeOvf := 0, clipped := 0, vanished := 0, nan := 0, topkNan := 0, topkDup := 0, lastOvf := 0, set0 := [], set1 := [],
    operands := [], waiting := [], replay := none, timer := .reset, g := 0, h := 0, keepG := 0,
    keepH := 0, startG := 0, startH := 0, fails := 0, clean := 0, blocks := [], owed := [], tops := [], saves := [] }

/-- A cluster's ramp register, Strainer registers and lane (R136, R382, R406, R411). -/
structure Cluster where
  ramp : W64
  laneFailed : Bool
  checked : W64
  convChecked : W64
  checkCycles : W64
  mismatch : W64
  residue : W64
  unchecked : W64
  lastFail : W64
  queue : List Check
  deriving DecidableEq, Repr, Inhabited

def Cluster.reset : Cluster := ⟨1, false, 0, 0, 0, 0, 0, 0, 0, []⟩

/-- The whole state of the module. -/
structure State where
  tm : TimeSt
  pwr : Pwr
  dev : Dev
  stew : Table Steward
  cols : Table ColRegs
  flash : Flash
  fw : Fw
  xsi : Xsi
  mem : Mem
  net : Net
  parts : Table Part
  slots : Table Slot
  pos : Table Pos
  cls : Table Cluster
  free : Nat
  pending : List Instr
  deriving DecidableEq, Repr

/-- Why a step stops with a fault: no command of this module does; an event whose condition does not hold changes nothing
(log 4). The type has one constructor because a closed inductive must have a name to show; nobody raises it. Safe. -/
inductive Fault where
  /-- Never raised. Safe. -/
  | none
  deriving DecidableEq, Repr

/-- Why a step refuses a command. -/
inductive Refusal where
  /-- The arm of a command that has no meaning in the model yet; raised by exec alone. Safe. -/
  | notModelled (mnemonic : String)
  deriving DecidableEq, Repr

/-- Time after reset (R200, R237; log 5, log 6). -/
def TimeSt.reset : TimeSt :=
  { clk := 0, now := 0, drift := 0, acc := 0, st := .neverLocked, source := 0, synce := false, ppsOk := false, holdAt := 0,
    errNs := 0xFFFFFFFF, good := 0, everLocked := false, usable := 0, ppsReject := 0, unlocks := 0, ppsEn := false,
    ppsLast := 0, freq := 0, sides := [] }

/-- Power after reset (R536; log 1, log 8). -/
def Pwr.reset : Pwr :=
  { phase := .off, phaseAt := 0, pins := 0, held := 0, pinAt := [], pinLogAt := [], modPg := false, alertStrap := false,
    volts := 0, amps := 0, watts := 0, cap := 0xE10, ageing := false, coolant := false, phaseAlert := false, thermal := false,
    thermalAt := 0, power := false, throt := false, throtOffAt := none, filtered := 0, throttleUs := 0, emergencies := 0,
    inlet := 0, outlet := 0, flow := 0, coolantBadAt := none, hotAt := none, remove := 0, stretch := 0, converters := 8,
    ageLogAt := none, cols := [], life := [], grants := [] }

/-- Faults after reset (R24, R510; log 7). -/
def Dev.reset : Dev :=
  { selftest := 0, inService := 0, standbyActive := 0, lead := 0, tested := 0, domain := 0, source := 0, warmCount := 0,
    resetHeld := false, dump := .reset, dumpSkipped := 0, hangs := 0, hangLast := 0, noticeLost := 0, notices := [],
    beats := [], heldUnits := [], margins := [], resetDue := [], warmDue := none }

/-- A recovery copy as shipped (log 2): it verifies, with every version field 0. -/
def FwInfo.shipped : FwInfo := ⟨1, 0, 0, 0, 0, 0, 0, 0, List.replicate 64 0, 0, true⟩

/-- The flash as shipped (log 2): PREFER A, TRIAL 0, both copies valid, valid records that name no owner, no image, an
empty persistent log. -/
def Flash.shipped : Flash :=
  { prefer := false, trial := 0, sec := some ⟨1, List.replicate 32 0, 0, 0, 0, 0, 0⟩, seq := some ⟨1, [], []⟩,
    copyA := .shipped, copyB := .shipped, half0 := [], half1 := [], plog := [], plogHead := 0,
    dumpCopy := none, romKeys := (List.range 4).map Config.firmwareKey }

/-- Firmware after reset (R479). -/
def Fw.reset : Fw :=
  { service := .rom, bootCopy := false, aOk := false, bOk := false, owner := false, alarm := false, act := .idle, cause := 0,
    iface := 0, base := none, op := none, newOp := none, oldOp := none, minRec := 0, minOp := 0, secBad := false,
    seqBad := false, identity := false, aliasKeys := false, latch := false, romRecovery := false, romOk := 0,
    stage := .reset, nonces := [0, 0, 0, 0], attest := 0, quote := [], alarms := 0, alarmLast := 0, trace := 0,
    activations := 0, actAt := 0, actBounds := [], deferLogged := false, probationAt := 0, plogWait := [], plogLost := 0,
    plogAt := 0, plogCount := 0, plogBase := 0, zeroDue := false, mlog := [], digest := List.replicate 64 0, digestCopy := List.replicate 64 0, dropped := 0 }

/-- Structure loads after reset (R441). -/
def Xsi.reset : Xsi :=
  { stage := .reset, st := 0, cause := 0, sect := 0, offset := 0xFFFFFFFF, ownerSeq := 0, loads := 0, rejects := 0,
    image := none, loader := none, ownerImage := false, poly := [], tornWait := [] }

/-- Memory after reset: nothing listed (R240, R255). -/
def Mem.reset : Mem := ⟨[], [], [], []⟩

/-- The network after reset (R339). -/
def Net.reset : Net :=
  { planes := [], mgmt := .mgmtReset, mgmtUp := false, ports := [], routes := [], conns := [], egress := [], lines := [], out := [],
    opid := 0 }

/-- The module right after reset: power has been removed and nothing is in the queue (log 1). -/
def State.reset : State :=
  { tm := .reset, pwr := .reset, dev := .reset, stew := [], cols := [], flash := .shipped, fw := .reset, xsi := .reset,
    mem := .reset, net := .reset, parts := [], slots := [], pos := [], cls := [], free := 0, pending := [] }

end Sys2Proof.Machine
end

