-- ==== Sys2Proof/Machine/Cube.lean ====
section
/-! DEFINITION. Cycle rules of the cube (R104 to R124, R379): tile cycles, the activity ramp, drains, stalls, seed loads,
merges and Strainer check cycles. All cycles are those of the position's arithmetic clock. -/
namespace Sys2Proof.Machine

/-- (blocks per chunk, cycles per chunk) of a tile class and mode (R104). -/
def chunkShape (cls : Nat) (sa : Bool) : Nat × Nat :=
  match cls with
  | 0 => if sa then (4, 1) else (2, 1)
  | 1 | 2 => if sa then (2, 1) else (1, 1)
  | 3 => (1, 4)
  | _ => (1, 16)

/-- The class of a tile: the wider of its operand classes (R105). -/
def tileClass (a b : Fmt) : Nat := max (fmtClass a) (fmtClass b)

/-- tile_cycles (R107), of K / 32 blocks. -/
def tileCycles (kblk cls : Nat) (sa : Bool) : Nat :=
  let (bpc, cpc) := chunkShape cls sa
  (kblk + bpc - 1) / bpc * cpc

/-- Check cycles of a sampled tile of C cube cycles (R379). -/
def checkCycles (c : Nat) : Nat := (c + 15) / 16

/-- Active cycles in each group of 8 (activity level table). -/
def levelActive (level : Nat) : Nat := [0, 1, 3, 5, 7, 8].getD level 0

/-- Whether a cycle at `o` cycles from its phase's start is active. -/
def activeAt (level o : Nat) : Bool := decide (o % 8 < levelActive level)

/-- The level from cycle c on, kept for CUB_STATUS. -/
def Timer.note (t : Timer) (c level : Nat) : Timer := { t with hist := t.hist ++ [(c, level)] }

/-- A span of cycles in which CUB_STATUS shows a STATE of its own at level 5. -/
def Timer.mark (t : Timer) (a b st : Nat) : Timer := if a < b then { t with marks := t.marks ++ [(a, b, st)] } else t

/-- The level rises at the end of a phase while work is ready (R120, R121). -/
def Timer.bump (t : Timer) : Timer :=
  if t.level < 5 ∧ t.len / 4 ≤ t.cycle - t.phase then
    Timer.note { t with phase := t.phase + t.len / 4, level := t.level + 1 } (t.phase + t.len / 4) (t.level + 1)
  else t

/-- No work before cycle `x`: the level falls one step in each phase, with fill cycles in its active cycles (R122). `reg` is
the ramp length that CUB_RAMP_CTRL asks for (R137). -/
def Timer.idleTo (t : Timer) (reg x : Nat) : Nat × Timer :=
  if x ≤ t.cycle then (0, t)
  else
    let t := match t.ramp with
      | .up => { t with ramp := .fall, phase := t.cycle, len := if t.level = 5 then reg else t.len }
      | _ => t
    match t.ramp with
    | .fall =>
      let q := t.len / 4
      let fin := t.phase + (t.level - 1) * q
      let fills := ((List.range (min x fin - t.cycle)).filter fun i =>
        let o := t.cycle + i - t.phase
        activeAt (t.level - 1 - o / q) (o % q)).length
      (fills, if fin ≤ x then { t with ramp := .still, level := 0, cycle := x } else { t with cycle := x })
    | _ => (0, { t with cycle := x })

/-- Work is ready (R121, R123). -/
def Timer.wake (t : Timer) (reg : Nat) : Nat × Timer :=
  match t.ramp with
  | .up => (0, t)
  | .still => (0, Timer.note { t with ramp := .up, phase := t.cycle, level := 1, len := reg } t.cycle 1)
  | .fall =>
    let o := t.cycle - t.phase
    let lv := t.level - 1 - o / (t.len / 4)
    (if activeAt lv (o % (t.len / 4)) then 1 else 0,
      Timer.note { t with ramp := .up, phase := t.cycle + 1, level := lv, cycle := t.cycle + 1 } (t.cycle + 1) lv)

/-- Work placed by `Timer.walk`: cube cycles placed, the first and the last of them, the cycle of the unit that loses exactness,
and fill cycles. -/
structure Walk where
  t : Timer
  placed : Nat
  first : Option Nat
  last : Nat
  lossAt : Option Nat
  fills : Nat

/-- The work from level 5 on: one cube cycle in each cycle, none before cycle e (R121, R122). -/
def Walk.full (w : Walk) (e n : Nat) (stop : Option Nat) : Walk :=
  let t5 := max w.t.cycle e
  let loss := match w.lossAt, stop with
    | some c, _ => some c
    | none, some u => some (t5 + (u - w.placed))
    | none, none => none
  let m := match loss with
    | some c => min (n - w.placed) (c + 9 - t5)
    | none => n - w.placed
  { w with t := { w.t with cycle := t5 + m }, placed := w.placed + m, first := some (w.first.getD t5),
           last := if m = 0 then w.last else t5 + m - 1, lossAt := loss, fills := w.fills + (t5 - w.t.cycle) }

/-- `n` cube cycles placed from cycle e on under the ramp; in an active cycle in which the tile may not fetch yet the cube runs
a fill cycle (R121). With `stop`, chunks stop 8 cycles after the unit that loses exactness (R117). -/
def Timer.walk : Nat → Nat → Nat → Option Nat → Walk → Walk
  | 0, _, _, _, w => w
  | f + 1, e, n, stop, w =>
    if n ≤ w.placed then w
    else
      let t := w.t.bump
      let past : Bool := match w.lossAt with | some c => decide (c + 8 < t.cycle) | none => false
      if past then w
      else if t.level = 5 then Walk.full { w with t := t } e n stop
      else
        let next := { t with cycle := t.cycle + 1 }
        if !activeAt t.level (t.cycle - t.phase) then Timer.walk f e n stop { w with t := next }
        else if t.cycle < e then Timer.walk f e n stop { w with t := next, fills := w.fills + 1 }
        else Timer.walk f e n stop
          { w with t := next, placed := w.placed + 1, first := some (w.first.getD t.cycle), last := t.cycle,
                   lossAt := if stop = some w.placed then some t.cycle else w.lossAt }

/-- Work held until cycle e: fill cycles in the active cycles (R121, R124). -/
def Timer.hold : Nat → Nat → Nat × Timer → Nat × Timer
  | 0, _, r => r
  | f + 1, e, (fills, t0) =>
    let t := t0.bump
    if e ≤ t.cycle then (fills, t0)
    else if t.level = 5 then (fills + (e - t.cycle), { t with cycle := e })
    else Timer.hold f e (fills + (if activeAt t.level (t.cycle - t.phase) then 1 else 0), { t with cycle := t.cycle + 1 })

/-- What one tile does to the cube's timing. -/
structure CubeRun where
  t : Timer
  advance : Nat
  stall : Nat
  fills : Nat
  first : Nat
  lastAdd : Nat
  readFrom : Nat
  readEnd : Nat

/-- The cycle after the last drain read of the set that the next tile uses. -/
def Timer.read (t : Timer) : Nat := if t.set1 then t.read1 else t.read0

/-- The cycle from which a tile may fetch, and the cycles of drain stall before it (R115, R119): every cycle from the wake on in which
the set is not read yet, the cycles included in which a rising phase is still, and without the check cycles that ran before them (R379;
log 121). -/
def Timer.gate (t : Timer) (seed : Bool) : Nat × Nat :=
  if seed then
    let free := max t.cycle t.read
    (free + 3, free - t.cycle)
  else
    let e := max t.cycle (t.read - 8)
    (e, e - t.cycle)

/-- Enough cycles for a rise from level 0 with waits in it. -/
def rampFuel : Nat := 256

/-- A tile of `c` cube cycles, ready in cycle `ready`, to its last addition, its check cycles and its merges; its set then
drains (R112 to R119, R379). -/
def Timer.tile (t : Timer) (reg ready c : Nat) (seed : Bool) (merges check : Nat) : CubeRun :=
  let (f0, t) := t.idleTo reg ready
  let (f1, t) := t.wake reg
  let (e, stall) := t.gate seed
  let t := (t.mark t.cycle (t.cycle + stall) 3).mark (t.cycle + stall) e 5
  let w := Timer.walk (rampFuel + stall) e c none ⟨t, 0, none, 0, none, f0 + f1⟩
  let add := w.last + 8 + 3 * merges
  let w2 := Timer.walk rampFuel 0 check none { w with placed := 0 }
  let (f2, t) := Timer.hold rampFuel (w2.t.cycle + 3 * merges) (w2.fills, w2.t.mark w2.t.cycle (w2.t.cycle + 3 * merges) 5)
  let d := max (add + 1) t.drained
  { t := { t with drained := d + 64, read0 := if t.set1 then t.read0 else d + 64, read1 := if t.set1 then d + 64 else t.read1,
                  set1 := !t.set1, drains := t.drains ++ [d + 64], adds := t.adds ++ [add] }
    advance := c, stall := stall, fills := f2, first := w.first.getD e, lastAdd := add, readFrom := d, readEnd := d + 64 }

/-- An SA tile of `c` cube cycles that loses exactness at cube cycle `unit` (R117, R118), or whose anchor is out of range
(`unit` none, R89): no set drains, and the cube is free in cycle t + 9, or in t0. -/
def Timer.lost (t : Timer) (reg ready c : Nat) (unit : Option Nat) : CubeRun :=
  let (f0, t) := t.idleTo reg ready
  let (f1, t) := t.wake reg
  let (e, stall) := t.gate false
  let t := t.mark t.cycle e 3
  match unit with
  | some u =>
    let w := Timer.walk (rampFuel + stall) e c (some u) ⟨t, 0, none, 0, none, f0 + f1⟩
    let free := w.lossAt.getD w.last + 9
    let (f2, t) := Timer.hold rampFuel free (w.fills, w.t)
    ⟨t, w.placed, stall, f2, w.first.getD e, free - 1, 0, 0⟩
  | none =>
    let (f2, t) := Timer.hold (rampFuel + stall) e (f0 + f1, t)
    ⟨t, 0, stall, f2, e, e, 0, 0⟩

/-- LEVEL and STATE of CUB_STATUS in cycle `now` of a timer brought there (R135): still, rising, running, falling and, at level 5, a drain
stall, a seed load or a merge; a rising phase in which a tile waits shows as rising (log 122). The cycle in which the cube has no tile
is the first of the fall (R122). -/
def Timer.show (t : Timer) (now : Nat) : Nat × Nat :=
  if now < t.cycle then
    let level := (((t.hist.filter fun h => h.1 ≤ now).getLast?).map (·.2)).getD t.level
    (level, if level < 5 then 1 else ((t.marks.find? fun m => m.1 ≤ now && decide (now < m.2.1)).map (·.2.2)).getD 2)
  else
    let level := match t.ramp with
      | .still => 0
      | .up => t.level - 1
      | .fall => t.level - 1 - (now - t.phase) / (t.len / 4)
    (level, if level = 0 then 0 else 4)

/-- DRAINING (R113, R114, R135): a drain reads a set in cycle `now`. -/
def Timer.draining (t : Timer) (now : Nat) : Bool := t.drains.any fun d => decide (now < d) && decide (d ≤ now + 64)

/-- ACTIVE_SET (R113, R135): the set of the tile that still adds in cycle `now`, or of the next one. -/
def Timer.activeSet (t : Timer) (now : Nat) : Bool := t.set1 != decide ((t.adds.filter fun a => now ≤ a).length % 2 = 1)

/-- What a timer keeps of the past for CUB_STATUS from cycle `now` on. -/
def Timer.prune (t : Timer) (now : Nat) : Timer :=
  { t with hist := ((t.hist.filter fun h => h.1 ≤ now).getLast?).toList ++ t.hist.filter fun h => decide (now < h.1)
           marks := t.marks.filter fun m => decide (now < m.2.1)
           drains := t.drains.filter fun d => decide (now < d)
           adds := t.adds.filter fun a => decide (now ≤ a) }

/-- CUB_STATUS from its fields (R135). -/
def cubWord (phys level : Nat) (set1 draining : Bool) (st : Nat) : W64 :=
  fields [at_ 20 16 phys, at_ 15 13 level, flag 12 set1, flag 11 draining, at_ 10 8 st]

end Sys2Proof.Machine
end

