-- ==== Sys2Proof/Machine/Crypto.lean ====
section
/-! DEFINITION. CRC-32C (R266), SHA-512 (FIPS 180-4) and Ed25519 (RFC 8032), the functions that the scope chapter names. -/
namespace Sys2Proof.Machine

/-- `n` steps of the reflected CRC-32C register. -/
def crcBits : Nat → Nat → Nat
  | 0, c => c
  | n + 1, c => crcBits n (if c % 2 = 1 then (c / 2) ^^^ 0x82F63B78 else c / 2)

/-- What four steps of the register give from each value below 16, in 32 bits each, value 0 in the lowest bits. -/
def crcTable : Nat :=
  0xF36E6F75E330A81AD3D3E1ABC38D26C4B21572C9A24BB5A692A8FC1782F63B787198540D61C693625125DAD3417B1DBC30E349B120BD8EDE105EC76F00000000

/-- Four steps of the register at once. -/
def crcStep (c : Nat) : Nat := c / 16 ^^^ crcTable / 2 ^ (32 * (c % 16)) % 2 ^ 32

/-- The CRC-32C register after some bytes. -/
def crcFold : Nat → Bytes → Nat
  | c, [] => c
  | c, b :: t => crcFold (crcStep (crcStep (c ^^^ b.toNat))) t

/-- CRC-32C: polynomial 0x1EDC6F41 reflected, initial value and final XOR all ones. -/
def crc32c (bs : Bytes) : Nat := crcFold 0xFFFFFFFF bs ^^^ 0xFFFFFFFF

/-- Round constants of SHA-512, part 1. -/
def shaKA : List Nat :=
  [0x428A2F98D728AE22, 0x7137449123EF65CD, 0xB5C0FBCFEC4D3B2F, 0xE9B5DBA58189DBBC, 0x3956C25BF348B538,
   0x59F111F1B605D019, 0x923F82A4AF194F9B, 0xAB1C5ED5DA6D8118, 0xD807AA98A3030242, 0x12835B0145706FBE,
   0x243185BE4EE4B28C, 0x550C7DC3D5FFB4E2, 0x72BE5D74F27B896F, 0x80DEB1FE3B1696B1, 0x9BDC06A725C71235,
   0xC19BF174CF692694, 0xE49B69C19EF14AD2, 0xEFBE4786384F25E3, 0x0FC19DC68B8CD5B5, 0x240CA1CC77AC9C65,
   0x2DE92C6F592B0275, 0x4A7484AA6EA6E483, 0x5CB0A9DCBD41FBD4, 0x76F988DA831153B5, 0x983E5152EE66DFAB,
   0xA831C66D2DB43210, 0xB00327C898FB213F, 0xBF597FC7BEEF0EE4, 0xC6E00BF33DA88FC2, 0xD5A79147930AA725,
   0x06CA6351E003826F, 0x142929670A0E6E70, 0x27B70A8546D22FFC, 0x2E1B21385C26C926, 0x4D2C6DFC5AC42AED,
   0x53380D139D95B3DF, 0x650A73548BAF63DE, 0x766A0ABB3C77B2A8, 0x81C2C92E47EDAEE6, 0x92722C851482353B]

/-- Round constants of SHA-512, part 2. -/
def shaKB : List Nat :=
  [0xA2BFE8A14CF10364, 0xA81A664BBC423001, 0xC24B8B70D0F89791, 0xC76C51A30654BE30, 0xD192E819D6EF5218,
   0xD69906245565A910, 0xF40E35855771202A, 0x106AA07032BBD1B8, 0x19A4C116B8D2D0C8, 0x1E376C085141AB53,
   0x2748774CDF8EEB99, 0x34B0BCB5E19B48A8, 0x391C0CB3C5C95A63, 0x4ED8AA4AE3418ACB, 0x5B9CCA4F7763E373,
   0x682E6FF3D6B2B8A3, 0x748F82EE5DEFB2FC, 0x78A5636F43172F60, 0x84C87814A1F0AB72, 0x8CC702081A6439EC,
   0x90BEFFFA23631E28, 0xA4506CEBDE82BDE9, 0xBEF9A3F7B2C67915, 0xC67178F2E372532B, 0xCA273ECEEA26619C,
   0xD186B8C721C0C207, 0xEADA7DD6CDE0EB1E, 0xF57D4F7FEE6ED178, 0x06F067AA72176FBA, 0x0A637DC5A2C898A6,
   0x113F9804BEF90DAE, 0x1B710B35131C471B, 0x28DB77F523047D84, 0x32CAAB7B40C72493, 0x3C9EBE0A15C9BEBC,
   0x431D67C49C100D4C, 0x4CC5D4BECB3E42B6, 0x597F299CFC657E2A, 0x5FCB6FAB3AD6FAEC, 0x6C44198C4A475817]

/-- Round constants of SHA-512. -/
def shaK : List Nat := shaKA ++ shaKB

/-- Initial hash value of SHA-512. -/
def shaH0 : List Nat :=
  [0x6A09E667F3BCC908, 0xBB67AE8584CAA73B, 0x3C6EF372FE94F82B, 0xA54FF53A5F1D36F1, 0x510E527FADE682D1,
   0x9B05688C2B3E6C1F, 0x1F83D9ABFB41BD6B, 0x5BE0CD19137E2179]

/-- Rotation of a 64-bit word to the right. -/
def rotr (n x : Nat) : Nat := (x >>> n ||| x <<< (64 - n)) % 2 ^ 64

/-- A number as `n` big-endian bytes. -/
def natBE (n v : Nat) : Bytes := (natLE n v).reverse

/-- Bytes as a big-endian number. -/
def beNat (bs : Bytes) : Nat := leNat bs.reverse

/-- The message padded to whole blocks of 128 bytes. -/
def shaPad (m : Bytes) : Bytes :=
  let n := m.length
  m ++ [0x80] ++ zeros ((239 - n % 128) % 128) ++ natBE 16 (8 * n)

/-- Words of the message schedule after the first sixteen, newest first. -/
def shaExpand : Nat → List Nat → List Nat
  | 0, ws => ws
  | n + 1, ws =>
    let a := ws.getD 14 0
    let b := ws.getD 1 0
    let s0 := rotr 1 a ^^^ rotr 8 a ^^^ (a >>> 7)
    let s1 := rotr 19 b ^^^ rotr 61 b ^^^ (b >>> 6)
    shaExpand n (((ws.getD 15 0 + s0 + ws.getD 6 0 + s1) % 2 ^ 64) :: ws)

/-- One round of the compression function on the working variables a to h. -/
def shaRound (v : List Nat) (kw : Nat) : List Nat :=
  match v with
  | [a, b, c, d, e, f, g, h] =>
    let s1 := rotr 14 e ^^^ rotr 18 e ^^^ rotr 41 e
    let ch := (e &&& f) ^^^ ((2 ^ 64 - 1 - e) &&& g)
    let t1 := h + s1 + ch + kw
    let s0 := rotr 28 a ^^^ rotr 34 a ^^^ rotr 39 a
    let mj := (a &&& b) ^^^ (a &&& c) ^^^ (b &&& c)
    [(t1 + s0 + mj) % 2 ^ 64, a, b, c, (d + t1) % 2 ^ 64, e, f, g]
  | _ => v

/-- One block compressed into the hash value. -/
def shaBlock (h : List Nat) (blk : Bytes) : List Nat :=
  let ws := (shaExpand 64 ((chunks 8 16 blk).map beNat).reverse).reverse
  let v := (List.zipWith (· + ·) shaK ws).foldl shaRound h
  List.zipWith (fun x y => (x + y) % 2 ^ 64) h v

/-- SHA-512 of a message, 64 bytes. -/
def sha512 (m : Bytes) : Bytes :=
  let p := shaPad m
  ((chunks 128 (p.length / 128) p).foldl shaBlock shaH0).flatMap (natBE 8)

/-- The field prime of edwards25519. -/
def edP : Nat := 2 ^ 255 - 19

/-- The order of the base point. -/
def edL : Nat := 2 ^ 252 + 27742317777372353535851937790883648493

/-- b ^ e mod m, taking `n` bits of the exponent. -/
def powMod (m : Nat) : Nat → Nat → Nat → Nat
  | 0, _, _ => 1 % m
  | n + 1, b, e =>
    let r := powMod m n (b * b % m) (e / 2)
    if e % 2 = 1 then r * b % m else r

/-- The inverse in the field. -/
def edInv (x : Nat) : Nat := powMod edP 256 x (edP - 2)

/-- The curve constant d. -/
def edD : Nat := (edP - 121665) * edInv 121666 % edP

/-- A point in extended coordinates. -/
structure EdPoint where
  x : Nat
  y : Nat
  z : Nat
  t : Nat

/-- The neutral point. -/
def edZero : EdPoint := ⟨0, 1, 1, 0⟩

/-- Point addition (RFC 8032, 5.1.4). -/
def edAdd (p q : EdPoint) : EdPoint :=
  let m := edP
  let a := (p.y + m - p.x) * (q.y + m - q.x) % m
  let b := (p.y + p.x) * (q.y + q.x) % m
  let c := p.t * 2 * edD * q.t % m
  let d := p.z * 2 * q.z % m
  let e := (b + m - a) % m
  let f := (d + m - c) % m
  let g := (d + c) % m
  let h := (b + a) % m
  ⟨e * f % m, g * h % m, f * g % m, e * h % m⟩

/-- A multiple of a point, taking `n` bits of the factor. -/
def edMul : Nat → Nat → EdPoint → EdPoint
  | 0, _, _ => edZero
  | n + 1, k, p =>
    let r := edMul n (k / 2) (edAdd p p)
    if k % 2 = 1 then edAdd r p else r

/-- Whether two points are the same. -/
def edEq (p q : EdPoint) : Bool :=
  (p.x * q.z) % edP = (q.x * p.z) % edP && (p.y * q.z) % edP = (q.y * p.z) % edP

/-- The x coordinate of a given y and sign bit, when there is one (RFC 8032, 5.1.3). -/
def edRecoverX (y : Nat) (sign : Nat) : Option Nat :=
  if edP ≤ y then none
  else
    let x2 := (y * y + edP - 1) * edInv (edD * (y * y) + 1) % edP
    if x2 = 0 then (if sign = 1 then none else some 0)
    else
      let x := powMod edP 256 x2 ((edP + 3) / 8)
      let x := if x * x % edP = x2 then x else x * powMod edP 256 2 ((edP - 1) / 4) % edP
      if x * x % edP ≠ x2 then none
      else some (if x % 2 = sign then x else edP - x)

/-- A point decoded from 32 bytes. -/
def edDecode (bs : Bytes) : Option EdPoint :=
  let v := leAt bs 0 32
  let y := v % 2 ^ 255
  (edRecoverX y (v / 2 ^ 255)).map fun x => ⟨x, y, 1, x * y % edP⟩

/-- A point as 32 bytes. -/
def edEncode (p : EdPoint) : Bytes :=
  let zi := edInv p.z
  natLE 32 (p.y * zi % edP + (p.x * zi % edP) % 2 * 2 ^ 255)

/-- The base point. -/
def edBase : EdPoint :=
  let y := 4 * edInv 5 % edP
  let x := (edRecoverX y 0).getD 0
  ⟨x, y, 1, x * y % edP⟩

/-- The secret scalar of a seed. -/
def edScalar (seed : Bytes) : Nat :=
  let h := leAt (sha512 seed) 0 32
  2 ^ 254 + h % 2 ^ 254 / 8 * 8

/-- The public key of a seed. -/
def edPublic (seed : Bytes) : Bytes := edEncode (edMul 256 (edScalar seed) edBase)

/-- The signature of a message under a seed. -/
def edSign (seed msg : Bytes) : Bytes :=
  let a := edScalar seed
  let pk := edPublic seed
  let r := leNat (sha512 ((sha512 seed).drop 32 ++ msg)) % edL
  let rb := edEncode (edMul 256 r edBase)
  let k := leNat (sha512 (rb ++ pk ++ msg)) % edL
  rb ++ natLE 32 ((r + k * a) % edL)

/-- Verification of a signature of 64 bytes. -/
def edVerify (pk msg sig : Bytes) : Bool :=
  match edDecode pk, edDecode (slice sig 0 32) with
  | some a, some r =>
    let s := leAt sig 32 32
    if edL ≤ s then false
    else
      let k := leNat (sha512 (slice sig 0 32 ++ slice pk 0 32 ++ msg)) % edL
      edEq (edMul 256 s edBase) (edAdd r (edMul 256 k a))
  | _, _ => false

end Sys2Proof.Machine
end

