-- ==== Sys2Proof/Machine/Table.lean ====
section
/-! DEFINITION. Sparse tables: what an index reads as, writing one entry, and the canonical form. A table stands for a
numbered array of the manual (positions, slots, regions, connections, bytes of memory); an index it does not list reads as
the default `d`, and writing `d` removes the entry, so equal arrays are equal lists. -/
namespace Sys2Proof.Table

/-- What index `i` holds; `d` where the table does not list it. -/
def get {α : Type} (d : α) : Table α → Nat → α
  | [], _ => d
  | (j, v) :: t, i => if j = i then v else get d t i

/-- The table without index `i`. -/
def erase {α : Type} : Table α → Nat → Table α
  | [], _ => []
  | (j, v) :: t, i => if j = i then erase t i else (j, v) :: erase t i

/-- The entry put before the first greater index. -/
def insert {α : Type} (i : Nat) (v : α) : Table α → Table α
  | [] => [(i, v)]
  | (j, w) :: t => if i < j then (i, v) :: (j, w) :: t else (j, w) :: insert i v t

/-- Index `i` set to `v`; setting the default removes the entry. -/
def set {α : Type} [DecidableEq α] (d : α) (t : Table α) (i : Nat) (v : α) : Table α :=
  if v = d then erase t i else insert i v (erase t i)

/-- The indices below the first of `t` are `> lo`, and so on: strictly rising. -/
def rising {α : Type} : Option Nat → Table α → Bool
  | _, [] => true
  | none, (j, _) :: t => rising (some j) t
  | some i, (j, _) :: t => decide (i < j) && rising (some j) t

/-- The canonical form: strictly rising indices, no entry equal to the default. -/
def wf {α : Type} [DecidableEq α] (d : α) (t : Table α) : Bool :=
  rising none t && t.all fun e => decide (e.2 ≠ d)

/-- The indices listed. -/
def keys {α : Type} (t : Table α) : List Nat := t.map (·.1)

/-- Every listed entry changed by `f`, which may look at the index; the canonical form is restored. -/
def mapAll {α : Type} [DecidableEq α] (d : α) (f : Nat → α → α) (t : Table α) : Table α :=
  (t.map fun e => (e.1, f e.1 e.2)).filter fun e => decide (e.2 ≠ d)

/-- The table without the entries whose index satisfies `p`. -/
def drop {α : Type} (p : Nat → Bool) (t : Table α) : Table α := t.filter fun e => !p e.1

end Sys2Proof.Table
end

