-- ==== Sys2Proof/Machine/Ops.lean ====
section
/-! DEFINITION. Named reads and updates of the numbered arrays of the state, the free values, and the log (R473, R474). -/
namespace Sys2Proof.Machine

/-- What every meaning answers. -/
abbrev Out := Host.Outcome State Fault Refusal

def State.part (s : State) (p : Nat) : Part := Table.get Part.reset s.parts p
def State.conn (s : State) (c : Nat) : Conn := Table.get Conn.reset s.net.conns c
def State.port (s : State) (n : Nat) : Port := Table.get Port.reset s.net.ports n
def State.plane (s : State) (n : Nat) : Plane := Table.get Plane.reset s.net.planes n
def State.route (s : State) (n : Nat) : Route := Table.get Route.reset s.net.routes n
def State.region (s : State) (r : Nat) : Region := Table.get Region.reset s.mem.regions r
def State.col (s : State) (c : Nat) : ColRegs := Table.get ColRegs.reset s.cols c
def State.steward (s : State) (c : Nat) : Steward := Table.get Steward.reset s.stew c
def State.colPwr (s : State) (c : Nat) : ColPwr := Table.get ColPwr.reset s.pwr.cols c
def State.slot (s : State) (n : Nat) : Slot := Table.get Slot.reset s.slots n
def State.posn (s : State) (n : Nat) : Pos := Table.get Pos.reset s.pos n
def State.cluster (s : State) (n : Nat) : Cluster := Table.get Cluster.reset s.cls n
def State.margin (s : State) (n : Nat) : Margin := Table.get Margin.reset s.dev.margins n

def State.updPart (s : State) (p : Nat) (f : Part → Part) : State :=
  { s with parts := Table.set Part.reset s.parts p (f (s.part p)) }
def State.updConn (s : State) (c : Nat) (f : Conn → Conn) : State :=
  { s with net := { s.net with conns := Table.set Conn.reset s.net.conns c (f (s.conn c)) } }
def State.updPort (s : State) (n : Nat) (f : Port → Port) : State :=
  { s with net := { s.net with ports := Table.set Port.reset s.net.ports n (f (s.port n)) } }

/-- The egress of port n. -/
def State.line (s : State) (n : Nat) : Line := Table.get .reset s.net.lines n
def State.updLine (s : State) (n : Nat) (f : Line → Line) : State :=
  { s with net := { s.net with lines := Table.set .reset s.net.lines n (f (s.line n)) } }
def State.updRegion (s : State) (r : Nat) (f : Region → Region) : State :=
  { s with mem := { s.mem with regions := Table.set Region.reset s.mem.regions r (f (s.region r)) } }
def State.updCol (s : State) (c : Nat) (f : ColRegs → ColRegs) : State :=
  { s with cols := Table.set ColRegs.reset s.cols c (f (s.col c)) }
def State.updSteward (s : State) (c : Nat) (f : Steward → Steward) : State :=
  { s with stew := Table.set Steward.reset s.stew c (f (s.steward c)) }
def State.updColPwr (s : State) (c : Nat) (f : ColPwr → ColPwr) : State :=
  { s with pwr := { s.pwr with cols := Table.set ColPwr.reset s.pwr.cols c (f (s.colPwr c)) } }
def State.updSlot (s : State) (n : Nat) (f : Slot → Slot) : State :=
  { s with slots := Table.set Slot.reset s.slots n (f (s.slot n)) }
def State.updPos (s : State) (n : Nat) (f : Pos → Pos) : State :=
  { s with pos := Table.set Pos.reset s.pos n (f (s.posn n)) }
def State.updCluster (s : State) (n : Nat) (f : Cluster → Cluster) : State :=
  { s with cls := Table.set Cluster.reset s.cls n (f (s.cluster n)) }
def State.updMargin (s : State) (n : Nat) (f : Margin → Margin) : State :=
  { s with dev := { s.dev with margins := Table.set Margin.reset s.dev.margins n (f (s.margin n)) } }
def State.updStn (s : State) (p : Nat) (f : Stn → Stn) : State := s.updPart p fun q => { q with stn := f q.stn }
def State.updFw (s : State) (f : Fw → Fw) : State := { s with fw := f s.fw }
def State.updPwr (s : State) (f : Pwr → Pwr) : State := { s with pwr := f s.pwr }
def State.updDev (s : State) (f : Dev → Dev) : State := { s with dev := f s.dev }
def State.updXsi (s : State) (f : Xsi → Xsi) : State := { s with xsi := f s.xsi }

/-- A free value, and the state with the counter advanced (log 3). -/
def State.fresh (s : State) : W64 × State := (Config.freeWord s.free, { s with free := s.free + 1 })

/-- The columns, clusters and partitions as lists of numbers. -/
def columns : List Nat := List.range 16

/-- Whether the module runs: its rails are in regulation and RESET_REQ_N does not hold it (R486, R530). -/
def State.up (s : State) : Bool := (decide (s.pwr.phase = .on) || decide (s.pwr.phase = .turningOff)) && !s.dev.resetHeld

/-- Whether the base stage runs, so that commands and traffic are handled (R443). -/
def State.based (s : State) : Bool :=
  s.up && decide (s.fw.service ≠ .rom) && decide (s.fw.service ≠ .starting)

/-- Whether the operational stage runs (R443). -/
def State.operational (s : State) : Bool :=
  s.up && (decide (s.fw.service = .operational) || decide (s.fw.service = .handover))

/-- Column c is in service (R25). -/
def State.inService (s : State) (c : Nat) : Bool := decide (c < 16) && decide (s.dev.inService / 2 ^ c % 2 = 1)

/-- The module does nothing while it does not run; otherwise `f` (log 4). -/
def State.whenUp (s : State) (f : State → State) : State := if s.up then f s else s

/-- As `whenUp`, for what the base stage does. -/
def State.whenBased (s : State) (f : State → State) : State := if s.based then f s else s

/-- As `whenUp`, for what the operational stage does. -/
def State.whenOp (s : State) (f : State → State) : State := if s.operational then f s else s

/-- One bit of a mask set or cleared. -/
def setBit (m i : Nat) : Nat := if m / 2 ^ i % 2 = 1 then m else m + 2 ^ i
def clearBit (m i : Nat) : Nat := if m / 2 ^ i % 2 = 1 then m - 2 ^ i else m
def testBit (m i : Nat) : Bool := decide (m / 2 ^ i % 2 = 1)

/-- The bits of a mask, below n. -/
def bitsOf (n m : Nat) : List Nat := (List.range n).filter fun i => testBit m i

/-- Number of set bits below n. -/
def popCount (n m : Nat) : Nat := (bitsOf n m).length

/-- The severity of an event (event code tables of chapters 13, 14 and 15). -/
def severity (event : Nat) : Nat :=
  if event = 0x05 ∨ event = 0x74 ∨ event = 0x91 ∨ event = 0xC0 ∨ event = 0xC2 then 4
  else if [0x03, 0x06, 0x30, 0x31, 0x41, 0x42, 0x43, 0x44, 0x45, 0x46, 0x52, 0x53, 0x60, 0x61, 0x70, 0x71, 0x73, 0x75, 0x80,
      0x90, 0x92, 0x93, 0x99, 0xC4, 0xC5].contains event then 3
  else if [0x07, 0x08, 0x11, 0x12, 0x14, 0x21, 0x33, 0x50, 0x72, 0x94, 0x97, 0x98, 0x9B, 0xC6, 0xCA, 0xCB].contains event then 2
  else 1

/-- Whether an entry is copied to the persistent log (R474). -/
def persistent (e : LogEntry) : Bool := decide (3 ≤ e.sev) || [0x01, 0x05, 0x06].contains e.event

/-- The bytes of a log entry (R473). -/
def logBytes (e : LogEntry) : Bytes :=
  let body := natLE 8 e.time.toNat ++ natLE 4 e.seq ++ natLE 2 e.event ++ natLE 1 e.sev ++ natLE 1 e.col ++ natLE 2 e.unit
    ++ natLE 1 e.part ++ natLE 1 e.flags ++ zeros 4 ++ ((List.range 4).flatMap fun i => natLE 8 (e.payload.getD i 0).toNat)
    ++ zeros 4
  body ++ natLE 4 (crc32c body)

/-- An entry put into the log ring of a column (R473). A full ring overwrites its oldest entry, which counts as lost when
no read reached it. -/
def Steward.append (w : Steward) (e : LogEntry) : Steward :=
  let isOver := decide (16384 ≤ w.head) && decide (w.seen ≤ w.head - 16384)
  { w with ring := ({ e with seq := w.head % 2 ^ 32 } :: w.ring).take 16384, head := w.head + 1,
           lost := if isOver then inc w.lost else w.lost }

/-- An event logged by the steward of a column, with unit, partition and payload words (R473, R474). -/
def State.logP (s : State) (col event unit part : Nat) (payload : List W64) : State :=
  let e : LogEntry := ⟨s.tm.now, (s.steward col).head % 2 ^ 32, event, severity event, col, unit, part, 0, payload⟩
  let s := s.updSteward col fun w => w.append e
  if persistent e then s.updFw fun f => { f with plogWait := f.plogWait ++ [e] } else s

/-- An event that concerns no unit and no partition. -/
def State.logEv (s : State) (col event : Nat) (payload : W64) : State := s.logP col event 0xFFFF 0xFF [payload]

/-- The column that carries the lead duties: the lead, or its standby once that has taken over (R472). -/
def State.leadNow (s : State) : Nat :=
  if testBit s.dev.standbyActive s.dev.lead then (s.dev.lead + 8) % 16 else s.dev.lead

/-- An event of the whole module, logged by the lead. -/
def State.logLead (s : State) (event : Nat) (payload : W64) : State := s.logEv s.leadNow event payload

/-- A trace entry of class k, logged by column `col` for partition `part`, with its point and three arguments, when FW_TRACE_MASK
enables the class (R475; log 109). -/
def State.trace (s : State) (col part k point : Nat) (args : List Nat) : State :=
  if decide (k < 12) && bit s.fw.trace k then
    let e : LogEntry := ⟨s.tm.now, 0, 0xF0 + k, 0, col, 0xFFFF, part, 1, Config.tracePoint k point :: args.map (BitVec.ofNat 64 ·)⟩
    s.updSteward col fun w => w.append e
  else s

/-- As `trace`, by the lead. -/
def State.traceLead (s : State) (part k point : Nat) (args : List Nat) : State := s.trace s.leadNow part k point args

/-- The time elapsed since a moment of the model's clock, in ns. -/
def State.since (s : State) (t : Nat) : Nat := s.tm.clk - t

end Sys2Proof.Machine
end

