-- ==== Sys2Proof/Machine/Flags.lean ====
section
/-! DEFINITION. The status words that software reads: each register's fields put together as its field map gives them. -/
namespace Sys2Proof.Machine

/-- DEV_PART_ID (R23). -/
def devPartId : W64 := 0x4A34011010101100

/-- DEV_COLUMN_STATUS (R24). -/
def State.columnStatus (s : State) : W64 :=
  fields [at_ 51 48 s.dev.lead, at_ 47 32 s.dev.standbyActive, at_ 31 16 s.dev.inService, at_ 15 0 s.dev.selftest]

/-- The code of a time state (SCH_TIME_STATUS). -/
def timeCode : TimeState → Nat
  | .neverLocked => 0 | .acquiring => 1 | .locked => 2 | .holdover => 3 | .unlocked => 4

/-- SCH_TIME_STATUS (R237). HOLD_S counts while the module is in HOLDOVER. -/
def State.timeStatus (s : State) : W64 :=
  let hold := if s.tm.st = .holdover then sat 16 (s.since s.tm.holdAt / 1000000000) else 0
  fields [at_ 63 61 (timeCode s.tm.st), at_ 60 59 s.tm.source, flag 58 s.tm.synce, flag 57 s.tm.ppsOk, at_ 47 32 hold,
    at_ 31 0 (sat 32 s.tm.errNs)]

/-- SCH_LOAD_STATUS (R237). -/
def schLoadStatus (q : Part) : W64 :=
  fields [at_ 63 56 q.schCause, at_ 55 53 (if q.schRej then 4 else q.schSt), at_ 52 40 q.schStream, at_ 39 0 q.schEntry]

/-- Fields of a region entry. -/
def rgnPbase (r : Region) : Nat := fld r.pmap 63 44
def rgnSize (r : Region) : Nat := fld r.pmap 43 23
def rgnValid (r : Region) : Bool := bit r.dmap 63
def rgnPart (r : Region) : Nat := fld r.dmap 62 59
def rgnDbase (r : Region) : Nat := fld r.dmap 58 39
def rgnWays (r : Region) : Nat := fld r.dmap 38 36
def rgnCode (r : Region) : Nat := fld r.attr 63 62
def rgnRaw (r : Region) : Bool := bit r.attr 61
def rgnTags (r : Region) : Bool := bit r.attr 60
def rgnScrub (r : Region) : Nat := fld r.attr 59 56
def rgnHrd (r : Region) : Bool := bit r.attr 55
def rgnHwr (r : Region) : Bool := bit r.attr 54
def rgnFetch (r : Region) : Bool := bit r.attr 53

/-- Bytes of the allocation, B. -/
def rgnBytes (r : Region) : Nat := rgnSize r * 2 ^ 20

/-- Whether the allocation lies in HBM: DBASE's 16-bit offset is below 0xFE00 MiB (device physical address map). -/
def rgnHbm (r : Region) : Bool := decide (rgnDbase r % 2 ^ 16 < 0xFE00)

/-- Whether the allocation lies in core store. -/
def rgnCore (r : Region) : Bool := decide (0xFE00 ≤ rgnDbase r % 2 ^ 16 ∧ rgnDbase r % 2 ^ 16 < 0xFF00)

/-- DLEN (allocation parts table, R246). -/
def rgnDlen (r : Region) : Nat :=
  let b := rgnBytes r
  if !rgnHbm r then b
  else if rgnCode r = 1 then (if rgnTags r then 59 * b / 64 else 15 * b / 16)
  else if rgnTags r then 63 * b / 64 else b

/-- MEM_RGN_STATUS. -/
def regionStatus (r : Region) : W64 :=
  fields [at_ 63 60 r.gen, at_ 59 58 r.st, at_ 57 54 r.debt, at_ 47 0 (if rgnValid r then rgnDlen r else 0)]

/-- MEM_WIPE_STATUS (R287). -/
def wipeStatus (q : Part) : W64 :=
  fields [at_ 63 61 q.wipeSt, at_ 60 56 q.wipeCause, at_ 55 44 q.wipeRegion, at_ 43 40 q.wipeGen]

/-- MEM_DMA_STATUS (R287). -/
def dmaStatus (q : Part) : W64 :=
  let halted := (List.range 4).filter fun c => (Table.get Dma.reset q.dma c).halted
  fields [at_ 3 0 (halted.foldl (fun m c => m + 2 ^ c) 0),
    at_ 63 24 (match halted with | c :: _ => (Table.get Dma.reset q.dma c).addr | [] => 0)]

/-- NET_PORT_STATUS (R339). -/
def portStatus (p : Port) : W64 := fields [flag 63 (decide (p.subs ≠ 0)), at_ 62 55 p.lanes, at_ 54 47 p.subs]

/-- Fields of a connection entry. -/
def connKind (c : Conn) : Nat := fld c.cfg 63 61
def connPart (c : Conn) : Nat := fld c.cfg 60 57
def connAlt (c : Conn) : Bool := bit c.cfg 55
def connV4 (c : Conn) : Bool := bit c.cfg 54
def connGranMax (c : Conn) : Nat := fld c.cfg 53 48
def connPeer (c : Conn) : Nat := fld c.cfg 47 34
def connRtoUs (c : Conn) : Nat := fld c.timers 63 48
def connHoleUs (c : Conn) : Nat := fld c.timers 47 40
def connRetryMax (c : Conn) : Nat := fld c.timers 39 36
def connOptimeMs (c : Conn) : Nat := fld c.timers 35 20

/-- A session or fabric-manager connection carries host traffic (R331). -/
def connHost (c : Conn) : Bool := decide (2 ≤ connKind c)

/-- NET_CONN_STATE (R339). -/
def connState (c : Conn) : W64 :=
  fields [at_ 63 61 c.st, flag 60 c.planeNow, flag 59 c.moved, at_ 58 51 c.peerTgen,
    at_ 50 39 (if connHost c then sat 12 (c.rate / 1000000000) else 0), at_ 31 0 c.txPsn]

/-- XSI_STAGE_STATUS and FW_STAGE_STATUS (R441, R479): the width of the byte count differs. -/
def stageStatus (hi : Nat) (g : Stage) : W64 :=
  match g.holder with
  | some c => fields [flag 63 true, at_ 62 49 c, at_ hi 0 g.buf.length]
  | none => 0

/-- XSI_LOAD_STATUS (R441). -/
def State.xsiLoadStatus (s : State) : W64 :=
  fields [at_ 63 61 s.xsi.st, at_ 60 56 s.xsi.cause, at_ 55 52 s.xsi.sect, at_ 31 0 s.xsi.offset]

/-- The code of a partition state. -/
def pstateCode : PState → Nat
  | .absent => 0 | .building => 1 | .ready => 2 | .running => 3 | .parked => 4 | .orphaned => 5 | .tearing => 6

/-- The connection entries of partition p that hold its sessions (R311): an entry of a session kind that software wrote and nothing opened
holds none. -/
def State.sessionConns (s : State) (p : Nat) : List (Nat × Conn) :=
  s.net.conns.filter fun e => (connKind e.2 = 2 ∨ connKind e.2 = 3) ∧ connPart e.2 = p ∧ e.2.st ≠ 0

/-- Bit s of SESSIONS: session s is open. -/
def State.sessionMask (s : State) (p : Nat) : Nat :=
  (s.sessionConns p).foldl (fun m e => setBit m e.2.session) 0

/-- XSI_PART_STATUS (R441). -/
def State.partStatus (s : State) (p : Nat) : W64 :=
  let q := s.part p
  fields [at_ 63 60 (pstateCode q.st), at_ 59 58 q.pri, at_ 57 50 q.tgen, at_ 49 46 (s.sessionMask p),
    at_ 45 37 (popCount 256 q.clusters), flag 36 q.stuck]

/-- Positions of a partition's clusters, in ascending order. -/
def partPositions (q : Part) : List Nat :=
  (bitsOf 256 q.clusters).flatMap fun c => (List.range 16).map fun p => 16 * c + p

/-- XSI_PART_DRAIN (R437): issued entries not completed, operations not completed, packets in reorder buffers. -/
def State.drainCount (s : State) (p : Nat) : Nat :=
  let q := s.part p
  let tiles := ((partPositions q).map fun n =>
    (s.posn n).waiting.length + (if (s.posn n).replay.isSome then 1 else 0)).foldl (· + ·) 0
  let conns := s.net.conns.filter fun e => connKind e.2 ≠ 0 && connKind e.2 ≠ 4 && connPart e.2 = p
  let ops := (conns.map fun e => e.2.ops.length + e.2.rxOps.length + e.2.rxHeld.length).foldl (· + ·) 0
  let held := (q.dma.map fun e => e.2.held.length + (if e.2.faulting.isSome then 1 else 0)).foldl (· + ·) 0
  tiles + (q.colls.filter (!·.done)).length + ops + held

/-- The codes of service and activation states (R443, R479). -/
def serviceCode : Service → Nat
  | .rom => 0 | .starting => 1 | .standby => 2 | .operational => 3 | .handover => 4 | .recovery => 5
def actCode : ActState → Nat
  | .idle => 0 | .verifying => 1 | .awaiting => 2 | .deferred => 3 | .handover => 4 | .probation => 5 | .done => 6
  | .failed => 7

/-- FW_STATUS (R479). -/
def State.fwStatus (s : State) : W64 :=
  let f := s.fw
  fields [at_ 63 61 (serviceCode f.service), flag 60 f.bootCopy, flag 59 f.aOk, flag 58 f.bOk, flag 57 f.owner,
    flag 56 f.alarm, at_ 55 53 (actCode f.act), at_ 52 48 f.cause, at_ 47 16 f.iface]

/-- FW_STEWARD of column c (R479): the watchdog restarts every 10 ms until it fires (R471). -/
def State.fwSteward (s : State) (c : Nat) : W64 :=
  let w := s.steward c
  fields [flag 63 (decide (s.leadNow = c) && s.based), flag 62 w.carrying, flag 61 w.held, at_ 60 58 w.stage,
    at_ 47 32 (if w.held then sat 16 (s.since w.kickAt / 1000000) else s.since w.kickAt / 1000000 % 10)]

/-- FW_MIN_SVN (R479). -/
def State.minSvn (s : State) : W64 := fields [at_ 63 32 s.fw.minRec, at_ 31 0 s.fw.minOp]

/-- DEV_RESET_CAUSE (R510). -/
def State.resetCause (s : State) : W64 :=
  fields [at_ 63 62 s.dev.domain, at_ 61 58 s.dev.source, at_ 31 0 (sat 32 s.dev.warmCount)]

/-- DEV_DUMP_STATUS (R510). -/
def State.dumpStatus (s : State) : W64 :=
  let d := s.dev.dump
  fields [at_ 63 61 d.state, flag 60 d.acked, flag 59 d.truncated, at_ 47 32 d.trigger, at_ 31 0 d.seq]

/-- DEV_PART_FAULT (R510). -/
def partFaultWord (q : Part) : W64 :=
  fields [at_ 63 48 q.faultEvent, flag 47 (decide (q.st = .orphaned)), flag 46 q.isParked, flag 45 q.aborted,
    flag 44 (decide (q.policy = 1)), at_ 39 0 q.faultStep]

/-- The controlling session of a partition, if one is open. -/
def State.controlling (s : State) (p : Nat) : Option Nat :=
  ((s.sessionConns p).find? fun e => connKind e.2 = 2 ∧ e.2.st = 2).map (·.1)

/-- Seconds left of the orphan hold (R504). -/
def State.holdLeft (s : State) (q : Part) : Nat :=
  match q.holdAt with
  | some t => q.orphanS - s.since t / 1000000000
  | none => 0

/-- DEV_PART_LEASE (R510). -/
def State.partLease (s : State) (p : Nat) : W64 :=
  let q := s.part p
  let left := match s.controlling p with
    | some c => q.leaseMs - s.since (s.conn c).leaseAt / 1000000
    | none => 0
  fields [at_ 63 32 left, at_ 31 0 (s.holdLeft q)]

/-- PWR_INPUT (R536). -/
def State.pwrInput (s : State) : W64 := fields [at_ 63 48 s.pwr.volts, at_ 47 32 s.pwr.amps, at_ 31 16 s.pwr.watts]

/-- PWR_ALERT (R536): SECURITY, POWER, THERMAL and COOLANT show conditions; THROTTLE the floor of THROT_N. -/
def State.pwrAlert (s : State) : W64 :=
  fields [flag 6 s.pwr.ageing, flag 5 s.pwr.coolant, flag 4 s.pwr.phaseAlert, flag 3 s.pwr.thermal, flag 2 s.pwr.power,
    flag 1 s.fw.alarm, flag 0 s.pwr.throt]

/-- ALERT_N is asserted (R527): while MOD_EN is asserted, when a bit of PWR_ALERT is set or in the states of R22 and R446. -/
def State.alertAsserted (s : State) : Bool :=
  testBit s.pwr.pins 1 && (decide (s.pwrAlert ≠ 0) || s.pwr.alertStrap)

/-- PWR_PIN_STATUS (R536): the level of each pin, low where an active-low pin is active, and the held flags. -/
def State.pinStatus (s : State) : W64 :=
  if s.up then
    fields [flag 1 (testBit s.pwr.pins 1), flag 2 s.pwr.modPg, flag 3 (!s.alertAsserted), flag 4 (testBit s.pwr.pins 4),
      flag 5 (!testBit s.pwr.pins 5), flag 6 (!testBit s.pwr.pins 6), at_ 14 8 s.pwr.held]
  else 0

/-- PWR_COOLANT (R536). -/
def State.coolantWord (s : State) : W64 := fields [at_ 63 48 s.pwr.inlet, at_ 47 32 s.pwr.outlet, at_ 31 16 s.pwr.flow]

/-- The record with the lowest DAYS, the first of them (R533). -/
def lowestLife (t : Table LifeRec) : Option LifeRec :=
  t.foldl (fun b e => match b with
    | some r => if e.2.days < r.days then some e.2 else b
    | none => some e.2) none

/-- PWR_LIFE_SUMMARY (R533, R536). -/
def State.lifeSummary (s : State) : W64 :=
  match lowestLife s.pwr.life with
  | some r => fields [at_ 63 48 r.index, at_ 47 32 r.days, at_ 31 16 r.low, at_ 15 0 r.high]
  | none => 0

/-- PWR_COL_STATE (R536). -/
def colPwrState (c : ColPwr) : W64 :=
  fields [at_ 63 59 c.bin, at_ 58 55 c.cause, at_ 54 43 c.power, at_ 42 32 c.tj, at_ 31 28 c.phases]

/-- The physical slot that fills position `pos` (R242, R406): the spare, 16, while it is remapped. -/
def State.physSlot (s : State) (pos : Nat) : Nat :=
  match (s.margin (pos / 16)).spare with
  | some (p, _) => if p = pos % 16 then 16 else pos % 16
  | none => pos % 16

/-- The partition that holds a cluster, if any. -/
def State.clusterPart (s : State) (cl : Nat) : Option Nat :=
  (List.range 16).find? fun p => (s.part p).st ≠ .absent && testBit (s.part p).clusters cl

/-- The arithmetic clock of a cluster in MHz (R515, R519). -/
def State.clusterMhz (s : State) (cl : Nat) : Nat :=
  (2000 - 50 * min 24 ((s.colPwr (cl / 16)).bin + (s.margin cl).fbins)) / max 1 s.pwr.stretch

/-- The cycle in which position `pos` now is, in thousandths: its cycle count follows the module's clock at the clock in force (log 9). -/
def State.milliNow (s : State) (pos : Nat) : Nat :=
  let t := (s.posn pos).timer
  t.at_ + s.since t.clk * s.clusterMhz (pos / 16)

def State.cycleNow (s : State) (pos : Nat) : Nat := s.milliNow pos / 1000

/-- The clock of columns and clusters changes from what it is in `s` to what it is in `t` (R103, R515): every position of such a cluster
has run its cycles so far at the clock that was in force. -/
def State.reclock (s t : State) : State :=
  { t with pos := t.pos.map fun e =>
      if s.clusterMhz (e.1 / 16) = t.clusterMhz (e.1 / 16) then e
      else (e.1, { e.2 with timer := { e.2.timer with at_ := s.milliNow e.1, clk := s.tm.clk } }) }

/-- The ramp length that CUB_RAMP_CTRL asks for (R136). -/
def State.rampLen (s : State) (pos : Nat) : Nat := if fld (s.cluster (pos / 16)).ramp 1 0 = 0 then 32 else 64

/-- A position's cube brought to the present: the fill cycles of a fall that no tile has ended (R122), and its timer. -/
def State.fallNow (s : State) (pos : Nat) : Nat × Timer :=
  (s.posn pos).timer.idleTo (s.rampLen pos) (s.cycleNow pos)

/-- The fill cycles of a fall that no tile has ended counted, before the timer is changed or cleared (R122, R134, R137). -/
def State.bookFill (s : State) (pos : Nat) : State :=
  s.updPos pos fun q => { q with fill := incBy q.fill (s.fallNow pos).1, timer := (s.fallNow pos).2 }

/-- Whether the streams of the position's partition stand on FETCH_TRAP. -/
def State.trapped (s : State) (pos : Nat) : Bool :=
  match s.clusterPart (pos / 16) with
  | some p => decide ((s.part p).faultEvent = 0x43) && (Table.get Stream.reset (s.part p).streams pos).stopped
  | none => false

/-- CUB_STATUS (R135) of a position. -/
def State.cubStatus (s : State) (pos : Nat) : W64 :=
  let t := (s.fallNow pos).2
  let now := s.cycleNow pos
  let (level, st) := t.show now
  cubWord (s.physSlot pos) level (t.activeSet now) (t.draining now) (if s.trapped pos then 6 else st)

/-- STN_STATUS of a cluster (R411). -/
def State.stnStatus (s : State) (cl : Nat) : W64 :=
  let m := s.margin cl
  let frac := match s.clusterPart cl with | some p => fld (s.part p).stn.cfg 63 61 | none => 0
  fields ([flag 63 (s.cluster cl).laneFailed, at_ 62 60 frac, at_ 59 57 m.vsteps, at_ 56 54 m.fbins, flag 53 m.spare.isSome,
    at_ 52 49 (match m.spare with | some (p, _) => p | none => 0)] ++
    (List.range 16).map fun p => at_ (17 + 2 * p + 1) (17 + 2 * p) (s.posn (16 * cl + p)).fails)

/-- The oldest uncommitted step of a member (R412). -/
def oldestStep (q : Part) : Nat := (q.stn.committed + 1).toNat

/-- A member's own verdict of a step: flags FAIL 1, POISON 2, UNCHECKED 4; none while it is not ready (R385). -/
def verdictOf (q : Part) (n : Nat) : Option Nat := Table.get none q.stn.verdicts n

/-- The attempt of a step (R368, R400). -/
def attemptOf (q : Part) (n : Nat) : Nat := Table.get 0 q.stn.attempts n

/-- STN_STATE of a partition (R412). -/
def stnState (q : Part) : W64 :=
  if q.stn.st = 0 then at_ 56 41 q.stn.rseq
  else
    let n := oldestStep q
    let v := verdictOf q n
    fields [at_ 63 61 q.stn.st, at_ 60 59 (attemptOf q n), flag 58 v.isSome, flag 57 (v.any fun f => f % 2 = 1),
      at_ 56 41 q.stn.rseq, at_ 39 0 n]

end Sys2Proof.Machine
end

