-- ==== Sys2Proof/Machine/Transport.lean ====
section
/-! DEFINITION. Sending: ELT headers (R300), routes and spray sets (R328 to R332), new packets and their copies (R322),
acknowledgements (R319, R320) and control responses (R303). -/
namespace Sys2Proof.Machine

/-- Opcodes of ELT. -/
def opWrite : Nat := 1
def opRead : Nat := 2
def opReadResp : Nat := 3
def opSend : Nat := 4
def opReduce : Nat := 5
def opToken : Nat := 6
def opCtl : Nat := 7
def opCtlResp : Nat := 8
def opSlip : Nat := 9
def opVerdict : Nat := 10
def opAbort : Nat := 11
def opAck : Nat := 12

/-- A packet with every flag clear and no payload. -/
def Pkt.blank (op : Nat) : Pkt :=
  ⟨op, false, false, false, false, false, false, false, 0, 0, 0, 0, 0, 0, 0, 0, 0, [], []⟩

/-- A flag as a number. -/
def b2n (b : Bool) : Nat := if b then 1 else 0

/-- W0 of a packet, HOPS as it stands (R300). -/
def pktW0 (p : Pkt) : Nat :=
  1 * 2 ^ 60 + p.op % 16 * 2 ^ 56 + b2n p.last * 2 ^ 55 + b2n p.first * 2 ^ 54 + b2n p.retx * 2 ^ 53 + b2n p.areq * 2 ^ 52
    + b2n p.prov * 2 ^ 51 + b2n p.done * 2 ^ 50 + b2n p.cee * 2 ^ 49 + p.dconn % 2 ^ 14 * 2 ^ 34 + p.sconn % 2 ^ 14 * 2 ^ 20
    + p.tgen % 256 * 2 ^ 12 + p.hops % 16 * 2 ^ 8 + p.status % 256

/-- W1 of a packet. -/
def pktW1 (p : Pkt) : Nat := p.psn % 2 ^ 32 * 2 ^ 32 + p.ackpsn % 2 ^ 32

/-- HCHK: CRC-32C of header bytes 0 to 27 with HOPS taken as zero (R300). -/
def hchk (w0 w1 w2 w3hi : Nat) : Nat :=
  crc32c (natBE 8 (w0 - w0 / 2 ^ 8 % 16 * 2 ^ 8) ++ natBE 8 w1 ++ natBE 8 w2 ++ natBE 4 w3hi)

/-- W3 of a packet. -/
def pktW3 (p : Pkt) : Nat := p.w3 % 2 ^ 32 * 2 ^ 32 + hchk (pktW0 p) (pktW1 p) p.w2 (p.w3 % 2 ^ 32)

/-- Field hi:lo of a number. -/
def nfld (w hi lo : Nat) : Nat := w / 2 ^ lo % 2 ^ (hi - lo + 1)

/-- The packet that a received header spells, with the granules and control bytes given. -/
def pktOf (w0 w1 w2 w3 : Nat) (gs : List Gran) (ctl : Bytes) : Pkt :=
  ⟨nfld w0 59 56, testBit w0 55, testBit w0 54, testBit w0 53, testBit w0 52, testBit w0 51, testBit w0 50, testBit w0 49,
    nfld w0 47 34, nfld w0 33 20, nfld w0 19 12, nfld w0 11 8, nfld w0 7 0, nfld w1 63 32, nfld w1 31 0, w2, nfld w3 63 32,
    gs, ctl⟩

/-- OPID of a packet (opcode table). -/
def pktOp (p : Pkt) : Nat :=
  if p.op = opRead then nfld p.w3 31 16 else if p.op = opAck then nfld p.w2 63 48 else nfld p.w2 15 0

/-- Sub-ports of a PHY mode (R288). -/
def modeSubs (mode : Nat) : Nat := if mode < 4 then 1 else if mode < 8 then 2 else 8

/-- Fields of NET_PORT_CFG. -/
def portRole (p : Port) : Nat := fld p.cfg 63 62
def portMode (p : Port) : Nat := fld p.cfg 61 58
def portHshare (p : Port) : Nat := fld p.cfg 57 56
def portPfcEn (p : Port) : Nat := fld p.cfg 49 42
def portEcn (p : Port) : Bool := bit p.cfg 41
def portVid (p : Port) : Nat := fld p.cfg 40 29
def portTagged (p : Port) : Bool := bit p.cfg 28

/-- The role in force: a port of a column out of service is disabled (R290). -/
def State.roleNow (s : State) (n : Nat) : Nat := if s.inService n then portRole (s.port n) else 0

/-- Sub-port `sub` of port n carries traffic. -/
def State.subUp (s : State) (n sub : Nat) : Bool := decide (s.roleNow n ≠ 0) && testBit (s.port n).subs sub

/-- Line rate of a port in bit/s: every mode carries 800 Gbit/s (R288). -/
def portRate : Nat := 800000000000

/-- Fields of NET_RT_CTL. -/
def rtValid (r : Route) : Bool := bit r.ctl 63
def rtPlen (r : Route) : Nat := fld r.ctl 62 55
def rtV4 (r : Route) : Bool := bit r.ctl 54
def rtPlane (r : Route) : Nat := fld r.ctl 53 53
def rtInpath (r : Route) : Bool := bit r.ctl 52
def rtPorts (r : Route) : Nat := fld r.ctl 51 44
def rtSubs (r : Route) : Nat := fld r.ctl 43 36

/-- Whether an address lies in a prefix of `plen` bits, of 32 or 128 bits in all. -/
def inPrefix (v4 : Bool) (plen pre addr : Nat) : Bool :=
  let w := if v4 then 32 else 128
  decide (pre % 2 ^ w / 2 ^ (w - plen) = addr % 2 ^ w / 2 ^ (w - plen))

/-- The prefix of a route as a number. -/
def rtPrefix (r : Route) : Nat := if rtV4 r then r.lo.toNat % 2 ^ 32 else r.hi.toNat * 2 ^ 64 + r.lo.toNat

/-- Route lookup (R332): the longest matching prefix, and of equal ones the lowest index. -/
def State.lookup (s : State) (plane : Nat) (v4 : Bool) (addr : Nat) : Option (Nat × Route) :=
  s.net.routes.foldl (fun best e =>
    let r := e.2
    if rtValid r && decide (rtPlane r = plane) && rtV4 r == v4 && inPrefix v4 (rtPlen r) (rtPrefix r) addr then
      match best with
      | some (_, b) => if rtPlen b < rtPlen r then some e else best
      | none => some e
    else best) none

/-- The spray set of a route: the sub-ports that are up within PORTMASK and SUBMASK (R328). -/
def State.sprayOf (s : State) (plane : Nat) (r : Route) : List (Nat × Nat) :=
  ((bitsOf 8 (rtPorts r)).map fun n => 8 * plane + n).flatMap fun n =>
    let subs := modeSubs (portMode (s.port n))
    ((List.range subs).filter fun b => (subs = 1 ∨ testBit (rtSubs r) b) ∧ s.subUp n b).map fun b => (n, b)

/-- The peer's address on a plane. -/
def connPeerAddr (c : Conn) (plane : Nat) : Nat :=
  let (hi, lo) := if plane = 0 then (c.peerAHi, c.peerALo) else (c.peerBHi, c.peerBLo)
  if connV4 c then lo.toNat % 2 ^ 32 else hi.toNat * 2 ^ 64 + lo.toNat

/-- The module's own address on a plane, or on MGMT as plane 2. -/
def State.ownAddr (s : State) (plane : Nat) (v4 : Bool) : Nat :=
  let p := if plane = 2 then s.net.mgmt else s.plane plane
  if v4 then p.ip4.toNat % 2 ^ 32 else p.ip6Hi.toNat * 2 ^ 64 + p.ip6Lo.toNat

/-- Whether an address is the module's own on a plane. -/
def State.isOwn (s : State) (plane : Nat) (v4 : Bool) (addr : Nat) : Bool :=
  decide (addr = s.ownAddr plane v4) && (!v4 || bit (if plane = 2 then s.net.mgmt else s.plane plane).ip4 32)

/-- Whether an address is the module's own on either plane or on MGMT: a packet to it is not forwarded (R333). -/
def State.isMine (s : State) (v4 : Bool) (addr : Nat) : Bool := [0, 1, 2].any fun i => s.isOwn i v4 addr

/-- The column whose engine serves connection n (R308). -/
def State.serving (s : State) (n : Nat) : Nat :=
  ((List.range 16).map fun i => (n + i) % 16).find? (fun c => s.inService c) |>.getD (n % 16)

/-- The spray set of a connection on its current plane (R328); MGMT is port 16. DEDUCED (log 133): a connection to an address of the module's
own leaves on the package network, port 17 or 18 by its plane (chapter 01). -/
def State.sprayNow (s : State) (c : Nat) : List (Nat × Nat) :=
  let k := s.conn c
  if k.viaMgmt then (if s.net.mgmtUp then [(16, 0)] else [])
  else
    let plane := b2n k.planeNow
    if connPeerAddr k plane ≠ 0 ∧ s.isOwn plane (connV4 k) (connPeerAddr k plane) then [(17 + plane, 0)]
    else match s.lookup plane (connV4 k) (connPeerAddr k plane) with
    | some (_, r) => s.sprayOf plane r
    | none => []

/-- Bytes held in the copies of the connections that a column serves (R322). -/
def State.copyBytes (s : State) (col : Nat) : Nat :=
  (s.net.conns.map fun e => if s.serving e.1 = col then
    (e.2.copies.map fun k => 260 * k.pkt.grans.length + 100).foldl (· + ·) 0 else 0).foldl (· + ·) 0

/-- Opcodes whose payload is a run of granules (opcode table), and those of the control class on any connection (egress class table). -/
def opGrans (op : Nat) : Bool := [opWrite, opReadResp, opSend, opReduce].contains op
def opControl (op : Nat) : Bool := [opAck, opToken, opCtl, opCtlResp, opSlip, opVerdict, opAbort].contains op

/-- What follows a payload: the poison mask and the tags of granules (R301), or the check of a control payload (R302). -/
def pktTrailer (p : Pkt) : Bytes :=
  if opGrans p.op then
    natLE 4 ((List.range p.grans.length).foldl (fun m i => if (p.grans.getD i default).poison then setBit m i else m) 0)
      ++ p.grans.flatMap fun g => natLE 4 (crc32c g.data)
  else if p.ctl.isEmpty then [] else natLE 4 (crc32c p.ctl)

/-- The next hop of a packet that leaves on port n (R296): the gateway of a switched port, the route's MAC address on a direct one. -/
def State.nextHop (s : State) (n : Nat) (v4 : Bool) (dst : Nat) : Nat :=
  if n = 16 then (Config.mgmtNextHop dst).toNat
  else if portRole (s.port n) = 1 then fld (s.port n).gw 47 0
  else match s.lookup (n / 8) v4 dst with
    | some (_, r) => fld r.mac 47 0
    | none => 0

/-- The link layer of a frame that leaves on a sub-port (R295, R296). MGMT and the package network carry no tag. -/
def State.linkOf (s : State) (at' : Nat × Nat) (hop pcp : Nat) : Link :=
  let p := s.port at'.1
  if at'.1 < 16 then ⟨at'.1, at'.2, fld p.mac 47 0, hop, if portTagged p then some (portVid p) else none, pcp, 8 * pcp⟩
  else if at'.1 = 16 then ⟨16, at'.2, fld s.net.mgmt.cfg 47 0, hop, none, 0, 0⟩
  else ⟨at'.1, at'.2, 0, 0, none, 0, 0⟩

/-- Egress classes (R297). -/
def clsControl : Nat := 0
def clsTransit : Nat := 1
def clsScheduled : Nat := 2
def clsHost : Nat := 3

/-- The class of a packet of connection k (egress class table). -/
def clsOf (k : Conn) (op : Nat) : Nat := if opControl op then clsControl else if connKind k = 1 then clsScheduled else clsHost

/-- The PCP of a class on a port (egress class table). DESIGN CHOICE (log 139): a host packet takes the lowest priority enabled in PFC_EN,
and 0 where none is. -/
def portPcp (p : Port) (cls : Nat) : Nat :=
  if cls = clsControl then fld p.cfg 52 50
  else if cls = clsHost then (bitsOf 8 (portPfcEn p)).headD 0
  else fld p.cfg 55 53

/-- A frame put in the queue of its port (R297). -/
def State.enqueue (s : State) (q : Queued) : State := { s with net := { s.net with egress := s.net.egress ++ [q] } }

/-- An ELT datagram from a plane's address, or from MGMT as plane 2 (R293, R294, R329). -/
def State.datagram (s : State) (plane : Nat) (v4 : Bool) (dst : Nat) (at' : Nat × Nat) (cls : Nat) (p : Pkt) : Datagram :=
  { link := s.linkOf at' (s.nextHop at'.1 v4 dst) (portPcp (s.port at'.1) cls), src := s.ownAddr plane v4, dst := dst,
    sport := 49152 + (8 * p.sconn + at'.1 % 8) % 16384, dport := if plane = 2 then 47320 else fld (s.plane plane).cfg 15 0,
    v4 := v4, ect := decide (cls = clsHost) && portEcn (s.port at'.1), sum := 0, pkt := p, trailer := pktTrailer p }

/-- A packet of connection c put in the queue of a sub-port (R293, R297, R299, R329). -/
def State.emit (s : State) (c : Nat) (p : Pkt) (at' : Nat × Nat) : State :=
  let k := s.conn c
  let plane := if k.viaMgmt then 2 else b2n k.planeNow
  let cls := clsOf k p.op
  let part := connPart k
  s.enqueue ⟨.elt (s.datagram plane (connV4 k) (connPeerAddr k (if plane = 2 then 0 else plane)) at' cls p), cls, (s.part part).pri,
    if cls = clsScheduled then part else c, some c⟩

/-- A trace entry about a connection, logged by the column that serves it (R475). -/
def State.traceConn (s : State) (c k point : Nat) (args : List Nat) : State :=
  s.trace (s.serving c) (if connKind (s.conn c) = 4 then 0xFF else connPart (s.conn c)) k point args

/-- A connection moves to its other plane (R324, R330). -/
def State.movePlane (s : State) (c : Nat) : State :=
  let s := s.traceConn c 7 0 [c, b2n (!(s.conn c).planeNow), (s.conn c).txPsn]
  s.updConn c fun k => { k with planeNow := !k.planeNow, moved := true }

/-- Whether a connection may still move: ALT is 1 and it has not moved (R324). -/
def mayMove (k : Conn) : Bool := connAlt k && !k.moved && !k.viaMgmt

/-- Whether an empty spray set moves a connection (R330): its other plane has a peer address too. -/
def canMove (k : Conn) : Bool := mayMove k && decide (connPeerAddr k (b2n (!k.planeNow)) ≠ 0)

/-- A connection whose spray set is empty moves if it can (R330). -/
def State.moveIfEmpty (s : State) (c : Nat) : State :=
  if (s.sprayNow c).isEmpty && canMove (s.conn c) then s.movePlane c else s

/-- The next sub-port of a spray set for connection c (R328). -/
def pickSub (k : Conn) (set : List (Nat × Nat)) : Option (Nat × Nat) := set[k.spray % (max set.length 1)]?

/-- Room for one more copy of n granules in connection c and in the buffer of the engine that serves it (R322). -/
def State.roomFor (s : State) (c n : Nat) : Bool :=
  decide ((s.conn c).copies.length < 4096) && decide (s.copyBytes (s.serving c) + 260 * n + 100 ≤ 2 ^ 24)

/-- A packet ready to go takes the next PSN, goes to its port, and leaves its copy; with no room or no sub-port it waits at the end
(R322, R330). -/
def State.sendNow (s : State) (c : Nat) (p : Pkt) : State :=
  let s := s.moveIfEmpty c
  let k := s.conn c
  match pickSub k (s.sprayNow c), s.roomFor c p.grans.length with
  | some at', true =>
    let p := { p with psn := k.txPsn }
    let s := s.emit c p at'
    s.updConn c fun k => { k with txPsn := (k.txPsn + 1) % 2 ^ 32, spray := k.spray + 1,
                                  copies := k.copies ++ [⟨p, s.tm.clk, 0, at'.1⟩] }
  | _, _ => s.updConn c fun k => { k with txWait := k.txWait ++ [p] }

/-- A new packet of connection c: its header's connection fields are filled in; it goes behind packets that wait. -/
def State.send (s : State) (c : Nat) (p : Pkt) : State :=
  let k := s.conn c
  let p := { p with sconn := c, dconn := connPeer k, tgen := if p.op = opCtl ∧ p.w3 / 2 ^ 24 = 0x10 then 0 else k.peerTgen }
  if k.txWait.isEmpty then s.sendNow c p else s.updConn c fun k => { k with txWait := k.txWait ++ [p] }

/-- Packets that wait go out while there is room (R322). -/
def State.flushTx : Nat → State → Nat → State
  | 0, s, _ => s
  | n + 1, s, c =>
    let s := s.moveIfEmpty c
    match (s.conn c).txWait with
    | p :: rest =>
      if (s.sprayNow c).isEmpty ∨ s.roomFor c p.grans.length = false then s
      else State.flushTx n ((s.updConn c fun k => { k with txWait := rest }).sendNow c p) c
    | [] => s

/-- Every packet that waits on connection c tried again. -/
def State.flush (s : State) (c : Nat) : State := s.flushTx (s.conn c).txWait.length c

/-- An acknowledgement (R319): the next PSN expected, the bitmap of the 512 after it, CEE, and a completion. -/
def State.sendAck (s : State) (c : Nat) (done : Option (Nat × Nat)) : State :=
  let k := s.conn c
  let bits := k.rxGot.foldl (fun m psn =>
    let d := (psn + 2 ^ 32 - (k.rxNext + 1)) % 2 ^ 32
    if d < 512 then setBit m d else m) 0
  let base := Pkt.blank opAck
  let p : Pkt := { base with sconn := c, dconn := connPeer k, tgen := k.peerTgen, ackpsn := k.rxNext, cee := k.rxCe,
                             done := done.isSome, w2 := (done.map (·.1)).getD 0 * 2 ^ 48,
                             status := (done.map (·.2)).getD 0, ctl := natLE 64 bits }
  let s := s.moveIfEmpty c
  match pickSub k (s.sprayNow c) with
  | some at' =>
    (s.emit c p at').updConn c fun k => { k with rxDebt := 0, ackNow := false, rxCe := false, spray := k.spray + 1 }
  | none => s.updConn c fun k => { k with ackNow := true }

/-- An operation slot for an operation the module originates on connection c (R300, R325): it begins when its first packet leaves. -/
def State.startOp (s : State) (c : Nat) (kind : OpKind) : Nat × State :=
  let id := s.net.opid
  let s := { s with net := { s.net with opid := (id + 1) % 65536 } }
  (id, s.updConn c fun k => { k with ops := k.ops ++ [⟨id, kind, none⟩] })

/-- A CTL request of the module: OPEN, CLOSE and their kind (R302, R309, R312). -/
def State.sendCtl (s : State) (c ctlop part role tgen : Nat) (payload : Bytes) : State :=
  let s := s.traceConn c 1 (if ctlop = 0x10 then 0 else 2) [c, role, 0]
  let (id, s) := s.startOp c .ctl
  let base := Pkt.blank opCtl
  s.send c { base with first := true, last := true, w2 := id, w3 := ctlop * 2 ^ 24 + part * 2 ^ 20 + role * 2 ^ 18 + tgen * 2 ^ 10,
                       ctl := payload }

/-- CTL_RESP (R303): CTLOP and OPID echoed, the status and the payload. -/
def State.sendResp (s : State) (c : Nat) (req : Pkt) (status : Nat) (payload : Bytes) : State :=
  let base := Pkt.blank opCtlResp
  s.send c { base with first := true, last := true, w2 := req.w2, w3 := req.w3, status := status, ctl := payload }

/-- A message of one control packet on a member connection: SLIP, VERDICT, ABORT (R302). -/
def State.sendMsg (s : State) (c op : Nat) (payload : Bytes) : State :=
  let (id, s) := s.startOp c .data
  let base := Pkt.blank op
  s.send c { base with first := true, last := true, w2 := id, ctl := payload }

/-- The open member connections of partition p, lowest first. -/
def State.memberConns (s : State) (p : Nat) : List Nat :=
  (s.net.conns.filter fun e => connKind e.2 = 1 ∧ connPart e.2 = p ∧ e.2.st = 2).map (·.1)

/-- The lowest-numbered open fabric-manager connection. -/
def State.fmConn (s : State) : Option Nat :=
  (s.net.conns.find? fun e => connKind e.2 = 4 ∧ e.2.st = 2).map (·.1)

/-- A staging claim lapses and its buffer empties (R418). -/
def Stage.lapse (g : Stage) (c : Nat) : Stage := if g.holder = some c then .reset else g

/-- Both staging claims of a connection lapse. -/
def State.lapseClaims (s : State) (c : Nat) : State :=
  { s with xsi := { s.xsi with stage := s.xsi.stage.lapse c }, fw := { s.fw with stage := s.fw.stage.lapse c } }

/-- One operation open at the receiver ended with a status: a READ by its READ_RESP, any other by a DONE ACK (R320). -/
def State.endRx (s : State) (c status : Nat) (o : RxOp) : State :=
  if o.op = opRead then
    let base := Pkt.blank opReadResp
    s.send c { base with first := true, last := true, status := status, w2 := o.opid }
  else s.sendAck c (some (o.opid, status))

/-- Every operation open at the receiver completed with a status (R312, R436). -/
def State.finishRx (s : State) (c status : Nat) : State :=
  let s' := (s.conn c).rxOps.foldl (fun s o => s.endRx c status o) s
  s'.updConn c fun k => { k with rxOps := [], rxHeld := [] }

/-- The DMA channel of a session cleared (R275). -/
def State.clearDma (s : State) (c : Nat) : State :=
  let k := s.conn c
  if connKind k = 2 ∨ connKind k = 3 then s.updPart (connPart k) fun q => { q with dma := Table.set Dma.reset q.dma k.session .reset } else s

/-- A connection returns to closed: its operations and copies end; an entry of a session kind is freed (R312). The
configuration of a member entry stays. -/
def State.closeLocal (s : State) (c : Nat) : State :=
  ((s.lapseClaims c).clearDma c).updConn c fun k =>
    if connKind k = 1 then
      { Conn.reset with cfg := k.cfg, peerAHi := k.peerAHi, peerALo := k.peerALo, peerBHi := k.peerBHi, peerBLo := k.peerBLo,
                        job := k.job, timers := k.timers }
    else Conn.reset

/-- The module closes a connection (R309, R312): its operations complete with 0x07, CLOSE goes to the peer, and the entry
waits for CLOSE_ACK. -/
def State.closeConn (s : State) (c : Nat) : State :=
  let s := s.finishRx c 7
  let s := s.updConn c fun k => { k with ops := [], copies := [], txWait := [] }
  let s := s.sendCtl c 0x12 0 0 0 (zeros 16)
  (s.lapseClaims c).updConn c fun k => { k with st := 4 }

/-- KDF of R453. -/
def kdf (label : String) (k data : Bytes) : Bytes :=
  (sha512 ((label.toList.map fun c => BitVec.ofNat 8 c.toNat) ++ k ++ data)).take 32

/-- S as bytes, and the keys derived from it (R453). -/
def secretBytes : Bytes := natLE 32 Config.moduleSecret.toNat
def identitySeed : Bytes := kdf "J4 identity" secretBytes []

/-- The device fingerprint (R454). -/
def fingerprint : Bytes := (sha512 (edPublic identitySeed)).take 16

/-- A fault notice (R497): the log entry as a SEND on the lowest-numbered open fabric-manager connection, or held. The 64
bytes begin one granule. -/
def State.sendNotice (s : State) (c : Nat) (e : LogEntry) : State :=
  let (id, s) := s.startOp c .notice
  let base := Pkt.blank opSend
  s.send c { base with first := true, last := true, w2 := 1 * 2 ^ 18 + id, grans := [⟨logBytes e ++ zeros 192, false⟩] }

/-- A notice sent, held, or dropped and counted when 256 wait (R497). -/
def State.notice (s : State) (e : LogEntry) : State :=
  match s.fmConn with
  | some c => s.sendNotice c e
  | none =>
    if s.dev.notices.length < 256 then s.updDev fun d => { d with notices := d.notices ++ [e] }
    else (s.updDev fun d => { d with noticeLost := inc d.noticeLost }).logLead 0x9B (inc s.dev.noticeLost)

/-- The ABORT payload of a member (ABORT payload table). -/
def State.abortPayload (s : State) (p event : Nat) : Bytes :=
  let q := s.part p
  let job := (q.sched.map (·.jobId)).getD 0
  natLE 8 job ++ natLE 8 (oldestStep q) ++ natLE 2 ((q.sched.map (·.member)).getD 0) ++ natLE 2 event ++ zeros 4
    ++ fingerprint ++ natLE 8 s.tm.now.toNat ++ zeros 16

/-- The streams of a partition fenced: no further entry issues and the schedule has ended (R436 step 1, R500 step 1). -/
def fence (q : Part) : Part :=
  { q with schSt := if q.schSt = 2 ∨ q.schSt = 3 then 5 else q.schSt, schRej := false,
           streams := q.streams.map fun e => (e.1, { e.2 with stopped := true }) }

/-- Words of a byte string, for a payload. -/
def payloadWords (bs : Bytes) : List W64 := (List.range 4).map fun i => BitVec.ofNat 64 (leAt bs (8 * i) 8)

/-- The abort of a job at one member (R500). An orphaned partition stays orphaned (R506); without a running schedule its park is
immediate (R504). -/
def State.jobAbort (s : State) (p : Nat) (payload : Bytes) : State :=
  let s := s.updPart p fence
  let conns := s.memberConns p
  let s := conns.foldl (fun s c => s.closeConn c) s
  let s := s.updPart p fun q =>
    { q with streams := q.streams.map fun e => (e.1, { e.2 with tokens := [] }), colls := [], collIn := [], collAsk := [], collRes := [], spill := [], layers := [],
             aborted := true, abortedJob := q.sched.map (·.jobId), parking := decide (q.st = .orphaned) && q.parking,
             parkHost := false, parkStop := false, isParked := decide (q.st = .orphaned) && q.isParked,
             stn := { q.stn with st := 0 },
             st := if q.st = .orphaned ∨ q.st = .tearing then q.st else .ready }
  s.logP s.leadNow 0x93 0xFFFF p (payloadWords payload)

/-- ABORT on every open member connection of the partition but one (R498, R499). -/
def State.sendAborts (s : State) (p : Nat) (but : Option Nat) (payload : Bytes) : State :=
  (s.memberConns p).foldl (fun s c => if but = some c then s else s.sendMsg c opAbort payload) s

/-- A partition fault (R496 to R498): counted, recorded, logged, told, and under FAIL_TOGETHER the job is aborted when
`abort` says that the fault calls for it. -/
def State.partFault (s : State) (p event : Nat) (abort : Bool) : State :=
  let s := s.updPart p fun q =>
    { q with faults := inc q.faults, faultEvent := event, faultStep := q.step % 2 ^ 40 }
  let e : LogEntry := ⟨s.tm.now, (s.steward s.leadNow).head % 2 ^ 32, 0x92, 3, s.leadNow, 0xFFFF, p, 0,
    [partFaultWord (s.part p)]⟩
  let s := s.logP s.leadNow 0x92 0xFFFF p [partFaultWord (s.part p)]
  let s := s.notice e
  if abort ∧ (s.part p).policy = 1 ∧ (s.part p).sched.isSome ∧ !(s.part p).aborted then
    let payload := s.abortPayload p event
    (s.sendAborts p none payload).jobAbort p payload
  else s

/-- The streams of a partition stop issuing, as for FETCH_TRAP (R272). -/
def stopStreams (q : Part) : Part :=
  { q with streams := q.streams.map fun e => (e.1, { e.2 with stopped := true }) }

/-! The egress of ports (R297): frames that wait leave as the line of their sub-port gets free. -/

/-- The module listens: the base stage runs, or ROM recovery (R443, R446). -/
def State.listens (s : State) : Bool := s.based || (s.up && s.fw.romRecovery)

/-- A sub-port, MGMT or the package network carries traffic. -/
def State.lineUp (s : State) (n sub : Nat) : Bool := if n < 16 then s.subUp n sub else if n = 16 then s.net.mgmtUp else true

/-- The link layer of a frame. -/
def Sent.link : Sent → Link
  | .elt d => d.link
  | .forward l _ _ | .neighbour l _ _ _ _ | .ptp l _ | .pfc l _ => l

/-- Bytes that an Ethernet frame of `n` bytes above its headers takes on the line: header, tag, frame check, preamble and gap (the example of
R303), and no less than a frame of 64 bytes. -/
def lineBytes (vid : Option Nat) (n : Nat) : Nat := max 84 (n + 38 + if vid.isSome then 4 else 0)

/-- Bytes of an IP header and the UDP header. -/
def ipBytes (v4 : Bool) : Nat := if v4 then 28 else 48

/-- The line time of a frame in bytes. -/
def Sent.bytes : Sent → Nat
  | .elt d => lineBytes d.link.vid (ipBytes d.v4 + 32 + 256 * d.pkt.grans.length + d.pkt.ctl.length + d.trailer.length)
  | .forward l rx _ => lineBytes l.vid (ipBytes rx.v4 + 32 + 260 * rx.grans.length + rx.ctl.length + 4)
  | .neighbour l v6 _ _ _ => lineBytes l.vid (if v6 then 72 else 28)
  | .ptp l f => lineBytes l.vid (54 + match f.map with | .udp6 => 48 | .udp4 => 28 | .ethernet => 0)
  | .pfc l _ => lineBytes l.vid 46

/-- The rate of a sub-port's line in bit/s; MGMT runs at 1 Gbit/s (R292), and the package network has no line. -/
def State.lineRate (s : State) (n : Nat) : Nat := if n < 16 then portRate / modeSubs (portMode (s.port n)) else 1000000000

/-- Nanoseconds that n bytes take at a rate in bit/s. -/
def lineNs (n rate : Nat) : Nat := ceilDiv (8000000000 * n) (max rate 1)

/-- The bytes that the control class of a port may send in one microsecond: 1/64 of its rate (egress class table). -/
def ctrlShare (n : Nat) : Nat := (if n = 16 then 1000000000 else portRate) / 64 / 8000000

/-- Whether a frame paces with its connection: a new packet of the host class (R331). -/
def Queued.paced (q : Queued) : Bool :=
  decide (q.cls = clsHost) && match q.frame with
    | .elt d => !d.pkt.retx
    | _ => false

/-- Whether a frame may leave now (R297, R298, R331, R338): its line is up and free, the control class has some of its share of this
microsecond left, and a host packet is not paused, within the unscheduled share of its port and at its connection's pace. -/
def State.mayGo (s : State) (q : Queued) : Bool :=
  let l := q.frame.link
  let e := s.line l.port
  s.lineUp l.port l.sub && decide (Table.get 0 e.free l.sub ≤ s.tm.clk)
    && (decide (q.cls ≠ clsControl) || decide (16 < l.port) || decide (e.ctrlAt ≠ s.tm.clk / 1000) || decide (e.ctrlUsed = 0)
      || decide (e.ctrlUsed + q.frame.bytes ≤ ctrlShare l.port))
    && (decide (q.cls ≠ clsHost)
      || (!testBit (s.port l.port).paused l.pcp && decide (e.hostAt ≤ s.tm.clk)
        && (!q.paced || q.conn.all fun c => decide ((s.conn c).paceAt ≤ s.tm.clk))))

/-- The place of a frame in the order of service (R297, R234): its class; of scheduled frames the higher priority first and equal ones in
turn by partition; of host frames in turn by connection. -/
def Line.rank (e : Line) (q : Queued) : Nat :=
  q.cls * 65536 +
    if q.cls = clsScheduled then (3 - q.pri) * 16 + (q.who + 15 - e.rrPart) % 16
    else if q.cls = clsHost then (q.who + 16383 - e.rrConn) % 16384
    else 0

/-- The frame that a line serves next, of those that may leave; the one that waits longest among equals. -/
def State.nextFrame (s : State) (n sub : Nat) : Option Queued :=
  (s.net.egress.filter fun q => q.frame.link.port = n && q.frame.link.sub = sub && s.mayGo q).foldl (fun best q =>
    match best with
    | some b => if (s.line n).rank q < (s.line n).rank b then some q else best
    | none => some q) none

/-- What a frame that leaves marks in its connection (R323, R325, R331): when the packet was last sent, when its operation began, and when
the next new packet may go. -/
def Conn.left (k : Conn) (now : Nat) (q : Queued) : Conn :=
  match q.frame with
  | .elt d =>
    let p := d.pkt
    let begins := p.first && !([opAck, opCtlResp, opReadResp].contains p.op)
    { k with copies := k.copies.map fun y => if p.op ≠ opAck ∧ y.pkt.psn = p.psn then { y with sentAt := now } else y,
             ops := k.ops.map fun o => if begins ∧ o.opid = pktOp p ∧ o.startAt = none then { o with startAt := some now } else o,
             paceAt := if q.paced then max now k.paceAt + lineNs q.frame.bytes k.rate else k.paceAt }
  | _ => k

/-- A frame leaves on its line: NET_TX_PKTS counts it, and the line, the shares and the turns move on (R297, R331, R339). -/
def State.leave (s : State) (q : Queued) : State :=
  let l := q.frame.link
  let b := q.frame.bytes
  let now := s.tm.clk
  let s := { s with net := { s.net with egress := s.net.egress.erase q, out := s.net.out ++ [q.frame] } }
  let s := if l.port < 16 then s.updPort l.port fun p => { p with tx := inc p.tx } else s
  let s := if 16 < l.port then s else s.updLine l.port fun e =>
    { free := Table.set 0 e.free l.sub (now + lineNs b (s.lineRate l.port)),
      ctrlAt := if q.cls = clsControl then now / 1000 else e.ctrlAt,
      ctrlUsed := if q.cls ≠ clsControl then e.ctrlUsed else if e.ctrlAt = now / 1000 then e.ctrlUsed + b else b,
      hostAt := if q.cls = clsHost ∧ l.port < 16 then
          max now e.hostAt + lineNs b (portRate * (4 - portHshare (s.port l.port)) / 8) else e.hostAt,
      rrPart := if q.cls = clsScheduled then q.who else e.rrPart,
      rrConn := if q.cls = clsHost then q.who else e.rrConn }
  match q.conn with
  | some c => s.updConn c fun k => k.left now q
  | none => s

/-- The lines that have frames waiting. -/
def State.linesDue (s : State) : List (Nat × Nat) := (s.net.egress.map fun q => (q.frame.link.port, q.frame.link.sub)).eraseDups

/-- What the ports send in a nanosecond: of each line, the frame that it serves next, if one may leave (R297). DESIGN CHOICE (log 141):
frames leave while no command waits, at most one for each line and nanosecond. -/
def State.drain (s : State) : State :=
  if !s.listens then s
  else s.linesDue.foldl (fun s e => match s.nextFrame e.1 e.2 with
    | some q => s.leave q
    | none => s) s

/-! Sub-ports and ports that go down (R291, R330). -/

/-- A counter of a port; MGMT and the package network have none. -/
def State.countPort (s : State) (n : Nat) (f : Port → Port) : State := if n < 16 then s.updPort n f else s

/-- A drop of a transit frame, counted where it arrived (R333, R334). -/
def State.fwdDrop (s : State) (n : Nat) : State := s.countPort n fun p => { p with fwdDrop := inc p.fwdDrop }

/-- Packets that wait on any connection tried again. -/
def State.flushAll (s : State) : State := (s.net.conns.filter fun e => !e.2.txWait.isEmpty).foldl (fun s e => s.flush e.1) s

/-- A frame that waits on a sub-port that is down (R291, R334, R338): an ELT packet of the module's own is sprayed again, or waits for a
sub-port; a transit frame ends invalid, counted where it arrived; any other ends. -/
def State.respray (s : State) (q : Queued) : State :=
  match q.frame, q.conn with
  | .elt d, some c =>
    let s := s.moveIfEmpty c
    match pickSub (s.conn c) (s.sprayNow c) with
    | some at' => (s.emit c d.pkt at').updConn c fun k =>
        { k with spray := k.spray + 1,
                 copies := k.copies.map fun y => if d.pkt.op ≠ opAck ∧ y.pkt.psn = d.pkt.psn then { y with port := at'.1 } else y }
    | none => s.enqueue q
  | .forward _ rx _, _ => s.fwdDrop rx.port
  | _, _ => s

/-- Every frame that waits on a sub-port that is down sprayed again (R291). -/
def State.resprayAll (s : State) : State :=
  let gone := s.net.egress.filter fun q => !s.lineUp q.frame.link.port q.frame.link.sub
  let s := { s with net := { s.net with egress := s.net.egress.filter fun q => s.lineUp q.frame.link.port q.frame.link.sub } }
  gone.foldl (fun s q => s.respray q) s

/-- The connections whose spray set is empty move if they can (R330). -/
def State.moveAll (s : State) : State :=
  (s.net.conns.filter fun e => decide (e.2.st = 2)).foldl (fun s e => s.moveIfEmpty e.1) s

/-- A port goes down (R289, R430, R481): every sub-port of it that is up reports LINK_DOWN (R291). -/
def State.portDown (s : State) (n : Nat) : State :=
  let ups := bitsOf 8 (s.port n).subs
  let s := s.updPort n fun q => { q with lanes := 0, subs := 0, paused := 0, pfcAt := [] }
  if ups.isEmpty then s
  else ups.foldl (fun s _ => s.logP n 0x50 n 0xFF [portStatus (s.port n)]) s.moveAll.resprayAll.flushAll

/-- The Ethernet engine of a column reset (R481): the frames that wait at its port are gone, and connections spray around it. -/
def State.portGone (s : State) (n : Nat) : State :=
  let s := { s with net := { s.net with egress := s.net.egress.filter fun q => q.frame.link.port ≠ n } }
  ((s.updLine n fun _ => .reset).portDown n).updPort n fun q => { Port.reset with cfg := q.cfg, mac := q.mac, gw := q.gw }

end Sys2Proof.Machine
end

