-- ==== Sys2Proof/Machine/Memory.lean ====
section
/-! DEFINITION. The three memories (chapter 08): translation (R245 to R247), reads and writes of granules with what the codes
detect (R250 to R256, R263, R266 to R274), counters and events (R253, R273). -/
namespace Sys2Proof.Machine

/-- Device physical address of allocation address a (R246, R247). -/
def rgnDpa (r : Region) (a : Nat) : Nat :=
  let d := rgnDbase r
  if rgnHbm r then
    let n := a / 4096
    let w := 2 ^ rgnWays r
    (d / 2 ^ 16 + n % w) * 2 ^ 36 + (d % 2 ^ 16) * 2 ^ 20 + n / w * 4096 + a % 4096
  else d * 2 ^ 20 + a

/-- Whether a region keeps the strong code (R251). -/
def rgnStrong (r : Region) : Bool := rgnHbm r && decide (rgnCode r = 1)

/-- First allocation address of the tag area, and that of the parity shadow (parts of an HBM allocation). -/
def rgnTagBase (r : Region) : Nat := if rgnCode r = 1 then 59 * rgnBytes r / 64 else 63 * rgnBytes r / 64
def rgnParBase (r : Region) : Nat := 15 * rgnBytes r / 16

/-- The allocation address of the tag word of data granule n (R248), and of the parity line of stripe n (R249). -/
def rgnTagAt (r : Region) (n : Nat) : Nat := rgnTagBase r + 4 * n
def rgnParAt (r : Region) (n : Nat) : Nat := rgnParBase r + 64 * n

/-- The stripe of a line of a strong region (R249). -/
def rgnStripe (r : Region) (a : Nat) : Nat := if a < rgnParBase r then a / 960 else (a - rgnParBase r) / 64

/-- Allocation addresses of the 16 lines of a stripe, the parity line last (R249). -/
def stripeLines (r : Region) (n : Nat) : List Nat := (List.range 15).map (fun i => 64 * (15 * n + i)) ++ [rgnParAt r n]

/-- The other lines of the stripe of a line, parity line included (R251). -/
def stripeOthers (r : Region) (a : Nat) : List Nat := (stripeLines r (rgnStripe r a)).filter fun x => x ≠ a / 64 * 64

/-- The column of a device physical address. -/
def dpaCol (d : Nat) : Nat := d / 2 ^ 36

/-- Whether a device physical address lies in the core store of active positions. -/
def dpaCore (d : Nat) : Bool := decide (0xFE0000000 ≤ d % 2 ^ 36 ∧ d % 2 ^ 36 < 0xFF0000000)

/-- Whether a device physical address lies in HBM. -/
def dpaHbm (d : Nat) : Bool := decide (d % 2 ^ 36 < 0xFE0000000)

/-- The physical byte of a device physical address: a core store belongs to the slot that fills the position (R242). -/
def State.phys (s : State) (d : Nat) : Nat :=
  if dpaCore d then
    let o := d % 2 ^ 36 - 0xFE0000000
    let pos := dpaCol d * 256 + o / 2 ^ 20
    2 ^ 40 + (pos / 16 * 17 + s.physSlot pos) * 2 ^ 20 + o % 2 ^ 20
  else d

/-- The region of partition p that covers a partition address, with the allocation address (R245). -/
def State.regionAt (s : State) (p addr : Nat) : Option (Nat × Region × Nat) :=
  (s.mem.regions.find? fun e => rgnValid e.2 && decide (rgnPart e.2 = p) && decide (rgnPbase e.2 * 2 ^ 20 ≤ addr)
    && decide (addr < rgnPbase e.2 * 2 ^ 20 + rgnBytes e.2)).map fun e => (e.1, e.2, addr - rgnPbase e.2 * 2 ^ 20)

/-- The core store of a position as an allocation of 1 MiB (device physical address map). -/
def coreRegion (pos : Nat) : Region :=
  { Region.reset with
    pmap := at_ 43 23 1
    dmap := fields [flag 63 true, at_ 58 39 (pos / 256 * 2 ^ 16 + 0xFE00 + pos % 256)]
    st := 2 }

/-- Bytes read at a physical address. -/
def State.peek (s : State) (a n : Nat) : Bytes := (List.range n).map fun i => Table.get 0 s.mem.cells (a + i)

/-- Bytes put into the cells from address a on; a zero byte is not listed (R240, R255). -/
def pokeCells (c : List Host.Cell) : Nat → Bytes → List Host.Cell
  | _, [] => c
  | a, b :: t => pokeCells (Table.set 0 c a b) (a + 1) t

/-- Bytes written at a physical address. -/
def State.poke (s : State) (a : Nat) (bs : Bytes) : State :=
  { s with mem := { s.mem with cells := pokeCells s.mem.cells a bs } }

/-- The metadata of a physical line. -/
def State.lineMeta (s : State) (l : Nat) : Option LineMeta := Table.get none s.mem.lines l

/-- The metadata of a physical line set. -/
def State.setLine (s : State) (l : Nat) (m : Option LineMeta) : State :=
  { s with mem := { s.mem with lines := Table.set none s.mem.lines l m } }

/-- The tag of a physical granule of SRAM, and the tag set (R254, R266). -/
def State.tagOf (s : State) (g : Nat) : BitVec 32 := Table.get zeroTag s.mem.tags g
def State.setTag (s : State) (g : Nat) (t : BitVec 32) : State := { s with mem := { s.mem with tags := Table.set zeroTag s.mem.tags g t } }

/-- Kinds of access of MEM_LAST_ERR. -/
def accFetch : Nat := 1
def accHost : Nat := 2
def accOperand : Nat := 3
def accScrub : Nat := 4
def accSweep : Nat := 5

/-- MEM_LAST_ERR (R286). -/
def lastErrWord (kind access part rgn d : Nat) : W64 :=
  fields [at_ 63 60 kind, at_ 59 56 access, at_ 55 52 part, at_ 51 40 rgn, at_ 39 0 (d / 64 * 64)]

/-- A correctable error at a line: counted, recorded, and logged within the limits of R273. -/
def State.memCe (s : State) (access part rgn d kind : Nat) : State :=
  let w := lastErrWord kind access part rgn d
  let c := dpaCol d
  let old := s.col c
  let recent := old.ceTimes.filter fun t => s.since t < 1000000000
  let log := !old.ceLines.contains (rgn, d / 64) && decide (recent.length < 1024)
  let s := s.updCol c fun q =>
    { q with ce := inc q.ce, lastErr := w, rebuilds := if kind = 2 then inc q.rebuilds else q.rebuilds,
             ceLines := if log then (rgn, d / 64) :: q.ceLines else q.ceLines,
             ceTimes := if log then s.tm.clk :: recent else recent }
  if log then s.logP c 0x40 0xFFFF part [w] else s

/-- An uncorrectable error at a line: counted, recorded and logged as MEM_UE, or as TAG_FAIL when the tag found it (R272,
R273). -/
def State.memUe (s : State) (access part rgn d kind : Nat) : State :=
  let w := lastErrWord kind access part rgn d
  let c := dpaCol d
  let s := s.updCol c fun q =>
    { q with ue := inc q.ue, lastErr := w, tagFail := if kind = 4 then inc q.tagFail else q.tagFail }
  s.logP c (if kind = 4 then 0x42 else 0x41) 0xFFFF part [w]

/-- Whether an HBM region has lines in a column. -/
def rgnInCol (r : Region) (c : Nat) : Bool :=
  rgnValid r && decide (rgnDbase r / 2 ^ 16 ≤ c) && decide (c < rgnDbase r / 2 ^ 16 + 2 ^ (if rgnHbm r then rgnWays r else 0))

/-- MEM_PC_FAILED (R253): the pseudo-channel is marked, and every partition with a region in the stack is told. -/
def State.pcFail (s : State) (c pc : Nat) : State :=
  let s := s.updCol c fun q => { q with pcFailed := q.pcFailed ||| at_ pc pc 1 }
  let s := s.logEv c 0x45 (s.col c).lastErr
  (List.range 16).foldl (fun s p =>
    let mine := s.mem.regions.filter fun e => rgnHbm e.2 && rgnInCol e.2 c && decide (rgnPart e.2 = p)
    if mine.isEmpty ∨ (s.part p).st = .tearing then s
    else s.partFault p 0x45 (mine.any fun e => decide (rgnCode e.2 = 0))) s

/-- The columns and pseudo-channels of the lines of a stripe (R249): 16 different ones, each drawn among those that the lines before it
leave in its stack. -/
def stripeChannels (r : Region) (n : Nat) : List (Nat × Nat) :=
  (stripeLines r n).foldl (fun acc x =>
    let d := rgnDpa r x
    let rest := (List.range 64).filter fun k => !acc.contains (dpaCol d, k)
    acc ++ [(dpaCol d, rest.getD ((Config.pseudoChannel (d / 64)).toNat % rest.length) 0)]) []

/-- The pseudo-channel of a line of a region (R238, R249). -/
def linePc (r : Region) (a : Nat) : Nat :=
  if rgnStrong r then
    let n := rgnStripe r a
    ((stripeChannels r n).getD ((stripeLines r n).idxOf (a / 64 * 64)) (0, 0)).2
  else (Config.pseudoChannel (rgnDpa r a / 64)).toNat

/-- Whether a line lies in a pseudo-channel that is marked failed (R253). -/
def State.pcBad (s : State) (r : Region) (a : Nat) : Bool :=
  rgnHbm r && decide ((s.col (dpaCol (rgnDpa r a))).pcFailed ≠ 0) && bit (s.col (dpaCol (rgnDpa r a))).pcFailed (linePc r a)

/-- A line rebuilt from its stripe: counted, and the 64th in one second in its pseudo-channel marks that channel failed
(R253). A channel that is marked already counts no further. -/
def State.memRebuild (s : State) (access part rgn : Nat) (r : Region) (a : Nat) : State :=
  let d := rgnDpa r a
  let s := s.memCe access part rgn d 2
  if s.pcBad r a then s
  else
    let c := dpaCol d
    let pc := linePc r a
    let recent := s.tm.clk :: ((Table.get [] (s.col c).pcRebuilds pc).filter fun t => s.since t < 1000000000)
    let s := s.updCol c fun q => { q with pcRebuilds := Table.set [] q.pcRebuilds pc recent }
    if 64 ≤ recent.length then s.pcFail c pc else s

/-! What the codes do with an error (R238, R250, R251, R254) -/

/-- Bits that a mask changes in 64-bit word w of a line. -/
def wordFlips (m w : Nat) : Nat := popCount 64 (m / 2 ^ (64 * w))

/-- The bits that a mask changes in the share of lane group g: byte g of each of the line's 16 beats of 4 bytes (R238). -/
def shareFlips (m g : Nat) : List Nat := (List.range 128).filter fun i => testBit m (32 * (i / 8) + 8 * g + i % 8)

/-- The strong code detects every error of two or three bits of a share and every burst within 16 bits (R251). -/
def shareSees (l : List Nat) : Bool :=
  decide (l.length = 2 ∨ l.length = 3) || (decide (3 < l.length) && decide (l.foldl max 0 < l.headD 0 + 16))

/-- What the code of a line makes of changed bits: corrected, detected, or missed (none). What the guarantees of R250 and R251 do not
cover is missed, as a mask says that it is. -/
def codeSees (strong : Bool) (m : Nat) : Option ErrKind :=
  let n := if strong then (List.range 4).map fun g => (shareFlips m g).length else (List.range 8).map fun w => wordFlips m w
  if if strong then (List.range 4).any fun g => shareSees (shareFlips m g) else n.contains 2 then some .lost
  else if n.contains 1 && n.all (· ≤ 1) then some .correctable
  else none

/-- What the code of a line makes of an error. -/
def errSeen (strong : Bool) (k : ErrKind) : Option ErrKind :=
  match k with
  | .silent m => codeSees strong m
  | k => some k

/-- Whether the environment gives an error of a kind for the line of allocation address a. -/
def errAt (errs : List MemErr) (r : Region) (a : Nat) (k : ErrKind) : Bool :=
  errs.any fun e => e.line = rgnDpa r a / 64 && errSeen (rgnStrong r) e.kind = some k

/-- Bytes of a line as they are read, with the bits changed that its code misses (R250, R254). -/
def errBytes (errs : List MemErr) (r : Region) (a : Nat) (bs : Bytes) : Bytes :=
  errs.foldl (fun bs e =>
    match e.kind with
    | .silent m =>
      if e.line = rgnDpa r a / 64 ∧ codeSees (rgnStrong r) m = none then natLE 64 (leNat bs ^^^ m % 2 ^ 512) else bs
    | _ => bs) bs

/-- How a line stands before any error: readable data, invalid (zero), poisoned or unwritten. -/
inductive LineNow where
  | data | invalid | poisoned | unwritten
  deriving DecidableEq, Repr

/-- The state of a line of a region (R255, R263, R274). -/
def State.lineNow (s : State) (r : Region) (d : Nat) : LineNow :=
  match s.lineMeta (s.phys d / 64) with
  | none => if rgnHbm r then (if rgnRaw r then .unwritten else .invalid) else .data
  | some m =>
    if rgnHbm r && !rgnRaw r && m.gen ≠ r.gen then .invalid
    else if m.poisoned then .poisoned else .data

/-- The bytes that a line stores, zero while it is invalid or unwritten (R252, R255, R263). -/
def State.stored (s : State) (r : Region) (a : Nat) : Bytes :=
  match s.lineNow r (rgnDpa r a) with
  | .data | .poisoned => s.peek (s.phys (rgnDpa r a)) 64
  | .invalid | .unwritten => zeros 64

/-- The XOR of lines (R251, R252). -/
def xorLines (ls : List Bytes) : Bytes := natLE 64 (ls.foldl (fun m b => m ^^^ leNat b) 0)

/-- What a line reads as without an error: a line of a strong region in a failed pseudo-channel is the XOR of its stripe (R252, R253). -/
def State.lineValue (s : State) (r : Region) (a : Nat) : Bytes :=
  if s.pcBad r a && rgnStrong r then xorLines ((stripeOthers r a).map fun x => s.stored r x) else s.stored r a

/-- Whether a line serves a rebuild of its stripe: an invalid line counts as zero (R252, R285). -/
def State.lineServes (s : State) (r : Region) (errs : List MemErr) (x : Nat) : Bool :=
  !s.pcBad r x && match s.lineNow r (rgnDpa r x) with
    | .data => !errAt errs r x .lost
    | .poisoned => false
    | .invalid | .unwritten => true

/-- Whether the stripe of a line can rebuild it: every other line of the stripe still serves (R251, R285). -/
def State.canRebuild (s : State) (r : Region) (a : Nat) (errs : List MemErr) : Bool :=
  rgnStrong r && (stripeOthers r a).all fun x => s.lineServes r errs x

/-- A correctable error of a line counted when the line is met (R273). -/
def State.meetCe (s : State) (access part rgn : Nat) (r : Region) (errs : List MemErr) (x : Nat) : State :=
  if s.lineNow r (rgnDpa r x) = .data ∧ errAt errs r x .correctable then s.memCe access part rgn (rgnDpa r x) 1 else s

/-- A line rebuilt (R251 to R253): the XOR of the other 15 lines of its stripe, each read with its own errors; none when one of them
fails, and then the line is uncorrectable (R285). -/
def State.rebuild (s : State) (access part rgn : Nat) (r : Region) (a : Nat) (errs : List MemErr) : Option Bytes × State :=
  if s.canRebuild r a errs then
    let t := (stripeOthers r a).foldl (fun s x => s.meetCe access part rgn r errs x) s
    (some (xorLines ((stripeOthers r a).map fun x => if s.lineNow r (rgnDpa r x) = .data then errBytes errs r x (s.stored r x) else zeros 64)),
      t.memRebuild access part rgn r a)
  else (none, s.memUe access part rgn (rgnDpa r a) 3)

/-- One line read (R250 to R255, R263, R272, R273): its bytes, whether it is uncorrectable, and the state after the counts and events.
`rmw`: a write reads it, and an unwritten line then gives zero. A line of a failed pseudo-channel is rebuilt, or reads as poisoned. -/
def State.readLine (s : State) (rmw : Bool) (access part rgn : Nat) (r : Region) (a : Nat) (errs : List MemErr) : Bytes × Bool × State :=
  let d := rgnDpa r a
  let now := s.lineNow r d
  let bytes := s.peek (s.phys d) 64
  let again := fun (s : State) => match s.rebuild access part rgn r a errs with
    | (some v, s) => (v, false, s)
    | (none, s) => (bytes, true, s)
  if s.pcBad r a then
    if rgnStrong r ∧ now ≠ .poisoned then again s else (bytes, true, s.memUe access part rgn d 6)
  else match now with
  | .invalid => (zeros 64, false, s)
  | .unwritten => if rmw then (zeros 64, false, s) else (zeros 64, true, s.memUe access part rgn d 5)
  | .poisoned => (bytes, true, s.memUe access part rgn d 6)
  | .data =>
    if errAt errs r a .lost then
      if rgnStrong r then again s else (bytes, true, s.memUe access part rgn d 3)
    else if errAt errs r a .correctable then (bytes, false, s.memCe access part rgn d 1)
    else (errBytes errs r a bytes, false, s)

/-- The tag that a granule is stored with, whether its line is uncorrectable, and the state after it is read: from the tag array of an
SRAM (R254), or from the tag area (R248). -/
def State.readTag (s : State) (access part rgn : Nat) (r : Region) (g : Nat) (errs : List MemErr) : Nat × Bool × State :=
  if rgnHbm r then
    let t := rgnTagAt r (g / 256)
    let x := s.readLine false access part rgn r (t / 64 * 64) errs
    (leAt x.1 (t % 64) 4, x.2)
  else ((s.tagOf (s.phys (rgnDpa r g) / 256)).toNat, false, s)

/-- Whether a granule's tag is stored and read: in every SRAM, and in HBM where TAGS is 1; the tag of invalid lines is not read from the
tag area (R254, R256, R266, R268). -/
def State.tagged (s : State) (r : Region) (g : Nat) : Bool :=
  (!rgnHbm r || rgnTags r) && (List.range 4).any fun i => s.lineNow r (rgnDpa r (g + 64 * i)) = .data

/-- The four lines of a granule read: their bytes, whether one is uncorrectable, and the state. -/
def State.granLines (s : State) (rmw : Bool) (access part rgn : Nat) (r : Region) (g : Nat) (errs : List MemErr) : Bytes × Bool × State :=
  (List.range 4).foldl (fun (acc : Bytes × Bool × State) i =>
    let x := acc.2.2.readLine rmw access part rgn r (g + 64 * i) errs
    (acc.1 ++ x.1, acc.2.1 || x.2.1, x.2.2)) ([], false, s)

/-- One granule read with its tag check (R266 to R269, R285): its bytes, its poison, and the state after. The tag is checked on the
corrected data; a mismatch is TAG_FAIL. -/
def State.granIn (s : State) (rmw : Bool) (access part rgn : Nat) (r : Region) (a : Nat) (errs : List MemErr) : Gran × State :=
  let g := a / 256 * 256
  let x := s.granLines rmw access part rgn r g errs
  if x.2.1 ∨ s.tagged r g = false then (⟨x.1, x.2.1⟩, x.2.2)
  else
    let t := x.2.2.readTag access part rgn r g errs
    if t.2.1 then (⟨x.1, true⟩, t.2.2)
    else if t.1 ≠ crc32c x.1 ∨ (List.range 4).any fun i => errAt errs r (g + 64 * i) .tag then
      (⟨x.1, true⟩, t.2.2.memUe access part rgn (rgnDpa r g) 4)
    else (⟨x.1, false⟩, t.2.2)

/-- One granule read by a unit that consumes it. -/
def State.readGranAt (s : State) (access part rgn : Nat) (r : Region) (a : Nat) (errs : List MemErr) : Gran × State :=
  s.granIn false access part rgn r a errs

/-- What a read of partition memory gives. -/
inductive ReadRes where
  | data (g : Gran)
  /-- The region initialises: the access is held (R257). -/
  | held
  /-- An access fault (R243, R245). -/
  | fault
  deriving DecidableEq, Repr

/-- Columns that hold a region's lines: an access needs all of them in service (R243, R285). -/
def rgnCols (r : Region) : List Nat :=
  if rgnHbm r then (List.range (2 ^ rgnWays r)).map (rgnDbase r / 2 ^ 16 + ·) else [rgnDbase r / 2 ^ 16]

/-- The place of a partition address, or the access fault (R243, R245): an open region, within DLEN, in columns in
service. The Bool says that the region still initialises. -/
def State.place (s : State) (p addr : Nat) : Option (Nat × Region × Nat × Bool) :=
  match s.regionAt p addr with
  | some (i, r, a) =>
    if rgnDlen r ≤ a ∨ (rgnCols r).any (fun c => !s.inService c) ∨ r.st = 0 then none else some (i, r, a, decide (r.st = 1))
  | none => none

/-- A granule of partition memory read. -/
def State.readGran (s : State) (access p addr : Nat) (errs : List MemErr) : ReadRes × State :=
  match s.place p addr with
  | none => (.fault, s)
  | some (_, _, _, true) => (.held, s)
  | some (i, r, a, false) => let (g, s) := s.readGranAt access p i r a errs; (.data g, s)

/-- A write, or a transaction of one, as the controller takes it: the first allocation address and the end of the whole write, and the
errors of the lines that it meets. -/
structure Cover where
  lo : Nat
  hi : Nat
  errs : List MemErr

/-- A write that covers a whole stripe computes the parity line directly (R252). -/
def Cover.whole (v : Cover) (r : Region) (n : Nat) : Bool := decide (v.lo ≤ 960 * n) && decide (960 * n + 960 ≤ v.hi) && rgnStrong r

/-- The parity line of a line of a strong region updated in the same transaction (R252): the XOR of the old parity, the old line and the
new one, as they are read, or that of the lines of a stripe that the write covers whole. A parity line in a failed pseudo-channel is not written; a poisoned one stays so until its whole stripe is
written. -/
def State.storeParity (s : State) (r : Region) (a : Nat) (new : Bytes) (v : Cover) : State :=
  let n := rgnStripe r a
  let pa := rgnParAt r n
  let d := rgnDpa r pa
  if s.pcBad r pa then s
  else
    let par :=
      if v.whole r n then ((stripeLines r n).take 15).map fun x => if x = a then new else s.lineValue r x
      else [errBytes v.errs r pa (s.stored r pa), errBytes v.errs r a (s.lineValue r a), new]
    let bad := decide (s.lineNow r d = .poisoned) && !v.whole r n
    (s.poke (s.phys d) (xorLines par)).setLine (s.phys d / 64) (some ⟨r.gen, bad⟩)

/-- One whole line stored (R252, R253, R255, R274): a light line of a failed pseudo-channel is dropped, and the write of a strong one
updates only its stripe's parity; its line state is kept (log 117). -/
def State.storeLine (s : State) (r : Region) (a : Nat) (new : Bytes) (poison : Bool) (v : Cover) : State :=
  let d := rgnDpa r a
  let m : Option LineMeta := if rgnHbm r then some ⟨r.gen, poison⟩ else if poison then some ⟨0, true⟩ else none
  if rgnStrong r then
    let t := s.storeParity r a new v
    (if s.pcBad r a then t else t.poke (s.phys d) new).setLine (s.phys d / 64) m
  else if s.pcBad r a then s
  else (s.poke (s.phys d) new).setLine (s.phys d / 64) m

/-- The tag of a granule stored (R248, R254, R256, R266): in the tag array of an SRAM, or in the tag area, whose line keeps the other
tags and its poison. -/
def State.storeTag (s : State) (r : Region) (g : Nat) (data : Bytes) (v : Cover) : State :=
  let t := BitVec.ofNat 32 (crc32c data)
  if !rgnHbm r then s.setTag (s.phys (rgnDpa r g) / 256) t
  else if rgnTags r then
    let w := rgnTagAt r (g / 256)
    let a := w / 64 * 64
    let old := s.lineValue r a
    s.storeLine r a (old.take (w % 64) ++ natLE 4 t.toNat ++ old.drop (w % 64 + 4)) (decide (s.lineNow r (rgnDpa r a) = .poisoned)) v
  else s

/-- A whole granule stored, every line and its tag under one generation (R256, R267, R270). -/
def State.storeGran (s : State) (r : Region) (g : Nat) (x : Gran) (v : Cover) : State :=
  ((List.range 4).foldl (fun s i => s.storeLine r (g + 64 * i) (slice x.data (64 * i) 64) x.poison v) s).storeTag r g x.data v

/-- What the write of a strong line meets in the old line or the parity line (R252, R272, R285): a correctable error is corrected, and
an uncorrectable one is rebuilt where the stripe serves. The Bool says that it is not. -/
def State.meetOld (s : State) (access part rgn : Nat) (r : Region) (errs : List MemErr) (x : Nat) : Bool × State :=
  if s.pcBad r x ∨ s.lineNow r (rgnDpa r x) ≠ .data then (false, s)
  else if errAt errs r x .lost then
    match s.rebuild access part rgn r x errs with
    | (some _, s) => (false, s)
    | (none, s) => (true, s)
  else (false, s.meetCe access part rgn r errs x)

/-- The lines that the write of a granule of a strong region reads first: the old lines of the granule and of its tag, and their parity
lines, but for stripes that the write covers whole (R252). -/
def oldLines (r : Region) (g : Nat) (v : Cover) : List Nat :=
  if rgnStrong r then
    let ls := (List.range 4).map (g + 64 * ·) ++ (if rgnTags r then [rgnTagAt r (g / 256) / 64 * 64] else [])
    let part := ls.filter fun a => !v.whole r (rgnStripe r a)
    part ++ (part.map fun a => rgnParAt r (rgnStripe r a)).foldr List.insert []
  else []

/-- The granule that a write leaves at allocation address a (R263, R270, R272, R274): bytes that the write does not cover are read and
their tag verified; a poisoned line, or an old line that cannot be read, leaves the granule poisoned. The Bool says that an
uncorrectable error was met. -/
def State.mergeGran (s : State) (access part rgn : Nat) (r : Region) (a : Nat) (bs : Bytes) (poison : Bool) (v : Cover) : Gran × Bool × State :=
  let g := a / 256 * 256
  let old := if bs.length = 256 then (⟨bs, false⟩, s) else s.granIn true access part rgn r g v.errs
  let met := (oldLines r g v).foldl (fun (x : Bool × State) l =>
    let y := x.2.meetOld access part rgn r v.errs l
    (x.1 || y.1, y.2)) (old.1.poison, old.2)
  (⟨old.1.data.take (a % 256) ++ bs ++ old.1.data.drop (a % 256 + bs.length), poison || met.1⟩, met)

/-- A part of a granule written at allocation address a (within one granule), as a read-modify-write when it does not cover the whole
granule (R270, R274). -/
def State.writeIn (s : State) (access part rgn : Nat) (r : Region) (a : Nat) (bs : Bytes) (poison : Bool) (v : Cover) : State :=
  let x := s.mergeGran access part rgn r a bs poison v
  x.2.2.storeGran r (a / 256 * 256) x.1 v

/-- Bytes cut at granule boundaries, as (offset, bytes) pairs from address a on. -/
def splitGrans : Nat → Nat → Bytes → List (Nat × Bytes)
  | 0, _, _ => []
  | f + 1, a, bs =>
    if bs.isEmpty then []
    else
      let n := 256 - a % 256
      (a, bs.take n) :: splitGrans f (a + n) (bs.drop n)

/-- Bytes written into an allocation from address a on; `poison` marks granules by their place in the run. -/
def State.writeAlloc (s : State) (part rgn : Nat) (r : Region) (a : Nat) (bs : Bytes) (poison : Nat → Bool) (errs : List MemErr) :
    State :=
  (splitGrans (bs.length / 256 + 2) a bs).foldl (fun s e =>
    s.writeIn accOperand part rgn r e.1 e.2 (poison (e.1 / 256 - a / 256)) ⟨a, a + bs.length, errs⟩) s

/-- Bytes of partition memory written: none on an access fault (R276) or while the region initialises (R257). -/
def State.writePart (s : State) (p addr : Nat) (bs : Bytes) (poison : Nat → Bool) (errs : List MemErr) : Option State :=
  match s.place p addr with
  | some (i, r, a, false) => if rgnDlen r < a + bs.length then none else some (s.writeAlloc p i r a bs poison errs)
  | _ => none

/-- Whether a transaction comes after the generation of its region has changed (R262). -/
def staleGen (gens : List (Nat × Nat)) (i : Nat) (r : Region) : Bool :=
  rgnHbm r && !rgnRaw r && gens.any fun g => g.1 = i && g.2 ≠ r.gen

/-- The generation of each region of partition p, as an operation that is accepted carries them (R262). -/
def State.gensOf (s : State) (p : Nat) : List (Nat × Nat) :=
  (s.mem.regions.filter fun e => rgnValid e.2 && decide (rgnPart e.2 = p)).map fun e => (e.1, e.2.gen)

/-- Some of `n` bytes from a partition address on lie in a region that still initialises: the access is held (R257). -/
def State.opening (s : State) (p a n : Nat) : Bool :=
  n ≠ 0 && (List.range ((a + n - 1) / 256 - a / 256 + 1)).any fun g =>
    match s.place p (256 * (a / 256 + g)) with
    | some (_, _, _, i) => i
    | none => false

/-- A write of a granule of region r that comes too late counted as dropped (R262). -/
def State.dropStale (s : State) (r : Region) (a : Nat) : State :=
  s.updCol (dpaCol (rgnDpa r a)) fun q => { q with stale := inc q.stale }

/-- The granules of a packet whose tags failed on every attempt, written as poisoned lines (R262, R326). -/
def State.poisonPkt (s : State) (p : Nat) (host : Bool) (gens : List (Nat × Nat)) (e : Nat × Nat × List Bytes) : State :=
  (e.2.2.zip (List.range e.2.2.length)).foldl (fun s g =>
    match s.place p (e.2.1 + 256 * g.2) with
    | some (i, r, a, false) =>
      if host && !rgnHwr r then s
      else if staleGen gens i r then s.dropStale r a
      else s.writeAlloc p i r a (slice g.1 0 256) (fun _ => true) []
    | _ => s) s

/-- The receiver's part in the failure of a connection (R326): an operation with a packet whose tags failed on every attempt completes
with 0x06, and a WRITE leaves that packet's granules as poisoned lines. An operation that is refused already keeps its status and changes
nothing (R306). The other operations end without a completion. -/
def State.failRx (s : State) (c : Nat) : State :=
  let k := s.conn c
  let s := k.rxOps.foldl (fun s o =>
    if o.bad.isEmpty then s
    else if o.status ≠ 0 then s.sendAck c (some (o.opid, o.status))
    else ((if o.op = opWrite then o.bad.foldl (fun s e => s.poisonPkt (connPart k) (connHost k) o.gens e) s else s).sendAck c
      (some (o.opid, 6)))) s
  s.updConn c fun k => { k with rxOps := [], rxHeld := [] }

/-- CONN_FAILED logged, and the partition fault of a member connection (R324, R496). -/
def State.noteFail (s : State) (c : Nat) : State :=
  let k := s.conn c
  let s := s.logP (s.serving c) 0x52 0xFFFF (if connKind k = 4 then 0xFF else connPart k) [connState k]
  if connKind k = 1 then s.partFault (connPart k) 0x52 true else s

/-- A connection fails (R324): CONN_FAILED, its operations end with 0x08, its STATE is failed, and its claims lapse. A
member connection is a partition fault (R496). -/
def State.connFail (s : State) (c : Nat) : State :=
  if (s.conn c).st = 3 ∨ (s.conn c).st = 0 then s
  else
    (((s.failRx c).lapseClaims c).updConn c fun k => { k with st := 3, ops := [], copies := [], txWait := [] }).noteFail c

/-- The region index that covers the core store of a position, 0 when none does. -/
def State.coreIndex (s : State) (pos : Nat) : Nat :=
  let d := rgnDbase (coreRegion pos)
  ((s.mem.regions.find? fun e => rgnValid e.2 && !rgnHbm e.2 && decide (rgnDbase e.2 ≤ d)
    && decide (d < rgnDbase e.2 + rgnSize e.2)).map (·.1)).getD 0

/-- Granules read one after another: their bytes joined, the poison of any, and the state after. -/
def granFold (rd : State → Nat → Gran × State) (s : State) (n : Nat) : Bytes × Bool × State :=
  (List.range n).foldl (fun (acc : Bytes × Bool × State) i =>
    (acc.1 ++ (rd acc.2.2 i).1.data, acc.2.1 || (rd acc.2.2 i).1.poison, (rd acc.2.2 i).2)) ([], false, s)

/-- Granule number first + i of a position's own core store read (R102, R269). -/
def State.coreGran (p pos first : Nat) (errs : List MemErr) (s : State) (i : Nat) : Gran × State :=
  s.readGranAt accOperand p (s.coreIndex pos) (coreRegion pos) (256 * (first + i)) errs

/-- Bytes of a position's core store read through their granules: the bytes, the poison of each granule met, the state. -/
def State.coreRead (s : State) (p pos off n : Nat) (errs : List MemErr) : Bytes × Bool × State :=
  let first := off / 256
  let r := granFold (State.coreGran p pos first errs) s ((off + n + 255) / 256 - first)
  (slice r.1 (off % 256) n, r.2)

/-- Bytes written into a position's core store. -/
def State.coreWrite (s : State) (p pos off : Nat) (bs : Bytes) (poison : Bool) (errs : List MemErr) : State :=
  s.writeAlloc p (s.coreIndex pos) (coreRegion pos) off bs (fun _ => poison) errs

/-- FETCH_TRAP or ACCESS_FAULT (R272, R276): the event, the streams stopped, and the partition fault (R496). -/
def State.trap (s : State) (p event : Nat) (w : W64) : State :=
  if (s.part p).st = .tearing then s
  else
    let s := (s.updPart p stopStreams).logP s.leadNow event 0xFFFF p [w]
    s.partFault p event true

/-- Physical lines of an allocation that the tables list, changed: used by sweeps, wipes and initialisation. -/
def rgnHas (r : Region) (d : Nat) : Bool :=
  if rgnHbm r then
    let c0 := rgnDbase r / 2 ^ 16
    let o0 := rgnDbase r % 2 ^ 16 * 2 ^ 20
    decide (c0 ≤ dpaCol d) && decide (dpaCol d < c0 + 2 ^ rgnWays r) && decide (o0 ≤ d % 2 ^ 36)
      && decide (d % 2 ^ 36 < o0 + rgnBytes r / 2 ^ rgnWays r)
  else decide (rgnDbase r * 2 ^ 20 ≤ d) && decide (d < rgnDbase r * 2 ^ 20 + rgnBytes r)

/-- The device physical address of a physical byte of a core store, as the position that its slot fills; none for a slot
that fills no position. -/
def State.dpaOfPhys (s : State) (ph : Nat) : Option Nat :=
  if ph < 2 ^ 40 then some ph
  else
    let n := (ph - 2 ^ 40) / 2 ^ 20
    let cl := n / 17
    ((List.range 16).find? fun p => s.physSlot (16 * cl + p) = n % 17).map fun p =>
      cl / 16 * 2 ^ 36 + 0xFE0000000 + (cl % 16 * 16 + p) * 2 ^ 20 + (ph - 2 ^ 40) % 2 ^ 20

/-- Every byte and line of an allocation taken back to zero and to no metadata (R240, R257, R261). -/
def State.clearAlloc (s : State) (r : Region) : State :=
  let hit := fun ph => (s.dpaOfPhys ph).any fun d => rgnHas r d
  { s with mem := { s.mem with cells := Table.drop hit s.mem.cells,
                               lines := Table.drop (fun l => hit (64 * l)) s.mem.lines,
                               tags := Table.drop (fun g => hit (256 * g)) s.mem.tags } }

/-- A core store and a column store zeroed (R240). -/
def State.zeroStores (s : State) (c : Nat) : State :=
  let hit := fun ph =>
    if ph < 2 ^ 40 then dpaCol ph = c && !dpaHbm ph else decide ((ph - 2 ^ 40) / 2 ^ 20 / 17 / 16 = c)
  { s with mem := { s.mem with cells := Table.drop hit s.mem.cells,
                               lines := Table.drop (fun l => hit (64 * l)) s.mem.lines,
                               tags := Table.drop (fun g => hit (256 * g)) s.mem.tags } }

end Sys2Proof.Machine
end

