-- ==== Sys2Proof/Machine/Operands.lean ====
section
/-! DEFINITION. Operand forms of schedule entries (R209 to R214), the output control word (R140, R141), the output parameter
block (R142), the rungs of a slot (R180), and operand elements read from core store (R41, R51 to R56, R67, R213). -/
namespace Sys2Proof.Machine

/-- The 64-bit words of an entry (R209). -/
def wordsOf (bs : Bytes) : List W64 := (List.range 8).map fun i => BitVec.ofNat 64 (leAt bs (8 * i) 8)

/-- Field hi:lo of word w of an entry. -/
def ef (ws : List W64) (w hi lo : Nat) : Nat := fld (ws.getD w 0) hi lo

/-- Kinds of entries (R210). -/
def kTile : Nat := 0x01
def kConv : Nat := 0x02
def kVec : Nat := 0x03
def kMerge : Nat := 0x04
def kXfer : Nat := 0x08
def kReserve : Nat := 0x09
def kColl : Nat := 0x0C
def kLayer : Nat := 0x10
def kWait : Nat := 0x11
def kStepEnd : Nat := 0x12

/-- Common fields (R209). -/
def eKind (ws : List W64) : Nat := ef ws 0 63 58
def eCadence (ws : List W64) : Nat := ef ws 0 57 54
def eLlast (ws : List W64) : Bool := ef ws 0 53 53 = 1
def eRound (ws : List W64) : Nat := ef ws 0 52 29
def eRel (ws : List W64) : Nat := ef ws 0 28 7
def eLidx (ws : List W64) : Nat := ef ws 1 63 52

/-- A Token address of all ones names none. -/
def relNone : Nat := 2 ^ 22 - 1
def lidxNone : Nat := 0xFFF

/-- The waits of an entry as (Token index, count) pairs; a count of 0 is unused (R209). -/
def eWaits (ws : List W64) : List (Nat × Nat) :=
  [(ef ws 1 49 41, ef ws 1 40 25), (ef ws 1 24 16, ef ws 1 15 0)].filter fun x => x.2 ≠ 0

/-- The entry that an omitted stream runs (R208): STEP_END at offset 0. -/
def stepEndWords : List W64 :=
  [fields [at_ 63 58 kStepEnd, at_ 28 7 relNone], at_ 63 52 lidxNone, 0, 0, 0, 0, 0, 0]

/-- An operand descriptor (R211). -/
structure OpDesc where
  base : Nat
  sbase : Nat
  fmt : Nat
  lay : Nat
  axis : Bool
  follow : Bool
  slot : Nat
  vlen : Nat
  deriving DecidableEq, Repr

/-- The descriptor that a word spells (R211). -/
def descOf (w : W64) : OpDesc :=
  ⟨fld w 63 52, fld w 51 38, fld w 37 34, fld w 33 32, bit w 31, bit w 30, fld w 29 14, fld w 10 0⟩

/-- The format of a rung (rung table); none for the reserved rungs. -/
def rungFmt (cfg : W64) (r : Nat) : Option Fmt :=
  match r with
  | 0 => some .e2m1
  | 1 => some (if bit cfg 15 then .e3m2 else .e2m3)
  | 2 => match fld cfg 17 16 with | 0 => some .e4m3 | 1 => some .e5m2 | 2 => some .mxint8 | _ => none
  | 3 => some .bf16
  | 4 => some .fp32
  | _ => none

/-- Fields of a slot. -/
def cfgInit (c : W64) : Nat := fld c 47 40
def cfgDecay (c : W64) : Nat := fld c 39 36
def cfgWindow (c : W64) : Nat := fld c 35 32 + 1
def cfgBiasMax (c : W64) : Nat := fld c 31 29
def cfgMargin (c : W64) : Nat := fld c 28 27
def cfgHeadroom (c : W64) : Nat := fld c 26 24
def cfgCeil (c : W64) : Nat := fld c 23 21
def cfgFloor (c : W64) : Nat := fld c 20 18
def cfgLadder (c : W64) : Bool := bit c 14
def cfgSaAllow (c : W64) : Bool := bit c 13
def stScale (w : W64) : Nat := fld w 63 56
def stAnchor (w : W64) : Int := sext 10 (fld w 55 46)
def stSaOk (w : W64) : Bool := bit w 45
def stLevel (w : W64) : Nat := fld w 44 42
def stBase (w : W64) : Nat := fld w 41 39
def stBias (w : W64) : Nat := fld w 38 36
def stHead (w : W64) : Nat := fld w 35 33
def stClean (w : W64) : Nat := fld w 32 29
def stValid (w : W64) : Nat := fld w 28 24

/-- The format and layout that a slot's LEVEL gives (R180, R181); `lay` is the layout that the entry names. -/
def slotForm (q : Slot) (lay : Layout) : Fmt × Layout :=
  let r := stLevel q.state
  ((rungFmt q.cfg r).getD .fp32, if r ≤ 2 then lay else .dense)

/-- The format and layout of an operand as its entry issues (R211). -/
def State.descForm (s : State) (d : OpDesc) : Fmt × Layout :=
  let lay := (layoutOfCode d.lay).getD .dense
  if d.follow then slotForm (s.slot d.slot) lay else ((fmtOfCode d.fmt).getD .fp32, lay)

/-- Reserved bits and codes of a descriptor, R34, R48 and R52 (check 0x05). -/
def descOk (w : W64) : Bool :=
  let d := descOf w
  decide (fld w 13 11 = 0) && decide (d.vlen ≠ 0) &&
    match layoutOfCode d.lay with
    | none => false
    | some l =>
      !(l = .mxVector && d.axis) &&
        match fmtOfCode d.fmt with
        | none => false
        | some f => d.follow || (layoutAllows l f && (fmtScaled f || decide (d.sbase = 0)))

/-- The output control word decoded (R140); none for a reserved code or a set reserved bit. -/
def ctlOf (w : W64) : Option Ctl :=
  match fmtOfCode (fld w 14 11), layoutOfCode (fld w 16 15) with
  | some f, some l =>
    let act : Option Act := match fld w 23 20 with
      | 0 => some .none | 1 => some .relu | 2 => some .leakyRelu | 3 => some .clamp | 4 => some .abs | 5 => some .square
      | 6 => some .reluSquare | 7 => some .pwl | _ => none
    let src : ScaleSrc := match fld w 19 18 with | 0 => .none | 1 => .caddy | 2 => .ownFloor | _ => .ownFit
    let rnd : Option RoundMode := match fld w 10 9 with | 0 => some .rne | 1 => some .rtz | 2 => some .sr | _ => none
    let ovf : Option OvfMode := match fld w 8 7 with | 0 => some .ieee | 1 => some .satFinite | 2 => some .satAll | _ => none
    if fld w 63 50 ≠ 0 ∨ fld w 6 0 ≠ 0 ∨ 16 < fld w 31 27 then none
    else match act, rnd, ovf with
    | some a, some r, some o =>
      some ⟨bit w 49, bit w 48, fld w 47 32, fld w 31 27, bit w 26, bit w 25, bit w 24, a, src, bit w 17, l, f, r, o⟩
    | _, _, _ => none
  | _, _ => none

/-- The control word with the format, layout and scale source of a rung (R180). -/
def ctlAt (c : Ctl) (cfg : W64) (r : Nat) : Ctl :=
  { c with format := (rungFmt cfg r).getD .fp32, layout := if r ≤ 2 then c.layout else .dense,
           scaleSrc := if r ≤ 2 then .caddy else .none }

/-- R141 on a decoded control word. With RAW 1 every field that R141 speaks of holds zero. -/
def ctlOk (c : Ctl) (conv : Bool) : Bool :=
  let pair := layoutAllows c.layout c.format && (c.scaleSrc ≠ .none) == fmtScaled c.format
    && (!c.blockAxis || c.layout = .mxVector)
  let raw := c.format = .e4m3 && c.layout = .dense && c.scaleSrc = .none && c.act = .none && !c.bias && c.topkK = 0
    && !c.topkClose && !c.slotEn && !c.blockAxis
  (if c.raw then raw else pair) && (c.scaleSrc ≠ .caddy || c.slotEn) && !(conv && c.bias)

/-- The output parameter block (R142). -/
structure OutPrm where
  scale : Nat
  p0 : Nat
  p1 : Nat
  tid : Nat
  bias : Nat
  table : Nat
  row0 : Nat
  col0 : Nat
  ncols : Nat
  topk : Nat
  deriving DecidableEq, Repr

/-- The parameter block that 64 bytes spell. -/
def prmOf (b : Bytes) : OutPrm :=
  ⟨leAt b 0 4, leAt b 4 4, leAt b 8 4, leAt b 12 4, leAt b 16 4, leAt b 20 4, leAt b 24 8, leAt b 32 8, leAt b 40 8, leAt b 48 4⟩

/-- Granules of a core store read once each: their numbers with what was delivered. -/
abbrev Grans := List (Nat × Gran)

/-- A list with every number kept once. -/
def dedup (l : List Nat) : List Nat := (l.foldl (fun acc n => if acc.contains n then acc else n :: acc) []).reverse

/-- The granules of a list that lie within a core store, each read by `rd` and kept under its number. -/
def granLoad (rd : State → Nat → Gran × State) (gs : List Nat) (s : State) : Grans × State :=
  gs.foldl (fun (acc : Grans × State) g =>
    if g < 4096 then ((g, (rd acc.2 g).1) :: acc.1, (rd acc.2 g).2) else acc) ([], s)

/-- The granules `gs` of a position's core store, each read once (R102, R269). -/
def State.loadGrans (s : State) (p pos : Nat) (gs : List Nat) (errs : List MemErr) : Grans × State :=
  granLoad (State.coreGran p pos 0 errs) (dedup gs) s

/-- The granule that a byte of core store lies in. -/
def granOf (l : Grans) (a : Nat) : Gran := ((l.find? fun e => e.1 = a / 256).map (·.2)).getD ⟨zeros 256, false⟩

/-- A byte of loaded granules. -/
def byteOf (l : Grans) (a : Nat) : Byte := (granOf l a).data.getD (a % 256) 0

/-- `w` bits from bit offset `b`, with the poison of the granules they lie in (R45, R67). -/
def bitsAt (l : Grans) (b w : Nat) : Nat × Bool :=
  let first := b / 8
  let n := (b + w - 1) / 8 - first + 1
  (leNat ((List.range n).map fun i => byteOf l (first + i)) / 2 ^ (b % 8) % 2 ^ w,
    (granOf l first).poison || (granOf l (first + n - 1)).poison)

/-- Where an operand stands as it is read: descriptor, format and layout. -/
structure View where
  d : OpDesc
  f : Fmt
  l : Layout

/-- The view of an operand as its entry issues. -/
def State.view (s : State) (w : W64) : View :=
  let d := descOf w
  let (f, l) := s.descForm d
  ⟨d, f, l⟩

/-- First bit of an element, and the byte of its scale code, in core store (R45, R51 to R54). -/
def View.bitOf (v : View) (vec e : Nat) : Nat := 2048 * v.d.base + elemBit v.l v.f v.d.vlen vec e
def View.scaleOf (v : View) (vec e : Nat) : Nat := 64 * v.d.sbase + scaleByte v.l v.d.vlen vec e

/-- The granules that an element touches. -/
def View.gransOf (v : View) (vec e : Nat) : List Nat :=
  let b := v.bitOf vec e
  let g := [b / 2048, (b + fmtWidth v.f - 1) / 2048]
  if fmtScaled v.f then v.scaleOf vec e / 256 :: g else g

/-- The codes of an element: element code, scale code, poison (R67). -/
def View.codes (v : View) (l : Grans) (vec e : Nat) : Nat × Nat × Bool :=
  let (c, p) := bitsAt l (v.bitOf vec e) (fmtWidth v.f)
  if fmtScaled v.f then
    let (sc, ps) := bitsAt l (8 * v.scaleOf vec e) 8
    (c, sc, p || ps)
  else (c, 127, p)

/-- The decoded element (R41, R67). -/
def View.elem (v : View) (l : Grans) (vec e : Nat) : Elem :=
  let (c, sc, p) := v.codes l vec e
  decodeScaled v.f c sc p

/-- The place of contraction position t of lane i (R213). -/
def View.place (v : View) (v0 e0 i t : Nat) : Nat × Nat := if v.d.axis then (v0 + t, e0 + i) else (v0 + i, e0 + t)

/-- Every granule that `n` lanes of `k` positions touch. -/
def View.allGrans (v : View) (v0 e0 n k : Nat) : List Nat :=
  (List.range n).flatMap fun i => (List.range k).flatMap fun t => let (a, b) := v.place v0 e0 i t; v.gransOf a b

/-- The lanes of an operand: `n` lists of `k` decoded elements. -/
def View.lanes (v : View) (l : Grans) (v0 e0 n k : Nat) : List (List Elem) :=
  (List.range n).map fun i => (List.range k).map fun t => let (a, b) := v.place v0 e0 i t; v.elem l a b

/-- Element t of an operand taken in order from its first element. -/
def View.seq (v : View) (t : Nat) : Nat × Nat := (t / (32 * max 1 v.d.vlen), t % (32 * max 1 v.d.vlen))

/-- Bytes written from offset a up to the end of core store; an address beyond it is not written. -/
def State.coreStore (s : State) (p pos a : Nat) (bs : Bytes) (poison : Bool) (errs : List MemErr) : State :=
  if a + bs.length ≤ 2 ^ 20 then s.coreWrite p pos a bs poison errs else s

/-- A run of `w` bits that an entry writes into core store from bit offset `bit` on, and its poison mark (R45, R153). -/
structure Wr where
  bit : Nat
  w : Nat
  code : Nat
  poison : Bool
  deriving DecidableEq, Repr

/-- Whether a write reaches granule g. -/
def Wr.meets (x : Wr) (g : Nat) : Bool := decide (x.bit < 2048 * g + 2048) && decide (2048 * g < x.bit + x.w)

/-- The granules that a write reaches. -/
def Wr.grans (x : Wr) : List Nat := (List.range ((x.bit + x.w - 1) / 2048 + 1 - x.bit / 2048)).map (x.bit / 2048 + ·)

/-- A write's part of granule g put over (bits written, their values), both as 2,048-bit numbers. -/
def Wr.over (g : Nat) (m : Nat × Nat) (x : Wr) : Nat × Nat :=
  let lo := x.bit - 2048 * g
  let cut := 2048 * g - x.bit
  let n := min (x.w - cut) (2048 - lo)
  let bits := (2 ^ n - 1) * 2 ^ lo
  (m.1 ||| bits, m.2 - (m.2 &&& bits) + x.code / 2 ^ cut % 2 ^ n * 2 ^ lo)

/-- What a list of writes, in order, puts into granule g: the bits written and their values. -/
def overGran (xs : List Wr) (g : Nat) : Nat × Nat := (xs.filter (·.meets g)).foldl (Wr.over g) (0, 0)

/-- The writes of an entry to one granule of its core store, as one read-modify-write, or as a whole write where they cover it
(R153, R270, R274). -/
def State.patchGran (p pos : Nat) (xs : List Wr) (errs : List MemErr) (s : State) (g : Nat) : State :=
  let r := coreRegion pos
  let m := overGran xs g
  let old := if m.1 = 2 ^ 2048 - 1 then (⟨zeros 256, false⟩, s) else s.granIn true accOperand p (s.coreIndex pos) r (256 * g) errs
  let n := leNat old.1.data
  old.2.storeGran r (256 * g) ⟨natLE 256 (n - (n &&& m.1) + m.2), old.1.poison || xs.any fun x => x.meets g && x.poison⟩
    ⟨256 * g, 256 * g + 256, errs⟩

/-- The writes of an entry stored, granule by granule; an address beyond core store is not written. -/
def State.storeWrs (s : State) (p pos : Nat) (xs : List Wr) (errs : List MemErr) : State :=
  ((dedup (xs.flatMap Wr.grans)).filter (· < 4096)).foldl (State.patchGran p pos xs errs) s

end Sys2Proof.Machine
end

