-- ==== Sys2Proof/Machine/Layouts.lean ====
section
/-! DEFINITION. What a transfer does to the data it moves (R47, R58 to R60, R181, R214): its forms, the layout and format changes that
it may make, and the destination's payload and scale plane. -/
namespace Sys2Proof.Machine

/-- The numbers of the granules of `n` bytes at an address. -/
def gransOver (a n : Nat) : List Nat := if n = 0 then [] else (List.range ((a + n - 1) / 256 - a / 256 + 1)).map (a / 256 + ·)

/-- What a transfer moves: source and destination formats and layouts, TAXIS, and VLEN (R214). -/
structure XferForm where
  sf : Fmt
  sl : Layout
  df : Fmt
  dl : Layout
  taxis : Bool
  vlen : Nat
  deriving DecidableEq, Repr

/-- Fields of an XFER entry (R214). -/
def xSlot (ws : List W64) : Nat := ef ws 4 41 26
def xFollow (ws : List W64) : Bool := ef ws 4 25 25 = 1
def xTaxis (ws : List W64) : Bool := ef ws 4 12 12 = 1
def xSrcLay (ws : List W64) : Layout := (layoutOfCode (ef ws 4 20 19)).getD .dense
def xDstLay (ws : List W64) : Layout := (layoutOfCode (ef ws 4 14 13)).getD .dense
def xVlen (ws : List W64) : Nat := ef ws 5 23 13

/-- The form of a FOLLOW transfer at rung r of its slot (R180, R181, R214): the rung's format on both sides. DEDUCED (log 123): at rungs
0 to 2, whose layout the rung table gives as the entry names, the source takes SLAY and the destination DLAY. -/
def xferRung (ws : List W64) (cfg : W64) (r : Nat) : XferForm :=
  let f := (rungFmt cfg r).getD .fp32
  ⟨f, if r ≤ 2 then xSrcLay ws else .dense, f, if r ≤ 2 then xDstLay ws else .dense, xTaxis ws, xVlen ws⟩

/-- The form of a transfer as it issues; with FOLLOW 1 from the slot's LEVEL (R181, R214). -/
def State.xferForm (s : State) (ws : List W64) : XferForm :=
  if xFollow ws then xferRung ws (s.slot (xSlot ws)).cfg (stLevel (s.slot (xSlot ws)).state)
  else ⟨(fmtOfCode (ef ws 4 24 21)).getD .fp32, xSrcLay ws, (fmtOfCode (ef ws 4 18 15)).getD .fp32, xDstLay ws, xTaxis ws, xVlen ws⟩

/-- The forms that a transfer may take: its own, or under FOLLOW those of every rung from FLOOR to CEIL (R181). -/
def State.xferForms (s : State) (ws : List W64) : List XferForm :=
  let c := (s.slot (xSlot ws)).cfg
  if xFollow ws then (List.range (cfgCeil c + 1 - cfgFloor c)).map fun i => xferRung ws c (cfgFloor c + i) else [s.xferForm ws]

/-- Elements that `n` bytes of source payload hold. -/
def XferForm.elems (x : XferForm) (n : Nat) : Nat := 8 * n / fmtWidth x.sf

/-- Vectors of the source: stored vectors, or matrix rows of square-scaled tiles. -/
def XferForm.rows (x : XferForm) (n : Nat) : Nat := x.elems n / (32 * max 1 x.vlen)

/-- The dense vector axis is swapped (exact layout change table). -/
def XferForm.swaps (x : XferForm) : Bool := x.taxis && x.sl = .dense && x.dl = .dense

/-- Square-scaled to MX vector. -/
def XferForm.unfolds (x : XferForm) : Bool := x.sl = .square && x.dl = .mxVector

/-- Elements of a destination vector: a swapped one is padded to whole blocks (R47). DESIGN CHOICE (log 124): the spec gives no range
for a transfer's VLEN; a VLEN of 0 counts as one block, here and in `XferForm.rows`. -/
def XferForm.outLen (x : XferForm) (n : Nat) : Nat :=
  if x.swaps then 32 * ceilDiv (x.rows n) 32
  else if x.unfolds && x.taxis then x.rows n
  else 32 * max 1 x.vlen

/-- Elements of the destination payload. -/
def XferForm.outElems (x : XferForm) (n : Nat) : Nat := if x.swaps then 32 * max 1 x.vlen * x.outLen n else x.elems n

/-- The bit of the source payload of destination element d; none for padding. -/
def XferForm.from_ (x : XferForm) (n d : Nat) : Option Nat :=
  let l := x.outLen n
  if x.swaps then
    let (j, i) := (d / max 1 l, d % max 1 l)
    if i < x.rows n then some (elemBit .dense x.sf x.vlen i j) else none
  else if x.unfolds then
    let (v, e) := (d / max 1 l, d % max 1 l)
    let (row, col) := if x.taxis then (e, v) else (v, e)
    some (elemBit .square x.sf x.vlen row col)
  else some (d * fmtWidth x.sf)

/-- Bytes of the destination payload. -/
def XferForm.outBytes (x : XferForm) (n : Nat) : Nat := ceilDiv (x.outElems n * fmtWidth x.df) 8

/-- Scale codes of the source: one for 32 elements, or one for each tile. -/
def XferForm.scales (x : XferForm) (n : Nat) : Nat :=
  if !fmtScaled x.sf then 0 else if x.sl = .square then x.elems n / 1024 else x.elems n / 32

/-- Scale codes of the destination. -/
def XferForm.outScales (x : XferForm) (n : Nat) : Nat :=
  if !fmtScaled x.df then 0 else if x.dl = .square then x.elems n / 1024 else x.elems n / 32

/-- The source scale byte of destination scale byte b; none: the code is 0x7F (plain FP8 to MXFP8). -/
def XferForm.scaleFrom (x : XferForm) (n b : Nat) : Option Nat :=
  if !fmtScaled x.sf then none
  else if x.unfolds then
    let per := max 1 (x.outLen n / 32)
    let (vec, k) := (b / per, b % per)
    some (if x.taxis then k * x.vlen + vec / 32 else vec / 32 * x.vlen + k)
  else some b

/-- Bytes with the numbers of what is poisoned in them: granules of a payload, bytes of a scale plane. -/
abbrev Payload := Bytes × List Nat

/-- The destination payload (R58 to R60): every element copied or re-encoded, and the granules that hold one from a poisoned granule.
`src` are the source bytes, `bad` the source granules that are poisoned. -/
def XferForm.payload (x : XferForm) (src : Bytes) (bad : List Nat) : Payload :=
  let n := src.length
  let w := fmtWidth x.df
  let ds := List.range (x.outElems n)
  let code := fun (d : Nat) => match x.from_ n d with
    | some b => reencode x.sf x.df (leAt src (b / 8) 5 / 2 ^ (b % 8) % 2 ^ fmtWidth x.sf)
    | none => 0
  let lost := ds.filter fun d => match x.from_ n d with
    | some b => bad.contains (b / 2048) || bad.contains ((b + fmtWidth x.sf - 1) / 2048)
    | none => false
  if x.sf = x.df ∧ x.sl = x.dl ∧ !x.swaps then (src, bad)
  else (pack w (ds.map code), dedup (lost.flatMap fun d => [d * w / 2048, (d * w + w - 1) / 2048]))

/-- The destination scale plane, and which of its bytes come from a poisoned granule; `bad` are such bytes of the source. -/
def XferForm.plane (x : XferForm) (n : Nat) (src : Bytes) (bad : List Nat) : Payload :=
  let bs := List.range (x.outScales n)
  (bs.map fun b => match x.scaleFrom n b with | some a => src.getD a 0 | none => 0x7F,
    bs.filter fun b => match x.scaleFrom n b with | some a => bad.contains a | none => false)

/-- The layout changes that a transfer may make (R58, R59). -/
def changeOk (sf : Fmt) (sl : Layout) (df : Fmt) (dl : Layout) : Bool :=
  layoutAllows sl sf && layoutAllows dl df &&
    ((sf = df && sl = dl)
      || (sl = .dense && dl = .mxVector && ((sf = .plainE4m3 && df = .e4m3) || (sf = .plainE5m2 && df = .e5m2)))
      || (sl = .square && dl = .mxVector && sf = df)
      || (sl = .dense && dl = .dense && df = .fp32 && (sf = .bf16 || sf = .fp16))
      || (sl = dl && widens sf df))

/-- A form that a transfer may have: an allowed change, with TAXIS where it means something (R58, R59, R214). -/
def XferForm.ok (x : XferForm) : Bool :=
  changeOk x.sf x.sl x.df x.dl
    && (!x.taxis || (x.sl = .square && x.dl = .mxVector) || (x.sl = .dense && x.dl = .dense && x.sf = x.df))

end Sys2Proof.Machine
end

