-- ==== Sys2Proof/Machine/Power.lean ====
section
/-! DEFINITION. Power, cooling and the sideband pins (chapter 15). -/
namespace Sys2Proof.Machine

/-- Pins, in the order of the sideband pin table. -/
def pinModEn : Nat := 1
def pinPps : Nat := 4
def pinThrot : Nat := 5
def pinReset : Nat := 6

/-- A removal of power (R482, R508, R512, R521): everything but the flash goes back to its reset value. The outputs already
sent, the queue, the clock and the free values are not the module's. -/
def State.powerRemoved (s : State) (ph : Phase) : State :=
  { State.reset with
    flash := s.flash, free := s.free, pending := s.pending
    tm := { TimeSt.reset with clk := s.tm.clk }
    net := { Net.reset with out := s.net.out }
    pwr := { Pwr.reset with phase := ph, phaseAt := s.tm.clk, pins := s.pwr.pins, pinAt := s.pwr.pinAt } }

/-- A change of a pin is filtered or ignored (R525): counted, and logged at most once per second for each pin. -/
def State.pinFiltered (s : State) (pin : Nat) : State :=
  if !s.up then s
  else
    let recent := match s.pwr.pinLogAt.find? fun e => e.1 = pin with
      | some e => decide (s.since e.2 < 1000000000)
      | none => false
    let s := s.updPwr fun p => { p with filtered := inc p.filtered }
    if recent then s
    else
      (s.updPwr fun p => { p with pinLogAt := Table.insert pin s.tm.clk (Table.erase p.pinLogAt pin) }).logLead 0xC7 s.pinStatus

/-- Whether a pin's last accepted change is at least `ns` ago. -/
def State.pinFree (s : State) (pin ns : Nat) : Bool :=
  match s.pwr.pinAt.find? fun e => e.1 = pin with
  | some e => decide (ns ≤ s.since e.2)
  | none => true

/-- A pin's change accepted: its level, and the time. -/
def State.pinSet (s : State) (pin : Nat) (active : Bool) : State :=
  s.updPwr fun p => { p with pins := if active then setBit p.pins pin else clearBit p.pins pin,
                             held := if active then p.held else clearBit p.held pin,
                             pinAt := Table.insert pin s.tm.clk (Table.erase p.pinAt pin) }

/-- The module cap in force: 1,200 W or the cap when lower while the throttle floor is in force (R516). -/
def State.floorOn (s : State) : Bool := s.pwr.throt || s.pwr.power || s.pwr.thermal
def State.capNow (s : State) : Nat :=
  let c := fld s.pwr.cap 15 0
  if s.floorOn then min 1200 c else c

/-- Clock in MHz of a column (R515, R519). -/
def State.colMhz (s : State) (c : Nat) : Nat := (2000 - 50 * (s.colPwr c).bin) / max 1 s.pwr.stretch

/-- The traces of what changed from `s` to `t` in the module cap in force and in the columns' limits (R475). -/
def State.tracePower (s t : State) : State :=
  let t := if s.capNow = t.capNow then t else t.traceLead 0xFF 9 0 [t.leadNow, t.capNow, t.colMhz t.leadNow]
  columns.foldl (fun t c =>
    if (s.colPwr c).limit = (t.colPwr c).limit then t
    else t.trace c 0xFF 9 1 [c, fld (t.colPwr c).limit 8 0, t.colMhz c]) t

/-- A column's bin lowered to at least b, with the cause of the lowering. -/
def lowerBin (b cause : Nat) (q : ColPwr) : ColPwr := if q.bin < b then { q with bin := min 24 b, cause := cause } else q

/-- The throttle floor applied: a ceiling of bin 8 in every column (R516). -/
def State.applyFloor (s : State) (cause : Nat) : State :=
  s.reclock (columns.foldl (fun s c => s.updColPwr c (lowerBin 8 cause)) s)

/-- MOD_EN accepted as asserted (R512, R525): the input switch turns on. -/
def State.opModEn (s : State) (us : Nat) : State :=
  if testBit s.pwr.pins pinModEn then s
  else if us < 10000 ∨ !s.pinFree pinModEn 1000000000 then s.pinFiltered pinModEn
  else
    let s := s.pinSet pinModEn true
    if s.pwr.phase = .off then s.updPwr fun p => { p with phase := .starting, phaseAt := s.tm.clk } else s

/-- MOD_EN deasserted (R525, R526, R527, R530): ALERT_N released, MOD_PG low, the regulators off 10 ms later; one BOOT_STAGE
entry with all ones goes to the persistent log when no copy of a dump keeps the flash busy. -/
def State.opModDis (s : State) (us : Nat) : State :=
  if !testBit s.pwr.pins pinModEn then s
  else if us < 100 then s.pinFiltered pinModEn
  else
    let s := s.pinSet pinModEn false
    match s.pwr.phase with
    | .on =>
      let e : LogEntry := ⟨s.tm.now, (s.steward s.leadNow).head % 2 ^ 32, 0x01, 1, s.leadNow, 0xFFFF, 0xFF, 0,
        [BitVec.allOnes 64]⟩
      let s := if s.based && !s.fw.latch && decide (s.dev.dump.state ≠ 3) then
          { s with flash := { s.flash with plog := (e :: s.flash.plog).take 1032192,
                                           plogHead := (s.flash.plogHead + 1) % 1032192 } }
        else s
      s.updPwr fun p => { p with phase := .turningOff, phaseAt := s.tm.clk, modPg := false }
    | .turningOff => s
    | _ => s.updPwr fun p => { p with phase := .off, phaseAt := s.tm.clk, modPg := false }

/-- Ten milliseconds after the deassertion the regulators turn off (R530). -/
def State.opRegOff (s : State) : State :=
  if s.pwr.phase = .turningOff ∧ 10000000 ≤ s.since s.pwr.phaseAt then s.powerRemoved .off else s

/-- THROT_N accepted as asserted: the throttle floor (R525, R527). -/
def State.opThrot (s : State) (ns : Nat) : State :=
  s.whenUp fun s =>
    if testBit s.pwr.pins pinThrot then s
    else if ns < 1000 ∨ !s.pinFree pinThrot 100000 then s.pinFiltered pinThrot
    else (s.tracePower ((s.pinSet pinThrot true).updPwr fun p => { p with throt := true, throtOffAt := none })).applyFloor 5

/-- THROT_N accepted as deasserted: the floor goes 1 ms later (R527). -/
def State.opUnthrot (s : State) (ns : Nat) : State :=
  s.whenUp fun s =>
    if !testBit s.pwr.pins pinThrot then s
    else if ns < 1000 ∨ !s.pinFree pinThrot 100000 then s.pinFiltered pinThrot
    else (s.pinSet pinThrot false).updPwr fun p => { p with throtOffAt := some (s.tm.clk + 1000000) }

/-- The floor of THROT_N released once its millisecond is over (R527). -/
def State.throtDue (s : State) : State :=
  match s.pwr.throtOffAt with
  | some t => if t ≤ s.tm.clk then s.tracePower (s.updPwr fun p => { p with throt := false, throtOffAt := none }) else s
  | none => s

/-- Module time one nanosecond on, at the frequency in force and the corrected rate (R198, R199): their parts per million gather in `acc`,
and a whole nanosecond of them lengthens or shortens the advance. -/
def timeOn (t : TimeSt) : TimeSt :=
  let a := t.acc + t.freq + t.drift
  if 1000000 ≤ a then { t with now := t.now + 2, acc := a - 1000000 }
  else if a ≤ -1000000 then { t with acc := a + 1000000 }
  else { t with now := t.now + 1, acc := a }

/-- What time does with no command waiting (log 5): the clock advances by 1 ns, module time with it while the module runs, frames that wait
at the ports leave (R297), and the floor of THROT_N falls when its millisecond is over. -/
def State.tick (s : State) : State :=
  let t := if s.up then timeOn s.tm else s.tm
  State.throtDue (State.drain { s with tm := { t with clk := s.tm.clk + 1 } })

/-- A pin held active, or PPS_IN silent, beyond its limit: logged once (R525). RESET_REQ_N is logged at the start that
follows its release, when `held` remembers that it was held for more than 10 s. -/
def State.opPinHeld (s : State) (pin : Nat) : State :=
  s.whenBased fun s =>
    let at' := match s.pwr.pinAt.find? fun e => e.1 = pin with | some e => e.2 | none => 0
    if pin = pinThrot ∧ testBit s.pwr.pins pinThrot ∧ 60000000000 ≤ s.since at' ∧ !testBit s.pwr.held pin then
      let s := s.updPwr fun p => { p with held := setBit p.held pin }
      s.logLead 0xC6 s.pinStatus
    else if pin = pinPps ∧ s.tm.ppsEn ∧ 2000000000 ≤ s.since s.tm.ppsLast ∧ !testBit s.pwr.held pin then
      let s := s.updPwr fun p => { p with held := setBit p.held pin }
      let s := { s with tm := { s.tm with ppsOk := false } }
      s.logLead 0xC6 s.pinStatus
    else if pin = pinReset ∧ testBit s.pwr.held pin then
      let s := s.logLead 0xC6 s.pinStatus
      s.updPwr fun p => { p with held := clearBit p.held pin }
    else s

/-- A rate correction that the spec leaves to the servo: a free value within 100 ppm (R199). -/
def State.freeDrift (s : State) : Int × State :=
  let (w, s) := s.fresh
  (((w.toNat % 201 : Nat) : Int) - 100, s)

/-- A rising edge on PPS_IN (R201): accepted within 100 µs of a whole second, used for phase only in HOLDOVER, counted and
not used before PTP has locked since reset. -/
def State.opPps (s : State) (ns : Nat) : State :=
  s.whenUp fun s =>
    if !s.tm.ppsEn then s
    else if ns < 100 then s.pinFiltered pinPps
    else
      let o := s.tm.now.toNat % 1000000000
      let near := decide (o ≤ 100000) || decide (999900000 ≤ o)
      let s := { s with tm := { s.tm with ppsLast := s.tm.clk } }
      let s := s.updPwr fun p => { p with held := clearBit p.held pinPps }
      if !near ∨ !s.tm.everLocked then
        { s with tm := { s.tm with ppsOk := near && s.tm.everLocked, ppsReject := inc s.tm.ppsReject } }
      else if s.tm.st = .holdover then
        let (d, s) := s.freeDrift
        { s with tm := { s.tm with ppsOk := true, drift := d, source := 3 } }
      else { s with tm := { s.tm with ppsOk := true } }

/-- What the input sensors read, kept. -/
def State.sensed (s : State) (m : PowerIn) : State :=
  s.updPwr fun p => { p with volts := sat 16 m.volts, amps := sat 16 m.amps, watts := sat 16 m.watts }

/-- Partitions with a running schedule. -/
def State.runningParts (s : State) : List Nat :=
  (s.parts.filter fun e => e.2.schSt = 2 ∨ e.2.schSt = 3).map (·.1)

/-- The trace of an activation state (R475): ACT_STATE, ACT_CAUSE and the BUILD of the image that it concerns. -/
def State.traceAct (s : State) (build : W64) : State := s.traceLead 0xFF 11 0 [actCode s.fw.act, s.fw.cause, build.toNat]

/-- The BUILD of the image that waits for its handover, or of the one that runs. -/
def State.buildNow (s : State) : W64 := (((s.fw.newOp <|> s.fw.op).map (·.build)).getD 0)

/-- An emergency meets an activation that waits: deferred, logged once (R465). -/
def State.actDefer (s : State) : State :=
  if s.fw.act = .awaiting then
    let s := (s.updFw fun f => { f with act := .deferred }).traceAct s.buildNow
    if s.fw.deferLogged then s else (s.updFw fun f => { f with deferLogged := true }).logLead 0x04 s.fwStatus
  else s

/-- The end of an emergency or of a retraction: the boundaries are awaited anew (R465). -/
def State.actResume (s : State) : State :=
  if (s.fw.act = .deferred ∨ s.fw.act = .awaiting) ∧ !s.pwr.power ∧ !s.pwr.thermal then
    let t := s.updFw fun f => { f with act := .awaiting, actBounds := s.runningParts }
    if s.fw.act = .deferred then t.traceAct s.buildNow else t
  else s

/-- A schedule starts to run while an activation waits: its partition is to complete a step boundary as well (R465). -/
def State.actAwaits (s : State) (p : Nat) : State :=
  if s.fw.act = .awaiting ∨ s.fw.act = .deferred then s.updFw fun f => { f with actBounds := f.actBounds ++ [p] } else s

/-- A power emergency begins (R511, R523). -/
def State.opPowerEmergency (s : State) (m : PowerIn) (us : Nat) : State :=
  s.whenBased fun s =>
    if s.pwr.power then s
    else if (m.volts < 4600 ∧ 100 < us) ∨ (8500 < m.amps ∧ 1000 ≤ us) ∨ 1250 ≤ m.regTemp then
      let s := s.tracePower ((s.sensed m).updPwr fun p => { p with power := true, emergencies := inc p.emergencies })
      ((s.logLead 0xC0 s.pwrInput).applyFloor 4).actDefer
    else s

/-- The power emergency clears (R523). -/
def State.opPowerClear (s : State) (m : PowerIn) (ms : Nat) : State :=
  s.whenBased fun s =>
    if s.pwr.power ∧ 4700 ≤ m.volts ∧ m.volts ≤ 6000 ∧ m.amps ≤ 8000 ∧ m.regTemp ≤ 1150 ∧ 100 ≤ ms then
      let s := s.tracePower ((s.sensed m).updPwr fun p => { p with power := false })
      (s.logLead 0xC1 s.pwrInput).actResume
    else s

/-- A dip to 36 to 44 V for at most 5 ms that returned above 46 V, ridden through at the throttle floor (R511). Before MOD_PG the start aborts and begins again
(R535). -/
def State.opSag (s : State) (low : Nat) (m : PowerIn) (us : Nat) : State :=
  if low < 3600 ∨ 4400 ≤ low ∨ 5000 < us ∨ m.volts ≤ 4600 then s
  else if s.pwr.phase = .starting then s.updPwr fun p => { p with phaseAt := s.tm.clk }
  else s.whenBased fun s =>
    let s := (s.sensed m).applyFloor 4
    s.logLead 0xC4 (fields [at_ 63 48 low, at_ 47 32 m.amps, at_ 31 16 m.watts])

/-- An input too low (R511): a removal of power. -/
def State.opBrownOut (s : State) (volts us : Nat) : State :=
  if s.pwr.phase = .off ∨ s.pwr.phase = .tripped then s
  else if volts < 3600 ∨ (volts < 4400 ∧ 5000 < us) then s.powerRemoved .off else s

/-- An input too high (R511): a removal of power. -/
def State.opOverVoltage (s : State) (volts us : Nat) : State :=
  if s.pwr.phase = .off ∨ s.pwr.phase = .tripped then s
  else if 6200 < volts ∨ (6000 < volts ∧ 10000 < us) then s.powerRemoved .off else s

/-- A column limit in watts, held under what the phases that remain carry (R514). -/
def limitUnder (q : ColPwr) (lim : Nat) : W64 := at_ 8 0 (match q.phaseCap with | some x => min lim x | none => lim)

/-- A failed phase or bus converter (R514): `volts` is the core voltage in mV. From the second failure on a rail the
column's limit is the rating of the phases that remain. -/
def State.opPhaseFail (s : State) (conv : Bool) (unit volts : Nat) : State :=
  s.whenBased fun s =>
    if conv then
      let s := s.updPwr fun p => { p with converters := p.converters - 1, phaseAlert := true }
      s.logLead 0xC5 (0xFF : W64)
    else if 16 ≤ unit then s
    else
      let t := (s.updPwr fun p => { p with phaseAlert := true }).updColPwr unit fun q =>
        let left := q.phases - 1
        let w := left * 45 * volts / 1000
        let lim := min (fld q.limit 8 0) w
        { q with phases := left, phaseFails := inc q.phaseFails,
                 phaseCap := if left ≤ 10 then some (match q.phaseCap with | some x => min x w | none => w) else q.phaseCap,
                 limit := if left ≤ 10 then at_ 8 0 lim else q.limit }
      let s := s.tracePower t
      s.logEv unit 0xC5 (colPwrState (s.colPwr unit))

/-- The running schedules with clusters in a column, as (priority, contract MHz) (R518, R520). -/
def State.running (s : State) (c : Nat) : List (Nat × Nat) :=
  (s.parts.filter fun e => (e.2.schSt = 2 ∨ e.2.schSt = 3) ∧ e.2.clusters / 2 ^ (16 * c) % 2 ^ 16 ≠ 0).filterMap fun e =>
    e.2.sched.map fun h => (e.2.pri, h.mhz)

/-- The column that the module cap lowers first (R518): lowest priority, then highest power, then lowest number. A column
with no running partition ranks below priority 0. -/
def State.capVictim (s : State) : Option Nat :=
  let rank : Nat → Nat := fun c => match s.running c with
    | [] => 0
    | l => 1 + (l.map (·.1)).foldl min 3
  let cand := columns.filter fun c => s.inService c && decide ((s.colPwr c).bin < 24)
  cand.foldl (fun best c => match best with
    | none => some c
    | some b =>
      if rank c < rank b ∨ (rank c = rank b ∧ (s.colPwr b).power < (s.colPwr c).power) then some c else some b) none

/-- The bin that the limit of a column requires (R517): power above the limit of PWR_COL_LIMIT requires a lower clock than the present one,
power within it none; how far the clock must fall is measured (`limitBin`). -/
def limitNeed (q : ColPwr) (m : ColMeasure) : Nat :=
  if fld q.limit 8 0 < m.power then max m.limitBin (q.bin + 1) else min m.limitBin q.bin

/-- What the limit and the floor require of a column (R516, R517). -/
def State.binNeed (s : State) (c : Nat) (m : ColMeasure) : Nat := max (limitNeed (s.colPwr c) m) (if s.floorOn then 8 else 0)

/-- Whether every limit holds with 5% to spare at the bin above (R517): as measured (`spare`), and at the present bin in any case, since no
power falls as the clock rises. -/
def State.roomAbove (s : State) (c : Nat) (m : ColMeasure) : Bool :=
  m.spare && decide (21 * m.power ≤ 20 * fld (s.colPwr c).limit 8 0) && decide (21 * s.pwr.watts ≤ 20 * s.capNow)

/-- One column at one tick (R517): the bin lowered at once as required, raised by at most one bin per millisecond. -/
def State.tickCol (s : State) (c : Nat) (m : ColMeasure) : State :=
  let need := s.binNeed c m
  let q := s.colPwr c
  let t := s.updColPwr c fun q => { q with power := sat 12 m.power }
  if q.bin < need then
    t.updColPwr c (lowerBin need (if q.bin < limitNeed q m then 1 else if s.pwr.throt then 5 else if s.pwr.power then 4 else 3))
  else if need < q.bin ∧ s.roomAbove c m ∧ q.tj ≤ 930 ∧ 1000000 ≤ s.since q.raisedAt then
    t.updColPwr c fun q => { q with bin := q.bin - 1, raisedAt := s.tm.clk }
  else t

/-- The contract test of one column (R520): 100 µs counted, CAP_LIMIT logged once per episode. -/
def State.contractCol (s : State) (c : Nat) : State :=
  let want := ((s.running c).map (·.2)).foldl max 0
  if s.colMhz c < want then
    let s := s.updPwr fun p => { p with throttleUs := incBy p.throttleUs 100 }
    if (s.colPwr c).belowContract then s
    else
      let s := s.updColPwr c fun q => { q with belowContract := true }
      s.logEv c 0xC8 (colPwrState (s.colPwr c))
  else s.updColPwr c fun q => { q with belowContract := false }

/-- One tick of the power manager (R516 to R520), the cap held against the input power last measured (R513). The model lowers at most one
column for the module cap at each tick (log 10). -/
def State.opTick (s : State) (cols : List ColMeasure) : State :=
  s.whenBased fun s =>
    let s := s.throtDue
    let t := (cols.zip columns).foldl (fun s e => s.tickCol e.2 e.1) s
    let t := if t.capNow < t.pwr.watts then
        (match t.capVictim with
        | some c => t.updColPwr c fun q => { q with bin := q.bin + 1, cause := 2 }
        | none => t)
      else t.updPwr fun p => { p with stretch := 0 }
    columns.foldl (fun s c => s.contractCol c) (s.reclock t)

/-- The fast limiter (R519). -/
def State.opFast (s : State) (m : PowerIn) : State :=
  s.whenBased fun s =>
    let s := s.sensed m
    if 11 * s.capNow < 10 * m.watts ∨ 8500 < m.amps then
      let all := columns.all fun c => decide ((s.colPwr c).bin = 24)
      let t := s.reclock (s.updPwr fun p => { p with stretch := if all then 4 else 2 })
      columns.foldl (fun s c => s.updColPwr c fun q => { q with cause := 6 }) t
    else s

/-- The column with the hottest junction, the lowest of equals. -/
def State.hottest (s : State) : Nat :=
  columns.foldl (fun b c => if (s.colPwr b).tj < (s.colPwr c).tj then c else b) 0

/-- Junction temperatures (R521): in units of 0.1 °C. -/
def State.opThermal (s : State) (tj : List Nat) : State :=
  s.whenBased fun s =>
    let s := s.reclock ((tj.zip columns).foldl (fun s e =>
      s.updColPwr e.2 fun q =>
        let hot := decide (950 ≤ e.1) || (q.cooling && decide (930 < e.1))
        let q := { q with tj := sat 11 e.1, cooling := hot }
        if hot then { q with bin := min 24 (q.bin + 1), cause := 3 } else q) s)
    let hot := tj.foldl max 0
    let s := if 950 < hot then s.updPwr fun p => { p with thermalAt := s.tm.clk } else s
    let s := s.updPwr fun p => { p with hotAt := if 1050 ≤ hot then some (p.hotAt.getD s.tm.clk) else none }
    if 1000 ≤ hot ∧ !s.pwr.thermal then
      let s := s.tracePower (s.updPwr fun p => { p with thermal := true, emergencies := inc p.emergencies })
      ((s.logLead 0xC2 (colPwrState (s.colPwr s.hottest))).applyFloor 3).actDefer
    else s

/-- The thermal emergency clears (R521). -/
def State.opThermalClear (s : State) : State :=
  s.whenBased fun s =>
    if s.pwr.thermal ∧ 1000000000 ≤ s.since s.pwr.thermalAt ∧ columns.all (fun c => decide ((s.colPwr c).tj ≤ 950)) then
      let s := s.tracePower (s.updPwr fun p => { p with thermal := false })
      (s.logLead 0xC3 (colPwrState (s.colPwr s.hottest))).actResume
    else s

/-- A trip (R521): a removal of power that holds until MOD_EN has been deasserted and asserted again. -/
def State.opTrip (s : State) (ms regTemp : Nat) : State :=
  s.whenUp fun s =>
    if (s.pwr.hotAt.isSome ∧ 10 ≤ ms) ∨ 1350 ≤ regTemp then s.powerRemoved .tripped else s

/-- Coolant measured (R522): the flow in mL/min is P / (3,980 * 1.02 * ΔT); without a rise in temperature the formula gives
no value, and the flow is a free value. -/
def State.opCoolant (s : State) (inlet outlet watts : Nat) : State :=
  s.whenBased fun s =>
    let (flow, s) :=
      if inlet < outlet then (sat 16 (6000000 * watts / (40596 * (outlet - inlet))), s)
      else let (w, s) := s.fresh; (w.toNat % 65536, s)
    let bad := decide (400 < inlet) || decide (flow < 3000)
    s.updPwr fun p => { p with inlet := sat 16 inlet, outlet := sat 16 outlet, flow := flow,
                               coolantBadAt := if bad then some (p.coolantBadAt.getD s.tm.clk) else none,
                               coolant := p.coolant && bad }

/-- COOLANT set and COOLANT_WARN logged once the condition has held for 10 s (R522). -/
def State.opCoolantWarn (s : State) : State :=
  s.whenBased fun s =>
    match s.pwr.coolantBadAt with
    | some t =>
      if 10000000000 ≤ s.since t ∧ !s.pwr.coolant then
        (s.updPwr fun p => { p with coolant := true }).logLead 0xCA s.coolantWord
      else s
    | none => s

/-- The monitor kind of a life record index (life record index table). -/
def lifeKind (i : Nat) : Nat :=
  if i < 256 then 1 else if i < 272 then 2 else if i < 400 then 3 else if i < 416 then 4 else if i < 608 then 5
  else if i < 616 then 6 else 0

/-- The hourly update of the life records and the summary (R531 to R533). -/
def State.opLife (s : State) (recs : List LifeRec) : State :=
  s.whenBased fun s =>
    let age := sat 32 (s.since s.pwr.phaseAt / 1000000000)
    let life := recs.foldl (fun t r =>
      if lifeKind r.index = 0 then t
      else Table.insert r.index { r with kind := lifeKind r.index, ageS := age, prior := decide (age < 86400),
                                         days := sat 16 r.days, low := sat 16 r.low, high := sat 16 r.high }
        (Table.erase t r.index)) s.pwr.life
    let s := s.updPwr fun p => { p with life := life }
    match lowestLife life with
    | some r =>
      if r.days < 30 then
        let due := match s.pwr.ageLogAt with | some t => decide (86400000000000 ≤ s.since t) | none => true
        let s := s.updPwr fun p => { p with ageing := true }
        if due then (s.updPwr fun p => { p with ageLogAt := some s.tm.clk }).logLead 0xCB s.lifeSummary else s
      else s
    | none => s

/-- REQUEST to PWR_REMOVE (R529): every running partition parks. -/
def State.opRemoveRequest (s : State) : State :=
  if s.pwr.remove ≠ 0 then s
  else
    let s := s.updPwr fun p => { p with remove := 1 }
    { s with parts := s.parts.map fun e => (e.1, if e.2.st = .running ∧ !e.2.parking then { e.2 with parking := true, parkStep := e.2.step } else e.2) }

/-- CANCEL to PWR_REMOVE (R529): parked partitions stay parked, and no further one parks but those that PARK asked to. -/
def State.opRemoveCancel (s : State) : State :=
  if s.pwr.remove = 0 then s
  else
    let s := s.updPwr fun p => { p with remove := 0 }
    { s with parts := s.parts.map fun e => (e.1, if e.2.st = .running ∧ !e.2.parkHost then { e.2 with parking := false, parkStop := false } else e.2) }

/-- READY (R529): no partition runs, the dump copy is not in progress and the log copy has caught up. -/
def State.opRemoveReady (s : State) : State :=
  s.whenBased fun s =>
    if s.pwr.remove = 1 ∧ s.parts.all (fun e => decide (e.2.st ≠ .running)) ∧ s.dev.dump.state ≠ 3 ∧ s.fw.plogWait.isEmpty then
      (s.updPwr fun p => { p with remove := 2 }).logLead 0xC9 (at_ 63 62 2)
    else s

/-! The meanings of the commands of this chapter. -/

def execModEnAssert (us : Nat) (s : State) : Out := .next (s.opModEn us)
def execModEnDeassert (us : Nat) (s : State) : Out := .next (s.opModDis us)
def execRegulatorsOff (s : State) : Out := .next s.opRegOff
def execThrotNAssert (ns : Nat) (s : State) : Out := .next (s.opThrot ns)
def execThrotNDeassert (ns : Nat) (s : State) : Out := .next (s.opUnthrot ns)
def execPinHeld (pin : Nat) (s : State) : Out := .next (s.opPinHeld pin)
def execPpsInEdge (ns : Nat) (s : State) : Out := .next (s.opPps ns)
def execPowerEmergency (m : PowerIn) (us : Nat) (s : State) : Out := .next (s.opPowerEmergency m us)
def execPowerClear (m : PowerIn) (ms : Nat) (s : State) : Out := .next (s.opPowerClear m ms)
def execInputSag (low : Nat) (m : PowerIn) (us : Nat) (s : State) : Out := .next (s.opSag low m us)
def execBrownOut (volts us : Nat) (s : State) : Out := .next (s.opBrownOut volts us)
def execOverVoltageOff (volts us : Nat) (s : State) : Out := .next (s.opOverVoltage volts us)
def execPhaseFail (conv : Bool) (unit volts : Nat) (s : State) : Out := .next (s.opPhaseFail conv unit volts)
def execPwrManagerTick (cols : List ColMeasure) (s : State) : Out := .next (s.opTick cols)
def execFastLimiter (m : PowerIn) (s : State) : Out := .next (s.opFast m)
def execThermalSample (tj : List Nat) (s : State) : Out := .next (s.opThermal tj)
def execThermalClear (s : State) : Out := .next s.opThermalClear
def execThermalTrip (ms regTemp : Nat) (s : State) : Out := .next (s.opTrip ms regTemp)
def execCoolantSample (inlet outlet watts : Nat) (s : State) : Out := .next (s.opCoolant inlet outlet watts)
def execCoolantWarn (s : State) : Out := .next s.opCoolantWarn
def execLifeUpdate (recs : List LifeRec) (s : State) : Out := .next (s.opLife recs)
def execRemoveReady (s : State) : Out := .next s.opRemoveReady

end Sys2Proof.Machine
end

