-- ==== Sys2Proof/Machine/Wipes.lean ====
section
/-! DEFINITION. Opening, wiping, sweeping and scrubbing regions (R257 to R265), and host DMA channels (R275). -/
namespace Sys2Proof.Machine

/-- A region starts to initialise (R257): what it held is gone. -/
def State.startInit (s : State) (r : Nat) : State :=
  (s.clearAlloc (s.region r)).updRegion r fun q => { q with st := 1 }

/-- The generation increment of a wipe, and the pass that follows it (R259, R260); a pass under way starts again. -/
def wipeGen (q : Region) : Region :=
  { q with gen := (q.gen + 1) % 16, debt := q.debt + 1, sweeping := true }

/-- The trace of a wipe (0), or of the start (1) or the end (2) of a sweep, of a region (R475). -/
def State.traceRegion (s : State) (r point : Nat) : State :=
  s.traceLead (rgnPart (s.region r)) 6 point [r, (s.region r).gen, (s.region r).debt]

/-- The generation increment of region r, with the pass that it starts. -/
def State.nextGen (s : State) (r : Nat) : State := (s.updRegion r wipeGen).traceRegion r 1

/-- A region wiped (R259, R261), and the STATE that MEM_WIPE_STATUS shows: 2 waiting for a pass, 3 initialising, 4 done. -/
def State.wipeRegion (s : State) (r : Nat) : Nat × State :=
  let s := s.traceRegion r 0
  let q := s.region r
  if !rgnHbm q then (4, s.clearAlloc q)
  else if rgnRaw q then (3, s.startInit r)
  else if 14 ≤ q.debt then (2, s.updRegion r fun q => { q with sweeping := true, waiting := q.waiting + 1 })
  else (4, s.nextGen r)

/-- MEM_WIPE (R258): the status of the access, and the state. A rejected request sets CAUSE and changes nothing else. -/
def State.opWipe (s : State) (p r : Nat) : Nat × State :=
  let q := s.region r
  let reject := fun cause => (4, s.updPart p fun x =>
    { x with wipeSt := 5, wipeCause := cause, wipeRegion := r % 4096, wipeGen := q.gen })
  if !rgnValid q ∨ rgnPart q ≠ p ∨ q.st ≠ 2 then reject 1
  else if (s.part p).schSt = 2 ∨ (s.part p).schSt = 3 then reject 2
  else
    let (st, s) := s.wipeRegion r
    (0, s.updPart p fun x => { x with wipeSt := st, wipeCause := 0, wipeRegion := r, wipeGen := (s.region r).gen })

/-- The allocation address of an HBM line of a region (the inverse of R247). -/
def rgnAddrOf (r : Region) (d : Nat) : Nat :=
  let w := 2 ^ rgnWays r
  let o := d % 2 ^ 36 - rgnDbase r % 2 ^ 16 * 2 ^ 20
  (o / 4096 * w + (dpaCol d - rgnDbase r / 2 ^ 16)) * 4096 + o % 4096

/-- A line that the scrub or the sweep cannot read (R264, R272): a strong line is rebuilt, any other, and one that its stripe cannot
rebuild, is written as poisoned. -/
def State.patrolLost (s : State) (access i : Nat) (r : Region) (a : Nat) (errs : List MemErr) : State :=
  let poison := fun (s : State) => s.setLine (s.phys (rgnDpa r a) / 64) (some ⟨r.gen, true⟩)
  if rgnStrong r then
    match s.rebuild access (rgnPart r) i r a errs with
    | (some _, s) => s
    | (none, s) => poison s
  else poison (s.memUe access (rgnPart r) i (rgnDpa r a) 3)

/-- One line met by the scrub or the sweep (R253, R264, R272), tag and parity lines included: a correctable error is corrected and
counted; invalid, unwritten and poisoned lines are skipped, and so is every light line of a failed pseudo-channel. -/
def State.patrolLine (s : State) (access i : Nat) (r : Region) (errs : List MemErr) (l : Nat) : State :=
  let d := 64 * l
  if !rgnHas r d ∨ s.lineNow r d ≠ .data then s
  else
    let a := rgnAddrOf r d
    if s.pcBad r a then (if rgnStrong r then s.patrolLost access i r a errs else s)
    else if errAt errs r a .lost then s.patrolLost access i r a errs
    else s.meetCe access (rgnPart r) i r errs a

/-- A pass of the scrub or the sweep over a region (R253, R264): the lines with errors, and those that a failed pseudo-channel of a
strong region makes it rebuild. -/
def State.patrol (s : State) (access i : Nat) (r : Region) (errs : List MemErr) : State :=
  let marked := (s.mem.lines.filter fun e => rgnStrong r && rgnHas r (64 * e.1) && s.pcBad r (rgnAddrOf r (64 * e.1))).map (·.1)
  (dedup (errs.map (·.line) ++ marked)).foldl (fun s l => s.patrolLine access i r errs l) s

/-- The stale lines of an allocation rewritten as invalid ones (R260). -/
def State.sweepLines (s : State) (q : Region) : State :=
  let hit := fun (e : Nat × Option LineMeta) => rgnHas q (64 * e.1) && !(e.2.any fun m => m.gen = q.gen)
  ((s.mem.lines.filter hit).map (·.1)).foldl (fun s l => (s.poke (64 * l) (zeros 64)).setLine l none) s

/-- A sweep pass completes (R259, R260, R272): errors that it met, stale lines rewritten, DEBT 0, and every wipe that waited proceeds. -/
def State.opSweepDone (s : State) (r : Nat) (errs : List MemErr) : State :=
  s.whenUp fun s =>
    let q := s.region r
    if !q.sweeping ∨ q.st ≠ 2 then s
    else
      let s := (s.patrol accSweep r q errs).sweepLines q
      let s := (s.updRegion r fun q => { q with debt := 0, sweeping := false, waiting := 0 }).traceRegion r 2
      if q.waiting = 0 then s
      else
        let s := (List.range q.waiting).foldl (fun s _ => s.nextGen r) s
        let p := rgnPart q
        if (s.part p).wipeSt = 2 ∧ (s.part p).wipeRegion = r then
          s.updPart p fun x => { x with wipeSt := 4, wipeGen := (s.region r).gen }
        else s

/-- Every line of the region's allocation is written: the region opens, and a building partition whose regions are all open
becomes ready (R257, R431). -/
def State.opInitDone (s : State) (r : Nat) : State :=
  s.whenUp fun s =>
    let q := s.region r
    if q.st ≠ 1 then s
    else
      let s := s.updRegion r fun q => { q with st := 2, debt := 0, sweeping := false }
      let p := rgnPart q
      let s := if (s.part p).wipeSt = 3 ∧ (s.part p).wipeRegion = r then
          s.updPart p fun x => { x with wipeSt := 4, wipeGen := q.gen }
        else s
      if (s.part p).st = .building ∧
          s.mem.regions.all (fun e => !rgnValid e.2 || decide (rgnPart e.2 ≠ p) || decide (e.2.st = 2)) then
        s.updPart p fun x => { x with st := .ready }
      else s

/-- Bytes of one stack that the scrub of a region reads in 2,048 minutes (scrub table). -/
def scrubLoad (r : Region) (c : Nat) : Nat :=
  if rgnHbm r && rgnInCol r c && decide (r.st = 2) && decide (rgnScrub r ≠ 0) then
    rgnBytes r / 2 ^ rgnWays r * 2 ^ (12 - rgnScrub r)
  else 0

/-- Whether the periods requested for the regions of stack c need more than 1/32 of its 2,048 × 9.6 Gb/s, which stretches every pass
(R265). -/
def State.stretched (s : State) (c : Nat) : Bool :=
  decide (76800000000 * 60 * 2048 < ((s.mem.regions.map fun e => scrubLoad e.2 c).foldl (· + ·) 0))

/-- A scrub pass (R264, R265): the lines it corrects, and the pass counted in each stack that stretched it. -/
def State.opScrub (s : State) (i : Nat) (errs : List MemErr) : State :=
  s.whenUp fun s =>
    let r := s.region i
    if !rgnValid r ∨ r.st ≠ 2 ∨ !rgnHbm r ∨ rgnScrub r = 0 then s
    else
      columns.foldl (fun s c =>
        if rgnInCol r c then
          let lag := s.stretched c
          s.updCol c fun q => { q with ceLines := q.ceLines.filter fun x => x.1 ≠ i,
                                       scrubLag := if lag then inc q.scrubLag else q.scrubLag }
        else s) (s.patrol accScrub i r errs)

def execSweepPassDone (w : Sweep) (s : State) : Out := .next (s.opSweepDone w.region w.errs)

/-- `errs` on the region's data lines, `codes` on its tag and parity lines, which the scrub reads as well (R264). -/
def execScrubPass (r : Nat) (errs codes : List MemErr) (s : State) : Out := .next (s.opScrub r (errs ++ codes))

end Sys2Proof.Machine
end

