-- ==== Sys2Proof/Machine/Teardown.lean ====
section
/-! DEFINITION. Resets of cores, clusters and columns (R481, R484), the crash dump's trigger (R493), and the teardown of a
partition (R435 to R438). -/
namespace Sys2Proof.Machine

/-- A Caddy slot at the reset values with a configuration (R174, R431). -/
def freshSlot (cfg : W64) : Slot := { Slot.reset with cfg := cfg }

/-- The core reset domain of one position's unit (R481): sequencer, cube, operand registers, both accumulator sets, vector
unit and output pipeline; every register of the position, its countdowns and its failure count are kept. -/
def coreReset (q : Pos) : Pos :=
  { q with set0 := [], set1 := [], operands := [], waiting := [], replay := none, timer := .reset, blocks := [], owed := [],
           tops := [], saves := [] }

/-- The physical slot of a cluster reset, when it fills a position (R485). -/
def State.resetSlot (s : State) (cl slot : Nat) : State :=
  match (List.range 16).find? fun p => s.physSlot (16 * cl + p) = slot with
  | some p => (s.bookFill (16 * cl + p)).updPos (16 * cl + p) coreReset
  | none => s

/-- The cluster reset domain (R481): the core state of all 17 slots and the lane's check state. -/
def State.resetCluster (s : State) (cl : Nat) : State :=
  let s := (List.range 17).foldl (fun s k => s.resetSlot cl k) s
  s.updCluster cl fun q => { q with queue := [] }

/-- A trigger of a crash dump (R493): taken by the lead, or counted as skipped while a dump is held and not acknowledged, or
while one is being taken. -/
def State.dumpTrigger (s : State) (event unit : Nat) (reset : List Nat) : State :=
  let d := s.dev.dump
  if d.state = 1 then
    s.updDev fun v => { v with dumpSkipped := inc v.dumpSkipped, dump := { v.dump with resetAfter := v.dump.resetAfter ++ reset } }
  else if (d.state = 2 ∨ d.state = 3) ∧ !d.acked then
    s.updDev fun v => { v with dumpSkipped := inc v.dumpSkipped, resetDue := v.resetDue ++ reset }
  else
    let (_, s) := s.fresh
    s.updDev fun v => { v with dump :=
      { state := 1, acked := false, truncated := false, trigger := event, triggerUnit := unit, seq := d.seq + 1,
        time := s.tm.now, fwStatus := s.fwStatus, colStatus := s.columnStatus,
        baseBuild := (s.fw.base.map (·.build)).getD 0, opBuild := (s.fw.op.map (·.build)).getD 0, recs := [],
        resetAfter := reset, free := s.free } }

/-- Whether partition p has clusters, regions or Caddy slots in column c (R484). -/
def State.partInCol (s : State) (p c : Nat) : Bool :=
  let q := s.part p
  decide (q.st ≠ .absent) &&
    (decide (q.clusters / 2 ^ (16 * c) % 2 ^ 16 ≠ 0)
      || s.mem.regions.any (fun e => rgnInCol e.2 c && decide (rgnPart e.2 = p))
      || (decide (0 < q.slotCount) && decide (q.slotFirst / 4096 ≤ c) && decide (c ≤ (q.slotFirst + q.slotCount - 1) / 4096)))

/-- COLUMN_FAULT of a column (R484 step 2): every partition concerned stops and is told (R496). -/
def State.columnFault (s : State) (c : Nat) : State :=
  let s := s.logEv c 0x91 s.columnStatus
  (List.range 16).foldl (fun s p =>
    if s.partInCol p c && decide ((s.part p).st ≠ .tearing) then (s.updPart p stopStreams).partFault p 0x91 true else s) s

/-- The duties of a column's steward go to its standby when the standby's column is in service; otherwise the column is out
of service (R20, R472). -/
def State.takeover (s : State) (c : Nat) : State :=
  let b := (c + 8) % 16
  if s.inService b then
    (s.updDev fun d => { d with standbyActive := setBit d.standbyActive c }).updSteward b fun w => { w with carrying := true }
  else s.updDev fun d => { d with inService := clearBit d.inService c }

/-- A slot after the reset of its column: CFG_DEFAULT of the partition that holds it (R481). -/
def State.slotAfterReset (s : State) (n : Nat) : Slot :=
  match s.parts.find? (fun e => e.2.st ≠ .absent && decide (e.2.slotFirst ≤ n) && decide (n < e.2.slotFirst + e.2.slotCount)) with
  | some e => freshSlot e.2.cfgDefault
  | none => .reset

/-- Every position of a column at its reset values. -/
def State.resetPositions (s : State) (c : Nat) : State :=
  (List.range 256).foldl (fun s i => s.updPos (256 * c + i) fun _ => .reset) s

/-- Every cluster of a column at its reset values but its ramp register. -/
def State.resetClusters (s : State) (c : Nat) : State :=
  (List.range 16).foldl (fun s k => s.updCluster (16 * c + k) fun q => { Cluster.reset with ramp := q.ramp }) s

/-- The collective engine of a column reset (R481): the entries that it runs are gone. -/
def State.dropRuns (s : State) (c : Nat) : State :=
  (List.range 16).foldl (fun s p => s.updPart p fun q => { q with colls := q.colls.filter fun x => x.done || decide (x.stream % 16 ≠ c) }) s

/-- The slots, counters, port and steward of a column at their reset values; the slots at CFG_DEFAULT (R481). -/
def State.resetBase (s : State) (c : Nat) : State :=
  let resets := (s.col c).devResets
  let s := { s with slots := Table.mapAll Slot.reset (fun n q => if n / 4096 = c then s.slotAfterReset n else q) s.slots }
  let s := s.updCol c fun _ => { ColRegs.reset with devResets := inc resets }
  let s := (s.portGone c).dropRuns c
  let s := s.updSteward c fun w => { w with held := false, kickAt := s.tm.clk }
  s.updDev fun d =>
    { d with heldUnits := d.heldUnits.filter fun u => u / 4096 ≠ c, beats := Table.drop (fun u => u / 4096 = c) d.beats }

/-- Both dies of a column reset (R481, R484 step 5): positions, lanes, counters, the column's slots, port links, core and
column stores. HBM, the tables, the margin record and the log rings are kept. -/
def State.resetDies (s : State) (c : Nat) : State := (((s.resetPositions c).resetClusters c).resetBase c).zeroStores c

/-- A column reset (R484); `pass` is the result of its self-test. Duties that a standby carries stay with it. -/
def State.columnReset (s : State) (c : Nat) (pass : Bool) : State :=
  let served := (s.net.conns.filter fun e => e.2.st ≠ 0 && !e.2.viaMgmt && s.serving e.1 = c).map (·.1)
  let s := s.updDev fun d => { d with inService := clearBit d.inService c, resetDue := d.resetDue.filter (· ≠ c) }
  let s := (s.columnFault c).dumpTrigger 0x91 (c * 4096 + 294) []
  let s := ((served.foldl (fun s k => s.connFail k) s).takeover c).resetDies c
  if pass ∧ testBit s.dev.selftest c then
    s.updDev fun d => { d with inService := setBit d.inService c }
  else s

/-- The trace of a step of a teardown of partition p (R475). -/
def State.traceTear (s : State) (p step : Nat) : State := s.traceLead p 10 1 [p, step, 0]

/-- Steps 1 and 2 of a teardown (R436): the fence, and CLOSE on every open connection, which ends its operations, those that DMA_HALT
held among them. -/
def State.startTear (s : State) (p : Nat) (remove : Bool) : State :=
  if (s.part p).st = .tearing then s.updPart p fun q => { q with tear := q.tear.map fun t => { t with remove := t.remove || remove } }
  else
    let s := s.updPart p fun q => { fence q with st := .tearing, stuck := false, dma := [], holdAt := none, parking := false, parkHost := false, parkStop := false }
    let s := (s.traceTear p 1).traceTear p 2
    let open_ := (s.net.conns.filter fun e => connKind e.2 ≠ 0 && connKind e.2 ≠ 4 && connPart e.2 = p && e.2.st = 2).map (·.1)
    let s := open_.foldl (fun s c => s.closeConn c) s
    s.updPart p fun q => { q with tear := some ⟨remove, s.tm.clk, open_, 2⟩ }

/-- The connection entries that belong to a partition. -/
def State.partConns (s : State) (p : Nat) : List Nat :=
  (s.net.conns.filter fun e => connKind e.2 ≠ 0 && connKind e.2 ≠ 4 && connPart e.2 = p).map (·.1)

/-- Steps 3 and 4 of a teardown (R436), at most one generation increment in 16 ms (R313). -/
def State.tearOn (s : State) (p : Nat) : State :=
  let q := s.part p
  match q.tear with
  | some t =>
    let free : Bool := match q.tgenAt with | some a => decide (16000000 ≤ s.since a) | none => true
    if t.stage = 2 ∧ t.closing.isEmpty ∧ free then
      let s := (((s.traceTear p 3).traceTear p 4).traceTear p 5).updPart p fun q =>
        { q with tgen := (q.tgen + 1) % 256, tgenAt := some s.tm.clk }
      let s := (s.partConns p).foldl (fun s c => s.updConn c fun k =>
        { k with copies := [], txWait := [], rxHeld := [], rxOps := [], ops := [] }) s
      let s := (s.mem.regions.filter fun e => rgnValid e.2 && decide (rgnPart e.2 = p)).foldl
        (fun s e => (s.wipeRegion e.1).2) s
      s.updPart p fun q => { q with colls := [], collIn := [], collAsk := [], collRes := [], spill := [], tear := some { t with stage := 5, at_ := s.tm.clk } }
    else s
  | none => s

/-- A teardown begun; with no peer to wait for it goes on at once. -/
def State.teardown (s : State) (p : Nat) (remove : Bool) : State := (s.startTear p remove).tearOn p

/-- A peer of a teardown has answered CLOSE, or is abandoned. -/
def State.tearClosed (s : State) (c : Nat) : State :=
  (List.range 16).foldl (fun s p =>
    match (s.part p).tear with
    | some t =>
      if t.closing.contains c then
        (s.updPart p fun q => { q with tear := some { t with closing := t.closing.filter (· ≠ c) } }).tearOn p
      else s
    | none => s) s

/-- 10 ms after step 2, the peers that have not answered are abandoned (R436). -/
def State.opPeerTimeout (s : State) (p : Nat) : State :=
  s.whenUp fun s =>
    match (s.part p).tear with
    | some t =>
      if t.stage = 2 ∧ 10000000 ≤ s.since t.at_ then
        let s := t.closing.foldl (fun s c => s.closeLocal c) s
        (s.updPart p fun q => { q with tear := some { t with closing := [] } }).tearOn p
      else s
    | none => s

/-- Step 6 of a teardown (R436): stores zeroed, accumulators, Tokens and countdowns cleared, slots and sessions returned. -/
def State.tearClear (s : State) (p : Nat) : State :=
  let s := s.traceTear p 6
  let q := s.part p
  let s := (partPositions q).foldl (fun s n =>
    ((s.clearAlloc (coreRegion n)).bookFill n).updPos n fun x =>
      { coreReset x with g := 0, h := 0, keepG := 0, keepH := 0, startG := 0, startH := 0 }) s
  let s := (bitsOf 256 q.clusters).foldl (fun s k => s.updCluster k fun x => { x with queue := [] }) s
  let s := (s.mem.regions.filter fun e => rgnValid e.2 && decide (rgnPart e.2 = p) && !rgnHbm e.2).foldl
    (fun s e => s.clearAlloc e.2) s
  let s := { s with slots := (List.range q.slotCount).foldl (fun t i =>
    Table.set Slot.reset t (q.slotFirst + i) (freshSlot q.cfgDefault)) s.slots }
  let s := (s.sessionConns p).foldl (fun s e => s.closeLocal e.1) s
  s.updPart p fun q => { q with streams := [], layers := [], colls := [], collIn := [], collAsk := [], collRes := [], spill := [] }

/-- Step 7 of a teardown (R436): the partition is freed; its transport generation survives (R431), and its slots stay at CFG_DEFAULT
(R174). -/
def State.tearFree (s : State) (p : Nat) : State :=
  let s := s.traceTear p 7
  let q := s.part p
  let s := { s with mem := { s.mem with regions := Table.mapAll Region.reset (fun _ r =>
    if rgnValid r && decide (rgnPart r = p) then { Region.reset with gen := r.gen } else r) s.mem.regions } }
  let s := (List.range q.connCount).foldl (fun s i => (s.lapseClaims (q.connFirst + i)).updConn (q.connFirst + i) fun _ => .reset) s
  s.updPart p fun q => { Part.reset with tgen := q.tgen, tgenAt := q.tgenAt, seq := q.seq, stuck := q.stuck }

/-- XSI_PART_DRAIN is zero: the teardown goes through its last steps (R436). A vacated partition is ready. -/
def State.tearDone (s : State) (p : Nat) : State :=
  match (s.part p).tear with
  | some t =>
    if t.stage = 5 ∧ s.drainCount p = 0 then
      let s := s.tearClear p
      if t.remove then s.tearFree p
      else s.updPart p fun q => { q with st := .ready, tear := none, isParked := false, holdAt := none, sched := none,
                                         stn := { q.stn with st := 0 } }
    else s
  | none => s

/-- Whether a cluster's positions still hold counts (R438). -/
def State.clusterBusy (s : State) (cl : Nat) : Bool :=
  (List.range 16).any fun p => !(s.posn (16 * cl + p)).waiting.isEmpty || (s.posn (16 * cl + p)).replay.isSome

/-- A drain that has not reached zero 100 ms after step 4 (R438): XSI_DRAIN_STUCK, and a cluster reset of every cluster that
still holds counts. -/
def State.opDrainStuck (s : State) (p : Nat) : State :=
  s.whenUp fun s =>
    match (s.part p).tear with
    | some t =>
      if t.stage = 5 ∧ !(s.part p).stuck ∧ 100000000 ≤ s.since t.at_ ∧ s.drainCount p ≠ 0 then
        let s := s.updPart p fun q => { q with stuck := true, tear := some { t with at_ := s.tm.clk } }
        let s := s.logP s.leadNow 0x80 0xFFFF p [s.partStatus p]
        let s := s.dumpTrigger 0x80 0xFFFF []
        ((bitsOf 256 (s.part p).clusters).filter fun c => s.clusterBusy c).foldl (fun s c => s.resetCluster c) s
      else s
    | none => s

/-- Whether a unit that column c shares still holds counts of partition p (R437, R438): its collective engine, or the engine that serves
its connections. -/
def State.sharedHolds (s : State) (p c : Nat) : Bool :=
  ((s.part p).colls.any fun x => !x.done && decide (x.stream % 16 = c))
    || (s.partConns p).any fun n => decide (s.serving n = c) &&
      !((s.conn n).ops.isEmpty && (s.conn n).rxOps.isEmpty && (s.conn n).rxHeld.isEmpty)

/-- Counts still held 10 ms later in a unit that a column shares: that column is reset (R438). -/
def State.opDrainColumn (s : State) (p c : Nat) : State :=
  s.whenUp fun s =>
    match (s.part p).tear with
    | some t =>
      if t.stage = 5 ∧ (s.part p).stuck ∧ 10000000 ≤ s.since t.at_ ∧ s.sharedHolds p c ∧ s.inService c then
        s.updDev fun d => { d with resetDue := d.resetDue ++ [c] }
      else s
    | none => s

/-- A column reset takes place when one is due (R484). -/
def State.opColumnReset (s : State) (c : Nat) (pass : Bool) : State :=
  s.whenUp fun s => if s.dev.resetDue.contains c then s.columnReset c pass else s

def execTeardownPeerTimeout (p : Nat) (s : State) : Out := .next (s.opPeerTimeout p)
def execXsiDrainStuck (p : Nat) (s : State) : Out := .next (s.opDrainStuck p)
def execDrainStuckColumnReset (p c : Nat) (s : State) : Out := .next (s.opDrainColumn p c)

def execColumnReset (c : Nat) (pass : Bool) (s : State) : Out := .next (s.opColumnReset c pass)

end Sys2Proof.Machine
end

