-- ==== Sys2Proof/Machine/Security.lean ====
section
/-! DEFINITION. Keys and measurements (R453 to R459), the flash records (R450, R451), and SECURITY_ALARM with zeroisation
(R476, R477). -/
namespace Sys2Proof.Machine

/-- The derived keys of R453: CDI1 from M1, the alias-1 seed, CDI2 from M2, the alias-2 seed. -/
def cdi1 (m1 : Bytes) : Bytes := kdf "J4 CDI1" secretBytes m1
def alias1Seed (m1 : Bytes) : Bytes := kdf "J4 alias1" (cdi1 m1) []
def cdi2 (m1 m2 : Bytes) : Bytes := kdf "J4 CDI2" (cdi1 m1) m2
def alias2Seed (m1 m2 : Bytes) : Bytes := kdf "J4 alias2" (cdi2 m1 m2) []

/-- ASCII text as bytes. -/
def ascii (t : String) : Bytes := t.toList.map fun c => BitVec.ofNat 8 c.toNat

/-- The alias certificates (R454). -/
def alias1Cert (m1 : Bytes) : Bytes := edSign identitySeed (ascii "J4A1" ++ edPublic (alias1Seed m1) ++ m1)
def alias2Cert (m1 m2 : Bytes) : Bytes := edSign (alias1Seed m1) (ascii "J4A2" ++ edPublic (alias2Seed m1 m2) ++ m2)

/-- The 128 bytes of a measurement log entry (R456). -/
def mEntryBytes (i : Nat) (e : MEntry) : Bytes :=
  natLE 4 i ++ natLE 1 e.kind ++ natLE 1 e.col ++ natLE 1 e.part ++ [0] ++ natLE 8 e.time.toNat ++ natLE 8 e.seq
    ++ natLE 8 e.id ++ slice e.digest 0 64 ++ zeros 32

/-- An entry measured (R456, R457): L is extended; a full log drops the entry and counts it. -/
def State.measure (s : State) (kind part seq id : Nat) (digest : Bytes) : State :=
  let i := s.fw.mlog.length + s.fw.dropped
  let e : MEntry := ⟨kind, s.leadNow, part, if s.tm.everLocked then s.tm.now else 0, seq, id, digest⟩
  let l := sha512 (s.fw.digest ++ mEntryBytes i e)
  s.updFw fun f =>
    if f.mlog.length < 4096 then { f with mlog := f.mlog ++ [e], digest := l, digestCopy := l }
    else { f with dropped := f.dropped + 1, digest := l, digestCopy := l }

/-- L recomputed from the log (R459). -/
def digestOf (l : List MEntry) : Bytes :=
  ((l.zip (List.range l.length)).foldl (fun d e => sha512 (d ++ mEntryBytes e.2 e.1)) (zeros 64))

/-- The records that are valid: without an identity there is no record key, and none is (R450 to R452). -/
def State.secRec (s : State) : Option SecRec := if s.fw.identity then s.flash.sec else none
def State.seqRec (s : State) : Option SeqRec := if s.fw.identity then s.flash.seq else none

/-- The security record in force: none valid counts as unenrolled, with the values of R450. -/
def State.secNow (s : State) : SecRec :=
  match s.secRec with
  | some r => r
  | none =>
    let b := s.fw.base.getD .shipped
    ⟨0, zeros 32, 0, 0, b.svn, b.opFloor, b.revoke⟩

/-- A security record written with COUNTER one higher when a field of it changes (R450); nothing is written in recovery (R478). -/
def State.writeSec (s : State) (f : SecRec → SecRec) : State :=
  if s.fw.latch then s
  else
    let r := f s.secNow
    if s.secRec = some r then s else { s with flash := { s.flash with sec := some { r with counter := r.counter + 1 } } }

/-- The sequence record in force (R451). -/
def State.seqNow (s : State) : SeqRec := s.seqRec.getD ⟨0, [], []⟩

/-- The tenant key that the owner's POLY records enrol for a partition. -/
def State.tenantKey (s : State) (p : Nat) : Option Bytes :=
  (s.xsi.poly.find? fun r => leAt r 0 1 = 4 && leAt r 1 1 = p).map fun r => slice r 24 32

/-- A sequence record written with the sequence numbers and tenant keys in force, when one of them changes (R451). -/
def State.writeSeq (s : State) : State :=
  if s.fw.latch then s
  else
    let seqs := (List.range 16).foldl (fun t p => Table.set 0 t p (s.part p).seq) ([] : Table Nat)
    let fps := (List.range 16).foldl (fun t p => match s.tenantKey p with
      | some k => Table.set [] t p ((sha512 k).take 16)
      | none => t) ([] : Table Bytes)
    let r : SeqRec := ⟨s.seqNow.counter, seqs, fps⟩
    if s.seqRec = some r then s else { s with flash := { s.flash with seq := some { r with counter := r.counter + 1 } } }

/-- ZEROISE of the POLY security record in force; without one it counts as 1 (R476). -/
def State.zeroisePolicy (s : State) : Bool :=
  match s.xsi.poly.find? fun r => leAt r 0 1 = 1 with
  | some r => decide (leAt r 3 1 % 2 = 1)
  | none => true

/-- The rollback of an image on probation through a second pause (R468). -/
def State.rollback (s : State) : State :=
  if s.fw.act = .probation then
    let old := s.fw.oldOp
    let s := s.updFw fun f => { f with op := old, oldOp := none, act := .failed, cause := 0x0A,
                                       iface := (old.map (·.iface)).getD 0,
                                       service := if old.isSome then .operational else .standby }
    let s := s.traceAct s.buildNow
    let s := if old.isNone then columns.foldl (fun s c => if (s.steward c).stage = 2 then
        s.updSteward c fun w => { w with stage := 1 } else s) s else s
    let s := match old with
      | some i => s.measure 3 0xFF i.svn 0 i.digest
      | none => s
    s.logLead 0x03 s.fwStatus
  else s

/-- Zeroisation (R477, R480): an image on probation rolled back, every partition torn down, every connection closed, the operational stage
stopped, the keys erased, recovery. An activation that waits and a load that has not begun to apply are abandoned (log 114). -/
def State.zeroise (s : State) : State :=
  let s := s.rollback
  let s := (List.range 16).foldl (fun s p => if (s.part p).st = .absent then s else s.teardown p false) s
  let open_ := (s.net.conns.filter fun e => e.2.st ≠ 0 && e.2.st ≠ 4).map (·.1)
  let s := open_.foldl (fun s c => s.closeConn c) s
  let s := columns.foldl (fun s c => s.updSteward c fun w => { w with stage := if w.stage = 0 then 0 else 3 }) s
  let s := s.updXsi fun x => if x.st = 1 then { x with st := 0, image := none, loader := none } else x
  s.updFw fun f => { f with op := none, newOp := none, oldOp := none, iface := 0, aliasKeys := false, service := .recovery,
                            latch := true, act := if f.act = .awaiting ∨ f.act = .deferred then .idle else f.act, zeroDue := false, stage := .reset }

/-- SECURITY_ALARM (R476): logged, counted, shown and asserted; it zeroises by policy unless its source is 0x5. A structure
image that applies completes first (R440). -/
def State.alarm (s : State) (source : Nat) : State :=
  let last := fields [at_ 63 60 source, at_ 59 56 s.leadNow, at_ 47 0 s.tm.now.toNat]
  let s := s.updFw fun f => { f with alarms := inc f.alarms, alarmLast := last, alarm := true }
  let s := s.logLead 0x05 last
  if source = 5 ∨ !s.zeroisePolicy ∨ s.fw.latch then s
  else if s.xsi.st = 2 then s.updFw fun f => { f with zeroDue := true }
  else s.zeroise

/-- LOG_DIGEST_CHECK (R459): L recomputed and compared with both copies; `upset` is what a tampering changes in the lead's
copy as it is read. Entries that were dropped cannot be recomputed, and then the copies alone are compared. -/
def State.opDigest (s : State) (upset : Nat) : State :=
  s.whenBased fun s =>
    let lead := natLE 64 (leNat s.fw.digest ^^^ upset)
    let fresh := if s.fw.dropped = 0 then digestOf s.fw.mlog else s.fw.digest
    if lead = fresh ∧ s.fw.digestCopy = fresh then s else s.alarm 6

def execLogDigestCheck (upset : Nat) (s : State) : Out := .next (s.opDigest upset)

end Sys2Proof.Machine
end

