-- ==== Sys2Proof/Machine/Firmware.lean ====
section
/-! DEFINITION. Start-up (R444 to R447, R18 to R22), warm and cold resets (R482, R483, R486), firmware activation and live
update (R460 to R468), attestation (R458), and the persistent log (R474). -/
namespace Sys2Proof.Machine

/-- Whether a recovery copy passes checks 0x01 to 0x06 of the activation check table at a start (R464). -/
def State.copyOk (s : State) (i : FwInfo) : Bool :=
  let r := s.secNow
  i.ok && decide (i.kind = 1) && (s.secRec.isNone || (!testBit r.revoked i.signer && decide (r.minRec ≤ i.svn)))

/-- The module's addresses before an image is applied (R414). -/
def mgmtMac : Nat := 0x02 * 2 ^ 40 + beNat (fingerprint.take 5)

/-- The link-local address of a MAC as a modified EUI-64 (R414). -/
def linkLocal (mac : Nat) : Nat :=
  0xFE80 * 2 ^ 112 + ((mac / 2 ^ 24 ^^^ 0x020000) * 2 ^ 40 + 0xFFFE * 2 ^ 24 + mac % 2 ^ 24)

/-- The MGMT registers before an image is applied: the link-local address, no IPv4 address, and the MAC address (R414). -/
def mgmtPlane : Plane :=
  ⟨BitVec.ofNat 64 (linkLocal mgmtMac / 2 ^ 64), BitVec.ofNat 64 (linkLocal mgmtMac), 0, BitVec.ofNat 64 mgmtMac⟩

/-- MGMT comes up with the addresses of R414 (R414, R446). -/
def State.raiseMgmt (s : State) : State := { s with net := { s.net with mgmtUp := true, mgmt := mgmtPlane } }

/-- The ROM sequence (R444 to R446, R450 to R452) of the dies of `romOk`, up to the start of the base stage. Where neither C0 nor C8 passes
its ROM check, no column comes to its self-test, and the module asserts ALERT_N (R22). -/
def State.romSequence (s : State) : State :=
  let a := s.copyOk s.flash.copyA
  let b := s.copyOk s.flash.copyB
  let s := s.updFw fun f => { f with service := .rom, aOk := a, bOk := b, base := none, romRecovery := false }
  if !testBit s.fw.romOk 0 ∧ !testBit s.fw.romOk 8 then s.updPwr fun p => { p with alertStrap := true }
  else
    let want := if s.flash.trial < 2 then s.flash.prefer else !s.flash.prefer
    let flash := if s.flash.trial < 2 then { s.flash with trial := s.flash.trial + 1 }
      else { s.flash with prefer := !s.flash.prefer, trial := 0 }
    let s := { s with flash := flash }
    let ok := fun c => if c then b else a
    let pick := if ok want then some want else if ok (!want) then some (!want) else none
    match pick with
    | some c => s.updFw fun f => { f with bootCopy := c, base := some (if c then s.flash.copyB else s.flash.copyA) }
    | none =>
      let s := (s.updFw fun f => { f with romRecovery := true }).raiseMgmt
      s.updPwr fun p => { p with alertStrap := true }

/-- SECURITY_ALARM of records that are not valid (R450, R451). -/
def State.romAlarms (s : State) : State :=
  let s := if s.secRec.isNone then (s.updFw fun f => { f with secBad := true }).alarm 5 else s
  if s.seqRec.isNone then (s.updFw fun f => { f with seqBad := true }).alarm 5 else s

/-- Pins held active through a removal of power or a reset act on the module that starts: THROT_N keeps the floor in force, and RESET_REQ_N
keeps the module in reset (R486, R516, sideband pin table). -/
def State.pinsSampled (s : State) : State :=
  let s := if testBit s.pwr.pins pinThrot then (s.updPwr fun p => { p with throt := true }).applyFloor 5 else s
  if testBit s.pwr.pins pinReset then s.updDev fun d => { d with resetHeld := true } else s

/-- POWER_UP (R481, R512, R526): the rails come into regulation with MOD_EN asserted, and every die whose ROM check passed
(`rom`) runs the ROM sequence; `shares` are the columns that recovered their shares (R452). -/
def State.opPowerUp (s : State) (rom shares : Nat) : State :=
  if s.pwr.phase ≠ .off ∧ s.pwr.phase ≠ .starting then s
  else
    let s := s.updPwr fun p => { p with phase := .on, phaseAt := s.tm.clk, modPg := true, pins := setBit p.pins pinModEn }
    let s := s.updFw fun f => { f with romOk := rom % 65536, identity := decide (4 ≤ popCount 16 shares) }
    let s := s.pinsSampled.romSequence
    let s := columns.foldl (fun s c => s.updSteward c fun w => { w with stage := 0, kickAt := s.tm.clk }) s
    s.romAlarms

/-- BASE_STAGE_START (R447 step 1, R240, R488): log entries 0 and 1, the stores zeroed, the keys of R453, the margin records
already in force. Recovery before a warm reset, or no identity, is recovery again (R452, R483). -/
def State.opBaseStart (s : State) : State :=
  s.whenUp fun s =>
    match s.fw.service, s.fw.base with
    | .rom, some b =>
      if s.fw.romRecovery then s
      else
        let rec_ := s.fw.latch || !s.fw.identity
        let s := s.updFw fun f =>
          { f with service := if rec_ then .recovery else .starting, aliasKeys := !rec_, latch := rec_,
                   minRec := s.secNow.minRec, minOp := s.secNow.minOp, owner := s.secNow.ownerKey ≠ zeros 32 }
        let s := columns.foldl (fun s c => if testBit s.fw.romOk c then
          (s.zeroStores c).updSteward c fun w => { w with stage := if rec_ then 3 else 1, kickAt := s.tm.clk } else s) s
        let s := s.measure 1 0xFF 0 0 (natLE 64 Config.romMeasurement.toNat)
        let s := s.measure 2 0xFF b.svn 0 b.digest
        let s := s.updXsi fun x => { x with ownerSeq := s.secNow.ownerSeq }
        s.logLead 0x01 s.fwStatus
    | _, _ => s

/-- The lowest column of a mask. -/
def lowestOf (m : Nat) : Nat := (bitsOf 16 m).headD 0

/-- What the first column to pass its self-test does (R445, R450, R451, R463): TRIAL 0, and the records brought up to the copy
that booted. -/
def State.startPassed (s : State) : State :=
  let s := { s with flash := { s.flash with trial := 0 } }
  let b := s.fw.base.getD .shipped
  let r := s.secNow
  let s := if s.secRec.isNone ∨ r.minRec < b.svn ∨ r.revoked ||| b.revoke ≠ r.revoked then
      s.writeSec fun r => { r with minRec := max r.minRec b.svn, revoked := r.revoked ||| b.revoke }
    else s
  let s := if s.seqRec.isNone then s.writeSeq else s
  s.updFw fun f => { f with minRec := s.secNow.minRec }

/-- SELFTEST_PASS, IN_SERVICE and the lead after a column's self-test (R18 to R21). -/
def State.noteSelftest (s : State) (c : Nat) (ok : Bool) : State :=
  s.updDev fun d =>
    let pass := if ok then setBit d.selftest c else d.selftest
    { d with tested := setBit d.tested c, selftest := pass, inService := if ok then setBit d.inService c else d.inService,
             lead := lowestOf pass }

/-- A column's self-test (R18 to R22, R445, R463). -/
def State.opSelftest (s : State) (c : Nat) (pass : Bool) : State :=
  s.whenUp fun s =>
    if 16 ≤ c ∨ testBit s.dev.tested c ∨ (s.fw.service ≠ .starting ∧ s.fw.service ≠ .recovery) then s
    else
      let ok := pass && testBit s.fw.romOk c
      let s := s.noteSelftest c ok
      let s := if ok ∧ !s.fw.latch then s.startPassed else s
      if s.dev.tested = 65535 ∧ s.dev.selftest = 0 then s.updPwr fun p => { p with alertStrap := true } else s

/-- A module-warm reset (R483, R509): every die, partition, connection and the operational stage; the preserved region,
margins, latch, flash and the sensors' and regulators' condition are kept. -/
def State.warmReset (s : State) (source : Nat) : State :=
  let d := s.dev
  let dump := if d.dump.state = 3 then { d.dump with state := 2 } else d.dump
  let s' : State :=
    { State.reset with
      flash := s.flash, free := s.free, pending := s.pending, stew := s.stew
      tm := { TimeSt.reset with clk := s.tm.clk }
      net := { Net.reset with out := s.net.out }
      pwr := { Pwr.reset with phase := s.pwr.phase, phaseAt := s.pwr.phaseAt, pins := s.pwr.pins, pinAt := s.pwr.pinAt,
                              held := s.pwr.held, modPg := s.pwr.modPg, converters := s.pwr.converters, life := s.pwr.life,
                              cols := Table.mapAll ColPwr.reset (fun _ q =>
                                { ColPwr.reset with phases := q.phases, phaseCap := q.phaseCap, limit := limitUnder q 0xE1 }) s.pwr.cols }
      dev := { Dev.reset with domain := 1, source := source, warmCount := d.warmCount + 1, dump := dump, margins := d.margins,
                              resetHeld := d.resetHeld }
      fw := { Fw.reset with latch := s.fw.latch && s.fw.service = .recovery, romOk := s.fw.romOk, identity := s.fw.identity,
                            alarm := s.fw.alarm, alarmLast := s.fw.alarmLast, alarms := s.fw.alarms,
                            plogWait := s.fw.plogWait } }
  let s' := columns.foldl (fun s c => s.updSteward c fun w =>
    { w with held := false, stage := 0, carrying := false, kickAt := s.tm.clk }) s'
  s'.pinsSampled.romSequence.romAlarms.logLead 0x98 s'.resetCause

/-- A warm reset begins, or waits for a dump under way (R509). -/
def State.startWarm (s : State) (source : Nat) : State :=
  if s.dev.dump.state = 1 then s.updDev fun d => { d with warmDue := some source } else s.warmReset source

/-- RESET_REQ_N accepted (R486, R525): a warm reset, in which the pin then holds the module. -/
def State.opResetReq (s : State) (us : Nat) : State :=
  s.whenUp fun s =>
    if testBit s.pwr.pins pinReset then s
    else if us < 10000 ∨ !s.pinFree pinReset 10000000000 then s.pinFiltered pinReset
    else (s.pinSet pinReset true).startWarm 2

/-- RESET_REQ_N released: the held module restarts from the ROM sequence (R486); R525 remembers a long hold. -/
def State.opResetRelease (s : State) : State :=
  if !testBit s.pwr.pins pinReset then s
  else
    let at' := match s.pwr.pinAt.find? fun e => e.1 = pinReset with | some e => e.2 | none => 0
    let long := decide (10000000000 < s.since at')
    (s.updPwr fun p => { p with pins := clearBit p.pins pinReset, held := if long then setBit p.held pinReset else p.held }).updDev
      fun d => { d with resetHeld := false }

/-- A module-cold reset (R482): a removal of power, after which the module starts again. -/
def State.coldReset (s : State) : State :=
  let s := s.powerRemoved .starting
  s.updDev fun d => { d with domain := 2, source := 1 }

/-- The fields of a firmware image header that the module keeps. -/
def fwInfoOf (bs : Bytes) (signer : Nat) : FwInfo :=
  let len := leAt bs 8 4
  ⟨leAt bs 6 1, leAt bs 7 1, leAt bs 12 4, leAt bs 16 4, leAt bs 20 4, leAt bs 24 4, leAt bs 28 4,
    BitVec.ofNat 64 (leAt bs 32 8), sha512 (bs.take (len - 64)), signer, true⟩

/-- The public key of firmware key k of the ROM as bytes. -/
def State.fwKeyBytes (s : State) (k : Nat) : Bytes := natLE 32 (s.flash.romKeys.getD k 0).toNat

/-- Fingerprint of a public key. -/
def keyFp (k : Bytes) : Bytes := (sha512 k).take 16

/-- Checks 0x01 to 0x06 of the activation check table (R462): the signer, or the cause. ROM recovery takes KIND 0x01 alone (R464). -/
def State.fwCheck (s : State) (bs : Bytes) : Except Nat Nat :=
  let len := leAt bs 8 4
  let kind := leAt bs 6 1
  if bs.length < 256 ∨ bs.length < len ∨ len % 256 ≠ 0 ∨ len < 512 ∨ 48 * 2 ^ 20 < len then .error 1
  else if leAt bs 0 4 ≠ 0x4A344657 ∨ leAt bs 4 2 ≠ 1 ∨ kind = 0 ∨ 2 < kind ∨ (s.fw.romRecovery ∧ kind = 2) ∨ 16 ≤ leAt bs 7 1 ∨ (kind = 2 ∧ leAt bs 7 1 ≠ 0) ∨
      (kind = 2 ∧ leAt bs 28 4 ≠ 0) ∨ !zeroAt bs 72 184 then .error 2
  else if !zeroAt bs 40 16 ∧ slice bs 40 16 ≠ fingerprint then .error 3
  else match (List.range 4).find? fun k => keyFp (s.fwKeyBytes k) = slice bs 56 16 && !testBit s.secNow.revoked k with
  | none => .error 4
  | some k =>
    if !edVerify (s.fwKeyBytes k) (bs.take (len - 64)) (slice bs (len - 64) 64) then .error 5
    else if leAt bs 12 4 < (if kind = 1 then s.secNow.minRec else s.secNow.minOp) then .error 6
    else .ok k

/-- An activation fails (R462): ACT_CAUSE and ACT_STATE, and the alarm of checks 0x05 and 0x06. -/
def State.actFail (s : State) (cause : Nat) : State :=
  let s := (s.updFw fun f => { f with act := .failed, cause := cause, newOp := none }).traceAct s.buildNow
  if cause = 5 then s.alarm 3 else if cause = 6 then s.alarm 4 else s

/-- A recovery image written into the copy that is not running, preferred with TRIAL 0 (R463); in ROM recovery into copy A,
and the module restarts (R446). -/
def State.writeRecovery (s : State) (i : FwInfo) : State :=
  if s.fw.romRecovery then
    let s := { s with flash := { s.flash with copyA := i, prefer := false, trial := 0 } }
    let s := s.updPwr fun p => { p with alertStrap := false }
    let s := { s with net := { Net.reset with out := s.net.out } }
    ((s.updFw fun f => { f with stage := .reset, act := .done, cause := 0 }).traceAct i.build).romSequence.romAlarms
  else
    let flash := if s.fw.bootCopy then { s.flash with copyA := i, prefer := false, trial := 0 }
      else { s.flash with copyB := i, prefer := true, trial := 0 }
    ({ s with flash := flash }.updFw fun f => { f with act := .done, cause := 0 }).traceAct i.build

/-- Whether a driver's interface level is compatible with a firmware level (R470). -/
def levelOk (fw driver : Nat) : Bool := decide (driver / 65536 = fw / 65536) && decide (driver % 65536 ≤ fw % 65536)

/-- The conditions of R460 on an owner document: none when it may be applied, else the cause. The Bool says that the
signature failed. -/
def State.ownerCheck (s : State) (bs : Bytes) (mgmt : Bool) : Option (Nat × Bool) :=
  let r := s.secNow
  let enrolled := decide (r.ownerKey ≠ zeros 32)
  let release := decide (leAt bs 6 2 = 1)
  if bs.length < 128 ∨ leAt bs 0 4 ≠ 0x4A344F57 ∨ leAt bs 4 2 ≠ 1 ∨ 1 < leAt bs 6 2 ∨ zeroAt bs 8 16 ∨
      slice bs 8 16 ≠ fingerprint ∨ (release ∧ !zeroAt bs 24 32) ∨ leAt bs 56 4 ≠ r.transfers + 1 ∨ !zeroAt bs 60 4 ∨
      (!enrolled ∧ release) then some (0x0B, false)
  else if !edVerify (if enrolled then r.ownerKey else slice bs 24 32) (bs.take 64) (slice bs 64 64) then some (0x0B, true)
  else if s.parts.any fun e => e.2.st ≠ .absent then some (0x0C, false)
  else if !enrolled ∧ !mgmt then some (0x0C, false)
  else none

/-- Whether the handover point of R465 is reached. -/
def State.handoverPoint (s : State) : Bool :=
  (decide (s.fw.act = .awaiting) || decide (s.fw.act = .deferred)) && s.fw.newOp.isSome && !s.pwr.power && !s.pwr.thermal
    && decide (s.xsi.st ≠ 1) && decide (s.xsi.st ≠ 2) && s.fw.actBounds.all (fun p => !s.runningParts.contains p)
    && s.parts.all fun e => e.2.st ≠ .tearing && e.2.stn.st ≠ 2 && e.2.stn.st ≠ 3

/-- Every lease moved later by the length of a pause (R467). -/
def State.moveLeases (s : State) (ns : Nat) : State :=
  { s with net := { s.net with conns := s.net.conns.map fun e => (e.1, if connHost e.2 then { e.2 with leaseAt := e.2.leaseAt + ns } else e.2) } }

/-- The pause of a handover whose stewards all report ready within 5 ms (R466 to R468). -/
def State.opHandover (s : State) (us : Nat) : State :=
  s.whenBased fun s =>
    match s.fw.newOp with
    | some i =>
      if s.handoverPoint ∧ us ≤ 5000 then
        let s := s.traceLead 0xFF 11 0 [actCode .handover, 0, i.build.toNat]
        let s := s.updFw fun f => { f with oldOp := f.op, op := some i, newOp := none, act := .probation, iface := i.iface,
                                           service := .operational, probationAt := s.tm.clk }
        let s := s.traceAct i.build
        let s := columns.foldl (fun s c => if (s.steward c).stage = 0 then s else s.updSteward c fun w => { w with stage := 2 }) s
        (s.moveLeases (us * 1000)).measure 3 0xFF i.svn 0 i.digest
      else s
    | none => s

/-- A steward that does not report ready within 5 ms: every steward restores the old image (R466). -/
def State.opHandoverTimeout (s : State) : State :=
  s.whenBased fun s =>
    if s.handoverPoint then ((s.traceLead 0xFF 11 0 [actCode .handover, 0, s.buildNow.toNat]).moveLeases 5000000).actFail 0x0A else s

/-- A handover point not reached within 60 s (R462). -/
def State.opPointTimeout (s : State) : State :=
  s.whenBased fun s =>
    if (s.fw.act = .awaiting ∨ s.fw.act = .deferred) ∧ 60000000000 ≤ s.since s.fw.actAt then s.actFail 9 else s

/-- The end of a probation without a rollback (R468). -/
def State.opProbationEnd (s : State) : State :=
  s.whenBased fun s =>
    match s.fw.op with
    | some i =>
      if s.fw.act = .probation ∧ 10000000000 ≤ s.since s.fw.probationAt then
        let s := s.writeSec fun r => { r with minOp := max r.minOp i.svn }
        let s := (s.updFw fun f => { f with act := .done, oldOp := none, minOp := s.secNow.minOp, activations := inc f.activations }).traceAct i.build
        s.logLead 0x02 s.fwStatus
      else s
    | none => s

/-- The quote of R458, signed over bytes 0 to 447. -/
def State.makeQuote (s : State) : Bytes :=
  let m1 := (s.fw.base.map (·.digest)).getD []
  let two := s.operational
  let m2 := (s.fw.op.map (·.digest)).getD []
  let body := natLE 4 0x4A345154 ++ natLE 2 1 ++ natLE 1 (if two then 2 else 1) ++ [0]
    ++ (s.fw.nonces.flatMap fun n => natLE 8 n.toNat) ++ fingerprint ++ natLE 8 s.tm.now.toNat ++ s.fw.digest
    ++ natLE 4 s.fw.mlog.length ++ natLE 4 s.fw.dropped ++ edPublic identitySeed ++ edPublic (alias1Seed m1) ++ alias1Cert m1
    ++ (if two then edPublic (alias2Seed m1 m2) ++ alias2Cert m1 m2 else zeros 96) ++ zeros 88
  body ++ edSign (if two then alias2Seed m1 m2 else alias1Seed m1) body

/-- START to FW_ATTEST (R458, R459): L is compared first; in recovery the request is refused and the window reads zero. -/
def State.opAttest (s : State) : State :=
  if s.fw.service = .recovery then s.updFw fun f => { f with attest := 3, quote := [] }
  else
    let s := s.opDigest 0
    if s.fw.service = .recovery then s.updFw fun f => { f with attest := 3, quote := [] }
    else s.updFw fun f => { f with attest := 2, quote := s.makeQuote }

/-- Waiting entries copied to the persistent log, at most 1,024 in a second; the excess is counted (R474). -/
def State.opPlog (s : State) : State :=
  s.whenBased fun s =>
    let newSecond := decide (1000000000 ≤ s.since s.fw.plogAt)
    let used := if newSecond then 0 else s.fw.plogCount
    let l := s.fw.plogWait
    let n := min l.length (1024 - used)
    let s := { s with flash := { s.flash with plog := ((l.take n).reverse ++ s.flash.plog).take 1032192,
                                              plogHead := (s.flash.plogHead + n) % 1032192 } }
    s.updFw fun f => { f with plogWait := [], plogLost := incBy f.plogLost (l.length - n), plogCount := used + n,
                              plogAt := if newSecond then s.tm.clk else f.plogAt }

/-- A report of a failure while an image is on probation: the rollback (R468). -/
def State.opProbationFail (s : State) : State := s.whenBased State.rollback

def execPowerUp (rom shares : Nat) (s : State) : Out := .next (s.opPowerUp rom shares)
def execBaseStageStart (s : State) : Out := .next s.opBaseStart
def execSelftestDone (c : Nat) (pass : Bool) (s : State) : Out := .next (s.opSelftest c pass)
def execResetReqNAssert (us : Nat) (s : State) : Out := .next (s.opResetReq us)
def execResetReqNRelease (s : State) : Out := .next s.opResetRelease
def execFwHandover (us : Nat) (s : State) : Out := .next (s.opHandover us)
def execFwHandoverTimeout (s : State) : Out := .next s.opHandoverTimeout
def execFwHandoverPointTimeout (s : State) : Out := .next s.opPointTimeout
def execFwProbationEnd (s : State) : Out := .next s.opProbationEnd
def execProbationFailureReport (s : State) : Out := .next s.opProbationFail
def execPlogCopy (s : State) : Out := .next s.opPlog

end Sys2Proof.Machine
end

