-- ==== Sys2Proof/Machine/Faults.lean ====
section
/-! DEFINITION. Watchdogs and hangs (R471, R472, R490 to R492), the crash dump (R489, R493 to R495), DEV_RESET (R485), partition
commands (R502), leases and orphans (R503 to R506), aborts (R499) and fault notices (R497). -/
namespace Sys2Proof.Machine

/-- WD_FIRE of a steward (R471, R468, R493). -/
def State.opWdFire (s : State) (c : Nat) : State :=
  s.whenBased fun s =>
    if 16 ≤ c ∨ (s.steward c).held then s
    else
      let s := s.updSteward c fun w => { w with held := true, fires := inc w.fires, kickAt := s.tm.clk - 100000000 }
      let s := s.logEv c 0x06 s.fwStatus
      (s.dumpTrigger 0x06 (c * 4096 + 294) []).rollback

/-- The standby takes over after a fire, or the column goes out of service (R20, R472). -/
def State.opTakeover (s : State) (c : Nat) : State :=
  s.whenBased fun s =>
    if (s.steward c).held ∧ s.inService c ∧ !testBit s.dev.standbyActive c then s.takeover c else s

/-- The kind of a unit (units of one column). -/
def unitKind (u : Nat) : Nat :=
  if u < 272 then 1 else if u < 288 then 2 else u - 285

/-- A Strainer lane marked failed (R384). -/
def State.laneFail (s : State) (cl : Nat) : State :=
  if (s.cluster cl).laneFailed then s
  else
    let s := s.updCluster cl fun q => { q with laneFailed := true }
    s.logEv (cl / 16) 0x71 (s.cluster cl).lastFail

/-- The position that a physical slot of a cluster fills. -/
def State.posOfSlot (s : State) (cl slot : Nat) : Option Nat :=
  ((List.range 16).find? fun p => s.physSlot (16 * cl + p) = slot).map fun p => 16 * cl + p

/-- UNIT_HANG of unit u of column c (R491, R492). -/
def State.unitHang (s : State) (c u : Nat) : State :=
  let id := c * 4096 + u
  let w := fields [at_ 63 48 id, at_ 47 0 s.tm.now.toNat]
  let s := s.updDev fun d => { d with hangs := inc d.hangs, hangLast := w }
  let s := s.logEv c 0x90 w
  let k := unitKind u
  let s := s.dumpTrigger 0x90 id (if 3 ≤ k then [c] else [])
  if k = 1 then
    let cl := 16 * c + u / 17
    let s := s.updDev fun d => { d with heldUnits := id :: d.heldUnits }
    match s.posOfSlot cl (u % 17) with
    | some n =>
      let s := (s.bookFill n).updPos n fun q => { coreReset q with fails := 2 }
      match s.clusterPart cl with
      | some p => s.updStn p fun t => { t with failing := if t.failing.contains ((s.part p).step, n) then t.failing
                                                         else ((s.part p).step, n) :: t.failing }
      | none => s
    | none => s
  else if k = 2 then s.laneFail (16 * c + (u - 272))
  else s

/-- One heartbeat sampled (R490): the tenth sample of one value raises UNIT_HANG. -/
def State.beat (s : State) (c u v : Nat) : State :=
  let id := c * 4096 + u
  if s.dev.heldUnits.contains id then s
  else
    let b := Table.get Beat.reset s.dev.beats id
    let same := if b.value = v ∧ b.same ≠ 0 then b.same + 1 else 1
    let now : Beat := ⟨v, same, if same = 1 then s.tm.now.toNat else b.at_⟩
    let s := s.updDev fun d => { d with beats := Table.set Beat.reset d.beats id now }
    if same = 10 then s.unitHang c u else s

/-- HEARTBEAT_SAMPLE (R490): `beats` are the counters that the steward reads; a unit not listed shows its last value. -/
def State.opHeartbeat (s : State) (c : Nat) (beats : List (Nat × Nat)) : State :=
  s.whenBased fun s =>
    if !s.inService c then s
    else
      ((List.range 296).filter (· ≠ 294)).foldl (fun s u =>
        let v := match beats.find? fun e => e.1 = u with
          | some e => e.2 % 65536
          | none => (Table.get Beat.reset s.dev.beats (c * 4096 + u)).value
        s.beat c u v) s

/-- LANE_SELFTEST (R384). -/
def State.opLaneTest (s : State) (cl : Nat) (pass : Bool) : State :=
  s.whenUp fun s => if 256 ≤ cl ∨ !s.inService (cl / 16) ∨ pass then s else s.laneFail cl

/-- The status of a unit in a dump (R494): 1 unreachable, 3 not in service. -/
def State.dumpStatusOf (s : State) (unreachable : List Nat) (id : Nat) : Nat :=
  if !s.inService (id / 4096) then 3 else if unreachable.contains id then 1 else 0

/-- One unit's record (R494, R495): for a captured core slot, the state words of both accumulator sets and the position's
registers. -/
def State.dumpRec (s : State) (unreachable : List Nat) (id : Nat) : DumpRec :=
  let u := id % 4096
  let st := s.dumpStatusOf unreachable id
  let b := Table.get Beat.reset s.dev.beats id
  let base : DumpRec := ⟨id, unitKind u, st, b.at_, b.value, [], [], []⟩
  if st = 0 ∧ u < 272 then
    let q := match s.posOfSlot (id / 4096 * 16 + u / 17) (u % 17) with | some n => s.posn n | none => .reset
    let word := fun (l : List Acc) (i : Nat) => accStateWord (l.getD i accClear)
    let (cub, fall) := match s.posOfSlot (id / 4096 * 16 + u / 17) (u % 17) with
      | some n => (s.cubStatus n, (s.fallNow n).1)
      | none => (at_ 20 16 (u % 17), 0)
    { base with
      words := (List.range 64).map (word q.set0) ++ (List.range 64).map (word q.set1)
      regs := [q.saTiles, q.exactLost, q.termLimit, q.imageBad, q.lastLoss, q.tiles, q.advance, q.drainStall, incBy q.fill fall, q.gated,
        q.vecNan, cub]
      operands := q.operands }
  else base

/-- The cluster of a unit: of a core slot, or of a Strainer lane (units of one column). -/
def unitCluster (id : Nat) : Option Nat :=
  let u := id % 4096
  if u < 272 then some (id / 4096 * 16 + u / 17) else if u < 288 then some (id / 4096 * 16 + (u - 272)) else none

/-- Bytes of one record. -/
def recBytes (r : DumpRec) : Nat := 32 + (if r.status = 0 then (if r.kind = 1 then 6656 else 1024) else 64)

/-- A dump completes (R495): the records, truncation when the slices of the columns in service cannot hold them, the header,
DUMP_TAKEN; a column reset or a warm reset that waited may start. -/
def State.opDumpDone (s : State) (unreachable : List Nat) : State :=
  s.whenUp fun s =>
    let d := s.dev.dump
    if d.state ≠ 1 then s
    else
      let ids := columns.flatMap fun c => (List.range 296).map fun u => c * 4096 + u
      let recs := ids.map fun i => s.dumpRec unreachable i
      let room := popCount 16 s.dev.inService * (2 * 2 ^ 20 - 4096)
      let total := 256 + (recs.map recBytes).foldl (· + ·) 0
      let trunc := decide (room < total)
      let keepCl := unitCluster d.triggerUnit
      let recs := if trunc then recs.map fun r =>
          if r.kind = 1 ∧ r.status = 0 ∧ keepCl ≠ unitCluster r.unit then
            { r with status := 2, words := [], regs := [], operands := [] } else r
        else recs
      let s := s.updDev fun v => { v with dump := { d with state := 2, truncated := trunc, recs := recs, resetAfter := [] },
                                          resetDue := v.resetDue ++ d.resetAfter }
      let s := s.logLead 0x99 s.dumpStatus
      match s.dev.warmDue with
      | some src => (s.updDev fun v => { v with warmDue := none }).warmReset src
      | none => s

/-- The copy of the preserved region to the flash (R489): it starts, completes, or stops while an emergency is in force. -/
def State.opDumpCopy (s : State) : State :=
  s.whenUp fun s =>
    let d := s.dev.dump
    let may := (decide (s.fw.service = .standby) || decide (s.fw.service = .operational)) && !s.pwr.power && !s.pwr.thermal
    if d.state = 2 ∧ may then s.updDev fun v => { v with dump := { d with state := 3 } }
    else if d.state = 3 ∧ !may then s.updDev fun v => { v with dump := { d with state := 2 } }
    else if d.state = 3 then
      let s := s.updDev fun v => { v with dump := { d with state := 4 } }
      let s := { s with flash := { s.flash with dumpCopy := some s.dev.dump } }
      s.logLead 0x9A s.dumpStatus
    else s

/-- TAKE and ACK of DEV_DUMP_CTRL (R493). -/
def State.opDumpTake (s : State) : State := s.dumpTrigger 0 0xFFFF []
def State.opDumpAck (s : State) : State :=
  if s.dev.dump.state = 2 ∨ s.dev.dump.state = 3 ∨ s.dev.dump.state = 4 then
    s.updDev fun v => { v with dump := { v.dump with acked := true } } else s

/-- Whether the partition of a cluster has a schedule admitted or running (R485). -/
def State.clusterRuns (s : State) (cl : Nat) : Bool :=
  match s.clusterPart cl with
  | some p => decide ((s.part p).schSt = 2) || decide ((s.part p).schSt = 3)
  | none => false

/-- A port reset (R481): its PHY, FEC and link state. -/
def State.resetPort (s : State) (n : Nat) : State := s.portDown n

/-- DEV_RESET as written with a domain and a target (R485): the status, and the state. -/
def State.opDevReset (s : State) (domain target : Nat) : Nat × State :=
  let word := fields [at_ 63 60 domain, at_ 15 0 target]
  match domain with
  | 1 => if s.clusterRuns (target % 4096 / 16) then (4, s)
    else (0, ((s.bookFill (target % 4096)).updPos (target % 4096) coreReset).logLead 0x98 word)
  | 2 => if s.clusterRuns (target % 256) then (4, s) else (0, (s.resetCluster (target % 256)).logLead 0x98 word)
  | 3 => (0, (s.updDev fun d => { d with resetDue := d.resetDue ++ [target % 16] }).logLead 0x98 word)
  | 4 => (0, (s.resetPort (target % 16)).logLead 0x98 word)
  | 6 => (0, s.startWarm 1)
  | 7 => (0, s.coldReset)
  | _ => (0x0E, s)

/-- A partition begins to park (R502, R504): it commits its current step first. A park that has begun keeps its step. -/
def State.startPark (s : State) (p : Nat) : State :=
  s.updPart p fun q => { q with parking := true, parkStep := if q.parking then q.parkStep else q.step, parkHost := true }

/-- The park itself (R504): the streams stop; an orphaned partition starts its hold. -/
def State.parkNow (s : State) (p : Nat) : State :=
  let s := s.updPart p fun q =>
    { stopStreams q with parking := false, parkHost := false, parkStop := false, isParked := true, st := if q.st = .running then .parked else q.st,
                         holdAt := if q.st = .orphaned then some (q.holdAt.getD s.tm.clk) else q.holdAt }
  s.logP s.leadNow 0x95 0xFFFF p [partFaultWord (s.part p)]

/-- Whether a partition has a schedule that runs (R504). -/
def schRuns (q : Part) : Bool := decide (q.schSt = 2) || decide (q.schSt = 3)

/-- The partition commands (R502): the status, and the state. -/
def State.opPartCmd (s : State) (p cmd : Nat) : Nat × State :=
  let q := s.part p
  match cmd with
  | 1 => if q.st = .running then (0, if schRuns q then s.startPark p else s.parkNow p) else (4, s)
  | 2 =>
    if q.st = .parked ∧ (s.controlling p).isSome ∧ s.pwr.remove = 0 then
      (0, s.updPart p fun q => { q with st := .running, isParked := false,
                                        streams := q.streams.map fun e => (e.1, { e.2 with stopped := false }) })
    else (4, s)
  | 3 =>
    if q.st = .parked ∨ q.st = .orphaned then
      (0, s.updPart p fun q => { fence q with st := .ready, isParked := false, parking := false, parkStop := false, holdAt := none,
                                              stn := { q.stn with st := 0 } })
    else (4, s)
  | 4 =>
    if q.st = .running ∨ q.st = .parked ∨ q.st = .orphaned then (0, s.jobAbort p (s.abortPayload p 0)) else (4, s)
  | 5 => if q.st = .ready ∨ q.st = .parked ∨ q.st = .orphaned then (0, s.teardown p false) else (4, s)
  | _ => (0x0E, s)

/-- Whether the step that a parking partition must commit is committed, or no schedule runs (R504, R410). -/
def parkReady (q : Part) : Bool :=
  q.parking && ((decide (q.schSt ≠ 2) && decide (q.schSt ≠ 3)) ||
    (decide (q.stn.st = 1) && decide (q.stn.committed ≠ BitVec.allOnes 64) && decide (q.parkStep ≤ q.stn.committed.toNat)))

def State.opParked (s : State) (p : Nat) : State :=
  s.whenOp fun s => if parkReady (s.part p) then s.parkNow p else s

/-- LEASE_EXPIRED (R503, R504): the session closes; the controlling session's expiry orphans the partition. The claim of a session whose
load is under way lapses at the load's end (R440). -/
def State.opLease (s : State) (c : Nat) : State :=
  s.whenOp fun s =>
    let k := s.conn c
    let p := connPart k
    if (connKind k ≠ 2 ∧ connKind k ≠ 3) ∨ (k.st ≠ 2 ∧ k.st ≠ 3) ∨ s.since k.leaseAt < (s.part p).leaseMs * 1000000 then s
    else
      let s := s.logP s.leadNow 0x94 0xFFFF p [fields [at_ 15 0 c, at_ 17 16 (connKind k - 1)]]
      let claim := s.xsi.stage
      let s := (s.closeConn c).closeLocal c
      let s := if s.xsi.loader = some c then s.updXsi fun x => { x with stage := claim } else s
      if connKind k = 3 then s
      else
        let runs := schRuns (s.part p)
        let s := if (s.part p).st = .running ∨ (s.part p).st = .ready ∨ (s.part p).st = .parked then
            s.updPart p fun q => { q with st := .orphaned } else s
        let s := s.partFault p 0x94 false
        if (s.part p).st ≠ .orphaned then s
        else if runs ∧ !(s.part p).isParked then s.startPark p
        else s.parkNow p

/-- ORPHAN_EXPIRED (R506). -/
def State.opOrphan (s : State) (p : Nat) : State :=
  s.whenOp fun s =>
    match (s.part p).st, (s.part p).holdAt with
    | .orphaned, some t =>
      if (s.part p).orphanS * 1000000000 ≤ s.since t then
        (s.logP s.leadNow 0x97 0xFFFF p [partFaultWord (s.part p)]).teardown p false
      else s
    | _, _ => s

/-- Waiting fault notices sent once a fabric manager is connected (R497). -/
def State.opNoticeFlush (s : State) : State :=
  s.whenBased fun s =>
    match s.fmConn with
    | some c =>
      let l := s.dev.notices
      l.foldl (fun s e => s.sendNotice c e) (s.updDev fun d => { d with notices := [] })
    | none => s

/-- An ABORT that arrives on member connection c (R499). -/
def State.abortIn (s : State) (c : Nat) (payload : Bytes) : State :=
  let p := connPart (s.conn c)
  let q := s.part p
  let job := leAt payload 0 8
  if (q.sched.map (·.jobId)) ≠ some job ∨ q.abortedJob = some job then s
  else (s.sendAborts p (some c) payload).jobAbort p payload

def execWdFire (c : Nat) (s : State) : Out := .next (s.opWdFire c)
def execStandbyTakeover (c : Nat) (s : State) : Out := .next (s.opTakeover c)
def execHeartbeatSample (c : Nat) (beats : List (Nat × Nat)) (s : State) : Out := .next (s.opHeartbeat c beats)
def execLaneSelftest (cl : Nat) (pass : Bool) (s : State) : Out := .next (s.opLaneTest cl pass)
def execDumpDone (unreachable : List Nat) (s : State) : Out := .next (s.opDumpDone unreachable)
def execDumpCopy (s : State) : Out := .next s.opDumpCopy
def execPartitionParked (p : Nat) (s : State) : Out := .next (s.opParked p)
def execLeaseExpired (c : Nat) (s : State) : Out := .next (s.opLease c)
def execOrphanExpired (p : Nat) (s : State) : Out := .next (s.opOrphan p)
def execFaultNoticeFlush (s : State) : Out := .next s.opNoticeFlush

end Sys2Proof.Machine
end

