-- ==== Sys2Proof/Machine/Rounding.lean ====
section
/-! DEFINITION. Rounding into a format, overflow, block exponents, stochastic words and activations (chapter 05). A
magnitude is a pair (sig, exp) of value sig * 2^exp. -/
namespace Sys2Proof.Machine

/-- Fraction bits mb of the format limits table. -/
def fmtMb : Fmt → Nat
  | .mxint8 => 6
  | f => (fmtParams f).2.1

/-- emin of the format limits table. -/
def fmtEmin : Fmt → Int
  | .mxint8 => 0
  | f => 1 - ((fmtParams f).2.2 : Int)

/-- emax of the format limits table. -/
def fmtEmax : Fmt → Int
  | .e2m1 | .e2m3 => 2
  | .e3m2 => 4
  | .e4m3 | .plainE4m3 => 8
  | .e5m2 | .plainE5m2 | .fp16 => 15
  | .mxint8 => 0
  | .bf16 | .fp32 => 127

/-- The magnitude of the largest finite code of a sign (format limits table). -/
def fmtMax (f : Fmt) (sign : Bool) : Nat × Int :=
  match f with
  | .e2m1 => (3, 1)
  | .e2m3 => (15, -1)
  | .e3m2 => (7, 2)
  | .e4m3 | .plainE4m3 => (14, 5)
  | .e5m2 | .plainE5m2 => (7, 13)
  | .mxint8 => (if sign then 128 else 127, -6)
  | .bf16 => (255, 120)
  | .fp16 => (2047, 5)
  | .fp32 => (2 ^ 24 - 1, 104)

/-- The code of the largest finite value of a sign (format limits table). -/
def fmtMaxCode (f : Fmt) (sign : Bool) : Nat :=
  match f with
  | .e2m1 => if sign then 0xF else 0x7
  | .e2m3 | .e3m2 => if sign then 0x3F else 0x1F
  | .e4m3 | .plainE4m3 => if sign then 0xFE else 0x7E
  | .e5m2 | .plainE5m2 => if sign then 0xFB else 0x7B
  | .mxint8 => if sign then 0x80 else 0x7F
  | .bf16 => if sign then 0xFF7F else 0x7F7F
  | .fp16 => if sign then 0xFBFF else 0x7BFF
  | .fp32 => if sign then 0xFF7FFFFF else 0x7F7FFFFF

/-- The Inf code of a sign; none where the format has no infinities. -/
def fmtInfCode (f : Fmt) (sign : Bool) : Option Nat :=
  match f with
  | .e5m2 | .plainE5m2 => some (if sign then 0xFC else 0x7C)
  | .bf16 => some (if sign then 0xFF80 else 0x7F80)
  | .fp16 => some (if sign then 0xFC00 else 0x7C00)
  | .fp32 => some (if sign then 0xFF800000 else 0x7F800000)
  | _ => none

/-- The NaN result code (R153); none where the block's scale code becomes 0xFF instead. -/
def fmtNanCode : Fmt → Option Nat
  | .e4m3 | .plainE4m3 | .e5m2 | .plainE5m2 => some 0x7F
  | .bf16 => some 0x7FC0
  | .fp16 => some 0x7E00
  | .fp32 => some 0x7FC00000
  | _ => none

/-- Exponent of the smallest subnormal: the grid step at the bottom of the format. -/
def fmtStep (f : Fmt) : Int := if f = .mxint8 then -6 else fmtEmin f - fmtMb f

/-- a.1 * 2^a.2 < b.1 * 2^b.2. -/
def magLt (a b : Nat × Int) : Bool :=
  let m := min a.2 b.2
  decide (a.1 * 2 ^ (a.2 - m).toNat < b.1 * 2 ^ (b.2 - m).toNat)

/-- quantum of R147. -/
def quantum (f : Fmt) (sig : Nat) (exp : Int) : Int :=
  if f = .mxint8 then -6
  else
    let e : Int := Nat.log2 sig + exp
    (if e < fmtEmin f then fmtEmin f else e) - fmtMb f

/-- q and rem of round_mag, over the grid step 2^u: (q, rem, log2 of the step in units of rem). -/
def splitMag (sig : Nat) (exp u : Int) : Nat × Nat × Nat :=
  if u ≤ exp then (sig * 2 ^ (exp - u).toNat, 0, 0)
  else
    let k := (u - exp).toNat
    (sig / 2 ^ k, sig % 2 ^ k, k)

/-- round_mag of R147: the rounded magnitude as q * 2^u. -/
def roundMag (sig : Nat) (exp : Int) (f : Fmt) (mode : RoundMode) (r : Nat) : Nat × Int :=
  let u := quantum f sig exp
  let (q, rem, k) := splitMag sig exp u
  let up : Bool := match mode with
    | .rne => decide (2 ^ k < 2 * rem) || (decide (2 * rem = 2 ^ k) && decide (q % 2 = 1))
    | .rtz => false
    | .sr => decide (r * 2 ^ k < rem * 2 ^ 32)
  (if up then q + 1 else q, u)

/-- The code of a rounded magnitude within the format's range (R147, R148). -/
def encodeMag (f : Fmt) (sign : Bool) (q : Nat) (u : Int) : Nat :=
  if f = .mxint8 then
    let n := q * 2 ^ (u + 6).toNat
    if sign then (256 - n) % 256 else n
  else encodeExact f sign q u

/-- What narrowing one element gives. -/
structure Narrowed where
  code : Nat
  nan : Bool
  ovf : Bool
  clipped : Bool
  vanished : Bool
  deriving DecidableEq, Repr, Inhabited

/-- An element written as NaN (R153). -/
def nanResult (f : Fmt) : Narrowed := ⟨(fmtNanCode f).getD 0, true, false, false, false⟩

/-- An element written as an infinity of its sign where the format has it, otherwise as NaN (R151). -/
def infOrNan (f : Fmt) (sign : Bool) : Narrowed :=
  match fmtInfCode f sign with
  | some c => ⟨c, false, false, false, false⟩
  | none => nanResult f

/-- narrow (R147, R148, R151 to R154) of an exact value under block exponent `x`. `clip` is set for an OWN_FLOOR block
whose exponent was not clamped at 127 (R157). -/
def narrow (f : Fmt) (mode : RoundMode) (ovf : OvfMode) (clip : Bool) (x : Int) (r : Nat) (y : Elem) : Narrowed :=
  if y.poison then nanResult f
  else match y.cls with
  | .nan => nanResult f
  | .inf => if ovf = .satAll then ⟨fmtMaxCode f y.sign, false, false, false, false⟩ else infOrNan f y.sign
  | .finite =>
    if y.sig = 0 then ⟨if f = .mxint8 then 0 else encodeExact f y.sign 0 0, false, false, false, false⟩
    else
      let e := y.exp - x
      let small := magLt (y.sig, e) (1, fmtStep f)
      let (q, u) := roundMag y.sig e f mode r
      if magLt (fmtMax f y.sign) (q, u) then
        if clip then ⟨fmtMaxCode f y.sign, false, false, true, small⟩
        else if mode = .rtz ∨ ovf ≠ .ieee then ⟨fmtMaxCode f y.sign, false, true, false, small⟩
        else { infOrNan f y.sign with ovf := true, vanished := small }
      else ⟨encodeMag f y.sign q u, false, false, false, small⟩

/-- round32: narrow into FP32 with roundTiesToEven and overflow mode IEEE (R139). -/
def round32 (y : Elem) : Narrowed := narrow .fp32 .rne .ieee false 0 0 y

/-- rnd32 of R129: the FP32 code of an exact value. -/
def rnd32 (y : Elem) : Nat := (round32 y).code

/-- An exact sum of terms, classified as R75 classifies a state; the sum is held in units of 2^-600 (R128). -/
def exactSum (ts : List Elem) : Elem :=
  let p := ts.any (·.poison)
  let pinf := ts.any fun t => t.cls = .inf && !t.sign
  let ninf := ts.any fun t => t.cls = .inf && t.sign
  if ts.any (fun t => t.cls = .nan) ∨ (pinf ∧ ninf) then ⟨.nan, false, 0, 0, p⟩
  else if pinf then ⟨.inf, false, 0, 0, p⟩
  else if ninf then ⟨.inf, true, 0, 0, p⟩
  else
    let v : Int := ts.foldl (fun c t =>
      let m : Int := t.sig * 2 ^ (t.exp + 600).toNat
      if t.sign then c - m else c + m) 0
    if v = 0 then ⟨.finite, !ts.isEmpty && ts.all (fun t => t.sig = 0 && t.sign), 0, 0, p⟩
    else ⟨.finite, decide (v < 0), v.natAbs, -600, p⟩

/-- Numeric comparison of two values that are not NaN: infinities beyond every finite value, -0 equal to +0. -/
def valLt (a b : Elem) : Bool :=
  let key : Elem → Int × (Nat × Int) := fun e =>
    match e.cls with
    | .inf => (if e.sign then -2 else 2, (0, 0))
    | _ => if e.sig = 0 then (0, (0, 0)) else (if e.sign then -1 else 1, (e.sig, e.exp))
  let (ka, ma) := key a
  let (kb, mb) := key b
  if ka ≠ kb then decide (ka < kb)
  else if ka = 1 then magLt ma mb
  else if ka = -1 then magLt mb ma
  else false

/-- X of OWN_FLOOR for amax > 0 (R157), before the clamp. -/
def floorX (f : Fmt) (sig : Nat) (exp : Int) : Int := (Nat.log2 sig + exp) - fmtEmax f

/-- v limited to -127 .. 127. -/
def clampX (v : Int) : Int := max (-127) (min v 127)

/-- Whether amax / 2^x, rounded up to the format's grid, does not exceed the positive maxfin (R158). -/
def fitsAt (f : Fmt) (sig : Nat) (exp x : Int) : Bool :=
  let e := exp - x
  let u := quantum f sig e
  let (q, rem, _) := splitMag sig e u
  let q' := if rem = 0 then q else q + 1
  !magLt (fmtMax f false) (q', u)

/-- X of OWN_FIT for amax > 0 (R158): the smallest that fits, 127 where none does. -/
def fitX (f : Fmt) (sig : Nat) (exp : Int) : Int :=
  match (List.range 255).find? fun (n : Nat) => fitsAt f sig exp ((n : Int) - 127) with
  | some n => (n : Int) - 127
  | none => 127

/-- The four round keys of sr_word (R149). -/
def srKey : List Nat :=
  [0x51C92E7A08D3B46F, 0x8E3BF16AC4D72905, 0x17A45D9CE3608BF2, 0xC28F063E79B15DA4]

/-- One round of sr_word. -/
def srRound (p : Nat × Nat) (k : Nat) : Nat × Nat :=
  let m := 2 ^ 64
  let (x, y) := p
  let y := (y + x + k) % m
  let y := ((y ^^^ (y / 2 ^ 29)) * 0xA3F16C5D2E9748B3) % m
  let y := ((y ^^^ (y / 2 ^ 32)) * 0xC4B57E291D836AF5) % m
  let y := y ^^^ (y / 2 ^ 29)
  ((x * 0x9D47E1B32C5A0F6D + k) % m, y)

/-- The random word of an element (R149). -/
def srWord (tid idx step : Nat) : Nat :=
  (srKey.foldl srRound (tid * 2 ^ 32 + step, idx)).2 / 2 ^ 32

/-- floor(v * 2^k) of a finite value. -/
def floorScaled (v : Elem) (k : Int) : Int :=
  let m : Int := if v.sign then -(v.sig : Int) else (v.sig : Int)
  let e := v.exp + k
  if 0 ≤ e then m * 2 ^ e.toNat else Int.fdiv m (2 ^ (-e).toNat)

/-- A PWL table: E, and the segments' slopes and intercepts as FP32 codes (R146). -/
structure Pwl where
  e : Int
  slope : Nat → Nat
  icept : Nat → Nat

/-- An FP32 result of an activation, and whether its own rnd32 overflowed from a finite value (R139, R152). -/
structure ActResult where
  code : Nat
  ovf : Bool
  sign : Bool
  deriving DecidableEq, Repr, Inhabited

/-- A sum rounded once to FP32 by an activation. DESIGN CHOICE (log 136): a value that vanishes in this rounding is not counted in
OUT_VANISHED; R154 counts magnitudes at the pre-round stage and at narrowing. -/
def actRound (ts : List Elem) : ActResult :=
  let y := exactSum ts
  let n := round32 y
  ⟨n.code, n.ovf, y.sign⟩

/-- The PWL activation (R146). -/
def actPwl (t : Pwl) (v : Elem) : ActResult :=
  let n : Nat := match v.cls with
    | .finite => (max 0 (min (floorScaled v (7 - t.e) + 128) 255)).toNat
    | _ => if v.sign then 0 else 255
  let sl := fp32 (t.slope n)
  let ic := fp32 (t.icept n)
  if v.cls = .finite then actRound [product sl v, ic]
  else if sl.cls = .nan ∨ ic.cls = .nan then ⟨0x7FC00000, false, false⟩
  else if sl.cls = .finite ∧ sl.sig = 0 then ⟨t.icept n, false, false⟩
  else
    let sign := sl.sign ^^ v.sign
    if ic.cls = .inf ∧ ic.sign ≠ sign then ⟨0x7FC00000, false, false⟩
    else ⟨if sign then 0xFF800000 else 0x7F800000, false, sign⟩

/-- The activation of an FP32 value (R145): p0 and p1 are PARAM0 and PARAM1. -/
def activate (a : Act) (p0 p1 : Nat) (t : Pwl) (vcode : Nat) : ActResult :=
  let v := fp32 vcode
  let keep : ActResult := ⟨vcode, false, v.sign⟩
  let z := fp32 0
  if v.cls = .nan then ⟨0x7FC00000, false, false⟩
  else match a with
  | .none => keep
  | .relu => if valLt z v then keep else ⟨0, false, false⟩
  | .leakyRelu => if valLt z v ∨ vcode = 0 then keep else actRound [product (fp32 p0) v]
  | .clamp =>
    if valLt v (fp32 p0) then ⟨p0, false, false⟩ else if valLt (fp32 p1) v then ⟨p1, false, false⟩ else keep
  | .abs => ⟨vcode % 2 ^ 31, false, false⟩
  | .square => actRound [product v v]
  | .reluSquare => if valLt z v then actRound [product v v] else ⟨0, false, false⟩
  | .pwl => actPwl t v

/-- An integer square root, bit by bit from bit `n`. -/
def isqrt : Nat → Nat → Nat → Nat
  | 0, _, r => r
  | n + 1, v, r =>
    let r' := r + 2 ^ n
    isqrt n v (if r' * r' ≤ v then r' else r)

/-- squareRoot on binary32 under roundTiesToEven (R129). -/
def sqrtRn (c : Nat) : Nat :=
  let a := fp32 c
  match a.cls with
  | .nan => 0x7FC00000
  | .inf => if a.sign then 0x7FC00000 else 0x7F800000
  | .finite =>
    if a.sig = 0 then c
    else if a.sign then 0x7FC00000
    else
      let ev : Int := if a.exp % 2 = 0 then 0 else 1
      let m := a.sig * 2 ^ (80 + ev.toNat)
      let e := a.exp - 80 - ev
      let r := isqrt 64 m 0
      let sticky := if r * r = m then 0 else 1
      rnd32 ⟨.finite, false, 2 * r + sticky, e / 2 - 1, false⟩

/-- division on binary32 under roundTiesToEven (R129). -/
def divRn (ca cb : Nat) : Nat :=
  let a := fp32 ca
  let b := fp32 cb
  let s := a.sign ^^ b.sign
  let inf := if s then 0xFF800000 else 0x7F800000
  let z := if s then 0x80000000 else 0
  if a.cls = .nan ∨ b.cls = .nan then 0x7FC00000
  else match a.cls, b.cls with
  | .inf, .inf => 0x7FC00000
  | .inf, _ => inf
  | _, .inf => z
  | _, _ =>
    if b.sig = 0 then (if a.sig = 0 then 0x7FC00000 else inf)
    else if a.sig = 0 then z
    else
      let m := a.sig * 2 ^ 64
      let q := m / b.sig
      let sticky := if m % b.sig = 0 then 0 else 1
      rnd32 ⟨.finite, s, 2 * q + sticky, a.exp - b.exp - 65, false⟩

end Sys2Proof.Machine
end

