-- ==== Sys2Proof/Machine/Caddy.lean ====
section
/-! DEFINITION. The Caddy (chapter 06): slot words, reports (R178, R179), decisions at the step boundary (R183, R184), the rung
of a replay (R189), and the retained copies (R195). -/
namespace Sys2Proof.Machine

/-- CAD_SLOT_STATE from its fields. -/
def slotWord (scale : Nat) (anchor : Int) (saOk : Bool) (level base bias head clean valid : Nat) : W64 :=
  fields [at_ 63 56 scale, at_ 55 46 (twos 10 anchor), flag 45 saOk, at_ 44 42 level, at_ 41 39 base, at_ 38 36 bias,
    at_ 35 33 head, at_ 32 29 clean, at_ 28 24 valid]

/-- A history entry from its fields. -/
def histWord (amax top low : Nat) (ovf lost valid : Bool) : W64 :=
  fields [at_ 63 32 amax, at_ 31 22 top, at_ 21 12 low, flag 11 ovf, flag 10 lost, flag 9 valid]

def hAmax (h : W64) : Nat := fld h 63 32
def hTop (h : W64) : Nat := fld h 31 22
def hLow (h : W64) : Nat := fld h 21 12
def hOvf (h : W64) : Bool := bit h 11
def hLost (h : W64) : Bool := bit h 10
def hValid (h : W64) : Bool := bit h 9

/-- Codes of AMAX, and an absent TOP or LOW. -/
def amaxInf : Nat := 0x7F800000
def amaxNan : Nat := 0x7FC00000
def noBit : Nat := 0x3FF

/-- The larger of two AMAX codes; a NaN value is left out (R179). Codes of nonnegative values order as numbers. -/
def amaxFold (a b : Nat) : Nat := if amaxInf < b then a else max a b

/-- The larger TOP and the smaller LOW, 0x3FF taken as absent (R179). -/
def topFold (a b : Nat) : Nat := if a = noBit then b else if b = noBit then a else max a b
def lowFold (a b : Nat) : Nat := min a b

/-- A report folded into CAD_SLOT_PENDING (R179). -/
def foldReport (h : W64) (amax top low : Nat) (ovf lost : Bool) : W64 :=
  histWord (amaxFold (hAmax h) amax) (topFold (hTop h) top) (lowFold (hLow h) low) (hOvf h || ovf) (hLost h || lost) (hValid h)

/-- The window of the history: entries 0 to W - 1 with VALID set (R183). -/
def window (q : Slot) : List W64 := (q.hist.take (cfgWindow q.cfg)).filter hValid

/-- delayed_x (R183). -/
def delayedX (q : Slot) (f : Fmt) : Int :=
  let a := ((window q).map hAmax).filter fun c => (fp32 c).cls ≠ .nan && decide (c < 2 ^ 31)
  if a.any fun c => (fp32 c).cls = .inf then 127
  else
    let m := a.foldl max 0
    let e := fp32 m
    if e.sig = 0 then (cfgInit q.cfg : Int) - 127
    else clampX ((Nat.log2 e.sig : Int) + e.exp - fmtEmax f + cfgMargin q.cfg + stBias q.state)

/-- anchor_of (R183). -/
def anchorOf (q : Slot) : Bool × Int :=
  let w := window q
  let tops := (w.map hTop).filter (· ≠ noBit)
  let lows := (w.map hLow).filter (· ≠ noBit)
  if !cfgSaAllow q.cfg ∨ tops.isEmpty ∨ lows.isEmpty then (false, 0)
  else
    let top := tops.foldl max 0
    let low := lows.foldl min noBit
    if (15 : Int) < (top : Int) - low + 1 + cfgHeadroom q.cfg + stHead q.state then (false, 0) else (true, (low : Int) - 304)

/-- fit_x (R183): the OWN_FIT exponent of R158 for AMAX code `a`; -127 for 0, 127 for Inf. -/
def slotFit (f : Fmt) (a : Nat) : Int :=
  let e := fp32 a
  if e.cls ≠ .finite then 127 else if e.sig = 0 then -127 else fitX f e.sig e.exp

/-- PENDING at the start of a step. -/
def pendingReset : W64 := 0x00000000FFFFF200

/-- step_boundary (R183), and whether it raises CADDY_PROMOTE. -/
def slotBoundary (q : Slot) : Slot × Bool :=
  let p := q.pending
  let st := q.state
  let full := decide (cfgBiasMax q.cfg ≤ stBias st)
  let promote := hOvf p && full && cfgLadder q.cfg && decide (stBase st < cfgCeil q.cfg)
  let base := if promote then stBase st + 1 else stBase st
  let bias := if promote then 0 else if hOvf p && !full then stBias st + 1 else stBias st
  let head := if hLost p then min (stHead st + 1) 7 else stHead st
  let clean := if hOvf p || hLost p then 0 else min (stClean st + 1) 15
  let decay := !(hOvf p || hLost p) && decide (0 < cfgDecay q.cfg) && decide (cfgDecay q.cfg ≤ clean)
  let bias := if decay then bias - 1 else bias
  let head := if decay then head - 1 else head
  let clean := if decay then 0 else clean
  let valid := min (stValid st + 1) 16
  let q1 := { q with hist := (p :: q.hist).take 16, pending := pendingReset
                     state := slotWord (stScale st) (stAnchor st) (stSaOk st) base base bias head clean valid }
  let scale := if base ≤ 2 then (delayedX q1 ((rungFmt q.cfg base).getD .fp32) + 127).toNat else 0x7F
  let (ok, anchor) := anchorOf q1
  ({ q1 with state := slotWord scale anchor ok base base bias head clean valid }, promote)

/-- The slots of partition p. -/
def slotsOf (q : Part) : List Nat := (List.range q.slotCount).map (q.slotFirst + ·)

/-- The boundary of one slot, with CADDY_PROMOTE (R184). -/
def State.slotStep (s : State) (p n : Nat) : State :=
  let (q, promote) := slotBoundary (s.slot n)
  let s := s.updSlot n fun _ => q
  let s := s.trace (n / 4096) p 4 0 [n, stScale q.state, stLevel q.state]
  if promote then
    let s := s.updCol (n / 4096) fun c => { c with cadPromotions := inc c.cadPromotions }
    s.logP (n / 4096) 0x22 0xFFFF p [q.state]
  else s

/-- The boundary of every slot of a partition (R182, R183). -/
def State.slotsStep (s : State) (p : Nat) : State := (slotsOf (s.part p)).foldl (fun s n => s.slotStep p n) s

/-- The slots of a partition retained, or returned to their retained copies (R195). -/
def keepSlot (q : Slot) : Slot := { q with keepState := q.state, keepPending := q.pending, keepHist := q.hist }
def backSlot (q : Slot) : Slot := { q with state := q.keepState, pending := q.keepPending, hist := q.keepHist }

/-- A report of an entry reaches its slot (R178, R179). -/
def State.report (s : State) (n amax top low : Nat) (ovf : Bool) : State :=
  s.updSlot n fun q => { q with pending := foldReport q.pending amax top low ovf false,
                                ovf := if ovf then inc q.ovf else q.ovf }

/-- An EXACT_LOST reaches the slot that the tile reports to (R179). -/
def State.reportLost (s : State) (n : Nat) : State :=
  s.updSlot n fun q => { q with pending := foldReport q.pending 0 noBit noBit false true, lost := inc q.lost }

/-- LEVEL and SCALE_CODE after a replay that an overflow asked for (R189). -/
def raiseLevel (q : Slot) (amax : Nat) : Slot :=
  let r := stLevel q.state + 1
  let f := (rungFmt q.cfg r).getD .fp32
  let scale := if r ≤ 2 then (max (delayedX q f) (slotFit f amax) + 127).toNat else 0x7F
  let st := q.state
  { q with state := slotWord scale (stAnchor st) (stSaOk st) r (stBase st) (stBias st) (stHead st) (stClean st) (stValid st) }

/-- The block exponent that a slot's decision gives, 0 at rungs 3 and 4 (R193). -/
def slotX (q : Slot) : Int := if stLevel q.state ≤ 2 then (stScale q.state : Int) - 127 else 0

/-- The 256 bytes of a slot in the layout of its registers (R394). -/
def slotImage (q : Slot) : Bytes :=
  (natLE 8 q.cfg.toNat ++ natLE 8 q.state.toNat ++ natLE 8 q.pending.toNat ++ natLE 8 q.ovf.toNat ++ natLE 8 q.replays.toNat
    ++ natLE 8 q.lost.toNat ++ zeros 80) ++ (List.range 16).flatMap fun i => natLE 8 (q.hist.getD i 0).toNat

/-- A write of CAD_SLOT_CFG (R176): none when it is rejected. A slot is held idle by R173. -/
def slotCfgWrite (q : Slot) (w : W64) : Option Slot :=
  if cfgInit w = 255 ∨ fld w 17 16 = 3 ∨ 4 < cfgFloor w ∨ 4 < cfgCeil w ∨ cfgCeil w < cfgFloor w ∨ fld w 63 48 ≠ 0 ∨
      fld w 12 0 ≠ 0 then none
  else
    let near := fun v => max (cfgFloor w) (min v (cfgCeil w))
    let st := q.state
    some { q with cfg := w, state := slotWord (stScale st) (stAnchor st) (stSaOk st) (near (stLevel st)) (near (stBase st))
                              (stBias st) (stHead st) (stClean st) (stValid st) }

/-- A write of CAD_SLOT_STATE (R177): none when it is rejected. -/
def slotStateWrite (q : Slot) (w : W64) : Option Slot :=
  let within := fun v => decide (cfgFloor q.cfg ≤ v ∧ v ≤ cfgCeil q.cfg)
  if stScale w = 255 ∨ !within (stLevel w) ∨ !within (stBase w) ∨ cfgBiasMax q.cfg < stBias w ∨ 16 < stValid w ∨
      fld w 23 0 ≠ 0 then none
  else some { q with state := w }

end Sys2Proof.Machine
end

