-- ==== Sys2Proof/Machine/TopK.lean ====
section
/-! DEFINITION. Top-k lists: order, insertion, the list check and merges (R164 to R168). -/
namespace Sys2Proof.Machine

/-- Record a comes before record b (R165). -/
def recBefore (order : Bool) (a b : Nat × Nat) : Bool :=
  let va := fp32 a.1
  let vb := fp32 b.1
  if (if order then valLt va vb else valLt vb va) then true
  else if (if order then valLt vb va else valLt va vb) then false
  else decide (a.2 < b.2)

/-- A record put into a list kept in R165 order. -/
def recInsert (order : Bool) (r : Nat × Nat) : List (Nat × Nat) → List (Nat × Nat)
  | [] => [r]
  | x :: t => if recBefore order r x then r :: x :: t else x :: recInsert order r t

/-- An empty open list. -/
def topEmpty (k : Nat) (order : Bool) (row : Nat) : TopList := ⟨0, k, order, false, false, row, []⟩

/-- Whether a record replaces one of the same index: it comes first in R165 order or, of a +0 and a -0, it is the +0 (log 120). -/
def recPrefer (order : Bool) (a b : Nat × Nat) : Bool := recBefore order a b || (!recBefore order b a && decide (a.1 < b.1))

/-- One value inserted into an open list (R166): (list, NaN left out, duplicate removed). -/
def topInsert (l : TopList) (v idx : Nat) (poison : Bool) : TopList × Bool × Bool :=
  if (fp32 v).cls = .nan ∨ poison then
    ({ l with nanCount := sat 32 (l.nanCount + 1), poison := l.poison || poison }, true, false)
  else
    match l.recs.find? fun r => r.2 = idx with
    | some r =>
      let keep := if recPrefer l.order (v, idx) r then (v, idx) else r
      let rest := l.recs.filter fun x => x.2 ≠ idx
      ({ l with recs := (recInsert l.order keep rest).take l.k }, false, true)
    | none => ({ l with recs := (recInsert l.order (v, idx) l.recs).take l.k }, false, false)

/-- One record as a 64-bit word: value code low, index high (R164). -/
def recWord (r : Nat × Nat) : Nat := r.1 + 2 ^ 32 * r.2

/-- The empty record (R164). -/
def emptyRec : Nat × Nat := (0x7FC00000, 0xFFFFFFFF)

/-- The 256 bytes of a list (R164). -/
def topBytes (l : TopList) : Bytes :=
  let flags := (if l.order then 1 else 0) + (if l.poison then 2 else 0) + (if l.bad then 4 else 0)
  natLE 4 l.nanCount ++ natLE 1 l.k ++ natLE 1 l.recs.length ++ natLE 1 flags ++ natLE 1 0 ++ natLE 8 l.row
    ++ ((l.recs ++ List.replicate (16 - l.recs.length) emptyRec).take 16).flatMap (fun r => natLE 8 (recWord r))
    ++ zeros 112

/-- The list its bytes spell, its empty records dropped. -/
def topOfBytes (bs : Bytes) : TopList :=
  let recs := (List.range 16).map fun i => (leAt bs (16 + 8 * i) 4, leAt bs (20 + 8 * i) 4)
  let flags := leAt bs 6 1
  ⟨leAt bs 0 4, leAt bs 4 1, flags % 2 = 1, flags / 2 % 2 = 1, flags / 4 % 2 = 1, leAt bs 8 8,
    recs.filter fun r => r ≠ emptyRec⟩

/-- The list check on the bytes of a list (R167). -/
def topCheck (bs : Bytes) : Bool :=
  let k := leAt bs 4 1
  let count := leAt bs 5 1
  let recs := (List.range 16).map fun i => (leAt bs (16 + 8 * i) 4, leAt bs (20 + 8 * i) 4)
  decide (1 ≤ k ∧ k ≤ 16) && decide (count ≤ k) && decide (leAt bs 6 1 < 8) && zeroAt bs 7 1 && zeroAt bs 144 112
    && (recs.take count).all (fun r => decide (r ≠ emptyRec) && decide ((fp32 r.1).cls ≠ .nan))
    && (recs.drop count).all (fun r => decide (r = emptyRec))

/-- What a merge gives: the list, how many TOPK_BAD it raises, how many duplicates it removes. -/
structure TopMerge where
  out : TopList
  bads : Nat
  dups : Nat
  deriving DecidableEq, Repr, Inhabited

/-- Records of a set with one record kept per index, the first in R165 order; how many indexes more than one record held (R167). -/
def dedupe (order : Bool) (rs : List (Nat × Nat)) : List (Nat × Nat) × Nat :=
  let kept := rs.foldl (fun (acc : List (Nat × Nat)) r =>
    if acc.any fun x => x.2 = r.2 then acc.map fun x => if x.2 = r.2 && recPrefer order r x then r else x else acc ++ [r]) []
  (kept.foldl (fun acc r => recInsert order r acc) [], kept.countP fun x => decide (1 < rs.countP fun r => r.2 = x.2))

/-- topk_merge (R167) on the bytes of the input lists. -/
def topMerge (ls : List Bytes) : TopMerge :=
  let lists := ls.map topOfBytes
  let ok := ls.map topCheck
  let passing := ((lists.zip ok).filter (·.2)).map (·.1)
  let f := match passing with
    | l :: _ => l
    | [] => { (lists.headD (topEmpty 1 false 0)) with k := 1, order := false }
  let failing := (ok.filter (!·)).length
  let differ := passing.any fun l => l.k ≠ f.k ∨ l.order ≠ f.order ∨ l.row ≠ f.row
  let bad := decide (0 < failing) || lists.any (·.bad) || differ
  let bads := failing + (if differ then 1 else 0)
  let base : TopList :=
    { nanCount := sat 32 ((lists.map (·.nanCount)).foldl (· + ·) 0)
      k := f.k, order := f.order, poison := lists.any (·.poison), bad := bad, row := f.row, recs := [] }
  if bad then ⟨base, bads, 0⟩
  else
    let (rs, dups) := dedupe f.order (lists.flatMap (·.recs))
    ⟨{ base with recs := rs.take f.k }, bads, dups⟩

end Sys2Proof.Machine
end

