-- ==== Sys2Proof/Machine/Output.lean ====
section
/-! DEFINITION. The output pipeline (R138 to R171, R544, R545): one element after another through scale, pre-round, activation,
top-k and narrowing, with MX blocks, counters and events. -/
namespace Sys2Proof.Machine

/-- An event of a position, in the log of its column. -/
def State.logPos (s : State) (p pos event : Nat) (payload : W64) : State := s.logP (pos / 256) event pos p [payload]

/-- What an entry converts with: partition, position, entry index, step, the control word of its issue (R180) and its parameters, the
poison of the parameter block, the PWL table, OUT, OUT_VLEN, the block exponent that the Caddy gave at its issue (R156), and its layer. -/
structure OutCtx where
  p : Nat
  pos : Nat
  entry : Nat
  step : Nat
  ctl : Ctl
  prm : OutPrm
  prmBad : Bool
  table : Grans
  base : Nat
  vlen : Nat
  x : Int
  lidx : Nat

/-- One element that raises RANGE_OVF: the entry and step that produced it, its place in that entry's drain order, and OUT_LAST_OVF. -/
structure Ovf where
  entry : Nat
  step : Nat
  seq : Nat
  word : W64
  deriving DecidableEq, Repr

/-- The run of an entry through the pipeline: AMAX of R162 in the making, the elements that raise RANGE_OVF, what it writes into core
store (latest first), and the entries whose held elements it writes. -/
structure OutRun where
  s : State
  inf : Bool
  any : Bool
  big : Nat × Int
  ovfs : List Ovf
  wr : List Wr
  closed : List (Nat × Nat)

def OutRun.start (s : State) : OutRun := ⟨s, false, false, (0, 0), [], [], []⟩

/-- OUT_LAST_OVF (R171). -/
def lastOvfWord (entry out fmt stage : Nat) (sign : Bool) (x : Int) : W64 :=
  fields [at_ 63 32 entry, at_ 31 26 out, at_ 25 22 fmt, at_ 21 20 stage, flag 19 sign, at_ 18 10 (twos 9 x)]

/-- An element raises RANGE_OVF (R152): counted, and kept for its entry's event. -/
def OutRun.raise (r : OutRun) (c : OutCtx) (v : Ovf) : OutRun :=
  { r with s := r.s.updPos c.pos fun q => { q with rangeOvf := inc q.rangeOvf }, ovfs := r.ovfs ++ [v] }

/-- The RANGE_OVF of an element at a stage (R152, R171). -/
def Held.ovfAt (h : Held) (f : Fmt) (stage : Nat) (sign : Bool) (x : Int) : Ovf :=
  ⟨h.entry, h.step, h.seq, lastOvfWord h.entry h.out (fmtCode f) stage sign x⟩

/-- The first RANGE_OVF of an entry in drain order (R169). -/
def OutRun.firstOvf (r : OutRun) (entry step : Nat) : Option W64 :=
  ((r.ovfs.filter fun v => v.entry = entry && v.step = step).foldl (fun (b : Option Ovf) v => match b with
    | some x => if v.seq < x.seq then some v else b
    | none => some v) none).map (·.word)

/-- A run of bits that the entry writes. -/
def OutRun.put (r : OutRun) (x : Wr) : OutRun := { r with wr := x :: r.wr }

/-- AMAX as an FP32 magnitude rounded up (R162). -/
def ceil32 (sig : Nat) (exp : Int) : Nat :=
  let n := narrow .fp32 .rtz .satFinite false 0 0 ⟨.finite, false, sig, exp, false⟩
  let e := fp32 n.code
  if magLt (e.sig, e.exp) (sig, exp) then n.code + 1 else n.code

/-- AMAX of the entry (R162). -/
def OutRun.amax (r : OutRun) : Nat :=
  if r.inf then amaxInf else if r.any then (if r.big.1 = 0 then 0 else ceil32 r.big.1 r.big.2) else amaxNan

/-- A value reaches narrowing (R162). -/
def OutRun.see (r : OutRun) (y : Elem) : OutRun :=
  if y.poison then r
  else match y.cls with
  | .nan => r
  | .inf => { r with inf := true }
  | .finite => { r with any := true, big := if magLt r.big (y.sig, y.exp) then (y.sig, y.exp) else r.big }

/-- Counters of one element code written (R170). -/
def countCode (q : Pos) (n : Narrowed) (vanished : Bool) : Pos :=
  { q with converted := inc q.converted, clipped := if n.clipped then inc q.clipped else q.clipped,
           vanished := if vanished || n.vanished then inc q.vanished else q.vanished,
           nan := if n.nan then inc q.nan else q.nan }

/-- Whether a code is a zero of its format. -/
def zeroCode (f : Fmt) (code : Nat) : Bool := if f = .mxint8 then code = 0 else code % 2 ^ (fmtWidth f - 1) = 0

/-- Elements of one output block (R155). -/
def blockSize (l : Layout) : Nat := if l = .square then 1024 else 32

/-- Block coordinates of an element of a vector, and its place in the block (R155). -/
def blockAt (l : Layout) (vec e : Nat) : Nat × Nat × Nat :=
  if l = .square then (vec / 32, e / 32, 32 * (vec % 32) + e % 32) else (vec, e / 32, e % 32)

/-- The same block of a tensor. -/
def Block.is (b : Block) (base va eb : Nat) : Bool := b.base = base && b.va = va && b.eb = eb

/-- The open block that an element of a tensor belongs to, whatever its entry's own decision (R156, R180). -/
def findBlock (q : Pos) (base vec e : Nat) : Option Block :=
  q.blocks.find? fun b => let x := blockAt b.lay vec e; b.is base x.1 x.2.1

/-- The block that an entry begins with an element, under the decisions of its own issue (R156, R180). -/
def newBlock (c : OutCtx) (vec e : Nat) : Block :=
  let x := blockAt c.ctl.layout vec e
  ⟨c.base, c.vlen, c.ctl.layout, c.ctl.format, x.1, x.2.1, c.ctl.scaleSrc, c.x, c.lidx, 0, false, false, []⟩

/-- The block that takes an element: an open one, or one that its entry begins; none in an unscaled tensor. -/
def blockFor (q : Pos) (c : OutCtx) (vec e : Nat) : Option Block :=
  match findBlock q c.base vec e with
  | some b => some b
  | none => if fmtScaled c.ctl.format then some (newBlock c vec e) else none

/-- A block put back, or dropped when it is complete. -/
def putBlock (q : Pos) (b : Block) : Pos :=
  let rest := q.blocks.filter fun x => !x.is b.base b.va b.eb
  if b.count < blockSize b.lay then { q with blocks := rest ++ [b] } else { q with blocks := rest }

/-- The first bit of an element of a block's tensor, from its place in the block. -/
def blockBit (b : Block) (k : Nat) : Nat :=
  let (vec, e) := if b.lay = .square then (32 * b.va + k / 32, 32 * b.eb + k % 32) else (b.va, 32 * b.eb + k)
  2048 * b.base + elemBit b.lay b.fmt b.vlen vec e

/-- The core-store byte of a block's scale code. -/
def blockScale (b : Block) : Nat :=
  64 * (Config.outScaleBase b.base b.vlen).toNat + b.va * b.vlen + b.eb

/-- The scale code of a complete block (R159). -/
def scaleCode (b : Block) (x : Int) : Nat := if b.nan then 0xFF else if !b.nonzero then 0x7F else (x + 127).toNat

/-- The scale code of a block written; in a format without a NaN code every element of a block of scale 0xFF counts (R153). -/
def OutRun.closeBlock (r : OutRun) (c : OutCtx) (b : Block) (x : Int) : OutRun :=
  let r := r.put ⟨8 * blockScale b, 8, scaleCode b x, false⟩
  { r with s := r.s.updPos c.pos fun q => putBlock { q with nan := if b.nan then incBy q.nan (blockSize b.lay) else q.nan } b }

/-- One code of a block written: the block after it, and the run. -/
def OutRun.blockCode (r : OutRun) (c : OutCtx) (b : Block) (h : Held) (n : Narrowed) (x : Int) : Block × OutRun :=
  let noNan := (fmtNanCode b.fmt).isNone
  let r := if n.ovf && h.free then r.raise c (h.ovfAt b.fmt 2 h.y.sign x) else r
  let r := r.put ⟨blockBit b h.k, fmtWidth b.fmt, n.code, h.y.poison⟩
  let s := r.s.updPos c.pos fun q => countCode q { n with nan := n.nan && !noNan } h.vanished
  ({ b with nan := b.nan || (n.nan && noNan), nonzero := b.nonzero || !zeroCode b.fmt n.code }, { r with s := s })

/-- The block exponent of an OWN block, and whether it counts as clamped at 127 (R544, R157, R158). -/
def ownX (b : Block) (vals : List Elem) : Int × Bool :=
  let fin := vals.filter fun y => !y.poison && y.cls = .finite && y.sig ≠ 0
  let big := fin.foldl (fun (m : Nat × Int) y => if magLt m (y.sig, y.exp) then (y.sig, y.exp) else m) (0, 0)
  if big.1 = 0 then
    if vals.any fun y => !y.poison && y.cls = .inf then (127, true) else (0, false)
  else if b.src = .ownFloor then
    let v := floorX b.fmt big.1 big.2
    (clampX v, decide (127 < v))
  else (fitX b.fmt big.1 big.2, false)

/-- An OWN block whose last element has come: every element narrowed under the block's exponent, in the modes of the entry that produced
it, and written (R138, R139, R157, R158, R161). -/
def OutRun.ownBlock (r : OutRun) (c : OutCtx) (b : Block) : OutRun :=
  let (x, clamped) := ownX b (b.held.map (·.y))
  let clip := b.src = .ownFloor && !clamped
  let (b, r) := b.held.foldl (fun (a : Block × OutRun) h =>
    a.2.blockCode c a.1 h (narrow b.fmt h.round h.ovf clip x h.r h.y) x) (b, r)
  { r.closeBlock c b x with closed := b.held.foldl (fun l h => List.insert (h.entry, h.step) l) r.closed }

/-- The narrowing of one value into its block (R156, R157, R161), or straight into an unscaled tensor. -/
def OutRun.write (r : OutRun) (c : OutCtx) (vec e : Nat) (h : Held) : OutRun :=
  match blockFor (r.s.posn c.pos) c vec e with
  | none =>
    let f := c.ctl.format
    let n := narrow f h.round h.ovf false 0 h.r h.y
    let r := if n.ovf && h.free then r.raise c (h.ovfAt f 2 h.y.sign 0) else r
    let r := r.put ⟨2048 * c.base + elemBit c.ctl.layout f c.vlen vec e, fmtWidth f, n.code, h.y.poison⟩
    { r with s := r.s.updPos c.pos fun q => countCode q n h.vanished }
  | some b =>
    let b := { b with count := b.count + 1 }
    let h := { h with k := (blockAt b.lay vec e).2.2 }
    if b.src = .ownFloor ∨ b.src = .ownFit then
      let b := { b with held := b.held ++ [h] }
      if b.count < blockSize b.lay then { r with s := r.s.updPos c.pos fun q => putBlock q b } else r.ownBlock c b
    else
      let x := r.blockCode c b h (narrow b.fmt h.round h.ovf false b.x h.r h.y) b.x
      if b.count < blockSize b.lay then { x.2 with s := x.2.s.updPos c.pos fun q => putBlock q x.1 }
      else x.2.closeBlock c x.1 b.x

/-- The open list of a row. -/
def findTop (q : Pos) (row : Nat) : Option TopList := q.tops.find? fun l => l.row = row

/-- A list kept open. -/
def putTop (q : Pos) (l : TopList) : Pos := { q with tops := l :: q.tops.filter fun x => x.row ≠ l.row }

/-- The state of a row's list kept before an attempt's first insertion (R545). -/
def saveTop (q : Pos) (lidx row : Nat) : Pos :=
  if lidx = lidxNone ∨ q.saves.any fun v => v.lidx = lidx && v.row = row then q
  else { q with saves := ⟨lidx, row, findTop q row⟩ :: q.saves }

/-- A value inserted into its row's open list (R166). -/
def topStep (c : OutCtx) (row idx v : Nat) (poison : Bool) (q : Pos) : Pos :=
  let q := saveTop q c.lidx row
  let l := (findTop q row).getD (topEmpty c.ctl.topkK c.ctl.topkOrder row)
  let (l, nan, dup) := topInsert l v idx poison
  { putTop q l with topkNan := if nan then inc q.topkNan else q.topkNan, topkDup := if dup then inc q.topkDup else q.topkDup }

/-- The segment of a PWL table that a value uses (R146). -/
def pwlSeg (e : Int) (v : Elem) : Nat :=
  match v.cls with
  | .finite => (max 0 (min (floorScaled v (7 - e) + 128) 255)).toNat
  | _ => if v.sign then 0 else 255

/-- The PWL table in force, and whether the segment that a value uses came from a poisoned granule (R67, R146): the granule of the
segment's two words counts, segment 0 or 255 for an infinite value or a NaN too, and the granule of the table's header does not
(log 118). -/
def OutCtx.pwl (c : OutCtx) : Pwl :=
  let w := fun a => leNat ((List.range 4).map fun i => byteOf c.table (a + i))
  ⟨sext 8 (byteOf c.table c.prm.table).toNat, fun n => w (c.prm.table + 16 + 8 * n), fun n => w (c.prm.table + 20 + 8 * n)⟩
def OutCtx.pwlBad (c : OutCtx) (vcode : Nat) : Bool :=
  c.ctl.act = .pwl && (granOf c.table (c.prm.table + 16 + 8 * pwlSeg c.pwl.e (fp32 vcode))).poison

/-- The format, and the Caddy's block exponent, under which an element is to be written (R156, R171): those of its block, where it has
one. -/
def outForm (q : Pos) (c : OutCtx) (vec e : Nat) : Fmt × Int :=
  match blockFor q c vec e with
  | some b => (b.fmt, if b.src = .caddy then b.x else 0)
  | none => (c.ctl.format, 0)

/-- Padding of a square-scaled tensor: a column past the row length of the tensor (R57; log 119). -/
def padding (q : Pos) (c : OutCtx) (vec e col : Nat) : Bool :=
  decide (c.prm.ncols ≤ col) && (blockFor q c vec e).any fun b => b.lay = .square

/-- One element through the pipeline (out_element, R138): `val` is the classified state or the FP32 input, (vec, e) its place in
the output tensor, `idx` its element index (R150), (row, col) its logical place, `seq` its place in the drain order. -/
def OutRun.elem (r : OutRun) (c : OutCtx) (seq vec e row col idx : Nat) (val : Elem) : OutRun :=
  let y0 := product val (decodeScaled .fp32 c.prm.scale 127 c.prmBad)
  let y : Elem := if y0.poison then ⟨.nan, false, 0, 0, true⟩ else y0
  let n32 := round32 y
  let (f, xo) := outForm (r.s.posn c.pos) c vec e
  let r := if 0 < c.ctl.topkK then { r with s := r.s.updPos c.pos (topStep c row col n32.code y.poison) } else r
  let rw := if c.ctl.round = .sr then srWord c.prm.tid (idx % 2 ^ 48) (c.step % 2 ^ 32) else 0
  let h : Held := ⟨0, y, rw, seq % 64, false, true, c.ctl.round, c.ctl.ovf, c.entry, c.step, seq⟩
  if padding (r.s.posn c.pos) c vec e col then
    let z : Elem := ⟨.finite, false, 0, 0, false⟩
    (r.see z).write c vec e { h with y := z }
  else if c.ctl.act = .none then (r.see y).write c vec e h
  else
    let bad := y.poison || c.pwlBad n32.code
    let r := if n32.ovf && !bad then r.raise c (h.ovfAt f 1 y.sign xo) else r
    let a := activate c.ctl.act c.prm.p0 c.prm.p1 c.pwl n32.code
    let r := if a.ovf && !n32.ovf && !bad then r.raise c (h.ovfAt f 3 a.sign xo) else r
    let z : Elem := if bad then ⟨.nan, false, 0, 0, true⟩ else fp32 a.code
    (r.see z).write c vec e { h with y := z, vanished := n32.vanished, free := !(n32.ovf || a.ovf) }

/-- The open lists of an entry's rows written and closed (R166). -/
def OutRun.topClose (r : OutRun) (c : OutCtx) (rows : Nat) : OutRun :=
  if !c.ctl.topkClose then r
  else (List.range rows).foldl (fun r i =>
    match findTop (r.s.posn c.pos) (c.prm.row0 + i) with
    | some l =>
      let r := r.put ⟨8 * (c.prm.topk + 256 * i), 2048, leNat (topBytes l), false⟩
      { r with s := r.s.updPos c.pos fun q => { saveTop q c.lidx l.row with tops := q.tops.filter fun x => x.row ≠ l.row } }
    | none => r) r

/-- A silent error in a written code: bit a of core store changes once the code stands there; one that the entry has not written does
not (R380). -/
def OutRun.upset (r : OutRun) (a : Nat) : OutRun :=
  match r.wr.find? fun x => decide (x.bit ≤ a) && decide (a < x.bit + x.w) with
  | some x => r.put ⟨a, 1, 1 - x.code / 2 ^ (a - x.bit) % 2, false⟩
  | none => r

/-- RANGE_OVF of an entry: OUT_LAST_OVF and the log (R152, R171). -/
def State.rangeOvf (s : State) (p pos : Nat) (w : W64) : State :=
  (s.updPos pos fun q => { q with lastOvf := w }).logPos p pos 0x13 w

/-- Whether an OWN block still holds elements of an entry. -/
def holdsOf (q : Pos) (entry step : Nat) : Bool := q.blocks.any fun b => b.held.any fun h => h.entry = entry && h.step = step

/-- What an entry writes stored in core store, and its own RANGE_OVF raised once (R152, R171). -/
def OutRun.done (r : OutRun) (c : OutCtx) (errs : List MemErr) : State :=
  let s := r.s.storeWrs c.p c.pos r.wr.reverse errs
  match r.firstOvf c.entry c.step with
  | some w => s.rangeOvf c.p c.pos w
  | none => s

/-- A layer's attempt is discarded (R160, R545): its open blocks go, and the top-k lists return to their saved states. -/
def undoAttempt (lidx : Nat) (q : Pos) : Pos :=
  let mine := q.saves.filter fun v => v.lidx = lidx
  let kept := q.tops.filter fun l => !mine.any fun v => v.row = l.row
  { q with blocks := q.blocks.filter fun b => b.lidx ≠ lidx, owed := q.owed.filter fun o => o.lidx ≠ lidx, saves := q.saves.filter fun v => v.lidx ≠ lidx,
           tops := mine.filterMap (·.old) ++ kept }

/-- A layer's attempt is accepted (R545). -/
def acceptAttempt (lidx : Nat) (q : Pos) : Pos := { q with saves := q.saves.filter fun v => v.lidx ≠ lidx }

end Sys2Proof.Machine
end

