-- ==== Sys2Proof/Machine/Streams.lean ====
section
/-! DEFINITION. Streams (R203 to R222): rounds, Tokens, the fetch of entries, when an entry issues, what its completion
releases, and the layers that withhold releases (R186, R215). -/
namespace Sys2Proof.Machine

/-- Stream identifiers (R206). -/
def isPosStream (sid : Nat) : Bool := decide (sid < 0x1000)
def isXferStream (sid : Nat) : Bool := decide (0x1000 ≤ sid ∧ sid < 0x1010)
def isCollStream (sid : Nat) : Bool := decide (0x1010 ≤ sid ∧ sid < 0x1020)

/-- The column of a stream. -/
def streamCol (sid : Nat) : Nat := if sid < 0x1000 then sid / 256 else sid % 16

def streamOf (q : Part) (sid : Nat) : Stream := Table.get Stream.reset q.streams sid
def updStream (q : Part) (sid : Nat) (f : Stream → Stream) : Part :=
  { q with streams := Table.set Stream.reset q.streams sid (f (streamOf q sid)) }

/-- Columns in which a partition holds a cluster. -/
def partCols (q : Part) : List Nat := columns.filter fun c => q.clusters / 2 ^ (16 * c) % 2 ^ 16 ≠ 0

/-- The streams of a partition. -/
def partStreams (q : Part) : List Nat :=
  partPositions q ++ (partCols q).map (0x1000 + ·) ++ (partCols q).map (0x1010 + ·)

/-- The step a stream is in: the next one once its STEP_END has completed (R219; log 12). -/
def streamStep (q : Part) (st : Stream) : Nat := if st.ended then q.step + 1 else q.step

/-- Whether data of step n of a member are provisional: the step has not committed (R386). -/
def provStep (q : Part) (n : Nat) : Bool := decide (q.stn.committed = BitVec.allOnes 64) || decide (q.stn.committed.toNat < n)

/-- A release of a Token tagged with step m, with the provisional mark of the data that it completes (R217, R219, R221). -/
def releaseTok (q : Part) (addr m : Nat) (prov : Bool) : Part :=
  let st := streamOf q (addr / 512)
  let cur := streamStep q st
  if !st.live ∨ m < cur ∨ cur + 1 < m then { q with tokenStray := inc q.tokenStray }
  else
    let i := 2 * (addr % 512) + m % 2
    updStream q (addr / 512) fun st =>
      { st with tokens := Table.set 0 st.tokens i (min 65535 (Table.get 0 st.tokens i + 1))
                provs := if prov then List.insert i st.provs else st.provs }

/-- Both Token 511 counters' release for every stream of a partition (R394, R395, R401). -/
def release511 (q : Part) (m : Nat) : Part :=
  q.streams.foldl (fun q e => if e.2.live then releaseTok q (512 * e.1 + 511) m false else q) q

/-- A wait is met (R218). -/
def waitMet (q : Part) (st : Stream) (w : Nat × Nat) : Bool :=
  decide (w.2 ≤ Table.get 0 st.tokens (2 * w.1 + q.step % 2))

/-- The round of a job at a module time (R203). -/
def roundAt (now epoch lam : Nat) : Int := Int.fdiv ((now : Int) - epoch) (2 ^ lam : Nat)

/-- The planned round of offset `off` of step n (R204). -/
def plannedAt (n off first period : Nat) (shift : Int) : Int := ((n : Int) - first) * period + off + shift

/-- The current round of a partition's job; 0 without a schedule. -/
def State.roundNow (s : State) (q : Part) : Int :=
  match q.sched with
  | some h => roundAt s.tm.now.toNat h.epoch h.lam
  | none => 0

/-- The planned round of an entry of step n. -/
def planned (q : Part) (n off : Nat) : Int :=
  match q.sched with
  | some h => plannedAt n off h.first h.period q.shift
  | none => 0

/-- An entry runs in step n (R209). -/
def runsIn (ws : List W64) (n : Nat) : Bool := n % 2 ^ eCadence ws = 0

/-- MEM_LAST_ERR of the column that a partition address lies in. -/
def State.lastErrOf (s : State) (p addr : Nat) : W64 :=
  match s.regionAt p addr with
  | some (_, r, a) => (s.col (dpaCol (rgnDpa r a))).lastErr
  | none => (s.col s.leadNow).lastErr

/-- FETCH_TRAP and ACCESS_FAULT of an admitted schedule (R272, R276). -/
def State.fetchTrap (s : State) (p addr : Nat) : State := s.trap p 0x43 (s.lastErrOf p addr)
def State.accessFault (s : State) (p addr : Nat) : State := s.trap p 0x46 (s.lastErrOf p addr)

/-- Entry `i` of a stream fetched (R207, R208, R272). -/
def State.fetchEntry (s : State) (p sid i : Nat) (errs : List MemErr) : Option (List W64) × State :=
  let q := s.part p
  let st := streamOf q sid
  if st.count = 0 then (if i = 0 then some stepEndWords else none, s)
  else if st.count ≤ i then (none, s)
  else
    let a := (q.sched.map (·.addr)).getD 0 + st.entry + 64 * i
    let r := s.readGran accFetch p a errs
    match r.1 with
    | .data g => if g.poison then (none, r.2.fetchTrap p a) else (some (wordsOf (slice g.data (a % 256) 64)), r.2)
    | .held => (none, r.2)
    | .fault => (none, r.2.accessFault p a)

/-- The first entry from `i` on that runs in step n and, in a replay of layer `lidx`, belongs to it. -/
def State.seekEntry (s : State) (p sid n : Nat) (lidx : Option Nat) (errs : List MemErr) :
    Nat → Nat → Option (Nat × List W64) × State
  | 0, _ => (none, s)
  | f + 1, i =>
    let r := s.fetchEntry p sid i errs
    match r.1 with
    | none => (none, r.2)
    | some ws =>
      if runsIn ws n ∧ (lidx.isNone ∨ lidx = some (eLidx ws)) then (some (i, ws), r.2)
      else State.seekEntry s p sid n lidx errs f (i + 1)

/-- The replay that a stream takes part in: the layer's index and the next entry to reissue (R189). -/
def redoOf (q : Part) (sid : Nat) : Option (Nat × Nat) :=
  q.layers.findSome? fun l => if l.waiting then none else
    l.streams.findSome? fun x => if x.stream = sid then x.cursor.map fun i => (l.lidx, i) else none

/-- The entry that a stream issues next: in a replay the layer's entry, otherwise the stream's own. -/
def State.nextEntry (s : State) (p sid : Nat) (errs : List MemErr) : Option (Nat × List W64) × State :=
  let q := s.part p
  let st := streamOf q sid
  match redoOf q sid with
  | some (lidx, i) => s.seekEntry p sid q.step (some lidx) errs (st.count + 1) i
  | none => s.seekEntry p sid q.step none errs (st.count + 1) st.next

/-- Whether a stream may issue at all: its partition's schedule is admitted or runs, no retraction holds it, it is not stopped, and a
parking member has not issued its last carrier entry (R400, R272, R504). -/
def mayIssue (q : Part) (sid : Nat) : Bool :=
  let st := streamOf q sid
  (decide (q.schSt = 2) || decide (q.schSt = 3)) && decide (q.stn.st = 1) && st.live && !st.stopped && !q.parkStop
    && (!st.ended || (redoOf q sid).isSome)

/-- The conditions of R218 on an entry. -/
def State.due (s : State) (q : Part) (ws : List W64) : Bool := decide (planned q q.step (eRound ws) ≤ s.roundNow q)
def waitsMet (q : Part) (sid : Nat) (ws : List W64) : Bool := (eWaits ws).all fun w => waitMet q (streamOf q sid) w

/-- The module-side marks of an issue: the stream goes to its next entry. DESIGN CHOICE (log 125): the spec does not say when STATE of
SCH_LOAD_STATUS goes from admitted to running (R237); it does so at the schedule's first issue. -/
def markIssue (q : Part) (sid i : Nat) : Part :=
  match redoOf q sid with
  | some (lidx, _) =>
    { q with layers := q.layers.map fun l => if l.lidx = lidx then
        { l with streams := l.streams.map fun x => if x.stream = sid then { x with cursor := some (i + 1) } else x } else l }
  | none =>
    let q := updStream q sid fun st => { st with next := i + 1, timedOut := false, heldUpd := false }
    if q.schSt = 2 then { q with schSt := 3, schRej := false } else q

/-- An entry of a kind issues when R218 and `also` allow it; `f` is what it does. The entry's index and words are given. -/
def State.issue (s : State) (p sid : Nat) (kind : Nat → Bool) (errs : List MemErr)
    (also : State → Nat → List W64 → Bool) (f : State → Nat → List W64 → State) : State :=
  if !s.operational ∨ !mayIssue (s.part p) sid then s
  else
    let r := s.nextEntry p sid errs
    match r.1 with
    | none => r.2
    | some (i, ws) =>
      let q := s.part p
      if kind (eKind ws) && s.due q ws && waitsMet q sid ws && also s i ws then
        f (r.2.updPart p fun q => markIssue q sid i) i ws
      else s

/-- The open layer that carries a local index. -/
def layerOf (q : Part) (lidx : Nat) : Option Layer := if lidx = lidxNone then none else q.layers.find? fun l => l.lidx = lidx
def updLayer (q : Part) (lidx : Nat) (f : Layer → Layer) : Part :=
  { q with layers := q.layers.map fun l => if l.lidx = lidx then f l else l }

/-- REL of an entry released, tagged with the step and its data's provisional mark (R217, R220, R221). -/
def releaseRel (q : Part) (step : Nat) (ws : List W64) : Part :=
  if eRel ws = relNone then q else releaseTok q (eRel ws) step (provStep q step)

/-- An entry has completed its own work (R210, R215): in an open layer the release of an entry that writes outputs waits for the
acceptance (R186), and the LLAST entry closes its stream's part; otherwise REL is released. -/
def completeEntry (q : Part) (sid step : Nat) (ws : List W64) : Part :=
  match layerOf q (eLidx ws) with
  | some l =>
    let q := updLayer q l.lidx fun l =>
      { l with rels := if eRel ws = relNone ∨ eKind ws = kWait then l.rels else l.rels ++ [eRel ws],
               streams := if eLlast ws then l.streams.map fun x => if x.stream = sid then { x with closed := true, cursor := none } else x
                 else l.streams }
    if eKind ws = kWait then releaseRel q step ws else q
  | none => releaseRel q step ws

def State.complete (s : State) (p sid step : Nat) (ws : List W64) : State := s.updPart p fun q => completeEntry q sid step ws

/-- WAIT_ISSUE: a WAIT entry completes when its waits are met (R210). -/
def State.opWait (s : State) (p sid : Nat) (errs : List MemErr) : State :=
  s.issue p sid (· = kWait) errs (fun _ _ _ => true) fun s _ ws => s.complete p sid (s.part p).step ws

/-- LAYER_ISSUE: the stream joins the layer that the entry declares (R215). -/
def State.opLayer (s : State) (p sid : Nat) (errs : List MemErr) : State :=
  s.issue p sid (· = kLayer) errs (fun _ _ _ => true) fun s i ws =>
    let lidx := ef ws 2 15 4
    let me : LayerStream := ⟨sid, i + 1, none, false⟩
    s.updPart p fun q =>
      match q.layers.find? fun l => l.lidx = lidx with
      | some _ => updLayer q lidx fun l => { l with streams := l.streams ++ [me] }
      | none => { q with layers := q.layers ++
          [{ Layer.reset with lidx := lidx, layerId := ef ws 2 63 32, slot := ef ws 2 31 16, npos := ef ws 3 63 51,
                              streams := [me] }] }

/-- RESERVE_ISSUE: its charge was taken at admission (R232). -/
def State.opReserve (s : State) (p sid : Nat) (errs : List MemErr) : State :=
  s.issue p sid (· = kReserve) errs (fun _ _ _ => true) fun s _ _ => s

/-- STEP_END (R219): the stream's Token counters of the step are cleared. -/
def State.opStepEnd (s : State) (p sid : Nat) (errs : List MemErr) : State :=
  s.issue p sid (· = kStepEnd) errs (fun _ _ _ => true) fun s _ _ =>
    s.updPart p fun q => updStream q sid fun st =>
      { st with ended := true, tokens := Table.drop (fun i => i % 2 = q.step % 2) st.tokens
                provs := st.provs.filter fun i => i % 2 ≠ q.step % 2 }

/-- TOKEN_TIMEOUT counted, logged and told (R222, R496). -/
def State.noteTimeout (s : State) (p sid : Nat) : State :=
  let s := s.updPart p fun q => { updStream q sid (fun st => { st with timedOut := true }) with tokenTimeout := inc q.tokenTimeout }
  (s.logP s.leadNow 0x31 0xFFFF p [schLoadStatus (s.part p)]).partFault p 0x31 true

/-- TOKEN_TIMEOUT (R222): an entry whose waits stay unmet WAIT_LIMIT rounds after its planned round, once. A held update and a
held carrier entry count as waits on Tokens (R388, R391). -/
def State.opTokenTimeout (s : State) (p sid : Nat) (held : State → Nat → List W64 → Bool) (errs : List MemErr) : State :=
  s.whenOp fun s =>
    let q := s.part p
    if !mayIssue q sid ∨ (streamOf q sid).timedOut then s
    else
      let r := s.nextEntry p sid errs
      match r.1 with
      | none => r.2
      | some (i, ws) =>
        let late := decide (planned q q.step (eRound ws) + ((q.sched.map (·.waitLimit)).getD 0 : Nat) ≤ s.roundNow q)
        if late && (!waitsMet q sid ws || held s i ws) then r.2.noteTimeout p sid else s

/-- An UPD entry is held until the step before has committed (R388). -/
def updHeld (q : Part) : Bool := decide (q.stn.committed + 1 ≠ BitVec.ofNat 64 q.step) && decide (q.stn.committed ≠ BitVec.ofNat 64 q.step)

/-- The bytes of a LAYER_REPLAY record as payload words (R193). -/
def replayRecord (step layer slot attempt cause fr upTo : Nat) (xf xt : Int) (amax ovfN lostN pos : Nat) : List W64 :=
  let b := natLE 4 step ++ natLE 4 layer ++ natLE 2 slot ++ natLE 1 attempt ++ natLE 1 cause ++ natLE 1 fr ++ natLE 1 upTo
    ++ natLE 1 (twos 8 xf) ++ natLE 1 (twos 8 xt) ++ natLE 4 amax ++ natLE 4 ovfN ++ natLE 4 lostN ++ natLE 2 pos ++ zeros 2
  payloadWords b

/-- CAD_LAST_REPLAY (R194). -/
def lastReplayWord (slot step cause : Nat) (frSa : Bool) (frRung : Nat) (toSa : Bool) (toRung attempt : Nat) (xTo : Int) : W64 :=
  fields [at_ 63 48 slot, at_ 47 32 step, at_ 31 29 cause, flag 28 frSa, at_ 27 25 frRung, flag 24 toSa, at_ 23 21 toRung,
    at_ 20 18 attempt, at_ 17 9 (twos 9 xTo)]

/-- RANGE_AT_CEILING of an entry (R190): LEVEL equals CEIL, or LADDER is 0. -/
def atCeiling (q : Slot) : Bool := !cfgLadder q.cfg || decide (cfgCeil q.cfg ≤ stLevel q.state)

/-- An entry's report reaches the layer it belongs to (R188 to R190): overflows to the layer slot, and AMAX of the attempt. -/
def State.layerReport (s : State) (p pos : Nat) (c : Ctl) (lidx amax : Nat) (ovf : Bool) : State :=
  match layerOf (s.part p) lidx with
  | some l =>
    if !c.slotEn ∨ c.slot ≠ l.slot then s
    else
      let ceil := ovf && atCeiling (s.slot l.slot)
      let first := ceil && !l.ceilRaised
      let s := s.updPart p fun q => updLayer q lidx fun l =>
        { l with amax := amaxFold l.amax amax, ovf := l.ovf || ovf, ovfPos := if ovf then min l.ovfPos pos else l.ovfPos,
                 ovfEntries := if ovf then sat 32 (l.ovfEntries + 1) else l.ovfEntries, ceilRaised := l.ceilRaised || ceil }
      if first then s.updCol (l.slot / 4096) fun c => { c with cadCeiling := inc c.cadCeiling } else s
  | none => s

/-- An attempt is accepted (R186, R188): its releases go out, and a RANGE_AT_CEILING leaves its record (R193). -/
def State.layerAccept (s : State) (p : Nat) (l : Layer) : State :=
  let q := s.slot l.slot
  let s := if l.ceilRaised then
      let r := stLevel q.state
      let fr := r + (if l.sa then 8 else 0)
      let col := l.slot / 4096
      let step := (s.part p).step
      let s := s.logP col 0x21 l.ovfPos p (replayRecord step l.layerId l.slot l.attempt 5 fr fr (slotX q) (slotX q) l.amax
        l.ovfEntries l.lostTiles l.ovfPos)
      s.updCol col fun c => { c with cadLast := lastReplayWord l.slot step 5 l.sa r l.sa r l.attempt (slotX q) }
    else s
  let s := l.streams.foldl (fun s x => s.updPos x.stream (acceptAttempt l.lidx)) s
  s.updPart p fun q =>
    let q := { q with layers := q.layers.filter fun x => x.lidx ≠ l.lidx }
    l.rels.foldl (fun q rel => releaseTok q rel q.step (provStep q q.step)) q

/-- A replay ordered at the close (R188, R189, R193): LEVEL and SCALE_CODE, the record, and the attempt's leavings undone. -/
def State.layerReplay (s : State) (p : Nat) (l : Layer) (up : Bool) : State :=
  let q := s.slot l.slot
  let s := s.updSlot l.slot fun q => { (if up then raiseLevel q l.amax else q) with replays := inc q.replays }
  let q' := s.slot l.slot
  let cause := (if l.ovf then 1 else 0) + (if l.lost then 2 else 0) + (if l.ceilRaised then 4 else 0)
  let toSa := l.sa && !l.lost
  let fr := stLevel q.state + (if l.sa then 8 else 0)
  let upTo := stLevel q'.state + (if toSa then 8 else 0)
  let pos := min (if l.lost then l.lostPos else 0xFFF) (if up then l.ovfPos else 0xFFF)
  let col := l.slot / 4096
  let step := (s.part p).step
  let s := s.logP col 0x20 pos p (replayRecord step l.layerId l.slot (l.attempt + 1) cause fr upTo (slotX q) (slotX q') l.amax
    l.ovfEntries l.lostTiles pos)
  let s := s.updCol col fun c =>
    { c with cadReplays := inc c.cadReplays
             cadLast := lastReplayWord l.slot step cause l.sa (stLevel q.state) toSa (stLevel q'.state) (l.attempt + 1) (slotX q') }
  let s := l.streams.foldl (fun s x => s.updPos x.stream (undoAttempt l.lidx)) s
  s.updPart p fun q => updLayer q l.lidx fun l =>
    { l with attempt := l.attempt + 1, la := l.la || l.lost, lost := false, lostPos := 0xFFF, lostTiles := 0, ovf := false,
             ovfPos := 0xFFF, ovfEntries := 0, amax := 0, sa := false, rels := [], ceilRaised := false, waiting := true,
             closedAt := s.tm.clk }

/-- LAYER_CLOSE (R188): when every LLAST entry has completed its own work. -/
def State.opLayerClose (s : State) (p lidx : Nat) : State :=
  s.whenOp fun s =>
    match layerOf (s.part p) lidx with
    | some l =>
      if l.waiting ∨ (l.streams.filter (·.closed)).length < l.npos ∨ (s.part p).stn.st ≠ 1 then s
      else
        let up := l.ovf && !atCeiling (s.slot l.slot)
        if l.lost ∨ up then s.layerReplay p l up else s.layerAccept p l
    | none => s

/-- LAYER_REPLAY_ISSUE: the replay begins, no earlier than 1,024 cycles after the close (R191). -/
def State.opLayerReplay (s : State) (p lidx : Nat) : State :=
  s.whenOp fun s =>
    match layerOf (s.part p) lidx with
    | some l =>
      let ready := l.streams.all fun x => decide (1024000 ≤ s.since l.closedAt * s.clusterMhz (x.stream / 16))
      if !l.waiting ∨ !ready ∨ (s.part p).stn.st ≠ 1 then s
      else s.updPart p fun q => updLayer q lidx fun l =>
        { l with waiting := false, streams := l.streams.map fun x => { x with cursor := some x.first, closed := false } }
    | none => s

def execWaitIssue (p sid : Nat) (errs : List MemErr) (s : State) : Out := .next (s.opWait p sid errs)
def execLayerIssue (p sid : Nat) (errs : List MemErr) (s : State) : Out := .next (s.opLayer p sid errs)
def execReserveIssue (p sid : Nat) (errs : List MemErr) (s : State) : Out := .next (s.opReserve p sid errs)
def execStepEnd (p sid : Nat) (errs : List MemErr) (s : State) : Out := .next (s.opStepEnd p sid errs)
def execLayerClose (p lidx : Nat) (s : State) : Out := .next (s.opLayerClose p lidx)
def execLayerReplayIssue (p lidx : Nat) (s : State) : Out := .next (s.opLayerReplay p lidx)

end Sys2Proof.Machine
end

