-- ==== Sys2Proof/Machine/Vector.lean ====
section
/-! DEFINITION. The vector unit's operations and fused updates (R128 to R131). -/
namespace Sys2Proof.Machine

/-- The operation of a code; none for the reserved codes (vector operation table). -/
def vecOpOfCode : Nat → Option VecOp
  | 0x01 => some .vadd | 0x02 => some .vmul | 0x03 => some .vfma | 0x04 => some .vscale | 0x05 => some .vmax
  | 0x06 => some .vmin | 0x10 => some .updPlain | 0x11 => some .updMomentum | 0x12 => some .updAdamw | _ => none

/-- Whether an operation is an UPD entry (R388). -/
def vecIsUpd : VecOp → Bool
  | .updPlain | .updMomentum | .updAdamw => true
  | _ => false

/-- A term negated exactly (R130). -/
def negTerm (e : Elem) : Elem := { e with sign := !e.sign }

/-- A result code with its poison. -/
structure VecVal where
  code : Nat
  poison : Bool
  deriving DecidableEq, Repr, Inhabited

/-- rnd32 of an exact sum, a poisoned term making the result poisoned and NaN (R129). -/
def rndSum (ts : List Elem) : VecVal :=
  let y := exactSum ts
  ⟨rnd32 y, y.poison⟩

/-- A rounded intermediate as an element again. -/
def vecElem (v : VecVal) : Elem := if v.poison then ⟨.nan, false, 0, 0, true⟩ else fp32 v.code

/-- The larger (or smaller) of two values by exact value; +0 over -0 (vector operation table). -/
def vecPick (wantMin : Bool) (a b : Elem) : VecVal :=
  let p := a.poison || b.poison
  if a.cls = .nan ∨ b.cls = .nan then ⟨0x7FC00000, p⟩
  else
    let pick :=
      if valLt a b then (if wantMin then a else b)
      else if valLt b a then (if wantMin then b else a)
      else if a.sign = wantMin then a else b
    ⟨rnd32 pick, p⟩

/-- The per-tensor parameters, FP32 codes in the order of the update pseudocode. -/
abbrev VecParams := List Nat

/-- Parameter n as an element. -/
def prm (p : VecParams) (n : Nat) : Elem := fp32 (p.getD n 0)

/-- upd_plain, parameters lr, lrwd (R130). -/
def updPlain (p : VecParams) (w g : Elem) : VecVal :=
  rndSum [w, negTerm (product (prm p 0) g), negTerm (product (prm p 1) w)]

/-- upd_momentum, parameters lr, lrwd, mu (R130): (w2, m2). -/
def updMomentum (p : VecParams) (w m g : Elem) : VecVal × VecVal :=
  let m2 := rndSum [product (prm p 2) m, g]
  (rndSum [w, negTerm (product (prm p 0) (vecElem m2)), negTerm (product (prm p 1) w)], m2)

/-- upd_adamw, parameters lr, lrwd, mu, b1, ob1, b2, ob2, c1, c2, eps (R130): (w2, m2, v2). -/
def updAdamw (p : VecParams) (w m v g : Elem) : VecVal × VecVal × VecVal :=
  let m2 := rndSum [product (prm p 3) m, product (prm p 4) g]
  let v2 := rndSum [product (prm p 5) v, product (product (prm p 6) g) g]
  let n := rndSum [product (prm p 7) (vecElem m2)]
  let cv := rndSum [product (prm p 8) (vecElem v2)]
  let sq : VecVal := ⟨sqrtRn cv.code, cv.poison⟩
  let den := rndSum [vecElem sq, prm p 9]
  let quo : VecVal := ⟨divRn n.code den.code, n.poison || den.poison⟩
  let w2 := rndSum [w, negTerm (product (prm p 0) (vecElem quo)), negTerm (product (prm p 1) w)]
  (w2, m2, v2)

/-- The results of one element of an operation (R130): one value, or w2, m2, v2 of an update. The inputs stand in the
order of the operand list: a or w, b or m, c or v, g. -/
def vecElemOp (op : VecOp) (p : VecParams) (i0 i1 i2 g : Elem) : List VecVal :=
  match op with
  | .vadd => [rndSum [i0, i1]]
  | .vmul => [rndSum [product i0 i1]]
  | .vfma => [rndSum [product i0 i1, i2]]
  | .vscale => [rndSum [product (prm p 0) i0]]
  | .vmax => [vecPick false i0 i1]
  | .vmin => [vecPick true i0 i1]
  | .updPlain => [updPlain p i0 g]
  | .updMomentum => let r := updMomentum p i0 i1 g; [r.1, r.2]
  | .updAdamw => let r := updAdamw p i0 i1 i2 g; [r.1, r.2.1, r.2.2]

/-- Whether a result value was written as NaN, for CUB_VEC_NAN (R135). -/
def vecIsNan (v : VecVal) : Bool := v.poison || decide ((fp32 v.code).cls = .nan)

end Sys2Proof.Machine
end

