-- ==== Sys2Proof/Machine/Tiles.lean ====
section
/-! DEFINITION. What the entries of a position stream do (chapters 03, 04, 05): tiles in SA and LA mode with seeds and merges,
drains and exports, conversions, vector operations and list merges, with the sampling of the Strainer (R372 to R380). -/
namespace Sys2Proof.Machine

/-- The unit that fills a position, as the steward numbers it (units of one column). -/
def State.unitOf (s : State) (pos : Nat) : Nat := pos / 256 * 4096 + pos / 16 % 16 * 17 + s.physSlot pos

/-- The position's unit is not held by a hang (R491). -/
def State.unitFree (s : State) (pos : Nat) : Bool := !s.dev.heldUnits.contains (s.unitOf pos)

/-- D of a checking fraction; none while checking is off (R375). -/
def fractionD (cfg : W64) : Option Nat :=
  match fld cfg 63 61 with
  | 1 => some 1 | 2 => some 4 | 3 => some 16 | 4 => some 64 | 5 => some 256 | _ => none

/-- One eligible tile or CONV entry at a countdown: whether it is sampled, and the countdown after it (R376). -/
def countdown (d : Option Nat) (g : Nat) : Bool × Nat :=
  match d with
  | none => (false, g)
  | some d => if g = 0 then (true, d - 1) else (false, g - 1)

/-- An operand image as it is taken from core store: its bytes, and whether a poisoned granule held part of it. -/
abbrev Img := Bytes × Bool

/-- Image o of the array at granule g (R79). -/
def imgOf (l : Grans) (g o : Nat) : Img :=
  let a := 256 * g + 96 * o
  ((List.range 96).map fun i => byteOf l (a + i), (granOf l a).poison || (granOf l (a + 95)).poison)

/-- An image taken into a state: the state, LA_IMAGE_BAD, TERM_LIMIT (R81, R82). An image from a poisoned granule counts as one
term of class nan and poison mark 1 (log 13). -/
def takeImg (st : Acc) (m : Img) : Acc × Bool × Bool :=
  if m.2 then (addTerm st ⟨.nan, false, 0, 0, true⟩, false, addRaises st) else mergeImage st m.1

/-- The terms of a list added, and how often TERM_LIMIT is raised (R73). -/
def addRaise (st : Acc) (ts : List Elem) : Acc × Nat :=
  ts.foldl (fun (a : Acc × Nat) t => (addTerm a.1 t, if addRaises a.1 then a.2 + 1 else a.2)) (st, 0)

/-- Images merged one after another: the state, LA_IMAGE_BAD events, TERM_LIMIT events (R97, R119). -/
def mergeRaise (st : Acc) (ms : List Img) : Acc × Nat × Nat :=
  ms.foldl (fun (a : Acc × Nat × Nat) m =>
    let (st, bad, lim) := takeImg a.1 m
    (st, a.2.1 + b2n bad, a.2.2 + b2n lim)) (st, 0, 0)

/-- The products of an output cut into blocks of 32 (R90). -/
def blocksOf (ps : List Elem) : List (List Elem) := (List.range (ps.length / 32)).map fun k => (ps.drop (32 * k)).take 32

/-- LOW of one output (R178): the lowest set bit of a nonzero block contribution. -/
def lowOf (blocks : List (List Elem)) : Nat :=
  blocks.foldl (fun m b => match lowBit (blockSum b).natAbs with | some n => min m n | none => m) noBit

/-- TOP of a tile (R178). -/
def topOf (sts : List Acc) : Nat :=
  sts.foldl (fun m st => match topBit st.value.natAbs with | some n => topFold m n | none => m) noBit

/-- The operands of a tile as the cube takes them: 4 lanes of A, 16 of B, the seed and the merges of each output. -/
structure TileIn where
  a : List (List Elem)
  b : List (List Elem)
  seed : Option (List Img)
  merges : List (List Img)

/-- The products of output o. -/
def TileIn.prods (t : TileIn) (o : Nat) : List Elem := products (t.a.getD (o / 16) []) (t.b.getD (o % 16) [])

/-- The images that output o takes, the seed first. -/
def TileIn.imgs (t : TileIn) (o : Nat) : List Img :=
  (match t.seed with | some l => [l.getD o ([], false)] | none => []) ++ t.merges.map fun l => l.getD o ([], false)

/-- A tile in LA mode (R77, R81 to R83): the 64 states, LA_IMAGE_BAD events and TERM_LIMIT events. -/
def TileIn.runLa (t : TileIn) : List Acc × Nat × Nat :=
  (List.range 64).foldl (fun (r : List Acc × Nat × Nat) o =>
    let seeds := match t.seed with | some l => [l.getD o ([], false)] | none => []
    let (s0, b0, l0) := mergeRaise accClear seeds
    let (s1, l1) := addRaise s0 (t.prods o)
    let (s2, b2, l2) := mergeRaise s1 (t.merges.map fun l => l.getD o ([], false))
    (r.1 ++ [s2], r.2.1 + b0 + b2, r.2.2 + l0 + l1 + l2)) ([], 0, 0)

/-- What an SA tile loses: the cube cycle of the loss (none: the anchor is out of range), the output, the block, the cause. -/
structure Loss where
  unit : Option Nat
  out : Nat
  block : Nat
  cause : LossCause
  deriving DecidableEq, Repr

/-- The loss of an SA tile, if any (R89 to R91, R97, R117): that of the earliest chunk, and in it of the lowest output. -/
def TileIn.loss (t : TileIn) (anchor : Int) (bpc : Nat) : Option Loss :=
  if !anchorOk anchor then some ⟨none, 0, 0, .anchorRange⟩
  else (List.range 64).foldl (fun best o =>
    match saBlocks anchor 0 ⟨0, accClear⟩ (blocksOf (t.prods o)) with
    | .ok _ => best
    | .error (k, cause) =>
      match best with
      | some b => if k / bpc < b.unit.getD 0 then some ⟨some (k / bpc), o, k, cause⟩ else best
      | none => some ⟨some (k / bpc), o, k, cause⟩) none

/-- The code of a loss cause (R99). -/
def lossCode : LossCause → Nat
  | .belowAnchor => 1 | .beyond16 => 2 | .anchorRange => 3

/-- ACC_LAST_LOSS (R99). -/
def lastLossWord (entry : Nat) (anchor : Int) (l : Loss) : W64 :=
  let fits := decide (-512 ≤ anchor ∧ anchor ≤ 511)
  fields [at_ 63 32 entry, at_ 31 26 l.out, at_ 25 24 (lossCode l.cause), at_ 23 14 (if fits then twos 10 anchor else 0x200),
    at_ 13 0 (if l.cause = .anchorRange then 0 else min l.block 0x3FFF)]

/-- Whether a zero operand gates a product cell (R126). -/
def gates (a b : Elem) : Bool := (a.cls = .finite && a.sig = 0) || (b.cls = .finite && b.sig = 0)

/-- Gated products over the first `k` contraction positions of all 64 outputs (R127). -/
def TileIn.gated (t : TileIn) (k : Nat) : Nat :=
  (List.range 64).foldl (fun n o =>
    n + (((t.a.getD (o / 16) []).take k).zip ((t.b.getD (o % 16) []).take k)).countP fun e => gates e.1 e.2) 0

/-- val(e) of R372, in units of 2^-304. -/
def valAt (e : Elem) : Int := if e.cls = .finite then fixed e else 0

/-- The sum of a list of whole numbers. -/
def isum (l : List Int) : Int := l.foldl (· + ·) 0

/-- marker(p) of R372. -/
def marker (p : Elem) : Elem := ⟨p.cls, p.sign, if p.sig = 0 then 0 else 1, 0, p.poison⟩

/-- An image as the lane takes it: a failing one is its nan term (R372). -/
def imgState (m : Img) : Acc := (takeImg accClear m).1

/-- check_tile (R372) on 64 states: the kind and output of the failure (R383), if any. -/
def TileIn.check (t : TileIn) (st : List Acc) : Option (Nat × Nat) :=
  let k := (t.a.getD 0 []).length
  let sv := fun (i j : Nat) => (st.getD (16 * i + j) accClear).value
  let im := fun (i j : Nat) => isum ((t.imgs (16 * i + j)).map fun m => (imgState m).value)
  let av := fun (i n : Nat) => valAt ((t.a.getD i []).getD n default)
  let bv := fun (j n : Nat) => valAt ((t.b.getD j []).getD n default)
  let ns := List.range k
  let is := List.range 4
  let js := List.range 16
  let rows := is.filter fun i =>
    isum (ns.map fun n => av i n * isum (js.map fun j => bv j n)) + 2 ^ 304 * isum (js.map fun j => im i j)
      ≠ 2 ^ 304 * isum (js.map fun j => sv i j)
  let cols := js.filter fun j =>
    isum (ns.map fun n => isum (is.map fun i => av i n) * bv j n) + 2 ^ 304 * isum (is.map fun i => im i j)
      ≠ 2 ^ 304 * isum (is.map fun i => sv i j)
  let flags := (List.range 64).filter fun o =>
    let f := addTerms accClear ((t.prods o).map marker)
    let f := (t.imgs o).foldl (fun f m => merge f { imgState m with value := 0 }) f
    decide ({ f with value := 0 } ≠ { st.getD o accClear with value := 0 })
  match rows, cols, flags with
  | [], [], [] => none
  | [], [], o :: _ => some (4, o)
  | i :: _, [], _ => some (1, 16 * i)
  | [], j :: _, _ => some (2, j)
  | i :: _, j :: _, _ => some (3, 16 * i + j)

/-- A state with one bit changed by a silent error: bits 0 to 639 are VALUE, 640 to 680 TERMS, then NAN, PINF, NINF, NEGZ and
POISON. -/
def flipBit (a : Acc) (b : Nat) : Acc :=
  if b < 640 then { a with value := sext 640 (twos 640 a.value ^^^ 2 ^ b) }
  else if b < 681 then { a with terms := a.terms ^^^ 2 ^ (b - 640) }
  else match b with
  | 681 => { a with nan := !a.nan }
  | 682 => { a with pinf := !a.pinf }
  | 683 => { a with ninf := !a.ninf }
  | 684 => { a with negz := !a.negz }
  | 685 => { a with poison := !a.poison }
  | _ => a

/-- Silent errors in the states of a tile: upset u changes bit u % 1024 of output u / 1024. -/
def upsetStates (sts : List Acc) (us : List Nat) : List Acc :=
  us.foldl (fun l u => modAt l (u / 1024) fun a => flipBit a (u % 1024)) sts

/-- One lane of an operand register (R109): the chunk's places in core store, in order. -/
def laneBytes (v : View) (l : Grans) (bpc : Nat) (places : List (Nat × Nat)) : Bytes :=
  let codes := places.map fun p => v.codes l p.1 p.2
  let scale := fun (b : Nat) => match codes[32 * b]? with
    | some c => if fmtScaled v.f then c.2.1 else 0x7F
    | none => 0x7F
  let bad := (List.range bpc).foldl (fun m b =>
    if ((codes.drop (32 * b)).take 32).any fun c => c.2.2 then setBit m b else m) 0
  slice (pack (fmtWidth v.f) (codes.map (·.1))) 0 128
    ++ (List.range 4).map (fun b => BitVec.ofNat 8 (if b < bpc then scale b else 0x7F))
    ++ natLE 1 (fmtCode v.f) ++ natLE 1 bad ++ zeros 2

/-- The places of chunk c of lane i. -/
def chunkPlaces (v : View) (v0 e0 i k bpc c : Nat) : List (Nat × Nat) :=
  ((List.range (32 * bpc)).map (32 * bpc * c + ·)).filterMap fun t => if t < k then some (v.place v0 e0 i t) else none

/-- A buffer of n lanes that holds chunk c. -/
def bufBytes (v : View) (l : Grans) (v0 e0 n k bpc c : Nat) : Bytes :=
  (List.range n).flatMap fun i => laneBytes v l bpc (chunkPlaces v v0 e0 i k bpc c)

/-- The operand registers after `n` chunks of a tile: chunk c stands in buffer c % 2 of each pair (R108, R109; log 14). -/
def operandRegs (old : Bytes) (va vb : View) (l : Grans) (av ae bv be k bpc n : Nat) : Bytes :=
  let last := fun (b : Nat) => (List.range n).reverse.find? fun c => c % 2 = b
  let part := fun (o len : Nat) (b : Nat) (f : Nat → Bytes) => match last b with | some c => f c | none => slice old o len
  part 0 544 0 (bufBytes va l av ae 4 k bpc) ++ part 544 544 1 (bufBytes va l av ae 4 k bpc)
    ++ part 1088 2176 0 (bufBytes vb l bv be 16 k bpc) ++ part 3264 2176 1 (bufBytes vb l bv be 16 k bpc)

/-- The output control of an entry as it issues: the rung's, when its layer's slot has a ladder (R180). -/
def State.ctlNow (s : State) (q : Part) (ws : List W64) : Ctl :=
  let c := (ctlOf (ws.getD 7 0)).getD default
  match layerOf q (eLidx ws) with
  | some l =>
    let sl := s.slot c.slot
    if c.slotEn && decide (c.slot = l.slot) && cfgLadder sl.cfg then ctlAt c sl.cfg (stLevel sl.state) else c
  | none => c

/-- The block exponent that the Caddy gives an entry as it issues (R156). -/
def State.xNow (s : State) (c : Ctl) : Int := if c.scaleSrc = .caddy then (stScale (s.slot c.slot).state : Int) - 127 else 0

/-- Fields of words 5 and 6 of an entry (R212, R214). -/
def eParam (ws : List W64) : Nat := ef ws 6 63 50
def eOut (ws : List W64) : Nat := ef ws 6 49 38
def eOutVlen (ws : List W64) : Nat := ef ws 6 37 27
def eOrow (ws : List W64) : Nat := ef ws 6 26 13
def eOcol (ws : List W64) : Nat := ef ws 6 12 1
def tileK (ws : List W64) : Nat := 32 * ef ws 5 63 28
def tileSa (ws : List W64) : Bool := ef ws 5 27 27 = 1
def tileScope (ws : List W64) : Bool := ef ws 5 26 26 = 1
def tileSeed (ws : List W64) : Bool := ef ws 5 25 25 = 1
def tileMerges (ws : List W64) : Nat := ef ws 5 24 21

/-- The place of output o of a tile in its output tensor (R213). -/
def tileOut (c : Ctl) (ws : List W64) (o : Nat) : Nat × Nat :=
  let row := 4 * eOrow ws + o / 16
  let col := 16 * eOcol ws + o % 16
  if c.blockAxis && decide (c.layout = .mxVector) then (col, row) else (row, col)

/-- The granules of the image list of a tile, and of the arrays that it names (R212). -/
def listGrans (l : Grans) (ws : List W64) (n : Nat) : List Nat :=
  (List.range n).map fun i => leNat [byteOf l (64 * ef ws 5 20 7 + 2 * i), byteOf l (64 * ef ws 5 20 7 + 2 * i + 1)] % 4096

/-- The operands of a tile read from core store, each granule once (R102, R269): the granules and the state. -/
def State.tileLoad (s : State) (p pos : Nat) (ws : List W64) (errs : List MemErr) : Grans × List Nat × State :=
  let n := b2n (tileSeed ws) + tileMerges ws
  let lg := if n = 0 then [] else [64 * ef ws 5 20 7 / 256]
  let (l0, s) := s.loadGrans p pos lg errs
  let arrays := listGrans l0 ws n
  let va := s.view (ws.getD 2 0)
  let vb := s.view (ws.getD 3 0)
  let k := tileK ws
  let gs := va.allGrans (ef ws 4 63 48) (ef ws 4 47 32) 4 k ++ vb.allGrans (ef ws 4 31 16) (ef ws 4 15 0) 16 k
    ++ arrays.flatMap fun g => (List.range 24).map (g + ·)
  let (l1, s) := s.loadGrans p pos (gs.filter fun g => !lg.contains g) errs
  (l0 ++ l1, arrays, s)

/-- The operands as the cube takes them. -/
def State.tileIn (s : State) (ws : List W64) (l : Grans) (arrays : List Nat) : TileIn :=
  let va := s.view (ws.getD 2 0)
  let vb := s.view (ws.getD 3 0)
  let k := tileK ws
  let imgs := fun (g : Nat) => (List.range 64).map fun o => imgOf l g o
  { a := va.lanes l (ef ws 4 63 48) (ef ws 4 47 32) 4 k
    b := vb.lanes l (ef ws 4 31 16) (ef ws 4 15 0) 16 k
    seed := if tileSeed ws then some (imgs (arrays.getD 0 0)) else none
    merges := (arrays.drop (b2n (tileSeed ws))).map imgs }

/-- The anchor of a tile that runs in SA mode, none for LA mode, and whether its request counts in CAD_SA_DECLINED (R87, R185,
R189, R421). -/
def State.saMode (s : State) (q : Part) (ws : List W64) : Option Int × Bool :=
  let c := (ctlOf (ws.getD 7 0)).getD default
  let narrow := decide (tileClass (s.view (ws.getD 2 0)).f (s.view (ws.getD 3 0)).f ≤ 2)
  let la : Bool := match layerOf q (eLidx ws) with | some l => l.la | none => false
  if !tileSa ws ∨ !narrow ∨ la then (none, false)
  else if q.forceLa ∨ !stSaOk (s.slot c.slot).state then (none, true)
  else (some (stAnchor (s.slot c.slot).state), false)

/-- Events of a position raised `n` times, each with a log entry of payload 0. -/
def State.logTimes (s : State) (p pos event n : Nat) : State := (List.range n).foldl (fun s _ => s.logPos p pos event 0) s

/-- The cube's timing after a tile (R107 to R124, R379), with CUB_ADVANCE_CYCLES, CUB_DRAIN_STALL and CUB_FILL_CYCLES. -/
def timed (r : CubeRun) (now clk : Nat) (q : Pos) : Pos :=
  { q with timer := { r.t.prune (now / 1000) with at_ := now, clk := clk }, advance := incBy q.advance r.advance,
           drainStall := incBy q.drainStall r.stall, fill := incBy q.fill r.fills }

/-- A tile loses exactness (R93, R94, R99, R117, R179, R377): the loss is recorded; under scope TILE the tile waits for its LA
replay, under scope LAYER the layer is told and the entry has done its own work. -/
def State.tileLost (s : State) (p pos i : Nat) (ws : List W64) (anchor : Int) (l : Loss) (tile : Tile) : State :=
  let w := lastLossWord (i % 2 ^ 32) anchor l
  let s := s.updPos pos fun q => { q with exactLost := inc q.exactLost, lastLoss := w }
  let s := (s.logPos p pos 0x10 w).reportLost ((ctlOf (ws.getD 7 0)).getD default).slot
  let s := s.updPart p fun q => updLayer q (eLidx ws) fun y => { y with lostTiles := sat 32 (y.lostTiles + 1) }
  if tileScope ws then
    let s := s.updPart p fun q => updLayer q (eLidx ws) fun y => { y with lost := true, lostPos := min y.lostPos pos }
    s.complete p pos tile.step ws
  else s.updPos pos fun q => { q with replay := some tile }

/-- A tile runs in LA mode, or in SA mode without a loss (R62 to R88, R104 to R124): its states stand in the set it used, and it waits
for its drain. -/
def State.tileRan (s : State) (p pos : Nat) (ws : List W64) (sa : Bool) (t : TileIn) (tile : Tile) (c ready now : Nat)
    (regs : Pos → Pos) (upset : List Nat) : State :=
  let q0 := s.posn pos
  let (sampled, g) := countdown (fractionD (s.part p).stn.cfg) q0.g
  let check := if sampled then checkCycles c else 0
  let r := q0.timer.tile (s.rampLen pos) ready c (tileSeed ws) (tileMerges ws) check
  let (sts, bads, lims) := t.runLa
  let sts := upsetStates sts upset
  let limit := sts.any fun st => st.terms = 2 ^ 40 + 1
  let tile := { tile with sampled := sampled, low := (List.range 64).foldl (fun m o => min m (lowOf (blocksOf (t.prods o)))) noBit,
                          bad := if sampled && !limit then t.check sts else none, limit := limit }
  let s := s.updPos pos fun q =>
    let q := timed r now s.tm.clk (regs q)
    { q with g := g, saTiles := if sa then inc q.saTiles else q.saTiles, termLimit := incBy q.termLimit lims,
             imageBad := incBy q.imageBad bads, set0 := if tile.set1 then q.set0 else sts,
             set1 := if tile.set1 then sts else q.set1, waiting := q.waiting ++ [tile] }
  let s := s.updCluster (pos / 16) fun k => { k with checkCycles := incBy k.checkCycles check }
  let s := if sa then s.updPart p fun q => updLayer q (eLidx ws) fun y => { y with sa := true } else s
  (s.logTimes p pos 0x11 lims).logTimes p pos 0x12 bads

/-- An SA tile loses exactness at `loss` (R89 to R91, R117): `regs` leaves the chunks that the tile fetched in the operand registers. -/
def State.tileSaLost (s : State) (p pos i : Nat) (ws : List W64) (a : Int) (loss : Loss) (tile : Tile) (c ready now : Nat)
    (regs : Pos → Pos) : State :=
  let r := (s.posn pos).timer.lost (s.rampLen pos) ready c loss.unit
  let s := s.updPos pos fun q => timed r now s.tm.clk (regs q)
  let s := s.updPart p fun q => updLayer q (eLidx ws) fun y => { y with sa := true }
  s.tileLost p pos i ws a loss tile

/-- A tile runs (R62 to R92, R104 to R124): `anchor` is none in LA mode. An anchor out of range ends an SA tile before it fetches
anything (R89). `ready` is the cycle in which it may fetch. -/
def State.runTile (s : State) (p pos i step : Nat) (ws : List W64) (anchor : Option Int) (ready : Nat) (errs : List MemErr)
    (upset : List Nat) : State :=
  let now := s.milliNow pos
  let va := s.view (ws.getD 2 0)
  let vb := s.view (ws.getD 3 0)
  let cls := tileClass va.f vb.f
  let (bpc, cpc) := chunkShape cls anchor.isSome
  let c := tileCycles (ef ws 5 63 28) cls anchor.isSome
  let ctl := s.ctlNow (s.part p) ws
  let tile : Tile := ⟨p, pos, i, step, ws, (s.posn pos).timer.set1, false, ctl.format, ctl.layout, ctl.scaleSrc, s.xNow ctl, eLidx ws,
    noBit, none, false⟩
  if anchor.any fun a => !anchorOk a then
    s.tileSaLost p pos i ws (anchor.getD 0) ⟨none, 0, 0, .anchorRange⟩ tile c ready now id
  else
    let (l, arrays, s) := s.tileLoad p pos ws errs
    let t := s.tileIn ws l arrays
    let regs := fun (n : Nat) (q : Pos) =>
      { q with operands := operandRegs q.operands va vb l (ef ws 4 63 48) (ef ws 4 47 32) (ef ws 4 31 16) (ef ws 4 15 0) (tileK ws) bpc n
               gated := incBy q.gated (t.gated (32 * bpc * n)) }
    match anchor, anchor.bind fun a => t.loss a bpc with
    | some a, some loss =>
      s.tileSaLost p pos i ws a loss tile c ready now (regs (match loss.unit with | some u => u + 1 | none => 0))
    | _, _ => s.tileRan p pos ws anchor.isSome t tile c ready now (regs (c / max 1 cpc)) upset

/-- The granules of core store that an entry reads, and those that it writes (R279). -/
structure Access where
  reads : List Nat
  writes : List Nat

/-- The granules that an element of an output tensor is written to: its code, and its block's scale code (R155, R159). -/
def outGrans (q : Pos) (c : Ctl) (base vlen vec e : Nat) : List Nat :=
  let b := (findBlock q base vec e).getD ⟨base, vlen, c.layout, c.format, (blockAt c.layout vec e).1, (blockAt c.layout vec e).2.1,
    c.scaleSrc, 0, 0, 0, false, false, []⟩
  let a := 2048 * base + elemBit b.lay b.fmt vlen vec e
  [a / 2048, (a + fmtWidth b.fmt - 1) / 2048] ++ if fmtScaled b.fmt then [blockScale b / 256] else []

/-- The parameter block of an entry as it stands in core store. -/
def State.prmAt (s : State) (pos : Nat) (ws : List W64) : OutPrm :=
  prmOf (s.peek (s.phys (rgnDpa (coreRegion pos) (64 * eParam ws))) 64)

/-- What an entry that writes outputs accesses at its drain or conversion: `outs` are the places of its elements, `rows` its rows. -/
def State.outAccess (s : State) (pos : Nat) (ws : List W64) (c : Ctl) (outs : List (Nat × Nat)) (rows : Nat) : Access :=
  let prm := s.prmAt pos ws
  { reads := (64 * eParam ws / 256) :: ((if c.bias then [prm.bias / 256] else [])
      ++ if c.act = .pwl then (List.range 9).map (prm.table / 256 + ·) else [])
    writes := (if c.raw then (List.range 24).map (eOut ws + ·)
        else outs.flatMap fun o => outGrans (s.posn pos) c (eOut ws) (eOutVlen ws) o.1 o.2)
      ++ if c.topkClose then (List.range rows).flatMap fun i => [(prm.topk + 256 * i) / 256, (prm.topk + 256 * i + 255) / 256] else [] }

/-- What a tile takes from core store (R102). -/
def State.tileReads (s : State) (pos : Nat) (ws : List W64) : List Nat :=
  let n := b2n (tileSeed ws) + tileMerges ws
  let list := s.peek (s.phys (rgnDpa (coreRegion pos) (64 * ef ws 5 20 7))) (2 * n)
  let va := s.view (ws.getD 2 0)
  let vb := s.view (ws.getD 3 0)
  (if n = 0 then [] else [64 * ef ws 5 20 7 / 256])
    ++ va.allGrans (ef ws 4 63 48) (ef ws 4 47 32) 4 (tileK ws) ++ vb.allGrans (ef ws 4 31 16) (ef ws 4 15 0) 16 (tileK ws)
    ++ (List.range n).flatMap fun i => (List.range 24).map (leAt list (2 * i) 2 % 4096 + ·)

/-- What a tile that waits for its drain, or for its LA replay, still accesses. -/
def State.tileAccess (s : State) (pos : Nat) (t : Tile) (again : Bool) : Access :=
  let c := { (ctlOf (t.words.getD 7 0)).getD default with format := t.fmt, layout := t.lay, scaleSrc := t.src }
  let a := s.outAccess pos t.words c ((List.range 64).map (tileOut c t.words)) 4
  if again then { a with reads := s.tileReads pos t.words ++ a.reads } else a

/-- The view of an operand that the vector unit writes, or that a CONV entry reads: dense FP32 (R132, R214). -/
def viewF32 (w : W64) : View := ⟨descOf w, .fp32, .dense⟩

/-- What a VEC entry accesses; its descriptors stand in core store (R214). -/
def State.vecAccess (s : State) (pos : Nat) (ws : List W64) : Access :=
  let n := ef ws 2 55 32
  let w := wordsOf (s.peek (s.phys (rgnDpa (coreRegion pos) (64 * ef ws 2 17 4))) 64)
  let of := fun (v : View) => (List.range n).flatMap fun t => v.gransOf (v.seq t).1 (v.seq t).2
  { reads := [64 * ef ws 2 17 4 / 256, 64 * ef ws 2 31 18 / 256] ++ (List.range 4).flatMap fun i => of (s.view (w.getD i 0))
    writes := (List.range 3).flatMap fun i => of (viewF32 (w.getD (4 + i) 0)) }

/-- What an entry accesses as it issues. The drains of a position's tiles come in the order of the tiles, so a tile counts with its
operands only. -/
def State.accessOf (s : State) (p pos : Nat) (ws : List W64) : Access :=
  if eKind ws = kTile then ⟨s.tileReads pos ws, []⟩
  else if eKind ws = kConv then
    let v := viewF32 (ws.getD 2 0)
    let n := ef ws 3 63 40
    let a := s.outAccess pos ws (s.ctlNow (s.part p) ws) ((List.range n).map fun t => (eOrow ws, 16 * eOcol ws + t)) 1
    { a with reads := v.allGrans (ef ws 3 39 24) (ef ws 3 23 8) 1 n ++ a.reads }
  else if eKind ws = kVec then s.vecAccess pos ws
  else if eKind ws = kMerge then ⟨(List.range (ef ws 2 39 32)).map (ef ws 2 63 52 + ·), [ef ws 2 51 40]⟩
  else ⟨[], []⟩

/-- Whether accesses a may come before accesses b: neither writes what the other reads or writes. -/
def Access.apart (a b : Access) : Bool :=
  (a.writes.all fun g => !b.reads.contains g && !b.writes.contains g) && a.reads.all fun g => !b.writes.contains g

/-- An entry waits for the tiles before it in its stream that have still to access one of its granules (R279). -/
def State.orderFree (s : State) (p pos : Nat) (ws : List W64) : Bool :=
  let q := s.posn pos
  let later := q.waiting.map (s.tileAccess pos · false) ++ q.replay.toList.map (s.tileAccess pos · true)
  later.isEmpty || later.all (s.accessOf p pos ws).apart

/-- Whether a position's unit can take an entry (R279, R491). -/
def State.unitRoom (s : State) (p pos : Nat) (ws : List W64) : Bool := s.unitFree pos && s.orderFree p pos ws

/-- Whether a position can take another tile: one of its sets is free, and no tile waits for its LA replay (R101, R115). -/
def State.tileRoom (s : State) (p pos : Nat) (ws : List W64) : Bool :=
  s.unitRoom p pos ws && (s.posn pos).replay.isNone && decide ((s.posn pos).waiting.length < 2)

/-- TILE_ISSUE (R101 to R119, R185, R218, R376). -/
def State.opTile (s : State) (p pos : Nat) (errs : List MemErr) (upset : List Nat) : State :=
  s.issue p pos (· = kTile) errs (fun s _ ws => s.tileRoom p pos ws) fun s i ws =>
    let (anchor, declined) := s.saMode (s.part p) ws
    let slot := ((ctlOf (ws.getD 7 0)).getD default).slot
    let s := if declined then s.updCol (slot / 4096) fun c => { c with cadDeclined := inc c.cadDeclined } else s
    s.runTile p pos i (s.part p).step ws anchor (max (s.cycleNow pos) (s.posn pos).timer.cycle) errs upset

/-- TILE_LA_REPLAY (R94, R118): the same tile in LA mode, from the cycle in which the cube is free. -/
def State.opLaReplay (s : State) (p pos : Nat) (errs : List MemErr) (upset : List Nat) : State :=
  s.whenOp fun s =>
    match (s.posn pos).replay with
    | some t =>
      if t.part ≠ p ∨ !s.unitFree pos then s
      else
        let s := s.updPos pos fun q => { q with replay := none }
        s.runTile p pos t.entry t.step t.words none (s.posn pos).timer.cycle errs upset
    | none => s

/-- The parameter block of an entry, its poison, and the granules of its bias or PWL table (R142, R143, R146). -/
def State.loadPrm (s : State) (p pos : Nat) (ws : List W64) (c : Ctl) (errs : List MemErr) : OutPrm × Bool × Grans × State :=
  let a := 64 * eParam ws
  let (l0, s) := s.loadGrans p pos [a / 256] errs
  let prm := prmOf ((List.range 64).map fun i => byteOf l0 (a + i))
  let more := (if c.bias then [prm.bias / 256] else [])
    ++ (if c.act = .pwl then (List.range 9).map (prm.table / 256 + ·) else [])
  let (l1, s) := s.loadGrans p pos (more.filter (· ≠ a / 256)) errs
  (prm, (granOf l0 a).poison, l0 ++ l1, s)

/-- The bias term of column j (R143). -/
def biasTerm (l : Grans) (prm : OutPrm) (j : Nat) : Elem :=
  let (c, bad) := bitsAt l (8 * (prm.bias + 4 * j)) 32
  decodeScaled .fp32 c 127 bad

/-- The bit of core store that bit `b` of the code of an element (vec, e) takes, none past the code's width. -/
def codeBit (q : Pos) (c : OutCtx) (vec e b : Nat) : Option Nat :=
  let k := match blockFor q c vec e with | some k => (k.fmt, k.lay) | none => (c.ctl.format, c.ctl.layout)
  if b < fmtWidth k.1 then some (2048 * c.base + elemBit k.2 k.1 c.vlen vec e + b) else none

/-- Silent errors in the codes that an entry writes, as (element, bit) pairs. -/
def OutRun.upsets (r : OutRun) (q : Pos) (c : OutCtx) (us : List ((Nat × Nat) × Nat)) : OutRun :=
  us.foldl (fun r u => match codeBit q c u.1.1 u.1.2 u.2 with | some a => r.upset a | none => r) r

/-- A report of an entry to its slot and its layer (R152, R162, R178, R215). -/
def State.tellSlot (s : State) (p pos : Nat) (c : Ctl) (lidx amax top low : Nat) (ovf : Bool) : State :=
  if c.slotEn then (s.report c.slot amax top low ovf).layerReport p pos c lidx amax ovf else s

/-- An earlier entry whose last held elements this run has written: its RANGE_OVF, if it has raised none, and its completion once no
block holds an element of it (R152, R161, R215, R280). -/
def State.settleOwed (s : State) (cx : OutCtx) (run : OutRun) (o : Owed) : State :=
  let ovf := run.firstOvf o.entry o.step
  let raise := ovf.isSome && !o.raised
  let s := if raise then
      (s.rangeOvf cx.p cx.pos (ovf.getD 0)).tellSlot cx.p cx.pos { cx.ctl with slotEn := o.slotEn, slot := o.slot } o.lidx 0 noBit noBit true
    else s
  let mine := fun (x : Owed) => x.entry = o.entry && x.step = o.step
  if holdsOf (s.posn cx.pos) o.entry o.step then
    s.updPos cx.pos fun q => { q with owed := q.owed.map fun x => if mine x then { x with raised := x.raised || raise } else x }
  else (s.updPos cx.pos fun q => { q with owed := q.owed.filter fun x => !mine x }).complete cx.p cx.pos o.step o.words

/-- The end of an entry of a position (R152, R162, R178, R215): its reports, and its completion; while an OWN block holds elements of
it, the completion waits for the entry that closes the block (R161, R280). Entries that this one has closed blocks for are settled. -/
def State.entryEnd (s : State) (cx : OutCtx) (run : OutRun) (amax top low : Nat) (ws : List W64) : State :=
  let ovf := (run.firstOvf cx.entry cx.step).isSome
  let s := s.tellSlot cx.p cx.pos cx.ctl cx.lidx amax top low ovf
  let s := if holdsOf (s.posn cx.pos) cx.entry cx.step then
      s.updPos cx.pos fun q => { q with owed := q.owed ++ [⟨cx.entry, cx.step, ws, cx.ctl.slotEn, cx.ctl.slot, cx.lidx, ovf⟩] }
    else s.complete cx.p cx.pos cx.step ws
  (((s.posn cx.pos).owed.filter fun o => run.closed.contains (o.entry, o.step)).foldl (fun s o => s.settleOwed cx run o) s)

/-- Output o of a tile through the pipeline, its bias added first (R143). -/
def OutRun.tileElem (cx : OutCtx) (ws : List W64) (sts : List Acc) (r : OutRun) (o : Nat) : OutRun :=
  let c := cx.ctl
  let st := sts.getD o accClear
  let (st, lim) := if c.bias then let b := biasTerm cx.table cx.prm (o % 16); (addTerm st b, addRaises st) else (st, false)
  let r := if lim then
      { r with s := (r.s.updPos cx.pos fun q => { q with termLimit := inc q.termLimit }).logPos cx.p cx.pos 0x11 0 } else r
  let (vec, e) := tileOut c ws o
  let row := cx.prm.row0 + o / 16
  let col := cx.prm.col0 + o % 16
  r.elem cx o vec e row col (row * cx.prm.ncols + col) (classify st)

/-- DRAIN_START (R113, R114, R138 to R171): the 64 outputs of the tile that waits longest, converted or exported. -/
def State.drainTile (s : State) (p pos : Nat) (t : Tile) (errs : List MemErr) (upset : List Nat) : State :=
  let ws := t.words
  let s := s.updPos pos fun q => { q with waiting := q.waiting.drop 1, tiles := inc q.tiles }
  let sts := if t.set1 then (s.posn pos).set1 else (s.posn pos).set0
  let base := (ctlOf (ws.getD 7 0)).getD default
  let c := { base with format := t.fmt, layout := t.lay, scaleSrc := t.src }
  let (prm, bad, l, s) := s.loadPrm p pos ws c errs
  let cx : OutCtx := ⟨p, pos, t.entry, t.step, c, prm, bad, l, eOut ws, eOutVlen ws, t.x, t.lidx⟩
  let failing := (upset.map (· / 64)).foldl min 64
  let fail := match t.bad with
    | some f => some f
    | none => if t.sampled && decide (failing < 64) && !c.raw then some (5, failing) else none
  let s :=
    if c.raw then
      (s.coreStore p pos (256 * eOut ws) ((List.range 64).flatMap fun o => accImage (sts.getD o accClear)) false errs).complete p pos t.step ws
    else
      let q := s.posn pos
      let run := (List.range 64).foldl (OutRun.tileElem cx ws sts) (OutRun.start s)
      let run := (run.upsets q cx (upset.map fun u => (tileOut c ws (u / 64), u % 64))).topClose cx 4
      (run.done cx errs).entryEnd cx run run.amax (topOf sts) t.low ws
  if t.sampled then
    s.updCluster (pos / 16) fun k => { k with queue := k.queue ++ [⟨p, t.step, pos, t.entry, false, t.limit, fail⟩] }
  else s

def State.opDrain (s : State) (p pos : Nat) (errs : List MemErr) (upset : List Nat) : State :=
  s.whenOp fun s =>
    match (s.posn pos).waiting with
    | t :: _ => if t.part ≠ p ∨ !s.unitFree pos then s else s.drainTile p pos t errs upset
    | [] => s

/-- CONV_ISSUE (R132, R214, R376): FP32 elements through the output pipeline; `upset` u changes bit u % 64 of element u / 64. -/
def State.opConv (s : State) (p pos : Nat) (errs : List MemErr) (upset : List Nat) : State :=
  s.issue p pos (· = kConv) errs (fun s _ ws => s.unitRoom p pos ws) fun s i ws =>
    let step := (s.part p).step
    let (sampled, h) := countdown (fractionD (s.part p).stn.cfg) (s.posn pos).h
    let s := s.updPos pos fun q => { q with h := h }
    let v := viewF32 (ws.getD 2 0)
    let n := ef ws 3 63 40
    let v0 := ef ws 3 39 24
    let e0 := ef ws 3 23 8
    let ctl := s.ctlNow (s.part p) ws
    let vec := eOrow ws
    let x := s.xNow ctl
    let (l, s) := s.loadGrans p pos (v.allGrans v0 e0 1 n) errs
    let (prm, bad, lp, s) := s.loadPrm p pos ws ctl errs
    let cx : OutCtx := ⟨p, pos, i, step, ctl, prm, bad, lp, eOut ws, eOutVlen ws, x, eLidx ws⟩
    let q := s.posn pos
    let run := (List.range n).foldl (fun (r : OutRun) t =>
      let (a, b) := v.place v0 e0 0 t
      r.elem cx t vec (16 * eOcol ws + t) prm.row0 (prm.col0 + t) (prm.row0 * prm.ncols + prm.col0 + t) (v.elem l a b))
      (OutRun.start s)
    let us := (upset.filter fun u => u / 64 < n).map fun u => ((vec, 16 * eOcol ws + u / 64), u % 64)
    let run := (run.upsets q cx us).topClose cx 1
    let s := (run.done cx errs).entryEnd cx run run.amax noBit noBit ws
    let failing := (upset.map (· / 64)).foldl min n
    let fail := if sampled && decide (failing < n) then some (5, failing % 64) else none
    if sampled then
      s.updCluster (pos / 16) fun k => { k with queue := k.queue ++ [⟨p, step, pos, i, true, false, fail⟩] }
    else s

/-- Fields of a VEC entry (R214). -/
def vecOp (ws : List W64) : Option VecOp := vecOpOfCode (ef ws 2 63 56)
def vecCount (ws : List W64) : Nat := ef ws 2 55 32

/-- How many inputs an operation takes from the first three descriptors, whether it reads g and how many results it writes. -/
def vecShape : VecOp → Nat × Bool × Nat
  | .vadd | .vmul | .vmax | .vmin => (2, false, 1)
  | .vfma => (3, false, 1)
  | .vscale => (1, false, 1)
  | .updPlain => (1, true, 1)
  | .updMomentum => (2, true, 2)
  | .updAdamw => (3, true, 3)

/-- Whether an operation uses the parameter list. -/
def vecUsesPrm : VecOp → Bool
  | .vscale | .updPlain | .updMomentum | .updAdamw => true
  | _ => false

/-- Every result of a VEC entry, computed from the values before it (R130, R131): (descriptor, element, value). -/
def vecResults (op : VecOp) (prms : VecParams) (prmBad : Bool) (views : List View) (l : Grans) (n : Nat) :
    List (Nat × Nat × VecVal) :=
  (List.range n).flatMap fun t =>
    let inp := fun (d : Nat) => match views[d]? with | some v => let (a, b) := v.seq t; v.elem l a b | none => default
    let rs := vecElemOp op prms (inp 0) (inp 1) (inp 2) (inp 3)
    (rs.zip (List.range rs.length)).map fun e =>
      (4 + e.2, t, if prmBad && vecUsesPrm op then ⟨0x7FC00000, true⟩ else e.1)

/-- An UPD entry that its step's predecessor holds back (R388). -/
def vecHeld (q : Part) (ws : List W64) : Bool := (vecOp ws).any vecIsUpd && updHeld q

/-- What a VEC entry takes from core store: the views of its operands and results, its parameters and their poison, and the granules. -/
structure VecIn where
  views : List View
  prms : VecParams
  bad : Bool
  l : Grans

/-- The operands of a VEC entry read, each granule once (R102, R130, R269). -/
def State.vecLoad (s : State) (p pos : Nat) (ws : List W64) (op : VecOp) (errs : List MemErr) : VecIn × State :=
  let n := vecCount ws
  let pa := 64 * ef ws 2 31 18
  let oa := 64 * ef ws 2 17 4
  let (lo, s) := s.loadGrans p pos ([oa / 256] ++ (if vecUsesPrm op then [pa / 256] else [])) errs
  let word := fun (i : Nat) => BitVec.ofNat 64 (leNat ((List.range 8).map fun b => byteOf lo (oa + 8 * i + b)))
  let (ins, usesG, _) := vecShape op
  let views := ((List.range 4).map fun i => s.view (word i)) ++ ((List.range 3).map fun i => viewF32 (word (4 + i)))
  let used := List.range ins ++ (if usesG then [3] else [])
  let gs := used.flatMap fun d => (List.range n).flatMap fun t =>
    match views[d]? with | some v => let (a, b) := v.seq t; v.gransOf a b | none => []
  let (l, s) := s.loadGrans p pos gs errs
  (⟨views, (List.range 10).map fun i => (bitsAt lo (8 * (pa + 4 * i)) 32).1, (granOf lo pa).poison, l⟩, s)

/-- The results of a VEC entry as writes, in element order (R131). -/
def vecWrites (views : List View) (res : List (Nat × Nat × VecVal)) : List Wr :=
  res.filterMap fun e => (views[e.1]?).map fun v => ⟨v.bitOf (v.seq e.2.1).1 (v.seq e.2.1).2, 32, e.2.2.code, e.2.2.poison⟩

/-- A VEC entry runs (R128 to R133, R409). -/
def State.runVec (s : State) (p pos : Nat) (ws : List W64) (op : VecOp) (errs : List MemErr) : State :=
  let (x, s) := s.vecLoad p pos ws op errs
  let res := vecResults op x.prms x.bad x.views x.l (vecCount ws)
  let s := s.storeWrs p pos (vecWrites x.views res) errs
  let s := s.updPos pos fun q => { q with vecNan := incBy q.vecNan (res.countP fun e => vecIsNan e.2.2) }
  let s := if vecIsUpd op && res.any (fun e => e.2.2.poison) then
      let step := (s.part p).step
      let s := s.updStn p fun t => { t with poisoned := inc t.poisoned, poisonSteps := if t.poisonSteps.contains step then t.poisonSteps
                                                                                       else step :: t.poisonSteps }
      s.logPos p pos 0x75 (stnState (s.part p))
    else s
  s.complete p pos (s.part p).step ws

/-- The entry that a stream issues next is an UPD entry that R388 alone holds back. -/
def State.heldNext (s : State) (p pos : Nat) (errs : List MemErr) : Bool :=
  s.operational && mayIssue (s.part p) pos &&
    match (s.nextEntry p pos errs).1 with
    | some (_, ws) => eKind ws = kVec && s.due (s.part p) ws && waitsMet (s.part p) pos ws && vecHeld (s.part p) ws
    | none => false

/-- An UPD entry that R388 holds is counted once (R388). -/
def State.noteHeld (s : State) (p pos : Nat) : State :=
  if (streamOf (s.part p) pos).heldUpd then s
  else s.updPart p fun q => { updStream q pos (fun st => { st with heldUpd := true }) with stn := { q.stn with heldUpd := inc q.stn.heldUpd } }

/-- VEC_ISSUE (R128 to R133, R388). -/
def State.opVec (s : State) (p pos : Nat) (errs : List MemErr) : State :=
  if s.heldNext p pos errs then s.noteHeld p pos
  else s.issue p pos (· = kVec) errs (fun s _ ws => s.unitRoom p pos ws && !vecHeld (s.part p) ws) fun s _ ws =>
    match vecOp ws with
    | some op => s.runVec p pos ws op errs
    | none => s

/-- MERGE_ISSUE (R167): the lists merged; a poisoned input granule leaves the output granule poisoned (log 13). -/
def State.opMerge (s : State) (p pos : Nat) (errs : List MemErr) : State :=
  s.issue p pos (· = kMerge) errs (fun s _ ws => s.unitRoom p pos ws) fun s _ ws =>
    let gs := (List.range (ef ws 2 39 32)).map (ef ws 2 63 52 + ·)
    let (l, s) := s.loadGrans p pos gs errs
    let m := topMerge (gs.map fun g => (granOf l (256 * g)).data)
    let bad := gs.any fun g => (granOf l (256 * g)).poison
    let s := s.coreStore p pos (256 * ef ws 2 51 40) (topBytes m.out) bad errs
    let s := s.updPos pos fun q => { q with topkDup := incBy q.topkDup m.dups }
    (s.logTimes p pos 0x14 m.bads).complete p pos (s.part p).step ws

def execTileIssue (p pos : Nat) (errs : List MemErr) (upset : List Nat) (s : State) : Out := .next (s.opTile p pos errs upset)
def execTileLaReplay (p pos : Nat) (errs : List MemErr) (upset : List Nat) (s : State) : Out :=
  .next (s.opLaReplay p pos errs upset)
def execDrainStart (p pos : Nat) (errs : List MemErr) (upset : List Nat) (s : State) : Out := .next (s.opDrain p pos errs upset)
def execConvIssue (p pos : Nat) (errs : List MemErr) (upset : List Nat) (s : State) : Out := .next (s.opConv p pos errs upset)
def execVecIssue (p pos : Nat) (errs : List MemErr) (s : State) : Out := .next (s.opVec p pos errs)
def execMergeIssue (p pos : Nat) (errs : List MemErr) (s : State) : Out := .next (s.opMerge p pos errs)

end Sys2Proof.Machine
end

