-- ==== Sys2Proof/Machine/Strainer.lean ====
section
/-! DEFINITION. The Strainer's checks and verdicts, the votes and commits, retraction and replay, suspect clusters (chapter 11),
and the step boundary (R182, R226, R229, R397). -/
namespace Sys2Proof.Machine

/-- SLIP_PARENT of the job record; none at the tree's root (R344). -/
def slipParent (q : Part) : Option Nat :=
  let c := leAt q.job 16 2 % 2 ^ 14
  if q.job.isEmpty ∨ c = 0x3FFF then none else some c

/-- SLIP_CHILD of the job record (R344). -/
def slipChildren (q : Part) : List Nat :=
  if q.job.isEmpty then []
  else ((List.range 8).map fun i => leAt q.job (18 + 2 * i) 2 % 2 ^ 14).filter (· ≠ 0x3FFF)

/-- The member's neighbours in the broadcast tree. -/
def treeConns (q : Part) : List Nat := (slipParent q).toList ++ slipChildren q

/-- CARRIER of STN_PART_CFG. -/
def carrierCid (q : Part) : Nat := fld q.stn.cfg 59 44

/-- The member number of the admitted schedule. -/
def memberNo (q : Part) : Nat := (q.sched.map (·.member)).getD 0

/-- Step n is the last of the schedule (R393). -/
def finalStep (q : Part) (n : Nat) : Bool :=
  match q.sched with
  | some h => decide (h.steps ≠ 0) && decide (n = h.first + h.steps - 1)
  | none => false

/-- The 32 bytes of a VERDICT payload (R398). -/
def verdictBytes (step kind att flags stage member cid stepno rseq pos : Nat) : Bytes :=
  natLE 8 step ++ natLE 1 kind ++ natLE 1 att ++ natLE 1 flags ++ natLE 1 stage ++ natLE 2 member ++ natLE 2 cid
    ++ natLE 2 stepno ++ natLE 2 rseq ++ natLE 2 pos ++ zeros 10

/-- A VERDICT sent on a connection that is open. -/
def State.sendVerdict (s : State) (c : Nat) (payload : Bytes) : State :=
  if (s.conn c).st = 2 then s.sendMsg c opVerdict payload else s

/-- A VERDICT of a kind that concerns a step or an order, sent on some connections. -/
def State.sendOrder (s : State) (p : Nat) (cs : List Nat) (kind step att flags rseq : Nat) : State :=
  cs.foldl (fun s c => s.sendVerdict c (verdictBytes step kind att flags 0 (memberNo (s.part p)) 0 0 rseq 0)) s

/-- Step n is not committed at the member (R396: all ones means none). -/
def uncommitted (q : Part) (n : Nat) : Bool := decide (oldestStep q ≤ n)

/-- STN_LAST_FAIL (R411). -/
def lastFailWord (entry step pos phys kind out action : Nat) : W64 :=
  fields [at_ 63 32 entry, at_ 31 22 step, at_ 21 18 (pos % 16), at_ 17 13 phys, at_ 12 10 kind, at_ 9 4 out, at_ 3 2 action]

/-- TILE_CHECK_DONE (R372 to R374, R383, R384): the oldest check of a lane completes; `lane` says that the lane passes the
self-test that it runs before it reports a failure. -/
def State.opCheckDone (s : State) (cl : Nat) (lane : Bool) : State :=
  s.whenOp fun s =>
    match (s.cluster cl).queue with
    | [] => s
    | ch :: rest =>
      let s := s.updCluster cl fun k => { k with queue := rest }
      if (s.cluster cl).laneFailed ∨ ch.skip then
        s.updCluster cl fun k => { k with unchecked := if ch.conv then k.unchecked else inc k.unchecked }
      else
        let s := s.updCluster cl fun k =>
          if ch.conv then { k with convChecked := inc k.convChecked } else { k with checked := inc k.checked }
        match ch.fail with
        | none => s
        | some (kind, out) =>
          let mark := (ch.step, if lane then ch.pos else 4096)
          let s := s.updStn ch.part fun t => { t with failing := if t.failing.contains mark then t.failing else mark :: t.failing }
          let w := lastFailWord (ch.entry % 2 ^ 32) ch.step ch.pos (s.physSlot ch.pos) (if lane then kind else 6)
            (if lane then out else 0) 0
          let s := s.updCluster cl fun k =>
            { k with lastFail := w, mismatch := if lane && decide (kind ≠ 5) then inc k.mismatch else k.mismatch,
                     residue := if lane && decide (kind = 5) then inc k.residue else k.residue }
          let s := s.logPos ch.part ch.pos 0x70 w
          if lane then s else s.laneFail cl

/-- The clusters of a partition. -/
def partClusters (q : Part) : List Nat := bitsOf 256 q.clusters

/-- Whether a position still holds work of the partition: tiles that wait for their drain or their LA replay. -/
def State.posBusy (s : State) (p n : Nat) : Bool :=
  (s.posn n).waiting.any (fun t => t.part = p) || (s.posn n).replay.any fun t => t.part = p

/-- Whether the work and the checks of step n are complete (R182, R385). -/
def State.stepSettled (s : State) (p n : Nat) : Bool :=
  let q := s.part p
  (decide (n < q.step) || (decide (n = q.step) && (partStreams q).all fun i => (streamOf q i).ended))
    && (partPositions q).all (fun i =>
      !(s.posn i).waiting.any (fun t => t.part = p && t.step = n) && !(s.posn i).replay.any fun t => t.part = p && t.step = n)

def State.checksDone (s : State) (p n : Nat) : Bool :=
  (partClusters (s.part p)).all fun c => !(s.cluster c).queue.any fun ch => ch.part = p && ch.step = n

/-- The member's verdict of step n (R385): FAIL 1, POISON 2, UNCHECKED 4. -/
def State.verdictFlags (s : State) (p n : Nat) : Nat :=
  let q := s.part p
  let unchecked := (fractionD q.stn.cfg).isNone || (partClusters q).any fun c => (s.cluster c).laneFailed
  b2n (q.stn.failing.any fun e => e.1 = n) + 2 * b2n (q.stn.poisonSteps.contains n) + 4 * b2n unchecked

/-- A RETRACT or HANDOVER order applied at a member (R399, R400, R403, R407): passed to the children, then orders 1 and 2. -/
def State.applyOrder (s : State) (p rseq n att : Nat) (handover : Bool) : State :=
  let s := s.sendOrder p (slipChildren (s.part p)) (if handover then 8 else 5) n att 0 rseq
  s.updPart p fun q =>
    let t := q.stn
    let r := match t.retracted with | some x => min x n | none => n
    { q with
      colls := q.colls.filter fun x => x.step < r
      collIn := q.collIn.filter fun x => x.step < r
      collAsk := q.collAsk.filter fun x => x.step < r
      collRes := q.collRes.filter fun x => x.step < r
      spill := Table.drop (fun cid => !q.colls.any fun x => decide (x.step < r) && decide (ef x.words 2 63 48 = cid)) q.spill
      stn := { t with rseq := rseq, retracts := if handover then t.retracts else inc t.retracts,
                      count := if handover then t.count else t.count + 1,
                      attempts := if handover then t.attempts else Table.set 0 t.attempts n (attemptOf q n + 1),
                      retracted := some r, st := 2, quiesced := [], quiescedSent := false,
                      verdicts := Table.drop (fun i => r ≤ i) t.verdicts, votes := Table.drop (fun i => r ≤ i) t.votes,
                      treeVotes := [], handover := t.handover || handover } }

/-- A REQUEST or a stray VERDICT dropped and counted (R398, R399). -/
def State.dropVerdict (s : State) (p : Nat) : State := s.updStn p fun t => { t with drops := inc t.drops }

/-- A REQUEST at the root (R399, R403, R407). -/
def State.rootRequest (s : State) (p n att : Nat) (exhausted : Bool) : State :=
  let q := s.part p
  if q.stn.st = 0 ∨ q.stn.st = 4 ∨ q.stn.handover ∨ !uncommitted q n ∨ q.step < n ∨ att ≠ attemptOf q n then s.dropVerdict p
  else s.applyOrder p ((q.stn.rseq + 1) % 65536) n att (exhausted || decide (3 ≤ att))

/-- A REQUEST of the member itself (R399, R404). -/
def State.request (s : State) (p n pos : Nat) (exhausted : Bool) : State :=
  let q := s.part p
  let att := attemptOf q n
  match slipParent q with
  | none => s.rootRequest p n att exhausted
  | some c => s.sendVerdict c (verdictBytes n 4 att (1 + 8 * b2n exhausted) 0 (memberNo q) 0 0 0 pos)

/-- The position named by a REQUEST: the lowest that failed in the step, 0 when none is charged. -/
def failPos (q : Part) (n : Nat) : Nat :=
  let l := (q.stn.failing.filter fun e => e.1 = n && e.2 < 4096).map (·.2)
  match l with
  | [] => 0
  | x :: t => t.foldl min x

/-- The retained copies of slots and countdowns advanced to the start of the current step (R195, R394). -/
def advanceSlot (q : Slot) : Slot := { q with keepState := q.startState, keepPending := pendingReset, keepHist := q.hist }

/-- CADDY_SNAP (R394 order 3): the slot images as they stood at the start of the step. -/
def State.snapSlots (s : State) (p : Nat) : State :=
  let q := s.part p
  let a := fld q.stn.cfg 43 12 * 256
  if a = 0 then s
  else ((slotsOf q).zip (List.range q.slotCount)).foldl (fun s e =>
    let sl := s.slot e.1
    (s.writePart p (a + 256 * e.2) (slotImage { sl with state := sl.startState, pending := pendingReset }) (fun _ => false) []).getD s) s

/-- A member enters handover (R407, R409). -/
def State.enterHandover (s : State) (p event : Nat) : State :=
  (s.updStn p fun t => { t with st := 4, handover := true }).partFault p event true

/-- A schedule that has run its last step ends (SCH_LOAD_STATUS, XSI_PART_STATUS). -/
def endSchedule (q : Part) : Part :=
  { q with schSt := 5, schRej := false, st := if q.st = .running then .ready else q.st, stn := { q.stn with st := 0 } }

/-- What a step boundary does to slots and countdowns (R182, R183, R376), with their copies at the start of the step that follows. -/
def State.boundaryParts (s : State) (p : Nat) : State :=
  let s := s.slotsStep p
  let s := (slotsOf (s.part p)).foldl (fun s i => s.updSlot i fun x => { x with startState := x.state }) s
  (partPositions (s.part p)).foldl (fun s i => s.updPos i fun x =>
    { x with g := x.g - 1, h := x.h - 1, startG := x.g - 1, startH := x.h - 1 }) s

/-- The commit of step n (R394, R405, R409); `flags` is the job's verdict. The final step, which no boundary has followed, is followed by
one here, since the commit keeps and snaps the slots as they stand at the start of step n + 1 (R394). -/
def State.commitStep (s : State) (p n flags : Nat) : State :=
  let s := s.traceLead p 5 2 [n, flags, (s.part p).stn.rseq]
  let s := if finalStep (s.part p) n then s.boundaryParts p else s
  let s := s.updStn p fun t =>
    { t with committed := BitVec.ofNat 64 n, verdicts := Table.drop (fun i => i ≤ n) t.verdicts,
             votes := Table.drop (fun i => i ≤ n) t.votes, attempts := Table.drop (fun i => i ≤ n) t.attempts,
             failing := t.failing.filter fun e => n < e.1, poisonSteps := t.poisonSteps.filter fun e => n < e,
             passed := t.passed.filter fun e => n < e.1 }
  let q := s.part p
  let s := (slotsOf q).foldl (fun s i => s.updSlot i advanceSlot) s
  let s := (partPositions q).foldl (fun s i => s.updPos i fun x =>
    let clean := x.clean + 1
    { x with keepG := x.startG, keepH := x.startH, fails := if 4096 ≤ clean then 0 else x.fails,
             clean := if 4096 ≤ clean then 0 else clean }) s
  let s := s.snapSlots p
  let s := s.updPart p fun q => release511 q (n + 1)
  let s := if finalStep q n then s.updPart p endSchedule else s
  if testBit flags 1 && bit q.stn.cfg 60 then
    let s := s.updStn p fun t => { t with poisoned := inc t.poisoned }
    (s.logP s.leadNow 0x75 0xFFFF p [stnState (s.part p)]).enterHandover p 0x75
  else s

/-- The votes of the final step up the tree, and the root's decision (R393). -/
def State.treeVote (s : State) (p n : Nat) : State :=
  let q := s.part p
  match verdictOf q n with
  | some own =>
    let kids := slipChildren q
    if !finalStep q n ∨ q.step ≠ n ∨ oldestStep q ≠ n ∨ q.stn.st ≠ 1 ∨ !kids.all (fun c => q.stn.treeVotes.any fun v => v.1 = c) then s
    else
      let flags := q.stn.treeVotes.foldl (fun f v => f ||| v.2) own
      match slipParent q with
      | some c => (s.traceLead p 5 1 [n, flags, q.stn.rseq]).sendOrder p [c] 2 n (attemptOf q n) flags 0
      | none =>
        let s := s.sendOrder p kids 3 n (attemptOf q n) flags 0
        if flags % 2 = 0 then s.commitStep p n flags else s
  | none => s

/-- VERDICT_READY (R385, R399): the verdict of the oldest step that has none becomes ready. -/
def State.opVerdict (s : State) (p : Nat) : State :=
  s.whenOp fun s =>
    let q := s.part p
    let o := oldestStep q
    match ((List.range (q.step + 1 - o)).map (o + ·)).find? fun n => (verdictOf q n).isNone with
    | none => s
    | some n =>
      if (q.stn.st ≠ 1 ∧ q.stn.st ≠ 2) ∨ (q.stn.retracted.any fun r => r ≤ n) ∨ !s.stepSettled p n ∨ !s.checksDone p n then s
      else
        let v := s.verdictFlags p n
        let s := s.traceLead p 5 0 [n, v, q.stn.rseq]
        let s := s.updStn p fun t => { t with verdicts := Table.set none t.verdicts n (some v), fails := if v % 2 = 1 then inc t.fails else t.fails }
        let s := if v % 2 = 1 then s.request p n (failPos q n) q.stn.exhausted else s
        s.treeVote p n

/-- The carrier entries that a collective stream has still to issue in the current step. -/
def State.carrierAhead (s : State) (p sid : Nat) : Bool :=
  let q := s.part p
  let st := streamOf q sid
  st.live && !st.ended && (List.range st.count).any fun i =>
    decide (st.next ≤ i) && match (s.fetchEntry p sid i []).1 with
      | some ws => eKind ws = kColl && runsIn ws q.step && ef ws 2 63 48 = carrierCid q
      | none => true

/-- CARRIER_COMPLETE (R392): the carrier's last entry of step n + 1 has completed; the job's verdict of step n. A final step whose votes
waited for that commit goes on (R393). -/
def State.opCarrier (s : State) (p : Nat) : State :=
  s.whenOp fun s =>
    let q := s.part p
    let n := oldestStep q
    let done := !q.colls.any (fun x => !x.done && ef x.words 2 63 48 = carrierCid q && x.step = q.step)
      && (partCols q).all fun c => !s.carrierAhead p (0x1010 + c)
    match verdictOf q n with
    | some own =>
      if q.stn.st ≠ 1 ∨ q.step ≠ n + 1 ∨ !done then s
      else
        let flags := own ||| Table.get 0 q.stn.votes n
        if flags % 2 = 0 then (s.commitStep p n flags).treeVote p (n + 1) else s
    | none => s

/-- A granule of the core store of a position copied to physical slot b of its cluster, its tag verified (R269, R406): one that cannot be
read, or whose tag fails, arrives poisoned. -/
def State.copyGran (s : State) (p pos b g : Nat) : State :=
  let x := s.readGranAt accOperand p (s.coreIndex pos) (coreRegion pos) (256 * g) []
  let base := 2 ^ 40 + (pos / 16 * 17 + b) * 2 ^ 20 + 256 * g
  let s := (List.range 4).foldl (fun s i => s.setLine (base / 64 + i) (if x.1.poison then some ⟨0, true⟩ else none)) (x.2.poke base x.1.data)
  s.setTag (base / 256) (BitVec.ofNat 32 (crc32c x.1.data))

/-- The core store of a position copied to physical slot b of its cluster, every tag verified (R406). A granule that nothing has written
is zero and has its tag. -/
def State.copySlot (s : State) (p pos b : Nat) : State :=
  let base := fun (n : Nat) => 2 ^ 40 + (pos / 16 * 17 + n) * 2 ^ 20
  let a := base (s.physSlot pos)
  let mine := fun (x : Nat) => decide (a ≤ x) && decide (x < a + 2 ^ 20)
  let gone := fun (x : Nat) => decide (base b ≤ x) && decide (x < base b + 2 ^ 20)
  let m := s.mem
  let gs := dedup (((m.cells.filter fun e => mine e.1).map fun e => (e.1 - a) / 256)
    ++ ((m.lines.filter fun e => mine (64 * e.1)).map fun e => (64 * e.1 - a) / 256)
    ++ ((m.tags.filter fun e => mine (256 * e.1)).map fun e => (256 * e.1 - a) / 256))
  gs.foldl (fun s g => s.copyGran p pos b g)
    { s with mem := { m with cells := Table.drop gone m.cells, lines := Table.drop (fun x => gone (64 * x)) m.lines,
                             tags := Table.drop (fun x => gone (256 * x)) m.tags } }

/-- ACTION of STN_LAST_FAIL, when the register shows the position. -/
def State.noteAction (s : State) (pos action : Nat) : State :=
  s.updCluster (pos / 16) fun k =>
    if fld k.lastFail 12 10 ≠ 0 ∧ fld k.lastFail 21 18 = pos % 16 then
      { k with lastFail := k.lastFail - at_ 3 2 (fld k.lastFail 3 2) + at_ 3 2 action }
    else k

/-- The cluster's spare fills no position and is not held by a hang (R404, R491). -/
def State.spareFree (s : State) (cl : Nat) : Bool :=
  (s.margin cl).spare.isNone && !s.dev.heldUnits.contains (cl / 16 * 4096 + cl % 16 * 17 + 16)

/-- A remap to the spare with its core reset, or SPARE_EXHAUSTED (R404, R406, R481): the state, and whether the spare was not free. -/
def State.remap (s : State) (p pos : Nat) : Bool × State :=
  let cl := pos / 16
  if s.spareFree cl then
    let s := (s.copySlot p pos 16).bookFill pos
    let s := s.updMargin cl fun m => { m with spare := some (pos % 16, pos % 16) }
    let s := (s.updPos pos fun q => { coreReset q with fails := 0 }).noteAction pos 2
    (false, s.logPos p pos 0x73 (s.cluster cl).lastFail)
  else
    let s := s.noteAction pos 3
    (true, s.logPos p pos 0x74 (s.cluster cl).lastFail)

/-- One margin step of a cluster (R404): a voltage step, or a clock bin while the column stands at its power limit (log 15). -/
def State.marginStep (s : State) (p pos : Nat) : State :=
  let cl := pos / 16
  let full := decide ((s.colPwr (cl / 16)).cause = 1) && decide (0 < (s.colPwr (cl / 16)).bin)
  let s := s.reclock (s.updMargin cl fun m => if full then { m with fbins := m.fbins + 1 } else { m with vsteps := m.vsteps + 1 })
  let s := s.noteAction pos 1
  s.logPos p pos 0x72 (s.cluster cl).lastFail

/-- One position charged (R404, R405): `stepped` are the clusters that took a margin step in this sequence; the Bool says that
the spare was in use. -/
def State.charge (s : State) (p : Nat) (stepped : List Nat) (pos : Nat) : Bool × List Nat × State :=
  let s := s.updPos pos fun q => { q with fails := min 2 (q.fails + 1), clean := 0 }
  let m := s.margin (pos / 16)
  if (s.posn pos).fails = 1 ∧ m.vsteps + m.fbins < 4 then
    if stepped.contains (pos / 16) then (false, stepped, s.noteAction pos 1)
    else (false, pos / 16 :: stepped, s.marginStep p pos)
  else if (s.posn pos).fails = 1 ∧ stepped.contains (pos / 16) then (false, stepped, s.noteAction pos 1)
  else let (ex, s) := s.remap p pos; (ex, stepped, s)

/-- Numbers in rising order, each once. -/
def sortNat (l : List Nat) : List Nat := (l.foldl (fun (t : Table Unit) n => Table.insert n () (Table.erase t n)) []).map (·.1)

/-- Order 5 of the retraction sequence (R400, R404): positions in rising order, each charged once; whether one found the spare
in use. -/
def State.escalate (s : State) (p r : Nat) : Bool × State :=
  let q := s.part p
  let pos := sortNat ((q.stn.failing.filter fun e => r ≤ e.1 && e.2 < 4096).map (·.2))
  let (ex, _, s) := pos.foldl (fun (a : Bool × List Nat × State) n =>
    let (ex, st, s) := a.2.2.charge p a.2.1 n
    (a.1 || ex, st, s)) (false, [], s)
  (ex, s.updStn p fun t => { t with failing := t.failing.filter fun e => e.1 < r })

/-- Everything that the retraction waits for (R400 orders 2 to 4). -/
def State.mayQuiesce (s : State) (p r : Nat) : Bool :=
  let q := s.part p
  (partPositions q).all (fun n => !s.posBusy p n)
    && q.colls.all (fun x => x.done || decide (r ≤ x.step))
    && (s.memberConns p).all (fun c => !(s.conn c).ops.any fun o => o.kind = .data)
    && ((List.range (r - oldestStep q)).map (oldestStep q + ·)).all fun n => (verdictOf q n).isSome

/-- A slot returned to its state at the start of the replayed step (R195, R401, R402): the retained copy, or, when the member's
oldest uncommitted step is an earlier one, the state at the start of the current step (log 17). -/
def returnSlot (here : Bool) (x : Slot) : Slot :=
  if here then { x with state := x.startState, pending := pendingReset } else { backSlot x with startState := x.keepState }

/-- A position's countdowns returned likewise, and its open blocks and lists dropped (R401). -/
def returnPos (here : Bool) (x : Pos) : Pos :=
  let x := { x with blocks := [], owed := [], tops := [], saves := [] }
  if here then { x with g := x.startG, h := x.startH }
  else { x with g := x.keepG, h := x.keepH, startG := x.keepG, startH := x.keepH }

/-- RESUME applied (R401): tokens, slots, countdowns and rounds; the replay begins at step r. -/
def State.applyResume (s : State) (p : Nat) : State :=
  let q := s.part p
  let r := q.stn.retracted.getD q.step
  let s := s.sendOrder p (slipChildren q) 7 r (attemptOf q r) 0 q.stn.rseq
  let here := decide (oldestStep q < r)
  let s := (slotsOf q).foldl (fun s i => s.updSlot i (returnSlot here)) s
  let s := (partPositions q).foldl (fun s i => s.updPos i (returnPos here)) s
  let s := (partClusters q).foldl (fun s c => s.updCluster c fun k => { k with queue := k.queue.filter fun ch => ch.part ≠ p }) s
  let s := s.updPart p fun q =>
    let period := (q.sched.map (·.period)).getD 0
    let q := { q with
      step := r, shift := q.shift + 2 * (period * q.stn.count : Nat), parkStop := false, layers := [], colls := [], collIn := [], collAsk := [], collRes := [], spill := []
      streams := q.streams.map fun e =>
        (e.1, { e.2 with next := 0, ended := false, timedOut := false, heldUpd := false, tokens := [], provs := [] })
      stn := { q.stn with st := 1, retracted := none, count := 0, quiesced := [], quiescedSent := false,
                          poisonSteps := q.stn.poisonSteps.filter fun n => n < r } }
    release511 q r
  s.actResume

/-- QUIESCED_SEND (R400 orders 5 and 6, R401, R404, R407): the member has quiesced and every child has said so; the root orders
RESUME. -/
def State.opQuiesced (s : State) (p : Nat) : State :=
  s.whenOp fun s =>
    let q := s.part p
    match q.stn.retracted with
    | some r =>
      if q.stn.st ≠ 2 ∨ !s.mayQuiesce p r ∨ !(slipChildren q).all (fun c => q.stn.quiesced.contains c) then s
      else
        let (ex, s) := s.escalate p r
        let s := if ex then (s.updStn p fun t => { t with exhausted := true }).request p r 0 true else s
        let q := s.part p
        if !(slipChildren q).all (fun c => q.stn.quiesced.contains c) then s
        else
          let s := match slipParent q with
            | some c => s.sendOrder p [c] 6 r (attemptOf q r) 0 q.stn.rseq
            | none => s
          let s := s.updStn p fun t => { t with quiescedSent := true, st := 3 }
          if q.stn.handover then s.enterHandover p 0x74
          else if (slipParent q).isNone then s.applyResume p
          else s
    | none => s

/-- A VERDICT received on member connection c (R391 to R393, R398 to R401). -/
def State.verdictIn (s : State) (c : Nat) (b : Bytes) : State :=
  let p := connPart (s.conn c)
  let q := s.part p
  let n := leAt b 0 8
  let kind := leAt b 8 1
  let att := leAt b 9 1
  let flags := leAt b 10 1
  let rseq := leAt b 18 2
  let zero := zeroAt b 22 10 && decide (flags < 16) && (kind = 4 || decide (flags < 8)) && (kind = 1 || (zeroAt b 11 1 && zeroAt b 14 4))
    && (kind = 4 || zeroAt b 20 2) && (decide (5 ≤ kind ∧ kind ≤ 8) || zeroAt b 18 2)
  let child := (slipChildren q).contains c
  let parent := slipParent q = some c
  let live := decide (q.stn.st ≠ 0) && uncommitted q n && decide (att = attemptOf q n)
  if !zero ∨ q.stn.st = 0 then s.dropVerdict p
  else match kind with
  | 1 =>
    if live && decide (leAt b 14 2 = carrierCid q) then
      (s.traceLead p 5 1 [n, flags, q.stn.rseq]).updStn p fun t => { t with votes := Table.set 0 t.votes n (Table.get 0 t.votes n ||| flags) }
    else s.dropVerdict p
  | 2 =>
    if live && finalStep q n && child then
      ((s.traceLead p 5 1 [n, flags, q.stn.rseq]).updStn p fun t => { t with treeVotes := (c, flags) :: t.treeVotes.filter fun v => v.1 ≠ c }).treeVote p n
    else s.dropVerdict p
  | 3 =>
    if live && finalStep q n && parent then
      let s := s.sendOrder p (slipChildren q) 3 n att flags 0
      if flags % 2 = 0 then s.commitStep p n flags else s
    else s.dropVerdict p
  | 4 =>
    if !child ∨ q.stn.passed.contains (n, 16 * att + flags / 8) then s.dropVerdict p
    else
      let s := s.updStn p fun t => { t with passed := (n, 16 * att + flags / 8) :: t.passed }
      match slipParent q with
      | some up => s.sendVerdict up (slice b 0 32)
      | none => s.rootRequest p n att (testBit flags 3)
  | 5 => if live && parent && decide (rseq = (q.stn.rseq + 1) % 65536) then s.applyOrder p rseq n att false else s.dropVerdict p
  | 6 =>
    if child && decide (rseq = q.stn.rseq) && q.stn.retracted.isSome then
      s.updStn p fun t => { t with quiesced := if t.quiesced.contains c then t.quiesced else c :: t.quiesced }
    else s.dropVerdict p
  | 7 =>
    if parent && decide (rseq = q.stn.rseq) && decide (q.stn.st = 3) then s.applyResume p else s.dropVerdict p
  | 8 => if live && parent && decide (rseq = (q.stn.rseq + 1) % 65536) then s.applyOrder p rseq n att true else s.dropVerdict p
  | _ => s.dropVerdict p

/-- The SLIPs labelled m applied as the member enters step m (R226). -/
def applySlips (q : Part) (m : Nat) : Part :=
  let d := Table.get 0 q.slipBest m
  { q with shift := q.shift + d, prevShift := q.shift, slipBest := Table.erase q.slipBest m,
           slipApplied := Table.set 0 q.slipApplied m (max d (Table.get 0 q.slipApplied m)),
           slipD := if q.slipLabel ≤ m then 0 else q.slipD }

/-- Whether the boundary of the current step may complete (R182, R229, R397): every report of the step has reached its slot, those of
collective roundings included, and the step before the current one has committed. -/
def State.boundaryReady (s : State) (p : Nat) : Bool :=
  let q := s.part p
  (decide (q.schSt = 2) || decide (q.schSt = 3)) && decide (q.stn.st = 1) && q.layers.isEmpty && s.stepSettled p q.step
    && (q.colls.all fun x => x.done || !x.reports || decide (x.step ≠ q.step))
    && !finalStep q q.step && decide (q.step ≤ oldestStep q)

/-- STEP_BOUNDARY (R182, R226, R229, R376). -/
def State.opBoundary (s : State) (p : Nat) : State :=
  s.whenOp fun s =>
    if !s.boundaryReady p then s
    else
      let m := (s.part p).step + 1
      let d := Table.get 0 (s.part p).slipBest m
      let s := if d = 0 then s else s.traceLead p 3 2 [m, d, memberNo (s.part p)]
      let s := (s.boundaryParts p).updPart p fun q =>
        let q := { q with step := q.step + 1, streams := q.streams.map fun e =>
          (e.1, { e.2 with next := 0, ended := false, timedOut := false, heldUpd := false }),
                               colls := q.colls.filter fun x => !x.done || decide (q.step ≤ x.step),
                               collIn := q.collIn.filter fun x => decide (q.step ≤ x.step + 1),
                               collAsk := q.collAsk.filter fun x => decide (q.step ≤ x.step + 1),
                               collRes := q.collRes.filter fun x => decide (q.step ≤ x.step + 1),
                               spill := Table.drop (fun c => !q.colls.any fun x => !x.done && ef x.words 2 63 48 = c) q.spill }
        applySlips q q.step
      s.updFw fun f => { f with actBounds := f.actBounds.filter (· ≠ p) }

def execTileCheckDone (cl : Nat) (lane : Bool) (s : State) : Out := .next (s.opCheckDone cl lane)
def execVerdictReady (p : Nat) (s : State) : Out := .next (s.opVerdict p)
def execCarrierComplete (p : Nat) (s : State) : Out := .next (s.opCarrier p)
def execQuiescedSend (p : Nat) (s : State) : Out := .next (s.opQuiesced p)
def execStepBoundary (p : Nat) (s : State) : Out := .next (s.opBoundary p)

end Sys2Proof.Machine
end

