-- ==== Sys2Proof/Machine/Load.lean ====
section
/-! DEFINITION. SCH_LOAD: the schedule image (R207 to R216) and the admission checks of R230, with the play of R231 and the budgets
of R232 to R234; ROUND_START with slack and SLIP (R222 to R228, R235). -/
namespace Sys2Proof.Machine

/-- Bytes of partition memory fetched for the loader (R272, R277): none with the address of a granule that is not in an open
region with FETCH set, or that is lost (`true`). -/
def State.fetchBytes (s : State) (p : Nat) (errs : List MemErr) (addr n : Nat) : Except (Bool × Nat) Bytes × State :=
  let first := addr / 256
  let count := (addr + n + 255) / 256 - first
  let (r, s) := (List.range count).foldl (fun (a : Except (Bool × Nat) Bytes × State) i =>
    match a.1 with
    | .error e => (.error e, a.2)
    | .ok bs =>
      let x := 256 * (first + i)
      let fetch := match a.2.regionAt p x with | some (_, r, _) => rgnFetch r | none => false
      if !fetch then (.error (false, x), a.2)
      else
        let rd := a.2.readGran accFetch p x errs
        let s := rd.2
        match rd.1 with
        | .data g => if g.poison then (.error (true, x), s) else (.ok (bs ++ g.data), s)
        | _ => (.error (false, x), s)) (.ok [], s)
  (r.map fun bs => slice bs (addr % 256) n, s)

/-- A stream of an image: identifier, count, offset, and the words of its entries. -/
structure ImgStream where
  sid : Nat
  count : Nat
  off : Nat
  ents : List (List W64)
  deriving DecidableEq, Repr, Inhabited

/-- A schedule image as the loader reads it. -/
structure Image where
  hdr : Bytes
  table : Bytes
  streams : List ImgStream
  deriving DecidableEq, Repr, Inhabited

/-- A check that fails: its cause, the stream at fault and the entry, all ones when no entry is at fault (SCH_LOAD_STATUS). -/
structure Reject where
  cause : Nat
  sid : Nat
  entry : Nat
  deriving DecidableEq, Repr, Inhabited

/-- All ones: no entry is at fault. -/
def noEntry : Nat := 2 ^ 40 - 1

/-- The header fields of an admitted schedule (R207). -/
def schedOf (addr : Nat) (h : Bytes) : Sched :=
  { addr := addr, jobId := leAt h 8 8, member := leAt h 16 2, lam := leAt h 18 1, qexp := leAt h 19 1, mhz := leAt h 20 4,
    epoch := leAt h 24 8, first := leAt h 32 8, steps := leAt h 40 8, period := leAt h 48 4, slack := leAt h 52 2,
    lead := leAt h 54 2, waitLimit := leAt h 56 4, digest := slice h 64 64, ckpt := leAt h 128 4 }

/-- Check 0x01 (R207). -/
def headerOk (h : Bytes) : Bool :=
  let d := schedOf 0 h
  let n := leAt h 60 4
  decide (leAt h 0 4 = 0x4A345344) && decide (leAt h 4 2 = 1) && zeroAt h 6 2 && decide (d.member ≤ 16383)
    && decide (8 ≤ d.lam ∧ d.lam ≤ 20) && decide (d.qexp ≤ 16) && decide (1 ≤ d.mhz ∧ d.mhz ≤ 2000)
    && decide (d.epoch % 2 ^ d.lam = 0) && decide (1 ≤ d.period ∧ d.period ≤ 2 ^ 24) && decide (1 ≤ d.lead)
    && decide (d.waitLimit ≠ 0) && decide (1 ≤ n ∧ n ≤ 4128) && zeroAt h 132 124

/-- Check 0x02 (R207). -/
def digestOk (h : Bytes) : Bool := slice h 64 64 = sha512 (slice h 8 8 ++ slice h 18 42 ++ slice h 128 4)

/-- Cycles per round (R205). -/
def cyclesPerRound (lam mhz : Nat) : Nat := 2 ^ lam * mhz / 1000

/-- The position of the first list element that fails a test, as a rejection. -/
def firstBad (cause : Nat) (im : Image) (ok : ImgStream → Nat → List W64 → Bool) : Option Reject :=
  im.streams.findSome? fun t =>
    ((List.range t.ents.length).find? fun i => !ok t i (t.ents.getD i [])).map fun i => ⟨cause, t.sid, i⟩

/-- The words of an OPLIST and the image list of a tile as core store holds them at admission. -/
def State.peek64 (s : State) (pos a : Nat) : W64 := BitVec.ofNat 64 (leNat (s.peek (s.phys (rgnDpa (coreRegion pos) a)) 8))
def State.opDescs (s : State) (pos : Nat) (ws : List W64) : List W64 :=
  (List.range 7).map fun i => s.peek64 pos (64 * ef ws 2 17 4 + 8 * i)
def State.arraysNow (s : State) (pos : Nat) (ws : List W64) : List Nat :=
  (List.range (b2n (tileSeed ws) + tileMerges ws)).map fun i =>
    leNat (s.peek (s.phys (rgnDpa (coreRegion pos) (64 * ef ws 5 20 7 + 2 * i))) 2) % 4096

/-- Words lo to 7 of an entry are zero. -/
def zeroFrom (ws : List W64) (lo : Nat) : Bool := (ws.drop lo).all fun w => w = 0

/-- Descriptors that a vector operation uses: inputs, g, then results. -/
def vecUsed (op : VecOp) : List Nat × List Nat :=
  let (ins, g, outs) := vecShape op
  (List.range ins ++ (if g then [3] else []), (List.range outs).map (4 + ·))

/-- R48 at every rung of a slot from FLOOR to CEIL, for an entry that names a layout and takes its format from LEVEL (R180, R181): rungs 0
to 2 are scaled formats. -/
def rungsAllow (cfg : W64) (lay : Layout) : Bool :=
  (List.range (cfgCeil cfg + 1 - cfgFloor cfg)).all fun i =>
    match rungFmt cfg (cfgFloor cfg + i) with
    | some f => decide (3 ≤ cfgFloor cfg + i) || layoutAllows lay f
    | none => false

/-- R48 of an operand descriptor with FOLLOW 1. -/
def State.followOk (s : State) (w : W64) : Bool :=
  let d := descOf w
  !d.follow || rungsAllow (s.slot d.slot).cfg ((layoutOfCode d.lay).getD .dense)

/-- A descriptor of dense FP32 (R132, R214). -/
def descF32 (w : W64) : Bool :=
  let d := descOf w
  descOk w && !d.follow && decide (d.fmt = fmtCode .fp32) && decide (d.lay = 0)

/-- A member connection of the partition (R315). -/
def State.memberConn (s : State) (p c : Nat) : Bool := connKind (s.conn c) = 1 && connPart (s.conn c) = p

/-- The instance record of a CID (R343). -/
def instOf (q : Part) (cid : Nat) : Option Bytes := q.insts.find? fun b => leAt b 0 2 = cid

/-- Fields of an instance record (R343). -/
def iOp (b : Bytes) : Nat := leAt b 2 1
def iIn (b : Bytes) : Nat := leAt b 3 1 % 4
def iOut (b : Bytes) : Nat := leAt b 3 1 / 4 % 4
def iFmt (b : Bytes) : Nat := leAt b 4 1
def iElems (b : Bytes) : Nat := leAt b 8 8
def iCtl (b : Bytes) : W64 := BitVec.ofNat 64 (leAt b 16 8)
def iTid (b : Bytes) : Nat := leAt b 24 4
def iSpillLen (b : Bytes) : Nat := leAt b 28 4
def iSpill (b : Bytes) : Nat := leAt b 32 8
def iG (b : Bytes) (st : Nat) : Nat := leAt b (64 + 16 * st) 1
def iRank (b : Bytes) (st : Nat) : Nat := leAt b (65 + 16 * st) 1
def iAlg (b : Bytes) (st : Nat) : Nat := leAt b (66 + 16 * st) 1
def iPool (b : Bytes) (st : Nat) : Nat := leAt b (67 + 16 * st) 1 % 32
def iInpath (b : Bytes) (st : Nat) : Bool := testBit (leAt b (67 + 16 * st) 1) 7
def iConn (b : Bytes) (st : Nat) : Nat := leAt b (68 + 16 * st) 2
def iHold (b : Bytes) (st : Nat) : Nat := leAt b (70 + 16 * st) 2
def iLocal (b : Bytes) (st : Nat) : Nat := 256 * leAt b (72 + 16 * st) 4

/-- ceil(log2 G). -/
def log2Up (g : Nat) : Nat := if g ≤ 1 then 0 else Nat.log2 (g - 1) + 1

/-- The STEPNO range of a stage (R357). -/
def stepnoOk (op alg g n : Nat) (inpath : Bool) : Bool :=
  let l := log2Up g
  match alg with
  | 1 => decide (n < 2 * l) && (op ≠ 4 || decide (l ≤ n)) && (op = 1 || op = 6 || op = 4)
  | 2 => decide (n < l) && (op = 1 || op = 2 || op = 3)
  | 3 =>
    let reduce := decide (n < g - 1) && (!inpath || n = 0)
    let gather := decide (g - 1 ≤ n) && decide (n < 2 * g - 2)
    (op = 1 && (reduce || gather)) || (op = 2 && reduce) || (op = 3 && gather) || (op = 6 && (reduce || gather))
  | 4 => op = 5 && decide (1 ≤ n) && decide (n < g)
  | _ => false

/-- The fixed fields of a COLL entry (R214). -/
def cCid (ws : List W64) : Nat := ef ws 2 63 48
def cOp (ws : List W64) : Nat := ef ws 2 47 44
def cFixed (ws : List W64) : Bool := ef ws 2 43 43 = 1
def cStage (ws : List W64) : Nat := ef ws 2 42 41
def cStep (ws : List W64) : Nat := ef ws 2 40 25
def cFmt (ws : List W64) : Nat := ef ws 2 24 21

/-- The COLL part of check 0x05 (R34, R315, R345, R342, R347, R348, R357, R367, R390). DEDUCED (log 126): where the instance's data are elements,
the entry's FMT is the instance's. -/
def State.collOk (s : State) (p : Nat) (ws : List W64) : Bool :=
  let q := s.part p
  match instOf q (cCid ws) with
  | none => false
  | some b =>
    let st := cStage ws
    let g := iG b st
    let conns := ((List.range g).filter (· ≠ iRank b st)).map (iConn b st + ·)
    let compact := decide (iIn b = 2) || (decide (iOp b ≤ 2) && !cFixed ws)
    decide (cOp ws = iOp b) && (fmtOfCode (cFmt ws)).isSome && (decide (iIn b ≠ 0) || decide (cFmt ws = iFmt b)) && (!cFixed ws || (decide (iOp b ≤ 2) && decide (iIn b = 0) && decide (iOut b = 0)
        && [8, 9, 10].contains (iFmt b) && decide (fld (iCtl b) 14 11 = iFmt b) && !iInpath b st))
      && stepnoOk (iOp b) (iAlg b st) g (cStep ws) (iInpath b st) && conns.all (fun c => s.memberConn p c && (!compact || decide (connGranMax (s.conn c) = 32)))
      && (decide (cCid ws ≠ carrierCid q) || decide (eCadence ws = 0))

/-- Check 0x05 of one TILE or CONV control word and parameter block (R141, R150, R166). -/
def State.outOk (s : State) (pos : Nat) (ws : List W64) (conv : Bool) : Bool :=
  match ctlOf (ws.getD 7 0) with
  | none => false
  | some c =>
    let prm := s.prmAt pos ws
    let lastIdx := if conv then prm.row0 * prm.ncols + prm.col0 + ef ws 3 63 40 - 1
      else (prm.row0 + 3) * prm.ncols + prm.col0 + 15
    let lastCol := if conv then prm.col0 + ef ws 3 63 40 - 1 else prm.col0 + 15
    let clamp := (fp32 prm.p0).cls = .nan || (fp32 prm.p1).cls = .nan || valLt (fp32 prm.p1) (fp32 prm.p0)
    ctlOk c conv && !(conv && c.raw) && !(c.act = .clamp && clamp) && !(c.round = .sr && !c.raw && decide (2 ^ 48 ≤ lastIdx))
      && !(decide (0 < c.topkK) && decide (2 ^ 32 ≤ lastCol))

/-- Check 0x05 of one entry (R34, R48, R52, R59, R64, R83, R94, R141, R185, R209 to R216, R315, R395). -/
def State.entryOk (s : State) (p sid : Nat) (ws : List W64) : Bool :=
  let k := eKind ws
  let rel := eRel ws
  let pos := isPosStream sid
  let base := decide (ef ws 0 6 0 = 0) && decide (ef ws 1 51 50 = 0) && (decide (rel = relNone) || decide (rel % 512 ≠ 511))
  let c := (ctlOf (ws.getD 7 0)).getD default
  base &&
    if k = kTile then
      pos && descOk (ws.getD 2 0) && descOk (ws.getD 3 0) && s.followOk (ws.getD 2 0) && s.followOk (ws.getD 3 0) && decide (ef ws 5 6 0 = 0) && decide (ef ws 6 0 0 = 0)
        && decide (1 ≤ ef ws 5 63 28 ∧ ef ws 5 63 28 ≤ 2 ^ 35)
        && ((descOf (ws.getD 2 0)).axis || decide (ef ws 4 47 32 % 32 = 0)) && ((descOf (ws.getD 3 0)).axis || decide (ef ws 4 15 0 % 32 = 0))
        && !(tileSa ws && (tileSeed ws || !c.slotEn || (tileScope ws && decide (eLidx ws = lidxNone))))
        && s.outOk sid ws false && (!c.raw || (decide (eOrow ws = 0) && decide (eOcol ws = 0)))
    else if k = kConv then
      pos && descF32 (ws.getD 2 0) && decide (1 ≤ ef ws 3 63 40) && decide (ef ws 3 7 0 = 0) && decide (ws.getD 4 0 = 0)
        && decide (ws.getD 5 0 = 0) && decide (ef ws 6 0 0 = 0) && s.outOk sid ws true
    else if k = kVec then
      let ds := s.opDescs sid ws
      pos && decide (1 ≤ vecCount ws) && decide (ef ws 2 3 0 = 0) && zeroFrom ws 3 &&
        match vecOp ws with
        | none => false
        | some op => (vecUsed op).1.all (fun i => descOk (ds.getD i 0) && s.followOk (ds.getD i 0)) && (vecUsed op).2.all fun i => descF32 (ds.getD i 0)
    else if k = kMerge then
      pos && decide (2 ≤ ef ws 2 39 32) && decide (ef ws 2 31 0 = 0) && zeroFrom ws 3
    else if k = kXfer then
      isXferStream sid && decide (ef ws 3 9 0 = 0) && decide (ef ws 4 11 0 = 0) && decide (ef ws 5 12 0 = 0)
        && decide (ef ws 6 23 0 = 0) && decide (ws.getD 7 0 = 0)
        && (decide (ef ws 3 23 10 = 0x3FFF) || s.memberConn p (ef ws 3 23 10))
        && (fmtOfCode (ef ws 4 24 21)).isSome && (layoutOfCode (ef ws 4 20 19)).isSome
        && (fmtOfCode (ef ws 4 18 15)).isSome && (layoutOfCode (ef ws 4 14 13)).isSome
        && (!xFollow ws || (rungsAllow (s.slot (xSlot ws)).cfg (xSrcLay ws) && rungsAllow (s.slot (xSlot ws)).cfg (xDstLay ws)))
        && (s.xferForms ws).all XferForm.ok
    else if k = kReserve then
      isXferStream sid && decide (rel = relNone) && decide (ef ws 2 63 59 ≤ 17) && decide (ef ws 2 58 32 = 0) && zeroFrom ws 3
    else if k = kColl then
      isCollStream sid && decide (ef ws 2 20 0 = 0) && zeroFrom ws 5 && s.collOk p ws
    else if k = kLayer then
      pos && decide (rel = relNone) && decide (eCadence ws = 0) && decide (ef ws 2 15 4 ≠ lidxNone) && decide (ef ws 2 3 0 = 0)
        && decide (1 ≤ ef ws 3 63 51 ∧ ef ws 3 63 51 ≤ 4096) && decide (ef ws 3 50 0 = 0) && zeroFrom ws 4
    else if k = kWait then zeroFrom ws 2
    else if k = kStepEnd then decide (rel = relNone) && decide (eCadence ws = 0) && zeroFrom ws 2
    else false

/-- Every entry of an image with its stream and index. -/
def Image.all (im : Image) : List (Nat × Nat × List W64) :=
  im.streams.flatMap fun t => (List.range t.ents.length).map fun i => (t.sid, i, t.ents.getD i [])

/-- The Token that an entry releases at its own member besides REL: DTOK of a transfer within the member. -/
def localRels (ws : List W64) : List Nat :=
  (if eRel ws = relNone then [] else [eRel ws])
    ++ (if eKind ws = kXfer ∧ ef ws 3 23 10 = 0x3FFF ∧ ef ws 4 63 42 ≠ relNone then [ef ws 4 63 42] else [])

/-- R216: an entry that waits on a Token released by an entry of CADENCE other than 0 has the same CADENCE. -/
def Image.cadenceOk (im : Image) (sid : Nat) (ws : List W64) : Bool :=
  (eWaits ws).all fun w => im.all.all fun e =>
    !(localRels e.2.2).contains (512 * sid + w.1) || eCadence e.2.2 = 0 || eCadence e.2.2 = eCadence ws

/-- Tokens that depend, through chains of Tokens, on an UPD entry (R390). -/
def Image.taint (im : Image) : Nat → List Nat → List Nat
  | 0, t => t
  | f + 1, t =>
    Image.taint im f (im.all.foldl (fun t e =>
      if (eWaits e.2.2).any fun w => t.contains (512 * e.1 + w.1) then t ++ (localRels e.2.2).filter fun x => !t.contains x else t) t)
def Image.updTokens (im : Image) : List Nat :=
  im.taint im.all.length ((im.all.filter fun e => eKind e.2.2 = kVec && (vecOp e.2.2).any vecIsUpd).flatMap fun e => localRels e.2.2)

/-- R390 on the carrier: it runs in every step, and none of its entries depends on an UPD entry. -/
def Image.carrierBad (im : Image) (cid : Nat) : Option Reject :=
  let mine := im.all.filter fun e => eKind e.2.2 = kColl && cCid e.2.2 = cid
  if mine.isEmpty then some ⟨5, 0, noEntry⟩
  else (mine.find? fun e => (eWaits e.2.2).any fun w => im.updTokens.contains (512 * e.1 + w.1)).map fun e => ⟨5, e.1, e.2.1⟩

/-- Check 0x06. -/
def roundsOk (period : Nat) (t : ImgStream) (i : Nat) (ws : List W64) : Bool :=
  decide (eRound ws < period) && (i = 0 || decide (eRound (t.ents.getD (i - 1) []) ≤ eRound ws))
    && ((eKind ws = kStepEnd) == decide (i + 1 = t.ents.length))

/-- One past the last byte that `n` lanes of `k` positions reach, from the corner elements. -/
def View.extent (v : View) (v0 e0 n k : Nat) : Nat :=
  let (a, b) := v.place v0 e0 (n - 1) (k - 1)
  match v.l with
  | .square => 256 * v.d.base + ((a / 32) * v.d.vlen + b / 32 + 1) * tileBytes v.f
  | _ => (v.bitOf a b + fmtWidth v.f + 7) / 8
def View.scaleEnd (v : View) (v0 e0 n k : Nat) : Nat :=
  if fmtScaled v.f then let (a, b) := v.place v0 e0 (n - 1) (k - 1); v.scaleOf a b + 1 else 0

/-- One past the last byte of an output. -/
def outEnd (f : Fmt) (l : Layout) (base vlen vec e : Nat) : Nat :=
  match l with
  | .square => 256 * base + ((vec / 32) * vlen + e / 32 + 1) * tileBytes f
  | _ => (2048 * base + elemBit l f vlen vec e + fmtWidth f + 7) / 8

/-- The views that an operand takes: its own, or under FOLLOW those of every rung from FLOOR to CEIL (R181). -/
def State.viewsAt (s : State) (w : W64) (all : Bool) : List View :=
  let d := descOf w
  if !d.follow then [s.view w]
  else
    let c := (s.slot d.slot).cfg
    let lay := (layoutOfCode d.lay).getD .dense
    let at' := fun (r : Nat) => (⟨d, (rungFmt c r).getD .fp32, if r ≤ 2 then lay else .dense⟩ : View)
    if all then (List.range (cfgCeil c + 1 - cfgFloor c)).map fun i => at' (cfgFloor c + i) else [at' (cfgFloor c)]

/-- The output control words that an entry may write with: its own, or those of every rung (R180). -/
def State.laddered (s : State) (t : ImgStream) (ws : List W64) : Bool :=
  let c := (ctlOf (ws.getD 7 0)).getD default
  (eKind ws = kTile || eKind ws = kConv) && c.slotEn && cfgLadder (s.slot c.slot).cfg
    && t.ents.any fun x => eKind x = kLayer && ef x 2 15 4 = eLidx ws && ef x 2 31 16 = c.slot
def State.rungCtls (s : State) (ws : List W64) : List Ctl :=
  let c := (ctlOf (ws.getD 7 0)).getD default
  let g := (s.slot c.slot).cfg
  (List.range (cfgCeil g + 1 - cfgFloor g)).map fun i => ctlAt c g (cfgFloor g + i)

/-- The bounds of an entry's output under a control word. -/
def outFits (ws : List W64) (c : Ctl) : Bool :=
  if c.raw then decide (eOut ws + 24 ≤ 4096)
  else
    let (v, e) := if eKind ws = kTile then tileOut c ws 63 else (eOrow ws, 16 * eOcol ws + ef ws 3 63 40 - 1)
    decide (outEnd c.format c.layout (eOut ws) (eOutVlen ws) v e ≤ 2 ^ 20)

/-- The bounds of an entry's operands; `all`: under every rung. -/
def State.insFit (s : State) (sid : Nat) (ws : List W64) (all : Bool) : Bool :=
  let fit := fun (v : View) (v0 e0 n k : Nat) => decide (v.extent v0 e0 n k ≤ 2 ^ 20) && decide (v.scaleEnd v0 e0 n k ≤ 2 ^ 20)
  if eKind ws = kTile then
    (s.viewsAt (ws.getD 2 0) all).all (fun v => fit v (ef ws 4 63 48) (ef ws 4 47 32) 4 (tileK ws))
      && (s.viewsAt (ws.getD 3 0) all).all (fun v => fit v (ef ws 4 31 16) (ef ws 4 15 0) 16 (tileK ws))
      && (s.arraysNow sid ws).all fun g => decide (g + 24 ≤ 4096)
  else if eKind ws = kConv then fit (viewF32 (ws.getD 2 0)) (ef ws 3 39 24) (ef ws 3 23 8) 1 (ef ws 3 63 40)
  else if eKind ws = kVec then
    match vecOp ws with
    | none => false
    | some op =>
      let ds := s.opDescs sid ws
      let last := vecCount ws - 1
      ((vecUsed op).1 ++ (vecUsed op).2).all fun i => (s.viewsAt (ds.getD i 0) all).all fun v =>
        let (a, b) := v.seq last; fit v a b 1 1
  else if eKind ws = kMerge then decide (ef ws 2 63 52 + ef ws 2 39 32 ≤ 4096)
  else if eKind ws = kXfer then
    decide (ef ws 2 63 24 % 256 = 0) && decide (ef ws 3 63 24 % 256 = 0) && decide (ef ws 5 63 24 % 64 = 0) && decide (ef ws 6 63 24 % 64 = 0)
  else if eKind ws = kColl then decide (ef ws 3 63 24 % 256 = 0) && decide (ef ws 4 63 24 % 256 = 0)
  else true

/-- The bounds and alignment of an entry's output, parameter block, tables and lists (R142). -/
def State.outsFit (s : State) (sid : Nat) (ws : List W64) : Bool :=
  if eKind ws = kTile ∨ eKind ws = kConv then
    let c := (ctlOf (ws.getD 7 0)).getD default
    let p := s.prmAt sid ws
    outFits ws c && (!c.bias || (decide (p.bias % 64 = 0) && decide (p.bias + 64 ≤ 2 ^ 20)))
      && (c.act ≠ .pwl || (decide (p.table % 256 = 0) && decide (p.table + 2064 ≤ 2 ^ 20)))
      && (!c.topkClose || (decide (p.topk % 256 = 0) && decide (p.topk + (if eKind ws = kTile then 1024 else 256) ≤ 2 ^ 20)))
  else true

/-- The slots that an entry names (check 0x08). -/
def State.slotsNamed (s : State) (sid : Nat) (ws : List W64) : List Nat :=
  let follow := fun (w : W64) => if (descOf w).follow then [(descOf w).slot] else []
  let c := (ctlOf (ws.getD 7 0)).getD default
  let out := if c.slotEn then [c.slot] else []
  if eKind ws = kTile then follow (ws.getD 2 0) ++ follow (ws.getD 3 0) ++ out
  else if eKind ws = kConv then out
  else if eKind ws = kVec then match vecOp ws with
    | some op => (vecUsed op).1.flatMap fun i => follow ((s.opDescs sid ws).getD i 0)
    | none => []
  else if eKind ws = kXfer then (if xFollow ws then [xSlot ws] else [])
  else if eKind ws = kLayer then [ef ws 2 31 16]
  else []

/-- Check 0x09 on one entry (R215). -/
def Image.layerOk (im : Image) (t : ImgStream) (i : Nat) (ws : List W64) : Bool :=
  let decls := fun (t : ImgStream) (l : Nat) => t.ents.filter fun x => eKind x = kLayer && ef x 2 15 4 = l
  if eKind ws = kLayer then
    let l := ef ws 2 15 4
    let holders := im.streams.filter fun u => !(decls u l).isEmpty
    let lasts := im.all.filter fun e => eLlast e.2.2 && eLidx e.2.2 = l
    decide ((decls t l).length = 1) && decide (holders.length = ef ws 3 63 51) && decide (lasts.length = ef ws 3 63 51)
      && holders.all fun u => (decls u l).all fun x => decide (x.getD 2 0 = ws.getD 2 0) && decide (x.getD 3 0 = ws.getD 3 0)
  else if eLidx ws = lidxNone then !eLlast ws
  else
    (t.ents.take i).any (fun x => eKind x = kLayer && ef x 2 15 4 = eLidx ws)
      && (!eLlast ws || (t.ents.drop (i + 1)).all fun x => eLidx x ≠ eLidx ws)
      && (t.ents.drop i).any fun x => eLlast x && eLidx x = eLidx ws

/-- An open block in the play of R160; `last` is the latest entry that produced elements of it. -/
structure OpenOut where
  base : Nat
  va : Nat
  eb : Nat
  count : Nat
  lidx : Nat
  own : Bool
  last : Nat

/-- The places that an entry writes. -/
def outPlaces (ws : List W64) (c : Ctl) : List (Nat × Nat) :=
  if eKind ws = kTile then (List.range 64).map (tileOut c ws)
  else (List.range (ef ws 3 63 40)).map fun t => (eOrow ws, 16 * eOcol ws + t)

/-- Entry i in the play of R160: the open blocks after it; none when it breaks a limit. The entries of one block follow one another in the
stream. -/
def playBlocks (opens : List OpenOut) (i : Nat) (ws : List W64) : Option (List OpenOut) :=
  let c := (ctlOf (ws.getD 7 0)).getD default
  if (eKind ws ≠ kTile ∧ eKind ws ≠ kConv) ∨ c.raw ∨ !fmtScaled c.format then some opens
  else
    let own : Bool := c.scaleSrc = .ownFloor || c.scaleSrc = .ownFit
    (outPlaces ws c).foldl (fun (r : Option (List OpenOut)) pl =>
      r.bind fun (opens : List OpenOut) =>
        let (va, eb, _) := blockAt c.layout pl.1 pl.2
        let mine := fun (o : OpenOut) => o.base = eOut ws && o.va = va && o.eb = eb
        let b0 : OpenOut := (opens.find? mine).getD ⟨eOut ws, va, eb, 0, eLidx ws, own, i⟩
        let b : OpenOut := { b0 with count := b0.count + 1, last := i }
        let rest := opens.filter fun o => !mine o
        let now := if b.count < blockSize c.layout then b :: rest else rest
        let held : Nat := ((b :: rest).filter (·.own)).foldl (fun n o => n + o.count) 0
        if b.lidx ≠ eLidx ws ∨ i > b0.last + 1 ∨ (own ∧ 2048 < held ∧ b.count < blockSize c.layout) then none else some now) (some opens)

/-- One entry of the play of R166: the open rows (row, K, ORDER) after it. -/
def State.playRows (s : State) (sid : Nat) (rows : List (Nat × Nat × Bool)) (ws : List W64) : Option (List (Nat × Nat × Bool)) :=
  let c := (ctlOf (ws.getD 7 0)).getD default
  if (eKind ws ≠ kTile ∧ eKind ws ≠ kConv) ∨ c.raw then some rows
  else
    let r0 := (s.prmAt sid ws).row0
    let mine := (List.range (if eKind ws = kTile then 4 else 1)).map (r0 + ·)
    let clash := decide (0 < c.topkK) && rows.any fun r => mine.contains r.1 && (r.2.1 ≠ c.topkK || r.2.2 ≠ c.topkOrder)
    let new := if c.topkK = 0 then [] else (mine.filter fun m => !rows.any fun r => r.1 = m).map fun m => (m, c.topkK, c.topkOrder)
    let rows := rows ++ new
    if clash ∨ 64 < rows.length then none
    else some (if c.topkClose then rows.filter fun r => !mine.contains r.1 else rows)

/-- The largest CADENCE of an image's entries. -/
def Image.cadence (im : Image) : Nat := (im.all.map fun e => eCadence e.2.2).foldl max 0

/-- One step of the play of R160 and R166 on a stream: a block closes within its step, a row may stay open over it. -/
def State.playStep (s : State) (t : ImgStream) (rows : List (Nat × Nat × Bool)) (n : Nat) : Except Nat (List (Nat × Nat × Bool)) :=
  let r := (List.range t.ents.length).foldl (fun (a : Except Nat (List OpenOut × List (Nat × Nat × Bool))) i =>
    match a with
    | .error e => .error e
    | .ok (b, rows) =>
      let ws := t.ents.getD i []
      if !runsIn ws n then .ok (b, rows)
      else match playBlocks b i ws, s.playRows t.sid rows ws with
        | some b, some rows => .ok (b, rows)
        | _, _ => .error i) (.ok ([], rows))
  match r with
  | .error e => .error e
  | .ok (b, rows) => if b.isEmpty then .ok rows else .error noEntry

/-- Check 0x0A (R160, R166) on one stream: the first entry that breaks a limit, or all of them when a block stays open at the end of a
step. The play runs over two turns of the image's largest CADENCE, after which the open rows repeat, or over all steps of the job. -/
def State.playOuts (s : State) (im : Image) (t : ImgStream) : Option Nat :=
  let h := schedOf 0 im.hdr
  let turns := 2 * 2 ^ im.cadence
  let r := (List.range (if h.steps = 0 then turns else min h.steps turns)).foldl
    (fun (a : Except Nat (List (Nat × Nat × Bool))) k => match a with
      | .error e => .error e
      | .ok rows => s.playStep t rows (h.first + k)) (.ok [])
  match r with
  | .error e => some e
  | .ok _ => none

/-- The granules of core store, as (position, granule), that a run of partition bytes takes. -/
def State.coreGrans (s : State) (p a n : Nat) : List (Nat × Nat) :=
  (gransOver a n).filterMap fun x =>
    match s.regionAt p (256 * x) with
    | some (_, r, o) =>
      let d := rgnDpa r o
      if rgnCore r then some (dpaCol d * 256 + (d % 2 ^ 36 - 0xFE0000000) / 2 ^ 20, d % 2 ^ 20 / 256) else none
    | none => none

/-- Where the tensors of core store that follow a slot lie, as (position, first byte, end at FLOOR, end at CEIL): the outputs of its
layers' entries, and the operands that FOLLOW it (R180, R181). -/
def State.followers (s : State) (im : Image) (slot : Nat) : List (Nat × Nat × Nat × Nat) :=
  im.streams.flatMap fun t => t.ents.flatMap fun ws =>
    let c := (ctlOf (ws.getD 7 0)).getD default
    let (v, e) := if eKind ws = kTile then tileOut c ws 63 else (eOrow ws, 16 * eOcol ws + ef ws 3 63 40 - 1)
    let stop := fun (c : Ctl) => outEnd c.format c.layout (eOut ws) (eOutVlen ws) v e
    let ends := if s.laddered t ws && c.slot = slot then (s.rungCtls ws).map stop else []
    let outs := if ends.isEmpty then [] else [(t.sid, 256 * eOut ws, ends.headD 0, ends.getLastD 0)]
    let op := fun (w : W64) (v0 e0 n : Nat) =>
      let d := descOf w
      let ends := (s.viewsAt w true).map fun v => v.extent v0 e0 n (tileK ws)
      if d.follow && d.slot = slot then [(t.sid, 256 * d.base, ends.headD 0, ends.getLastD 0)] else []
    outs ++ if eKind ws = kTile then
      op (ws.getD 2 0) (ef ws 4 63 48) (ef ws 4 47 32) 4 ++ op (ws.getD 3 0) (ef ws 4 31 16) (ef ws 4 15 0) 16 else []

/-- The buffers of a FOLLOW transfer hold its tensor at CEIL (R181). DEDUCED (log 127): what is moved holds at least one vector at CEIL, of
a square-scaled tensor one row of tiles, and a tensor of the member's own entries that a buffer holds at FLOOR it holds at CEIL. -/
def State.xferHolds (s : State) (p : Nat) (im : Image) (ws : List W64) : Bool :=
  let len := ef ws 2 23 0
  let ceil := (s.xferForms ws).getLastD (s.xferForm ws)
  let rows := if xSrcLay ws = .square then 32 else 1
  let holds := fun (gs : List (Nat × Nat)) (pos a b : Nat) =>
    (List.range ((b + 255) / 256 - a / 256)).all fun i => gs.contains (pos, a / 256 + i)
  let fits := fun (gs : List (Nat × Nat)) => (s.followers im (xSlot ws)).all fun f => !holds gs f.1 f.2.1 f.2.2.1 || holds gs f.1 f.2.1 f.2.2.2
  !xFollow ws || len = 0 ||
    (decide (rows * 32 * xVlen ws * fmtWidth ceil.sf ≤ 2048 * len) && fits (s.coreGrans p (ef ws 2 63 24) (256 * len))
      && (ef ws 3 23 10 ≠ 0x3FFF || fits (s.coreGrans p (ef ws 3 63 24) (256 * len))))

/-- Check 0x0B (R180, R181). -/
def State.ladderOk (s : State) (p : Nat) (im : Image) (t : ImgStream) (ws : List W64) : Bool :=
  s.insFit t.sid ws true && (eKind ws ≠ kXfer || s.xferHolds p im ws) &&
    (!s.laddered t ws ||
      (let c := (ctlOf (ws.getD 7 0)).getD default
       let g := (s.slot c.slot).cfg
       decide (some c.format = rungFmt g (cfgFloor g))
         && (s.rungCtls ws).all fun c => ctlOk c (eKind ws = kConv) && outFits ws c))

/-- Releases of a Token that the member's own streams plan, at rounds before `r` (check 0x0C). -/
def Image.releases (im : Image) (addr : Nat) (r : Nat) : Nat :=
  im.all.countP fun e => (localRels e.2.2).contains addr && decide (eRound e.2.2 < r)

/-- Check 0x0C. A wait that own releases do not meet may be met by a transfer of a peer, which the loader cannot see, when the
partition has a member connection. -/
def State.tokensBad (s : State) (p : Nat) (im : Image) : Option Reject :=
  let peers := s.net.conns.any fun e => connKind e.2 = 1 && connPart e.2 = p
  let bad := im.all.find? fun e => !peers && (eWaits e.2.2).any fun w =>
    decide (im.releases (512 * e.1 + w.1) (eRound e.2.2) + (if w.1 = 511 then 1 else 0) < w.2)
  match bad with
  | some e => some ⟨0x0C, e.1, e.2.1⟩
  | none =>
    let isOver := im.all.find? fun e => (localRels e.2.2).any fun a => decide (65535 < im.releases a (2 ^ 24))
    isOver.map fun e => ⟨0x0C, ((localRels e.2.2).headD 0) / 512, noEntry⟩

/-- Byte ranges (first, length) of core store that elements of an operand take. -/
def View.spans (v : View) (v0 e0 n k : Nat) : List (Nat × Nat) :=
  (List.range n).flatMap fun i => (List.range k).flatMap fun t =>
    let (a, b) := v.place v0 e0 i t
    let bit := v.bitOf a b
    (bit / 8, (bit + fmtWidth v.f - 1) / 8 - bit / 8 + 1) :: (if fmtScaled v.f then [(v.scaleOf a b, 1)] else [])

/-- The bytes of core store, as (position, first byte, length), that `n` bytes from a partition address on take. -/
def State.partSpans (s : State) (p a n : Nat) : List (Nat × Nat × Nat) :=
  (gransOver a n).flatMap fun x =>
    let lo := max a (256 * x)
    (s.coreGrans p (256 * x) 1).map fun g => (g.1, 256 * g.2 + (lo - 256 * x), min (a + n) (256 * x + 256) - lo)

/-- What an entry reads of core stores and what it writes there, as (position, first byte, length), at every rung that it may issue in. -/
def State.coreSpans (s : State) (p : Nat) (t : ImgStream) (ws : List W64) : List (Nat × Nat × Nat) × List (Nat × Nat × Nat) :=
  let sid := t.sid
  let own := fun (l : List (Nat × Nat)) => l.map fun e => (sid, e.1, e.2)
  let part := s.partSpans p
  let views := fun (w : W64) => s.viewsAt w true
  let c := (ctlOf (ws.getD 7 0)).getD default
  let prm := s.prmAt sid ws
  let outs := if c.raw then [(256 * eOut ws, 6144)]
    else (if s.laddered t ws then s.rungCtls ws else [c]).flatMap fun c => (outPlaces ws c).map fun pl =>
      let b := 2048 * eOut ws + elemBit c.layout c.format (eOutVlen ws) pl.1 pl.2
      (b / 8, (b + fmtWidth c.format - 1) / 8 - b / 8 + 1)
  let blocks := (64 * eParam ws, 64) :: (if c.bias then [(prm.bias, 64)] else []) ++ (if c.act = .pwl then [(prm.table, 2064)] else [])
  let lists := if c.topkClose then (List.range (if eKind ws = kTile then 4 else 1)).map fun i => (prm.topk + 256 * i, 256) else []
  if eKind ws = kTile then
    (own ((views (ws.getD 2 0)).flatMap (·.spans (ef ws 4 63 48) (ef ws 4 47 32) 4 (tileK ws))
        ++ (views (ws.getD 3 0)).flatMap (·.spans (ef ws 4 31 16) (ef ws 4 15 0) 16 (tileK ws))
        ++ ((s.arraysNow sid ws).map fun g => (256 * g, 6144)) ++ (if c.raw then [] else blocks)), own (outs ++ lists))
  else if eKind ws = kConv then
    (own ((viewF32 (ws.getD 2 0)).spans (ef ws 3 39 24) (ef ws 3 23 8) 1 (ef ws 3 63 40) ++ blocks), own (outs ++ lists))
  else if eKind ws = kVec then
    match vecOp ws with
    | none => ([], [])
    | some op =>
      let ds := s.opDescs sid ws
      let all := fun (is : List Nat) (out : Bool) => is.flatMap fun i =>
        (if out then [viewF32 (ds.getD i 0)] else views (ds.getD i 0)).flatMap fun v =>
          (List.range (vecCount ws)).flatMap fun t => let (a, b) := v.seq t; v.spans a b 1 1
      (own (all (vecUsed op).1 false), own (all (vecUsed op).2 true))
  else if eKind ws = kMerge then (own [(256 * ef ws 2 63 52, 256 * ef ws 2 39 32)], own [(256 * ef ws 2 51 40, 256)])
  else if eKind ws = kXfer then
    let n := 256 * ef ws 2 23 0
    let forms := s.xferForms ws
    (part (ef ws 2 63 24) n ++ forms.flatMap fun x => part (ef ws 5 63 24) (x.scales n),
      if ef ws 3 23 10 = 0x3FFF then forms.flatMap fun x =>
        part (ef ws 3 63 24) (x.outBytes n) ++ part (ef ws 6 63 24) (x.outScales n) else [])
  else if eKind ws = kColl then (part (ef ws 3 63 24) (256 * ef ws 3 23 0), part (ef ws 4 63 24) (256 * ef ws 4 23 0))
  else ([], [])

/-- Two lists of ranges meet. -/
def spansMeet (a b : List (Nat × Nat × Nat)) : Bool :=
  a.any fun x => b.any fun y => x.1 = y.1 && decide (x.2.1 < y.2.1 + y.2.2) && decide (y.2.1 < x.2.1 + x.2.2)

/-- Check 0x0D: the first writer that does not wait on a Token of a reader in another stream, which reads the range earlier in the
step or in the step before. -/
def State.reuseBad (s : State) (p : Nat) (im : Image) : Option Reject :=
  let all := im.streams.flatMap fun t => (List.range t.ents.length).map fun i =>
    let ws := t.ents.getD i []
    ((t.sid, i, ws), s.coreSpans p t ws)
  (all.find? fun w => all.any fun r =>
    let we := w.1; let re := r.1
    let both := decide (eCadence we.2.2 ≠ 0) && decide (eCadence re.2.2 ≠ 0)
    decide (we.1 ≠ re.1) && spansMeet w.2.2 r.2.1 && (decide (eRound re.2.2 < eRound we.2.2) || !both)
      && !(eWaits we.2.2).any fun t => (localRels re.2.2).contains (512 * we.1 + t.1)).map fun w => ⟨0x0D, w.1.1, w.1.2.1⟩

/-- A position in the play of R231: its cube's timer, the countdown g, the cycle of the latest issue, the cycle in which the vector unit is
free, and the latest conversion, its first cycle and its elements. -/
structure Play where
  t : Timer
  g : Nat
  issued : Nat
  vec : Nat
  conv : Nat × Nat
  deriving DecidableEq, Repr, Inhabited

/-- The cycle after a conversion of `n` elements that begins in cycle `a`: it pauses while a set drains (R132). -/
def convEnd (a n : Nat) (drains : List Nat) : Nat :=
  drains.foldl (fun x d => if d ≤ a ∨ x ≤ d - 64 then x else x + (d - max (d - 64) a)) (a + n)

/-- Elements that a vector operation takes in one cycle (R129). -/
def vecRate : VecOp → Nat
  | .updPlain | .updMomentum => 8
  | .updAdamw => 2
  | _ => 16

/-- The cycle in which an entry can issue in the play, in a step that starts in cycle `base`: after the entry before it, in its planned
round, and once its unit is free; the cube runs on beside the other units (R101, R129, R132, R218). -/
def Play.ready (x : Play) (base cpr : Nat) (ws : List W64) : Nat :=
  let at' := max x.issued (base + eRound ws * cpr)
  if eKind ws = kTile then max at' x.t.cycle
  else if eKind ws = kVec then max at' x.vec
  else if eKind ws = kConv then max at' (convEnd x.conv.1 x.conv.2 x.t.drains)
  else at'

/-- One entry of the play of R231; none when it cannot issue in its planned round. DESIGN CHOICE (log 128): a tile that requests SA is
played at the SA rate, though its slot may decline SA as it issues. -/
def State.playEntry (s : State) (sid base cpr : Nat) (d : Option Nat) (x : Play) (ws : List W64) : Option Play :=
  let at' := x.ready base cpr ws
  if base + (eRound ws + 1) * cpr ≤ at' then none
  else if eKind ws = kTile then
    let cls := tileClass (s.view (ws.getD 2 0)).f (s.view (ws.getD 3 0)).f
    let c := tileCycles (ef ws 5 63 28) cls (tileSa ws && decide (cls ≤ 2))
    let (sampled, g) := countdown d x.g
    let r := x.t.tile (s.rampLen sid) at' c (tileSeed ws) (tileMerges ws) (if sampled then checkCycles c else 0)
    some { x with t := r.t, g := g, issued := at' }
  else if eKind ws = kVec then some { x with issued := at', vec := at' + ceilDiv (vecCount ws) (((vecOp ws).map vecRate).getD 16) }
  else if eKind ws = kConv then some { x with issued := at', conv := (at', ef ws 3 63 40) }
  else some { x with issued := at' }

/-- The cycle, in the play's count, in which each step starts: more than any ramp, so that what an earlier step left stays countable. -/
def playBase : Nat := 2 ^ 24

/-- A play at the end of a step of `len` cycles, counted from the start of the next; what no longer matters is forgotten. -/
def Play.next (x : Play) (reg len : Nat) : Play :=
  let (_, t) := x.t.idleTo reg (playBase + len)
  let back := fun (c : Nat) => if c ≤ playBase + len then 0 else c - len
  let still : Bool := t.ramp = .still || (t.ramp = .up && t.level = 5)
  { x with
    t := { t with cycle := t.cycle - len, phase := if still then 0 else t.phase - len, drained := back t.drained, read0 := back t.read0
                  read1 := back t.read1, hist := [], marks := [], adds := []
                  drains := (t.drains.filter fun c => playBase + len < c).map (· - len) }
    issued := back x.issued, vec := back x.vec
    conv := if convEnd x.conv.1 x.conv.2 t.drains ≤ playBase + len then (0, 0) else (x.conv.1 - len, x.conv.2) }

/-- One step of the play of R231, or the entry that cannot issue in its planned round. -/
def State.playCycles (s : State) (t : ImgStream) (cpr : Nat) (d : Option Nat) (n : Nat) (x : Play) : Except Nat Play :=
  (List.range t.ents.length).foldl (fun (a : Except Nat Play) i =>
    match a with
    | .error e => .error e
    | .ok x =>
      let ws := t.ents.getD i []
      if !runsIn ws n then .ok x
      else match s.playEntry t.sid playBase cpr d x ws with
        | some y => .ok y
        | none => .error i) (.ok x)

/-- The play of R231 over the steps of the job, until a position that it has been in comes again: the first entry that cannot issue in
its planned round. `turn` steps bring the same entries again. -/
def State.playFrom (s : State) (t : ImgStream) (cpr len turn : Nat) (d : Option Nat) : Nat → Nat → List (Nat × Play) → Play → Option Nat
  | 0, _, _, _ => none
  | f + 1, n, seen, x =>
    match s.playCycles t cpr d n x with
    | .error i => some i
    | .ok y =>
      let y := y.next (s.rampLen t.sid) len
      if seen.contains (n % turn, y) then none else State.playFrom s t cpr len turn d f (n + 1) ((n % turn, y) :: seen) y

/-- Check 0x0E (R231, R381): every position stream, for every start value of g, from a still cube. -/
def State.cyclesBad (s : State) (p cpr : Nat) (im : Image) : Option Reject :=
  let d := fractionD (s.part p).stn.cfg
  let h := schedOf 0 im.hdr
  (im.streams.filter fun t => isPosStream t.sid).findSome? fun t =>
    (List.range (d.getD 1)).findSome? fun g =>
      (s.playFrom t cpr (h.period * cpr) (2 ^ im.cadence) d (if h.steps = 0 then 2 ^ 64 else h.steps) h.first [] ⟨Timer.reset, g, 0, 0, (0, 0)⟩).map
        fun i => ⟨0x0E, t.sid, i⟩

/-- The pool that a member connection charges (R232; log 18): the direct port of its route, or the switched ports of its plane. -/
def State.poolOf (s : State) (c : Nat) : Nat :=
  let k := s.conn c
  let plane := fld k.cfg 56 56
  match s.lookup plane (connV4 k) (connPeerAddr k plane) with
  | some (_, r) =>
    let ports := (bitsOf 8 (rtPorts r)).map (8 * plane + ·)
    if ports.all fun n => portRole (s.port n) = 2 then ports.headD (16 + plane) else 16 + plane
  | none => 16 + plane

/-- The charge of a length in granules (R232). -/
def chargeOf (len : Nat) : Nat := 256 * len + ceilDiv (256 * len) 32

/-- The egress charge of an entry: its pool and its bytes; above the tray a collective charges the switched ports of its plane (R232,
R363). -/
def State.egress (s : State) (q : Part) (ws : List W64) : Option (Nat × Nat) :=
  if eKind ws = kXfer then
    if ef ws 3 23 10 = 0x3FFF then none else some (s.poolOf (ef ws 3 23 10), chargeOf (ef ws 2 23 0))
  else if eKind ws = kColl then
    match instOf q (cCid ws) with
    | some b =>
      let pool := iPool b (cStage ws)
      let pool := if cStage ws = 1 ∨ 16 ≤ pool then pool else 16 + pool / 8
      if cStage ws = 0 then none else some (pool, chargeOf (ef ws 3 23 0))
    | none => none
  else none

/-- The ingress reservation of an entry. -/
def ingress (ws : List W64) : Option (Nat × Nat) :=
  if eKind ws = kReserve then some (ef ws 2 63 59, ef ws 2 31 0) else none

/-- The scheduled share of one port in a round of 2^λ ns, in eighths of a bit: rate * 2^λ * (4 + HSHARE). -/
def State.portShare (s : State) (n lam : Nat) : Nat :=
  if (s.port n).subs = 0 ∨ s.roleNow n = 0 then 0 else portRate * 2 ^ lam * (4 + portHshare (s.port n))

/-- The budget of a pool per round in bytes (R232). -/
def State.budget (s : State) (pool lam : Nat) : Nat :=
  let ports := if pool < 16 then [pool] else (List.range 8).map (8 * (pool - 16) + ·) |>.filter fun n => portRole (s.port n) = 1
  (ports.map fun n => s.portShare n lam).foldl (· + ·) 0 / (64 * 10 ^ 9)

/-- The step of a schedule in which the most entries run: every CADENCE up to this power of two divides one of its steps (R209). -/
def Image.busiest (im : Image) : Nat :=
  let h := schedOf 0 im.hdr
  ((List.range 16).filter fun k => h.steps = 0 || decide (ceilDiv h.first (2 ^ k) * 2 ^ k < h.first + h.steps)).foldl max 0

/-- The sum of what those entries of an image that `runs` takes charge a pool in a round of the step. -/
def Image.sumOf (im : Image) (runs : List W64 → Bool) (f : List W64 → Option (Nat × Nat)) (pool r : Nat) : Nat :=
  im.all.foldl (fun n e =>
    if eRound e.2.2 = r && runs e.2.2 then match f e.2.2 with | some (q, b) => if q = pool then n + b else n | none => n else n) 0

/-- The sum of what the entries of an image charge a pool in one round of its busiest step. -/
def Image.sumIn (im : Image) (f : List W64 → Option (Nat × Nat)) (pool r : Nat) : Nat :=
  im.sumOf (fun ws => decide (eCadence ws ≤ im.busiest)) f pool r

/-- The largest per-round charge of a pool. -/
def Image.peak (im : Image) (f : List W64 → Option (Nat × Nat)) (pool : Nat) : Nat :=
  (im.all.map fun e => im.sumIn f pool (eRound e.2.2)).foldl max 0

/-- The streams of an image whose header and table are readable; nothing is counted. -/
def State.imageAt (s : State) (p addr : Nat) : Image :=
  let get := fun (a n : Nat) => match (s.fetchBytes p [] a n).1 with | .ok b => b | .error _ => zeros n
  let h := get addr 256
  let n := min (leAt h 60 4) 4128
  let t := get (addr + 256) (16 * n)
  ⟨h, t, (List.range n).map fun i =>
    let sid := leAt t (16 * i) 2
    let cnt := leAt t (16 * i + 2) 6
    let off := leAt t (16 * i + 8) 8
    ⟨sid, cnt, off, (List.range cnt).map fun e => wordsOf (get (addr + off + 64 * e) 64)⟩⟩

/-- The running schedules of equal or higher priority than partition p, as images with their round length exponents (R234). PRESUMED
(log 129): of two priorities the larger number is the higher. -/
def State.rivals (s : State) (p : Nat) : List (Nat × Image × Nat × Nat) :=
  (List.range 16).filterMap fun o =>
    let q := s.part o
    match q.sched with
    | some h => if o ≠ p && (q.schSt = 2 || q.schSt = 3) && decide ((s.part p).pri ≤ q.pri) then some (o, s.imageAt o h.addr, h.lam, h.mhz) else none
    | none => none

/-- Checks 0x0F and 0x10 (R232, R234). -/
def State.budgetBad (s : State) (p lam cause : Nat) (im : Image) (f : Nat → List W64 → Option (Nat × Nat)) : Option Reject :=
  let rivals := s.rivals p
  let other := fun (pool : Nat) => (rivals.map fun r => ceilDiv (r.2.1.peak (f r.1) pool * 2 ^ lam) (2 ^ r.2.2.1)).foldl (· + ·) 0
  (im.all.find? fun e => match f p e.2.2 with
    | some (pool, b) => 0 < b && decide (s.budget pool lam < im.sumIn (f p) pool (eRound e.2.2) + other pool)
    | none => false).map fun e => ⟨cause, e.1, e.2.1⟩

/-- The entries of one stream of an image. -/
def Image.only (im : Image) (sid : Nat) : Image := { im with streams := im.streams.filter fun t => t.sid = sid }

/-- The bytes that a COLL entry makes a column's collective engine ingest (R233); every column's engine is a pool of its own here. -/
def intake (ws : List W64) : Option (Nat × Nat) := if eKind ws = kColl then some (0, 256 * ef ws 4 23 0) else none

/-- Check 0x11 (R233, R234): bytes that a column's collective stream receives in one round. -/
def State.collectBad (s : State) (p lam mhz : Nat) (im : Image) : Option Reject :=
  let rivals := s.rivals p
  let other := fun (sid : Nat) => (rivals.map fun r => ceilDiv ((r.2.1.only sid).peak intake 0 * 2 ^ lam) (2 ^ r.2.2.1)).foldl (· + ·) 0
  (im.all.find? fun e => eKind e.2.2 = kColl &&
    decide (256 * cyclesPerRound lam mhz < (im.only e.1).sumIn intake 0 (eRound e.2.2) + other e.1)).map fun e => ⟨0x11, e.1, e.2.1⟩

/-- Check 0x04 on the stream table (R206, R208). -/
def State.tableBad (s : State) (p : Nat) (t : Bytes) (n : Nat) : Option Reject :=
  let ids := (List.range n).map fun i => leAt t (16 * i) 2
  ((List.range n).find? fun i =>
    let sid := ids.getD i 0
    !(partStreams (s.part p)).contains sid || decide (2 ^ 40 < leAt t (16 * i + 2) 6) || decide (leAt t (16 * i + 8) 8 % 64 ≠ 0)
      || decide (leAt t (16 * i + 8) 8 < 256 + 16 * n) || (ids.take i).contains sid).map fun i => ⟨4, ids.getD i 0 % 2 ^ 13, noEntry⟩

/-- Checks 0x05 to 0x11 on an image, in order (R230). -/
def State.admission (s : State) (p : Nat) (im : Image) : Option Reject :=
  let q := s.part p
  let h := schedOf 0 im.hdr
  let cpr := cyclesPerRound h.lam h.mhz
  let slotOk := fun (n : Nat) => decide (q.slotFirst ≤ n ∧ n < q.slotFirst + q.slotCount)
  [firstBad 5 im fun t _ ws => s.entryOk p t.sid ws && im.cadenceOk t.sid ws,
    im.carrierBad (carrierCid q),
    firstBad 6 im (roundsOk h.period),
    (im.streams.find? fun t => t.ents.isEmpty).map fun t => ⟨6, t.sid, noEntry⟩,
    firstBad 7 im fun t _ ws => s.insFit t.sid ws false && s.outsFit t.sid ws,
    firstBad 8 im fun t _ ws => (s.slotsNamed t.sid ws).all slotOk,
    firstBad 9 im fun t i ws => im.layerOk t i ws,
    im.streams.findSome? fun t => if isPosStream t.sid then (s.playOuts im t).map fun i => ⟨0x0A, t.sid, i⟩ else none,
    firstBad 0x0B im fun t _ ws => s.ladderOk p im t ws,
    s.tokensBad p im, s.reuseBad p im, s.cyclesBad p cpr im,
    s.budgetBad p h.lam 0x0F im (fun o => s.egress (s.part o)),
    s.budgetBad p h.lam 0x10 im (fun _ => ingress),
    s.collectBad p h.lam h.mhz im].findSome? id

/-- The keys of what a partition is served in priority order (R234): the pools, and the collective engines of the columns. -/
def engineKey (sid : Nat) : Nat := 32 + streamCol sid
def State.charges (s : State) (q : Part) (sid : Nat) (ws : List W64) : List (Nat × Nat) :=
  (s.egress q ws).toList ++ if eKind ws = kColl then [(engineKey sid, 256 * ef ws 4 23 0)] else []

/-- What remains of a pool, or of a column's collective engine, in a round of partition p beside the running schedules of higher priority
(R234): none when there are none. -/
def State.remaining (s : State) (p : Nat) (h : Sched) (key : Nat) : Option Nat :=
  let above := (s.rivals p).filter fun r => (s.part p).pri < (s.part r.1).pri
  let taken := above.map fun r =>
    ceilDiv ((if key < 32 then r.2.1.peak (s.egress (s.part r.1)) key else (r.2.1.only (0x1010 + (key - 32))).peak intake 0) * 2 ^ h.lam)
      (2 ^ r.2.2.1)
  if above.isEmpty then none
  else some ((if key < 32 then s.budget key h.lam else 256 * cyclesPerRound h.lam h.mhz) - taken.foldl (· + ·) 0)

/-- Whether what remains serves an entry in this round (R234). DESIGN CHOICE (log 131): it does while the partition's charges that no round
has carried yet are less than what remains; a charge beyond it is carried by the next rounds. -/
def State.served (s : State) (p sid : Nat) (ws : List W64) : Bool :=
  let q := s.part p
  match q.sched with
  | some h => (s.charges q sid ws).all fun c => match s.remaining p h c.1 with
    | some n => decide (Table.get 0 q.poolDebt c.1 < n)
    | none => true
  | none => true

/-- An entry's charges taken from what remains in this round (R234). -/
def State.chargePools (s : State) (p sid : Nat) (ws : List W64) : State :=
  let q := s.part p
  match q.sched with
  | some h =>
    let cs := (s.charges q sid ws).filter fun c => (s.remaining p h c.1).isSome
    s.updPart p fun q => { q with poolDebt := cs.foldl (fun t c => Table.set 0 t c.1 (Table.get 0 t c.1 + c.2)) q.poolDebt }
  | none => s

/-- The traces of a load's checks in their order (R230, R475): those that passed, and the one that failed, with its cause and stream. -/
def State.traceChecks (s : State) (p cause sid : Nat) : State :=
  let passed := if cause = 0x12 then [] else (List.range 0x12).filter fun i => i < cause
  let s := passed.foldl (fun s i => s.traceLead p 2 i [p, 0, 0]) s
  if cause = 0x13 then s else s.traceLead p 2 (if cause = 0x12 then 0 else cause) [p, cause, sid]

/-- A failed check: STATE rejected, with CAUSE, STREAM and ENTRY (R230). A schedule that is admitted or runs stays so behind what
SCH_LOAD_STATUS shows (R236; log 93). DESIGN CHOICE (log 130): STREAM is 0 where no stream is at fault. -/
def State.rejectLoad (s : State) (p : Nat) (r : Reject) : State :=
  (s.traceChecks p r.cause r.sid).updPart p fun q =>
    let live := r.cause = 0x12
    { q with schSt := if live then q.schSt else 4, schRej := live, schCause := r.cause, schStream := r.sid, schEntry := r.entry }

/-- The countdowns of position c.k.p when a schedule starts (R376). -/
def startCount (d : Option Nat) (pos : Nat) : Nat :=
  match d with
  | some d => (pos % 16 * max (d / 16) 1 + pos / 16 % 16) % d
  | none => 0

/-- A schedule admitted (R230, R376, R395, R396): measured, its streams at their first entries, step F - 1 committed. -/
def State.admitImage (s : State) (p addr : Nat) (im : Image) : State :=
  let h := schedOf addr im.hdr
  let bytes := im.hdr ++ im.table ++ im.streams.flatMap fun t => t.ents.flatMap fun ws => ws.flatMap fun w => natLE 8 w.toNat
  let s := (s.measure 5 p h.steps h.jobId (sha512 bytes)).actAwaits p
  let s := s.updPart p fun q =>
    let streams := (partStreams q).foldl (fun t sid =>
      let e := (im.streams.find? fun x => x.sid = sid).getD ⟨sid, 0, 0, []⟩
      Table.set Stream.reset t sid { Stream.reset with live := true, count := e.count, entry := e.off }) ([] : Table Stream)
    let q := { q with
      st := if q.st = .ready then .running else q.st, schSt := 2, schRej := false, schCause := 0, schStream := 0, schEntry := noEntry, sched := some h
      step := h.first, shift := 0, prevShift := 0, poolDebt := [], streams := streams, layers := [], slipD := 0, slipLabel := 0, slipBest := [], slipApplied := []
      roundIn := [], colls := [], collIn := [], collAsk := [], collRes := [], spill := [], aborted := false, isParked := false, parking := false, parkHost := false, parkStop := false
      stn := { Stn.reset with cfg := q.stn.cfg, committed := BitVec.ofNat 64 h.first - 1, st := 1, retracts := q.stn.retracts,
                              fails := q.stn.fails, poisoned := q.stn.poisoned, drops := q.stn.drops, heldUpd := q.stn.heldUpd } }
    release511 q h.first
  let d := fractionD (s.part p).stn.cfg
  let s := (partPositions (s.part p)).foldl (fun s n => s.updPos n fun x =>
    let g := startCount d n
    { x with g := g, h := g, keepG := g, keepH := g, startG := g, startH := g, blocks := [], tops := [], saves := [], owed := [] }) s
  (slotsOf (s.part p)).foldl (fun s n => s.updSlot n fun x => { keepSlot x with startState := x.state }) s

/-- SCH_LOAD cannot be written now (R435, R529). -/
def State.loadBarred (s : State) (p : Nat) : Bool :=
  decide (s.pwr.remove ≠ 0) || decide ((s.part p).st = .absent) || decide ((s.part p).st = .tearing)

/-- A write of SCH_LOAD (R230, R277, R529): the status of the access, and the state. -/
def State.opLoad (s : State) (p addr : Nat) (errs : List MemErr) : Nat × State :=
  let q := s.part p
  if s.loadBarred p then (4, s)
  else if q.schSt = 2 ∨ q.schSt = 3 then (0, s.rejectLoad p ⟨0x12, 0, noEntry⟩)
  else
    let fetchBad := fun (s : State) (e : Bool × Nat) (sid i : Nat) =>
      let s := if e.1 then s.fetchTrap p e.2 else s
      (0, s.rejectLoad p ⟨4, sid, i⟩)
    let rd := s.fetchBytes p errs addr 256
    let s := rd.2
    match rd.1 with
    | .error e => fetchBad s e 0 noEntry
    | .ok h =>
      let n := leAt h 60 4
      if !headerOk h then (0, s.rejectLoad p ⟨1, 0, noEntry⟩)
      else if !digestOk h then (0, s.rejectLoad p ⟨2, 0, noEntry⟩)
      else if fld (Table.get 0 s.pwr.grants p) 10 0 < leAt h 20 4 then (0, s.rejectLoad p ⟨3, 0, noEntry⟩)
      else
        let rd := s.fetchBytes p errs (addr + 256) (16 * n)
        let s := rd.2
        match rd.1 with
        | .error e => fetchBad s e 0 noEntry
        | .ok t =>
          match s.tableBad p t n with
          | some r => (0, s.rejectLoad p r)
          | none =>
            let (r, s) := (List.range n).foldl (fun (a : Except ((Bool × Nat) × Nat × Nat) (List ImgStream) × State) i =>
              match a.1 with
              | .error e => (.error e, a.2)
              | .ok l =>
                let sid := leAt t (16 * i) 2
                let cnt := leAt t (16 * i + 2) 6
                let off := leAt t (16 * i + 8) 8
                let rd := a.2.fetchBytes p errs (addr + off) (64 * cnt)
                let s := rd.2
                match rd.1 with
                | .error e => (.error (e, sid, if e.1 then (e.2 - (addr + off)) / 64 else noEntry), s)
                | .ok b => (.ok (l ++ [⟨sid, cnt, off, (List.range cnt).map fun i => wordsOf (slice b (64 * i) 64)⟩]), s)) (.ok [], s)
            match r with
            | .error (e, sid, i) => fetchBad s e sid i
            | .ok l =>
              let im : Image := ⟨h, t, l⟩
              match s.admission p im with
              | some r => (0, s.rejectLoad p r)
              | none => (0, (s.traceChecks p 0x13 0).admitImage p addr im)

/-- The entry that a stream has still to issue, as (step, words): the next of the step, or the first of the next step once its
STEP_END has completed; nothing is counted. -/
def State.pendingEntry (s : State) (p sid : Nat) : Option (Nat × List W64) :=
  let q := s.part p
  let st := streamOf q sid
  if st.ended && (redoOf q sid).isNone then
    if finalStep q q.step then none else ((s.seekEntry p sid (q.step + 1) none [] (st.count + 1) 0).1).map fun e => (q.step + 1, e.2)
  else ((s.nextEntry p sid []).1).map fun e => (q.step, e.2)

/-- A member's lateness at the start of a round (R223). -/
def State.lateness (s : State) (p : Nat) : Nat :=
  let q := s.part p
  let r := s.roundNow q
  (q.streams.map fun e => match s.pendingEntry p e.1 with
    | some (n, ws) => (r - planned q n (eRound ws)).toNat
    | none => 0).foldl max 0

/-- The 16 bytes of a SLIP (R225). -/
def slipBytes (label total member : Nat) : Bytes := natLE 8 label ++ natLE 4 total ++ natLE 2 member ++ zeros 2

/-- A SLIP passed on to the member's neighbours in the broadcast tree but one. -/
def State.passSlip (s : State) (p : Nat) (but : Option Nat) (payload : Bytes) : State :=
  (treeConns (s.part p)).foldl (fun s c => if but = some c ∨ (s.conn c).st ≠ 2 then s else s.sendMsg c opSlip payload) s

/-- A member's SLIP (R223 to R225). -/
def State.sendSlip (s : State) (p late : Nat) (h : Sched) : State :=
  let q := s.part p
  let d := 2 ^ h.qexp * ceilDiv late (2 ^ h.qexp)
  let far := decide (s.roundNow q + h.lead ≤ planned q (q.step + 1) 0)
  let label := if far then q.step + 1 else q.step + 2
  let s := s.updPart p fun q =>
    { q with slipD := d, slipLabel := label, slipsSent := inc q.slipsSent,
             slipBest := Table.set 0 q.slipBest label (max d (Table.get 0 q.slipBest label)) }
  let s := (s.traceLead p 3 0 [label, d, h.member]).passSlip p none (slipBytes label d h.member)
  s.logP s.leadNow 0x32 0xFFFF p [schLoadStatus (s.part p)]

/-- What a partition's entries charge a pool in round r of its job: those of its step and of the steps before and after it, each planned
with its own shift (R209, R226, R232). -/
def Image.chargeIn (im : Image) (q : Part) (f : List W64 → Option (Nat × Nat)) (pool : Nat) (r : Int) : Nat :=
  let steps := (if (q.sched.map (·.first)).getD 0 < q.step then [q.step - 1] else []) ++ [q.step] ++ if finalStep q q.step then [] else [q.step + 1]
  (steps.map fun n =>
    let start := if n < q.step then planned { q with shift := q.prevShift } n 0 else planned q n 0
    if r < start then 0 else im.sumOf (runsIn · n) f pool (r - start).toNat).foldl (· + ·) 0

/-- Arrivals beyond the reservations of the round before (R235), counted once. -/
def State.overrun (s : State) (p : Nat) (h : Sched) : State :=
  let q := s.part p
  let im := s.imageAt p h.addr
  let isOver := q.roundIn.any fun e => decide (im.chargeIn q ingress e.1 (s.roundNow q - 1) < e.2)
  s.updPart p fun q => { q with roundIn := [], overrun := if isOver then inc q.overrun else q.overrun }

/-- A new round serves a partition (R234): each pool and engine carries what remains to it, and a round in which its charges of the round
and those carried over pass what remains is counted as held back. -/
def State.servePools (s : State) (p : Nat) (h : Sched) : State :=
  let q := s.part p
  let im := s.imageAt p h.addr
  let keys := (List.range 18 ++ columns.map (32 + ·)).filterMap fun k => (s.remaining p h k).map fun n => (k, n)
  let carried := fun (k n : Nat) => Table.get 0 q.poolDebt k - n
  let due := fun (k : Nat) => if k < 32 then im.chargeIn q (s.egress q) k (s.roundNow q)
    else (im.only (0x1010 + (k - 32))).chargeIn q intake 0 (s.roundNow q)
  let back := keys.any fun e => decide (e.2 < carried e.1 e.2 + due e.1)
  s.updPart p fun q =>
    { q with preempt := if back then inc q.preempt else q.preempt
             poolDebt := keys.foldl (fun t e => Table.set 0 t e.1 (carried e.1 e.2)) [] }

/-- ROUND_START (R222, R223, R234, R235): lateness, and a SLIP when it exceeds SLACK + D. -/
def State.opRound (s : State) (p : Nat) : State :=
  s.whenOp fun s =>
    let q := s.part p
    match q.sched with
    | some h =>
      if (q.schSt ≠ 2 ∧ q.schSt ≠ 3) then s
      else
        let s := (s.overrun p h).servePools p h
        if q.stn.st ≠ 1 then s
        else
          let late := s.lateness p
          let s := s.updPart p fun q => { q with lateMax := if q.lateMax.toNat < late then BitVec.ofNat 64 late else q.lateMax }
          if h.slack + q.slipD < late then s.sendSlip p late h else s
    | none => s

/-- A SLIP received on member connection c (R225 to R227). -/
def State.slipIn (s : State) (c : Nat) (b : Bytes) : State :=
  let p := connPart (s.conn c)
  let q := s.part p
  let m := leAt b 0 8
  let d := leAt b 8 4
  if (q.schSt ≠ 2 ∧ q.schSt ≠ 3) ∨ !(treeConns q).contains c then s
  else
    let s := s.traceLead p 3 1 [m, d, leAt b 12 2]
    let seen := max (Table.get 0 q.slipBest m) (Table.get 0 q.slipApplied m)
    let s := if seen < d then s.passSlip p (some c) (slipBytes m d (leAt b 12 2)) else s
    if q.step < m then s.updPart p fun q => { q with slipBest := Table.set 0 q.slipBest m (max d (Table.get 0 q.slipBest m)) }
    else
      let had := Table.get 0 q.slipApplied m
      let s := s.traceLead p 3 2 [m, d, memberNo q]
      let s := s.updPart p fun q =>
        { q with slipsLate := inc q.slipsLate, shift := q.shift + (d - had : Nat), slipApplied := Table.set 0 q.slipApplied m (max d had) }
      s.logP s.leadNow 0x33 0xFFFF p [schLoadStatus (s.part p)]

def execRoundStart (p : Nat) (s : State) : Out := .next (s.opRound p)

end Sys2Proof.Machine
end

