-- ==== Sys2Proof/Machine/Coll.lean ====
section
/-! DEFINITION. The collective engine (chapter 10): geometry of stages and chunks, the steps of the algorithms, sending and
receiving parts, rounding at the covering member, in-path addition, pulls, votes on the carrier (R391), and the collective
registers (R370). -/
namespace Sys2Proof.Machine

/-- Segments of a member's message: a row each for TOPK_MERGE (R357). -/
def iSegs (b : Bytes) : Nat := if iOp b = 6 then iElems b else ceilDiv (iElems b) 1024

/-- First segment of chunk c of G of the segments `lo` to `hi - 1`. -/
def chunkLo (lo hi c g : Nat) : Nat := lo + c * (hi - lo) / g

/-- The segments of chunk c. -/
def chunkAt (sp : Nat × Nat) (c g : Nat) : Nat × Nat := (chunkLo sp.1 sp.2 c g, chunkLo sp.1 sp.2 (c + 1) g)

/-- The segments of a member's message at a stage: its own chunk after each lower stage that scatters (R360). -/
def stageSpan (b : Bytes) (st : Nat) : Nat × Nat :=
  (List.range st).foldl (fun sp s =>
    let g := iG b s
    if g ≤ 1 ∨ !(iOp b = 1 ∨ iOp b = 2 ∨ iOp b = 6) then sp
    else if iAlg b s = 3 then chunkAt sp ((iRank b s + 1) % g) g
    else if iAlg b s = 2 ∧ iOp b = 2 then chunkAt sp (iRank b s) g
    else sp) (0, iSegs b)

/-- What a step of an algorithm does at a rank (R357): whom it sends to and receives from, the segments of each, and whether it
combines. -/
structure Move where
  dest : Option Nat
  src : Option Nat
  combine : Bool
  send : Nat × Nat
  recv : Nat × Nat
  deriving DecidableEq, Repr

/-- The step of rank r of a stage (R357). -/
def moveOf (op alg g r n : Nat) (inpath : Bool) (sp : Nat × Nat) : Move :=
  let l := log2Up g
  let ch := fun (c : Nat) => chunkAt sp c g
  match alg with
  | 1 =>
    if n < l then
      let d := 2 ^ n
      if r % (2 * d) = d then ⟨some (r - d), none, true, sp, sp⟩
      else if r % (2 * d) = 0 ∧ r + d < g then ⟨none, some (r + d), true, sp, sp⟩
      else ⟨none, none, true, sp, sp⟩
    else
      let d := 2 ^ (2 * l - 1 - n)
      if r % (2 * d) = 0 ∧ r + d < g then ⟨some (r + d), none, false, sp, sp⟩
      else if r % (2 * d) = d then ⟨none, some (r - d), false, sp, sp⟩
      else ⟨none, none, false, sp, sp⟩
  | 2 =>
    if op = 2 then
      let w := 2 ^ (l - 1 - n)
      let p := Nat.xor r w
      let half := fun (q : Nat) => ((ch (q / w * w)).1, (ch (q / w * w + w - 1)).2)
      ⟨some p, some p, true, half p, half r⟩
    else
      let p := Nat.xor r (2 ^ n)
      ⟨some p, some p, op = 1, sp, sp⟩
  | 3 =>
    let up := some ((r + 1) % g)
    let down := some ((r + g - 1) % g)
    if n < g - 1 ∧ op ≠ 3 then
      if inpath then ⟨down, up, true, ch r, ch ((r + 1) % g)⟩
      else ⟨up, down, true, ch ((r + g - n % g) % g), ch ((r + 2 * g - n % g - 1) % g)⟩
    else
      let t := n + 1 - g
      if op = 3 then ⟨up, down, false, ch ((r + g - t % g) % g), ch ((r + 2 * g - t % g - 1) % g)⟩
      else ⟨up, down, false, ch ((r + 1 + g - t % g) % g), ch ((r + g - t % g) % g)⟩
  | 4 => ⟨some ((r + n) % g), some ((r + g - n % g) % g), false, sp, sp⟩
  | _ => ⟨none, none, false, sp, sp⟩

/-- A set of ranks as a mask. -/
def rankMask (g : Nat) (p : Nat → Bool) : Nat := (List.range g).foldl (fun m q => if p q then m + 2 ^ q else m) 0

/-- The ranks whose contributions the data of rank r hold before step n (own), and at its end (the expected set of R358). -/
def ownSet (op alg g r n : Nat) : Nat :=
  let l := log2Up g
  match alg with
  | 1 => rankMask g fun q => r ≤ q && decide (q < min (r + 2 ^ n) g)
  | 2 => if op = 2 then rankMask g fun q => q % 2 ^ (l - n) = r % 2 ^ (l - n) else rankMask g fun q => q / 2 ^ n = r / 2 ^ n
  | _ => 2 ^ r
def expectedSet (op alg g r n : Nat) (inpath : Bool) : Nat :=
  let l := log2Up g
  match alg with
  | 1 => rankMask g fun q => r ≤ q && decide (q < min (r + 2 ^ (n + 1)) g)
  | 2 => if op = 2 then rankMask g fun q => q % 2 ^ (l - 1 - n) = r % 2 ^ (l - 1 - n)
    else rankMask g fun q => q / 2 ^ (n + 1) = r / 2 ^ (n + 1)
  | 3 => if inpath then 2 ^ g - 1 else rankMask g fun q => (r + g - q) % g ≤ n + 1
  | _ => 2 ^ r

/-- CONTRIB of what a step sends: in a ring chunk (r - n) holds the ranks r - n to r. -/
def sentSet (op alg g r n : Nat) (inpath : Bool) : Nat :=
  if alg = 3 ∧ !inpath then rankMask g fun q => (r + g - q) % g ≤ n else ownSet op alg g r n

/-- What a COLL entry is about: its instance record, stage, rank, group, step and its move. `exact`: its data travel as the parts of exact
partials. -/
structure CollCtx where
  b : Bytes
  cid : Nat
  st : Nat
  g : Nat
  r : Nat
  alg : Nat
  n : Nat
  inpath : Bool
  sp : Nat × Nat
  mv : Move
  exact : Bool
  deriving DecidableEq, Repr

/-- A step that passes data on and does not combine still moves exact partials, whose spilled parts go with them (R346, R354): a tree's
down phase below the highest stage, and every later step of an instance whose OUT_FORM is compact exact (R361). -/
def passesExact (b : Bytes) (st n : Nat) : Bool :=
  decide (iOut b = 2)
    || (decide (iAlg b st = 1) && decide (log2Up (iG b st) ≤ n) && (List.range 4).any fun t => decide (st < t) && decide (1 < iG b t))

/-- The context of step n of a stage of an instance. -/
def ctxOf (b : Bytes) (st n : Nat) (fixed : Bool) : CollCtx :=
  let sp := stageSpan b st
  let mv := moveOf (iOp b) (iAlg b st) (iG b st) (iRank b st) n (iInpath b st) sp
  ⟨b, leAt b 0 2, st, iG b st, iRank b st, iAlg b st, n, iInpath b st, sp, mv,
    !fixed && decide (iOp b ≤ 2) && (mv.combine || passesExact b st n)⟩

/-- The context of a COLL entry (R214, R357). -/
def collCtx (q : Part) (ws : List W64) : Option CollCtx := (instOf q (cCid ws)).map fun b => ctxOf b (cStage ws) (cStep ws) (cFixed ws)

/-- The column of a collective stream. -/
def collCol (stream : Nat) : Nat := stream % 16

/-- The connection to a rank of the stage (R343). -/
def CollCtx.conn (k : CollCtx) (q : Nat) : Nat := iConn k.b k.st + q

/-- The expected set of the step at this rank (R358): of a step that does not combine, the whole group, whose state it passes on. -/
def CollCtx.want (k : CollCtx) : Nat := if k.mv.combine then expectedSet (iOp k.b) k.alg k.g k.r k.n k.inpath else 2 ^ k.g - 1

/-- The ranks that the member's own data stand for before the step, and those that what it sends stands for. -/
def CollCtx.own (k : CollCtx) : Nat := if k.mv.combine then ownSet (iOp k.b) k.alg k.g k.r k.n else 0
def CollCtx.sent (k : CollCtx) : Nat := if k.mv.combine then sentSet (iOp k.b) k.alg k.g k.r k.n k.inpath else 2 ^ k.g - 1

/-- The combination of this step covers every member of the instance (R361). -/
def CollCtx.covers (k : CollCtx) : Bool :=
  k.mv.combine && decide (k.want = 2 ^ k.g - 1) && (List.range 4).all fun s => s ≤ k.st || decide (iG k.b s ≤ 1)

/-- Elements present in a segment of the message. -/
def CollCtx.elems (k : CollCtx) (seg : Nat) : Nat := min 1024 (iElems k.b - 1024 * seg)

/-- The form of LOCAL: IN_FORM at the first stage that runs, compact exact above it (R346, R360). -/
def CollCtx.form (k : CollCtx) : Nat := if (List.range k.st).all fun s => decide (iG k.b s ≤ 1) then iIn k.b else 2

/-- Where a result of this stage already holds a segment in a step of the job: its address (R357). -/
def CollCtx.resAt (k : CollCtx) (q : Part) (step seg : Nat) : Option (Nat × Nat) :=
  (q.collRes.find? fun e => e.step = step && e.cid = k.cid && e.stage = k.st && decide (e.lo ≤ seg ∧ seg < e.hi)).map
    fun e => (e.addr, e.lo)

/-- COL_LAST_ERR (R370). -/
def collErr (cid stepno kind stage contrib seg : Nat) : W64 :=
  fields [at_ 63 48 cid, at_ 47 32 stepno, at_ 31 28 kind, at_ 27 26 stage, at_ 25 20 ((bitsOf 64 contrib).headD 0), at_ 19 0 seg]

/-- COL_LAST_ERR of a step, with a count. -/
def State.collNote (s : State) (c : Nat) (w : W64) (f : ColRegs → ColRegs) : State :=
  s.updCol c fun q => { f q with colLastErr := w }

/-- TERM_LIMIT events of the engine, counted and logged (R352, R370). -/
def State.collLimits (s : State) (p c n : Nat) : State :=
  (List.range n).foldl (fun s _ =>
    (s.updCol c fun q => { q with colTermLimit := inc q.colTermLimit }).logP c 0x11 0xFFFF p [0]) s

/-- LA_IMAGE_BAD events of the engine, logged; R370 gives them no counter (R81; log 134). -/
def State.collBadImages (s : State) (p c n : Nat) : State :=
  (List.range n).foldl (fun s _ => s.logP c 0x12 0xFFFF p [0]) s

/-- Granules of partition memory read, by number; none when one of them cannot be read (R276). -/
def State.partGrans (s : State) (p : Nat) (gs : List Nat) (errs : List MemErr) : Option Grans × State :=
  (dedup gs).foldl (fun (a : Option Grans × State) g =>
    match a.1 with
    | none => a
    | some l =>
      let rd := a.2.readGran accOperand p (256 * g) errs
      let s := rd.2
      match rd.1 with
      | .data d => (some ((g, d) :: l), s)
      | _ => (none, s)) (some [], s)

/-- The bytes of a whole granule run, in order, and the granules among them that are poisoned. -/
def runBytes (l : Grans) (a n : Nat) : Bytes × List Nat :=
  let gs := gransOver a n
  (slice (gs.flatMap fun g => (granOf l (256 * g)).data) (a % 256) n,
    (List.range gs.length).filter fun i => (granOf l (256 * gs.getD i 0)).poison)

/-- Every byte from an address lies in a region that is open (R243, R245). -/
def State.reaches (s : State) (p a n : Nat) : Bool :=
  (gransOver a n).all fun g => match s.place p (256 * g) with | some (_, _, _, i) => !i | none => false

/-- Bytes written in partition memory region by region, `poison` marking granules by their place in the run; the caller has asked
`reaches`. What comes after its region's generation has changed is dropped and counted (R262). -/
def State.putFrom (p : Nat) (gens : List (Nat × Nat)) (errs : List MemErr) (a0 : Nat) (poison : Nat → Bool) : Nat → State → Nat → Bytes → State
  | 0, s, _, _ => s
  | f + 1, s, a, bs =>
    match bs, s.place p a with
    | _ :: _, some (i, r, o, false) =>
      let n := rgnDlen r - o
      let run := bs.take n
      let s := if staleGen gens i r then (splitGrans (run.length / 256 + 2) o run).foldl (fun s e => s.dropStale r e.1) s
        else s.writeAlloc p i r o run (fun g => poison (g + (a / 256 - a0 / 256))) errs
      State.putFrom p gens errs a0 poison f s (a + n) (bs.drop n)
    | _, _ => s

def State.putRun (s : State) (p : Nat) (gens : List (Nat × Nat)) (errs : List MemErr) (a : Nat) (bs : Bytes) (poison : Nat → Bool) : State :=
  State.putFrom p gens errs a poison (bs.length / 256 + 2) s a bs

/-- Bytes with their poison, read from partition memory. -/
abbrev Marked := List (BitVec 8 × Bool)
def State.readMarked (s : State) (p a n : Nat) (errs : List MemErr) : Option Marked × State :=
  let rd := s.partGrans p (gransOver a n) errs
  (rd.1.map fun l => (List.range n).map fun i => let g := granOf l (a + i); (g.data.getD ((a + i) % 256) 0, g.poison), rd.2)

/-- Bytes with their poison written: a granule that takes a poisoned byte is poisoned. -/
def State.putMarked (s : State) (p : Nat) (gens : List (Nat × Nat)) (errs : List MemErr) (a : Nat) (l : Marked) : State :=
  s.putRun p gens errs a (l.map (·.1)) fun g => (List.range l.length).any fun i => (l.getD i default).2 && decide ((a + i) / 256 - a / 256 = g)

/-- Bytes with their poison as granules, the last one filled with zeros. -/
def markedGrans (l : Marked) : List Gran :=
  (List.range (ceilDiv l.length 256)).map fun i =>
    let x := (l.drop (256 * i)).take 256
    ⟨slice (x.map (·.1)) 0 256, x.any (·.2)⟩

/-- The states of a segment as the member's memory holds it (R343, R352, R354): in form 0 elements, 1 images, 2 compact exact,
from address `a`; `rel` is the segment's place from there. What the engine merges to form them may raise TERM_LIMIT and LA_IMAGE_BAD
(R73, R81, R352). None: it cannot be read. -/
def State.segStates (s : State) (p col : Nat) (k : CollCtx) (form a rel seg : Nat) (errs : List MemErr) : Option (List Acc) × State :=
  let n := k.elems seg
  match form with
  | 0 =>
    let f := (fmtOfCode (iFmt k.b)).getD .fp32
    let first := a + 1024 * fmtWidth f / 8 * rel
    let rd := s.partGrans p (gransOver first (n * fmtWidth f / 8)) errs
    let s := rd.2
    match rd.1 with
    | some l => (some ((List.range n).map fun i =>
        let (c, bad) := bitsAt l (8 * first + fmtWidth f * i) (fmtWidth f)
        addTerm accClear (decodeScaled f c 127 bad)), s)
    | none => (none, s)
  | 1 =>
    let first := a + 98304 * rel
    let rd := s.partGrans p (gransOver first (96 * n)) errs
    let s := rd.2
    match rd.1 with
    | some l =>
      let xs := (List.range n).map fun i =>
        let (bs, bad) := runBytes l (first + 96 * i) 96
        takeImg accClear (bs, !bad.isEmpty)
      (some (xs.map (·.1)), (s.collBadImages p col (xs.countP (·.2.1))).collLimits p col (xs.countP (·.2.2)))
    | none => (none, s)
  | _ =>
    let first := a + 8192 * rel
    let rd := s.partGrans p (gransOver first 8192) errs
    let s := rd.2
    match rd.1 with
    | some l =>
      let (b0, bad0) := runBytes l first 8192
      let h := hdrOf b0
      let more := if bad0.contains 0 then [] else (List.range (min h.nparts 14 - 1)).map fun i => iSpill k.b + 8192 * (h.spillIdx + i)
      let rd := s.partGrans p (more.flatMap fun x => gransOver x 8192) errs
      let s := rd.2
      match rd.1 with
      | some m =>
        let parts := (b0, bad0) :: more.map fun x => runBytes m x 8192
        let xs := (List.range n).map fun e => mergeStates accClear (parts.flatMap fun x => partStates x.1 x.2 e)
        let bad := (parts.map fun x => if x.2.isEmpty then badRecords x.1 else 0).foldl (· + ·) 0
        (some (xs.map (·.1)), (s.collBadImages p col bad).collLimits p col ((xs.map (·.2)).foldl (· + ·) 0))
      | none => (none, s)
    | none => (none, s)

/-- The member's own contribution of a segment: what the previous step of the stage wrote where that holds it, otherwise LOCAL
(R357). -/
def State.ownStates (s : State) (p col : Nat) (k : CollCtx) (step seg : Nat) (errs : List MemErr) : Option (List Acc) × State :=
  match k.resAt (s.part p) step seg with
  | some (a, lo) => s.segStates p col k 2 a (seg - lo) seg errs
  | none => s.segStates p col k k.form (iLocal k.b k.st) (seg - k.sp.1) seg errs

/-- A run of packets of one operation (R300): FIRST, LAST and OPID are filled in. -/
def State.sendRun (s : State) (c : Nat) (pkts : List Pkt) : State :=
  if pkts.isEmpty then s
  else
    let (id, s) := s.startOp c .data
    (List.range pkts.length).foldl (fun s i =>
      let p := pkts.getD i (Pkt.blank opReduce)
      s.send c { p with first := i = 0, last := i + 1 = pkts.length, w2 := p.w2 + id }) s

/-- One REDUCE packet (R300, R363), with the provisional mark of its data (R221); a pull carries none. -/
def reducePkt (cid stepno step goff : Nat) (prov : Bool) (grans : List Gran) : Pkt :=
  let base := Pkt.blank opReduce
  { base with prov := prov, w2 := cid * 2 ^ 48 + goff % 2 ^ 24 * 2 ^ 24 + grans.length * 2 ^ 18,
              w3 := stepno * 2 ^ 16 + step % 1024, grans := grans }

/-- Bytes as granules without poison. -/
def cleanGrans (bs : Bytes) : List Gran := (chunks 256 (bs.length / 256 + 1) bs).map fun x => ⟨x, false⟩

/-- The parts of one segment as REDUCE packets. -/
def CollCtx.partPkts (k : CollCtx) (step rel contrib attempt : Nat) (solo prov : Bool) (sts : List Acc) : List Pkt × Nat :=
  let e := encodeSegment sts
  ((encodeParts e contrib attempt 0 solo).map fun b => reducePkt k.cid k.n step (25 * rel) prov (cleanGrans b), e.recs.length)

/-- The segments of the chunk from `lo` to `hi - 1` encoded for sending, from the states that `get` reads (R353): the packets,
and how many escape records they carry. -/
def State.encodeSpan (s : State) (k : CollCtx) (step lo hi contrib attempt : Nat) (prov : Bool)
    (get : State → Nat → Option (List Acc) × State) : Option (List Pkt × Nat) × State :=
  (List.range (hi - lo)).foldl (fun (a : Option (List Pkt × Nat) × State) i =>
    match a.1 with
    | none => a
    | some (l, n) =>
      let rd := get a.2 (lo + i)
      let s := rd.2
      match rd.1 with
      | some sts =>
        let (ps, m) := k.partPkts step i contrib attempt false prov sts
        (some (l ++ ps, n + m), s)
      | none => (none, s)) (some ([], 0), s)

/-- Granules cut into packets of at most `m`, with the granule offset of each. -/
def cutGrans (m : Nat) : Nat → Nat → List Gran → List (Nat × List Gran)
  | 0, _, _ => []
  | f + 1, o, l => if l.isEmpty then [] else (o, l.take m) :: cutGrans m f (o + m) (l.drop m)

/-- The instance rank of a member (R546), its digit at a stage, and the members of an instance. -/
def iMembers (b : Bytes) : Nat := iG b 0 * iG b 1 * iG b 2 * iG b 3
def instRank (b : Bytes) : Nat := ((iRank b 0 * iG b 1 + iRank b 1) * iG b 2 + iRank b 2) * iG b 3 + iRank b 3
def rankDigit (b : Bytes) (st x : Nat) : Nat := x / ((List.range 4).filter (st < ·)).foldl (fun n t => n * iG b t) 1 % max 1 (iG b st)

/-- Bytes of the elements from segment `lo` to `hi - 1` of one member's message, in IN_FORM (R343, R354). -/
def segBytes (b : Bytes) (lo hi : Nat) : Nat :=
  let n := min (1024 * hi) (iElems b) - min (1024 * lo) (iElems b)
  match iIn b with
  | 0 => n * fmtWidth ((fmtOfCode (iFmt b)).getD .fp32) / 8
  | 1 => 96 * n
  | _ => 8192 * (hi - lo)

/-- A piece of a copied message: where its bytes lie before the stage's step, or once it has come, as an offset, and how many. -/
abbrev Piece := Nat × Nat

/-- What a step of ALL_GATHER or ALL_TO_ALL moves (R357, R546), as pieces of the data at BUF, which the member holds as the stage begins,
and of those at RES, which it holds as the stage ends. DESIGN CHOICE (log 135): BUF and RES of every step of a stage are these two. The
step sends `send`, from RES when `fromRes`; what it receives goes to `recv`; and with its first step the member keeps `keep`, from BUF
to RES. -/
structure Regroup where
  fromRes : Bool
  send : List Piece
  recv : List Piece
  keep : List (Piece × Nat)

/-- ALL_GATHER (R546): chunk q of the stage message is the data of stage rank q. -/
def CollCtx.gather (k : CollCtx) : Regroup :=
  let sz := segBytes k.b 0 (iSegs k.b) * ((List.range 4).filter (k.st < ·)).foldl (fun n t => n * iG k.b t) 1
  if k.alg = 2 then
    let w := 2 ^ k.n
    let mine := k.r / w * w
    let theirs := Nat.xor k.r w / w * w
    ⟨k.n ≠ 0, [(if k.n = 0 then 0 else mine * sz, w * sz)], [(theirs * sz, w * sz)], if k.n = 0 then [((0, sz), k.r * sz)] else []⟩
  else
    let t := k.n + 1 - k.g
    let ch := fun (c : Nat) => (k.r + 2 * k.g - c) % k.g * sz
    ⟨t ≠ 0, [(if t = 0 then 0 else ch t, sz)], [(ch (t + 1), sz)], if t = 0 then [((0, sz), k.r * sz)] else []⟩

/-- The chunks that a member holds as stage `st` of an ALL_TO_ALL begins, as (sender, destination) instance ranks in their order: of every
sender that agrees with it from this stage up, those whose destination agrees with it below (R546). -/
def heldChunks (b : Bytes) (st : Nat) : List (Nat × Nat) :=
  let me := instRank b
  let like := fun (p : Nat → Bool) => (List.range (iMembers b)).filter fun x =>
    (List.range 4).all fun t => p t || decide (rankDigit b t x = rankDigit b t me)
  (like (fun t => decide (t < st))).flatMap fun a => (like (fun t => decide (st ≤ t))).map fun d => (a, d)

/-- Bytes of the chunk for a destination (R546). -/
def chunkBytes (b : Bytes) (d : Nat) : Nat :=
  let m := max 1 (iMembers b)
  segBytes b (d * iSegs b / m) ((d + 1) * iSegs b / m)

/-- Where the chunks of a list that `want` names lie, one after another. -/
def chunkPieces (b : Bytes) (l : List (Nat × Nat)) (want : Nat × Nat → Bool) : List Piece :=
  (l.foldl (fun (a : Nat × List Piece) x =>
    let n := chunkBytes b x.2
    (a.1 + n, if want x then a.2 ++ [(a.1, n)] else a.2)) (0, [])).2

/-- ALL_TO_ALL (R546): to a stage rank goes every chunk whose destination has that rank at the stage. -/
def CollCtx.allToAll (k : CollCtx) : Regroup :=
  let dg := rankDigit k.b k.st
  let before := heldChunks k.b k.st
  let after := heldChunks k.b (k.st + 1)
  let mine := fun (x : Nat × Nat) => dg x.1 = k.r && dg x.2 = k.r
  ⟨false, chunkPieces k.b before fun x => dg x.2 = k.mv.dest.getD k.g, chunkPieces k.b after fun x => dg x.1 = k.mv.src.getD k.g,
    if k.n = 1 then (chunkPieces k.b before mine).zip ((chunkPieces k.b after mine).map (·.1)) else []⟩

/-- What a step regroups; none of the other operations, whose granules go as they stand (R348). -/
def CollCtx.regroup (k : CollCtx) : Option Regroup :=
  if iOp k.b = 3 then some k.gather else if iOp k.b = 5 then some k.allToAll else none

/-- The granules of what a step that is not exact receives. -/
def CollCtx.inGrans (k : CollCtx) (ws : List W64) : Nat :=
  match k.regroup with
  | some x => ceilDiv ((x.recv.map (·.2)).foldl (· + ·) 0) 256
  | none => ef ws 4 23 0

/-- Pieces of a run of partition bytes read one after another. -/
def State.readPieces (s : State) (p base : Nat) (ps : List Piece) (errs : List MemErr) : Option Marked × State :=
  ps.foldl (fun (a : Option Marked × State) x =>
    match a.1 with
    | none => a
    | some l =>
      let rd := a.2.readMarked p (base + x.1) x.2 errs
      (rd.1.map (l ++ ·), rd.2)) (some [], s)

/-- Pieces of a run of partition bytes written from one message. -/
def State.putPieces (s : State) (p : Nat) (gens : List (Nat × Nat)) (errs : List MemErr) (base : Nat) (ps : List Piece) (l : Marked) : State :=
  (ps.foldl (fun (a : Marked × State) x => (a.1.drop x.2, a.2.putMarked p gens errs (base + x.1) (a.1.take x.2))) (l, s)).2

/-- Granules sent as REDUCE packets of one operation. -/
def State.sendGrans (s : State) (p c : Nat) (k : CollCtx) (gs : List Gran) : State :=
  let q := s.part p
  s.sendRun c ((cutGrans (max 1 (connGranMax (s.conn c))) (gs.length + 1) 0 gs).map fun e => reducePkt k.cid k.n q.step e.1 (provStep q q.step) e.2)

/-- What a step sends: the parts of exact partials (R346); the pieces of a regrouped copy (R546); otherwise LEN granules from BUF as they
stand (R348, R357). The data at BUF of an exact step are those of LOCAL, or a compact result of the stage. False: they cannot be read. -/
def State.collSend (s : State) (p col : Nat) (k : CollCtx) (ws : List W64) (errs : List MemErr) : Bool × State :=
  match k.mv.dest with
  | none => (true, s)
  | some d =>
    let c := k.conn d
    let q := s.part p
    let buf := ef ws 3 63 24
    if k.exact then
      let form := if !k.mv.combine ∨ (k.resAt q q.step k.mv.send.1).isSome then 2 else k.form
      let rd := s.encodeSpan k q.step k.mv.send.1 k.mv.send.2 k.sent (attemptOf q q.step) (provStep q q.step)
        fun s seg => s.segStates p col k form buf (seg - k.mv.send.1) seg errs
      let s := rd.2
      match rd.1 with
      | some (pkts, n) => (true, (s.sendRun c pkts).updCol col fun r => { r with colEsc := incBy r.colEsc n })
      | none => (false, s)
    else
      let rd := match k.regroup with
        | some x => s.readPieces p (if x.fromRes then ef ws 4 63 24 else buf) x.send errs
        | none => s.readMarked p buf (256 * ef ws 3 23 0) errs
      match rd.1 with
      | some l => (true, rd.2.sendGrans p c k (markedGrans l))
      | none => (false, rd.2)

/-- The VOTE of a carrier entry of step n + 1 (R391, R396): step F sends none. In an in-path stage it goes to every owner. -/
def State.sendVotes (s : State) (p : Nat) (k : CollCtx) : State :=
  let q := s.part p
  let first := (q.sched.map (·.first)).getD 0
  let ranks := if k.inpath ∧ k.mv.combine then (List.range k.g).filter (· ≠ k.r) else k.mv.dest.toList
  if k.cid ≠ carrierCid q ∨ q.step ≤ first then s
  else
    let n := q.step - 1
    let flags := ((verdictOf q n).getD 0) ||| Table.get 0 q.stn.votes n
    ranks.foldl (fun s d => (s.traceLead p 5 1 [n, flags, q.stn.rseq]).sendVerdict (k.conn d)
      (verdictBytes n 1 (attemptOf q n) flags k.st (memberNo q) k.cid k.n 0 0)) s

/-- A carrier entry waits for the member's verdict of the step before (R391, R396). -/
def collHeld (q : Part) (ws : List W64) : Bool :=
  decide (cCid ws = carrierCid q) && decide ((q.sched.map (·.first)).getD 0 < q.step)
    && (verdictOf q (q.step - 1)).isNone && uncommitted q (q.step - 1)

/-- What the rounding of one segment gives: element codes, scale codes, which elements are poisoned, AMAX, RANGE_OVF. -/
structure Rounded where
  codes : List Nat
  scales : List Nat
  poison : List Bool
  amax : Nat
  ovf : Bool

/-- The rounding of the states of elements n0, n0 + 1, … of a message (R361, R362): out_element with SCALE 1.0 and nothing else.
The positions of the last block beyond the message are zero values. -/
def State.roundSeg (s : State) (c : Ctl) (tid step n0 : Nat) (sts : List Acc) : Rounded :=
  let x := s.xNow c
  let pad := if fmtScaled c.format then (32 - sts.length % 32) % 32 else 0
  let ys := (sts ++ List.replicate pad accClear).map fun a =>
    let y := classify a
    if y.poison then (⟨.nan, false, 0, 0, true⟩ : Elem) else y
  let rw := fun (i : Nat) => if c.round = .sr then srWord tid ((n0 + i) % 2 ^ 48) (step % 2 ^ 32) else 0
  let amax := ((ys.take sts.length).foldl OutRun.see (OutRun.start s)).amax
  let pm := ys.map (·.poison)
  if !fmtScaled c.format then
    let ns := (List.range ys.length).map fun i => narrow c.format c.round c.ovf false 0 (rw i) (ys.getD i default)
    ⟨ns.map (·.code), [], pm, amax, ns.any (·.ovf)⟩
  else
    let blocks : List (List Narrowed × Nat) := (List.range (ys.length / 32)).map fun j =>
      let vals := (ys.drop (32 * j)).take 32
      let b0 : Block := ⟨0, 1, .mxVector, c.format, 0, 0, c.scaleSrc, x, 0, 32, false, false, []⟩
      let (bx, clamped) := if c.scaleSrc = .caddy then (x, true) else ownX b0 vals
      let clip : Bool := c.scaleSrc = .ownFloor && !clamped
      let ns : List Narrowed := (List.range 32).map fun i => narrow c.format c.round c.ovf clip bx (rw (32 * j + i)) (vals.getD i default)
      let noNan := (fmtNanCode c.format).isNone
      let b : Block := { b0 with nan := noNan && ns.any (·.nan), nonzero := ns.any fun n => !zeroCode c.format n.code }
      (ns, scaleCode b bx)
    ⟨blocks.flatMap fun b => b.1.map (·.code), blocks.map (·.2), pm, amax, blocks.any fun b => b.1.any (·.ovf)⟩

/-- The codes of a segment written at RES, its scale codes in the result's scale plane, and its report (R162, R361). -/
def State.putCodes (s : State) (p : Nat) (k : CollCtx) (run : CollRun) (errs : List MemErr) (rel seg : Nat) (sts : List Acc) : State :=
  match ctlOf (iCtl k.b) with
  | none => s
  | some c =>
    let res := ef run.words 4 63 24
    let r := s.roundSeg c (iTid k.b) run.step (1024 * seg) sts
    let w := fmtWidth c.format
    let bad := fun (g : Nat) => (List.range r.codes.length).any fun i =>
      r.poison.getD i false && decide (i * w / 2048 ≤ g ∧ g ≤ (i * w + w - 1) / 2048)
    let s := s.putRun p run.gens errs (res + 1024 * w / 8 * rel) (pack w r.codes) bad
    let plane := 64 * (Config.collScaleBase k.cid res).toNat + 32 * rel
    let s := if r.scales.isEmpty ∨ !s.reaches p plane r.scales.length then s
      else s.putRun p run.gens errs plane (r.scales.map (BitVec.ofNat 8)) fun _ => false
    let s := if c.slotEn then s.report c.slot r.amax noBit noBit r.ovf else s
    if r.ovf then s.logP (collCol run.stream) 0x13 0xFFFF p [0] else s

/-- A segment's covering or partial state written at RES in compact exact form (R353, R354); none when the spill area is full. -/
def State.putCompact (s : State) (p : Nat) (k : CollCtx) (run : CollRun) (errs : List MemErr) (rel : Nat) (sts : List Acc) : Bool × State :=
  let used := Table.get 0 (s.part p).spill k.cid
  let e := encodeSegment sts
  let parts := encodeParts e k.want (attemptOf (s.part p) run.step) used false
  let more := parts.length - 1
  if iSpillLen k.b / 32 < used + more then (false, s)
  else
    let put := fun (s : State) (a : Nat) (bs : Bytes) => s.putRun p run.gens errs a bs fun _ => false
    let s := put s (ef run.words 4 63 24 + 8192 * rel) (parts.headD [])
    let s := (List.range more).foldl (fun s i => put s (iSpill k.b + 8192 * (used + i)) (parts.getD (i + 1) [])) s
    (true, s.updPart p fun q => { q with spill := Table.set 0 q.spill k.cid (used + more) })

/-- COL_SPILL_FULL (R354): the stream stops at the entry, as for FETCH_TRAP. -/
def State.spillFull (s : State) (p : Nat) (k : CollCtx) (run : CollRun) (rel : Nat) : State :=
  let c := collCol run.stream
  let w := collErr k.cid k.n 5 k.st 0 rel
  let s := s.collNote c w fun q => { q with colSpillFull := inc q.colSpillFull }
  let s := (s.updPart p fun q => updStream q run.stream fun t => { t with stopped := true }).logP c 0x61 0xFFFF p [w]
  s.partFault p 0x61 true

/-- The bytes of RES that a step writes. -/
def CollCtx.resBytes (k : CollCtx) (ws : List W64) : Nat :=
  let segs := k.mv.recv.2 - k.mv.recv.1
  let elems := min (1024 * segs) (iElems k.b - 1024 * k.mv.recv.1)
  if !k.exact then
    match k.regroup with
    | some x => (x.recv.map fun e => e.1 + e.2).foldl max ((x.keep.map fun e => e.2 + e.1.2).foldl max 0)
    | none => 256 * ef ws 4 23 0
  else if k.covers ∧ iOut k.b = 0 then elems * fmtWidth ((fmtOfCode (fld (iCtl k.b) 14 11)).getD .fp32) / 8
  else if k.covers ∧ iOut k.b = 1 then 96 * elems
  else 8192 * segs

/-- One segment of an exact step merged and written (R346, R352, R361); none when it stops the stream or cannot be read, with the
state that leaves. -/
def State.finishSeg (s : State) (p : Nat) (k : CollCtx) (run : CollRun) (errs : List MemErr) (rel : Nat) : Bool × State :=
  let seg := k.mv.recv.1 + rel
  let c := collCol run.stream
  let res := ef run.words 4 63 24
  let rd := if k.mv.combine then s.ownStates p c k run.step seg errs else (some (List.replicate (k.elems seg) accClear), s)
  let s := rd.2
  match rd.1 with
  | none => (false, s.accessFault p (iLocal k.b k.st))
  | some own =>
    let parts := (run.parts.filter fun x => x.seg = rel).map fun x =>
      (x, x.grans.flatMap (·.data), (List.range x.grans.length).filter fun i => (x.grans.getD i default).poison)
    let sts := (List.range own.length).map fun e => mergeStates (own.getD e accClear) (parts.flatMap fun x =>
      if x.1.bad then [addTerm accClear { nanTerm with poison := true }] else
        let m := mergeStates accClear (partStates x.2.1 x.2.2 e)
        if (partStates x.2.1 x.2.2 e).isEmpty then [] else [m.1])
    let lim := (List.range own.length).foldl (fun n e => n + (sts.getD e default).2 + (parts.foldl (fun m x =>
      if x.1.bad then m else m + (mergeStates accClear (partStates x.2.1 x.2.2 e)).2) 0)) 0
    let s := s.collLimits p c lim
    let out := sts.map (·.1)
    if k.covers ∧ iOut k.b = 0 then (true, s.putCodes p k run errs rel seg out)
    else if k.covers ∧ iOut k.b = 1 then (true, s.putRun p run.gens errs (res + 98304 * rel) (out.flatMap accImage) fun _ => false)
    else
      let r := s.putCompact p k run errs rel out
      if r.1 then r else (false, r.2.spillFull p k run rel)

/-- The sum of two plain codes under FIXED-ORDER (R347). -/
def fixedAdd (f : Fmt) (a b : Nat) : Nat := (narrow f .rne .ieee false 0 0 (exactSum [decodeElement f a, decodeElement f b])).code

/-- One granule of a step that is not exact: sums of FIXED-ORDER codes, a merged list, or a copy (R347, R348), and how many TOPK_BAD it
raises (R168). DESIGN CHOICE (log 132): R370 gives the engine no counter of the duplicates that a merge removes, and they are counted
nowhere. -/
def combineGran (k : CollCtx) (own got : Gran) : Gran × Nat :=
  if !k.mv.combine then (got, 0)
  else if iOp k.b = 6 then
    let m := topMerge [own.data, got.data]
    (⟨topBytes m.out, own.poison || got.poison⟩, m.bads)
  else
    let f := (fmtOfCode (iFmt k.b)).getD .fp32
    let w := fmtWidth f
    let nan := (fmtNanCode f).getD 0
    let code := fun (g : Gran) (i : Nat) => if g.poison then nan else unpackAt w g.data i
    (⟨pack w ((List.range (2048 / w)).map fun i => fixedAdd f (code own i) (code got i)), own.poison || got.poison⟩, 0)

/-- The address of the member's own granule `o` of the chunk that a step which is not exact receives (R357). -/
def CollCtx.ownGran (k : CollCtx) (q : Part) (step o : Nat) : Nat :=
  let per := if iOp k.b = 6 then 1 else fmtWidth ((fmtOfCode (iFmt k.b)).getD .fp32) / 2
  match k.resAt q step k.mv.recv.1 with
  | some (a, lo) => a + 256 * ((k.mv.recv.1 - lo) * per + o)
  | none => iLocal k.b k.st + 256 * ((k.mv.recv.1 - k.sp.1) * per + o)

/-- What a regrouped copy has received written at RES, and what the member keeps (R546). -/
def State.finishCopy (s : State) (p : Nat) (run : CollRun) (errs : List MemErr) (x : Regroup) : Bool × State :=
  let res := ef run.words 4 63 24
  let buf := ef run.words 3 63 24
  let msg : Marked := run.data.flatMap fun e => (List.range 256).map fun i => (e.2.data.getD i 0, e.2.poison)
  let rd := s.readPieces p buf (x.keep.map (·.1)) errs
  match rd.1 with
  | none => (false, rd.2.accessFault p buf)
  | some own =>
    (true, (rd.2.putPieces p run.gens errs res (x.keep.map fun e => (e.2, e.1.2)) own).putPieces p run.gens errs res x.recv msg)

/-- The granules of a step that is not exact combined and written at RES. -/
def State.finishGrans (s : State) (p : Nat) (k : CollCtx) (run : CollRun) (errs : List MemErr) : Bool × State :=
  let res := ef run.words 4 63 24
  run.data.foldl (fun (a : Bool × State) e =>
    if !a.1 then a
    else
      let at' := k.ownGran (a.2.part p) run.step e.1
      let own := if k.mv.combine then a.2.partGrans p [at' / 256] errs else (some [], a.2)
      match own.1 with
      | none => (false, own.2.accessFault p at')
      | some l =>
        let c := combineGran k (granOf l at') e.2
        let s := own.2.putRun p run.gens errs (res + 256 * e.1) c.1.data fun _ => c.1.poison
        (true, (List.range c.2).foldl (fun s _ => s.logP (collCol run.stream) 0x14 0xFFFF p [0]) s)) (true, s)

/-- A run changed. -/
def updRun (q : Part) (run : CollRun) : Part :=
  { q with colls := q.colls.map fun x => if x.stream = run.stream ∧ x.entry = run.entry ∧ x.step = run.step then run else x }

/-- The union of a segment's contributions (R356). -/
def CollCtx.union (k : CollCtx) (run : CollRun) (rel : Nat) : Nat :=
  (run.parts.filter fun x => x.seg = rel).foldl (fun m x => m ||| x.contrib) k.own

/-- A segment is complete (R356): the expected set is covered and every part of each contribution has come. -/
def CollCtx.segDone (k : CollCtx) (run : CollRun) (rel : Nat) : Bool :=
  let mine := run.parts.filter fun x => x.seg = rel
  decide (k.union run rel = k.want) && mine.all fun x =>
    (List.range x.nparts).all fun i => mine.any fun y => y.contrib = x.contrib && y.part = i

/-- Everything that a step receives has come. -/
def CollCtx.ready (k : CollCtx) (run : CollRun) : Bool :=
  if k.mv.src.isNone then true
  else if k.exact then (List.range (k.mv.recv.2 - k.mv.recv.1)).all (k.segDone run)
  else decide (k.inGrans run.words ≤ run.data.length)

/-- A COLL entry whose result stands at RES has completed its own work (R215, R357, R361). -/
def State.runDone (s : State) (p : Nat) (k : CollCtx) (run : CollRun) (res : Nat) (writes : Bool) : State :=
  let s := s.trace (collCol run.stream) p 8 1 [k.cid, k.st, k.n]
  let s := s.updPart p fun q =>
    { updRun q { run with done := true } with
      collRes := if writes && k.mv.combine && !(k.exact && k.covers) then
          ⟨run.step, k.cid, k.st, res, k.mv.recv.1, k.mv.recv.2⟩ :: q.collRes else q.collRes }
  (s.updCol (collCol run.stream) fun c => { c with colSteps := inc c.colSteps }).complete p run.stream run.step run.words

/-- Bytes that a segment takes in memory in a form (R343, R354). -/
def CollCtx.formBytes (k : CollCtx) (form : Nat) : Nat :=
  match form with
  | 0 => 1024 * fmtWidth ((fmtOfCode (iFmt k.b)).getD .fp32) / 8
  | 1 => 98304
  | _ => 8192

/-- A region that the entry reads or writes still initialises: the access is held (R257). -/
def State.collOpening (s : State) (p : Nat) (k : CollCtx) (ws : List W64) : Bool :=
  s.opening p (ef ws 3 63 24) (256 * ef ws 3 23 0) || s.opening p (ef ws 4 63 24) (k.resBytes ws)
    || (k.mv.combine && s.opening p (iLocal k.b k.st) ((k.sp.2 - k.sp.1) * if k.exact then k.formBytes k.form else 0))
    || (k.exact && s.opening p (iSpill k.b) (256 * iSpillLen k.b))

/-- A COLL entry whose data have all come completes (R210, R357, R370): its result is written at RES. -/
def State.collFinish (s : State) (p : Nat) (k : CollCtx) (run : CollRun) (errs : List MemErr) : State :=
  let res := ef run.words 4 63 24
  let writes := k.mv.src.isSome
  if s.collOpening p k run.words then s
  else if writes ∧ !s.reaches p res (k.resBytes run.words) then s.accessFault p res
  else
    let r := if !writes then (true, s)
      else if k.exact then
        (List.range (k.mv.recv.2 - k.mv.recv.1)).foldl (fun (a : Bool × State) rel =>
          if a.1 then a.2.finishSeg p k run errs rel else a) (true, s)
      else match k.regroup with
        | some x => s.finishCopy p run errs x
        | none => s.finishGrans p k run errs
    if r.1 then r.2.runDone p k run res writes else r.2

/-- A part checked, and accepted or discarded (R355, R356, R368): the run after it, and the state. -/
def State.collPart (s : State) (p : Nat) (k : CollCtx) (run : CollRun) (x : CollIn) : CollRun × State :=
  let c := collCol run.stream
  let b := x.grans.flatMap (·.data)
  let h := hdrOf b
  let rel := x.goff / 25
  let note := fun (s : State) (kind : Nat) (f : ColRegs → ColRegs) => s.collNote c (collErr k.cid k.n kind k.st h.contrib rel) f
  let bad := fun (s : State) (kind : Nat) =>
    let s := note s kind fun q => { q with colBad := inc q.colBad }
    s.logP c 0x60 0xFFFF p [(s.col c).colLastErr]
  let placed := decide (x.goff % 25 = 0) && decide (rel < k.mv.recv.2 - k.mv.recv.1)
  let mine := run.parts.filter fun y => y.seg = rel
  let fresh := mine.any (fun y => y.contrib = h.contrib) && !mine.any (fun y => y.contrib = h.contrib && y.part = h.part)
  if h.attempt ≠ attemptOf (s.part p) run.step then (run, note s 4 fun q => { q with colDiscard := inc q.colDiscard })
  else if !placed ∨ h.contrib = 0 ∨ 2 ^ k.g ≤ h.contrib ∨ h.contrib ||| k.want ≠ k.want then (run, bad s 2)
  else if h.contrib &&& k.union run rel ≠ 0 ∧ !fresh then (run, note s 3 fun q => { q with colDiscard := inc q.colDiscard })
  else
    let ok := partOk b x.grans.length (k.elems (k.mv.recv.1 + rel))
    let s := if ok then s else bad s 1
    let known := decide (h.part < h.nparts) && decide (h.nparts ≤ 14)
    let part : CollPart := ⟨rel, h.contrib, if known then h.part else 0, if known then h.nparts else 1, !ok, x.grans⟩
    ({ run with parts := run.parts ++ [part] }, s.updCol c fun q => { q with colPartsIn := inc q.colPartsIn })

/-- The granules of a packet of a step that is not exact placed by their offsets. -/
def placeGrans (run : CollRun) (x : CollIn) : CollRun :=
  (List.range x.grans.length).foldl (fun r i =>
    { r with data := Table.insert (x.goff + i) (x.grans.getD i default) (Table.erase r.data (x.goff + i)) }) run

/-- The SOLO part of one segment sent (R365, R366), from LOCAL. -/
def State.sendSolo (s : State) (p col : Nat) (k : CollCtx) (a : CollAsk) (errs : List MemErr) : State :=
  let sp := chunkAt k.sp a.chunk k.g
  let seg := sp.1 + a.seg
  if sp.2 ≤ seg then s
  else
    let rd := s.segStates p col k k.form (iLocal k.b k.st) (seg - k.sp.1) seg errs
    let s := rd.2
    match rd.1 with
    | some sts =>
      let (pkts, n) := k.partPkts a.step a.seg (2 ^ k.r) (attemptOf (s.part p) a.step) true (provStep (s.part p) a.step) sts
      (s.sendRun a.conn pkts).updCol col fun r => { r with colSolo := incBy r.colSolo pkts.length, colEsc := incBy r.colEsc n }
    | none => s.accessFault p (iLocal k.b k.st)

/-- The issued entry of a step of an in-path stage. -/
def issuedRun (q : Part) (cid st step : Nat) : Option CollRun :=
  q.colls.find? fun x => cCid x.words = cid && cStage x.words = st && cStep x.words = 0 && x.step = step

/-- Every SOLO part that is owed and whose entry has issued is sent (R365, R366). -/
def State.collServe (s : State) (p : Nat) (errs : List MemErr) : State :=
  (s.part p).collAsk.foldl (fun s a =>
    match issuedRun (s.part p) a.cid a.stage a.step, instOf (s.part p) a.cid with
    | some run, some b =>
      if (s.conn a.conn).st ≠ 2 ∨ s.collOpening p (ctxOf b a.stage 0 false) run.words then s
      else
        let s := s.updPart p fun q => { q with collAsk := q.collAsk.filter fun x => x ≠ a }
        s.sendSolo p (collCol run.stream) (ctxOf b a.stage 0 false) a errs
    | _, _ => s) s

/-- What waits for an issued entry is taken in, and the entry completes when everything has come (R356, R363). -/
def State.collSettle (s : State) (p : Nat) (run : CollRun) (errs : List MemErr) : State :=
  match collCtx (s.part p) run.words with
  | none => s
  | some k =>
    let mine := fun (x : CollIn) => x.cid = k.cid && x.stage = k.st && x.stepno = k.n && x.step = run.step
    let ins := (s.part p).collIn.filter mine
    let s := s.updPart p fun q => { q with collIn := q.collIn.filter fun x => !mine x }
    let (run, s) := ins.foldl (fun (a : CollRun × State) x =>
      if k.exact then a.2.collPart p k a.1 x else (placeGrans a.1 x, a.2)) (run, s)
    let s := s.updPart p fun q => updRun q run
    if k.ready run && !(streamOf (s.part p) run.stream).stopped then s.collFinish p k run errs else s

/-- What regions that have opened held back goes on (R257). -/
def State.collResume (s : State) (p : Nat) (errs : List MemErr) : State :=
  ((s.part p).colls.foldl (fun s x => if x.done then s else s.collSettle p x errs) s).collServe p errs

/-- The rounding of a run reports to a Caddy slot (R182, R361). -/
def CollCtx.reports (k : CollCtx) : Bool :=
  k.exact && k.covers && decide (iOut k.b = 0) && ((ctlOf (iCtl k.b)).map (·.slotEn)).getD false

/-- The last carrier entry of the step after the one that a parking member completes has issued: the member stops issuing (R504). -/
def State.parkCheck (s : State) (p : Nat) (ws : List W64) : State :=
  let q := s.part p
  if q.parking && decide (cCid ws = carrierCid q) && decide (q.step = q.parkStep + 1)
      && (partCols q).all (fun c => !s.carrierAhead p (0x1010 + c)) then
    s.updPart p fun q => { q with parkStop := true }
  else s

/-- COLL_ISSUE (R234, R257, R315, R357, R391). -/
def State.opColl (s : State) (p sid : Nat) (errs : List MemErr) : State :=
  s.issue p sid (· = kColl) errs (fun s _ ws =>
      match collCtx (s.part p) ws with
      | some k => (k.mv.dest.toList.all fun d => (s.conn (k.conn d)).st = 2) && !collHeld (s.part p) ws && s.served p sid ws
          && !s.collOpening p k ws
      | none => false) fun s i ws =>
    match collCtx (s.part p) ws with
    | none => s
    | some k =>
      let s := s.chargePools p sid ws
      let r := (s.sendVotes p k).collSend p (collCol sid) k ws errs
      if !r.1 then r.2.accessFault p (ef ws 3 63 24)
      else
        let q := r.2.part p
        let run : CollRun := ⟨sid, i, q.step, ws, false, [], [], [], [], planned q q.step (eRound ws), k.reports, r.2.gensOf p⟩
        let s := (r.2.trace (collCol sid) p 8 0 [k.cid, k.st, k.n]).updPart p fun q => { q with colls := q.colls ++ [run] }
        ((s.collSettle p run errs).collServe p errs).parkCheck p ws

/-- The step number congruent to `m` modulo 1024 that lies nearest `cur` (R321). -/
def nearStep (cur m : Nat) : Nat :=
  let d := (m + 1024 - cur % 1024) % 1024
  if d < 512 ∨ cur + d < 1024 then cur + d else cur + d - 1024

/-- The stage whose connections include c (R343). -/
def stageOfConn (b : Bytes) (c : Nat) : Option Nat :=
  (List.range 4).find? fun s => decide (1 < iG b s) && decide (iConn b s ≤ c) && decide (c < iConn b s + iG b s)
    && decide (c ≠ iConn b s + iRank b s)

/-- Parts for a step that has completed are overlaps (R356). -/
def State.lateParts (s : State) (p cid st stepno step : Nat) : State :=
  let q := s.part p
  let mine := fun (x : CollIn) => x.cid = cid && x.stage = st && x.stepno = stepno && x.step = step
  let col := ((q.colls.find? fun x => cCid x.words = cid && cStage x.words = st && x.step = step).map fun x => collCol x.stream).getD 0
  let exact := ((q.colls.find? fun x => cCid x.words = cid && cStage x.words = st && cStep x.words = stepno && x.step = step).bind
    fun x => collCtx q x.words).any (·.exact)
  let s := s.updPart p fun q => { q with collIn := q.collIn.filter fun x => !mine x }
  if !exact then s
  else (q.collIn.filter mine).foldl (fun s x =>
    let h := hdrOf (x.grans.flatMap (·.data))
    let kind := if h.attempt ≠ attemptOf (s.part p) step then 4 else 3
    s.collNote col (collErr cid stepno kind st h.contrib (x.goff / 25)) fun r => { r with colDiscard := inc r.colDiscard }) s

/-- A REDUCE packet delivered to its partition (R355, R363, R366): a pull, a part, or data. -/
def State.collReceive (s : State) (c : Nat) (pkt : Pkt) (errs : List MemErr) : State :=
  let p := connPart (s.conn c)
  let q := s.part p
  let cid := nfld pkt.w2 63 48
  let goff := nfld pkt.w2 47 24
  let stepno := nfld pkt.w3 31 16
  let step := nearStep q.step (nfld pkt.w3 9 0)
  match instOf q cid with
  | none => s
  | some b => match stageOfConn b c with
    | none => s
    | some st =>
      if pkt.grans.isEmpty then
        let a : CollAsk := ⟨cid, st, step, c, (c - iConn b st + 1) % iG b st, goff / 25⟩
        if !iInpath b st then s
        else (s.updPart p fun q => { q with collAsk := q.collAsk ++ [a] }).collServe p errs
      else
        let s := s.updPart p fun q => { q with collIn := q.collIn ++ [⟨c, cid, st, stepno, step, goff, pkt.grans⟩] }
        match q.colls.find? fun x => !x.done && cCid x.words = cid && cStage x.words = st && cStep x.words = stepno && x.step = step with
        | some run => s.collSettle p run errs
        | none =>
          if q.colls.any fun x => x.done && cCid x.words = cid && cStage x.words = st && cStep x.words = stepno && x.step = step then
            s.lateParts p cid st stepno step
          else s
/-- The ranks that a segment of an in-path entry still lacks HOLD rounds after the round the entry was planned with (R226, R366), and that
it has not asked. -/
def State.lacking (s : State) (q : Part) (k : CollCtx) (run : CollRun) (seg : Nat) : List Nat :=
  if run.done ∨ !k.inpath ∨ !k.exact ∨ k.mv.recv.2 - k.mv.recv.1 ≤ seg ∨ s.roundNow q < run.due + (iHold k.b k.st : Nat) then []
  else (bitsOf k.g (k.want - k.union run seg)).filter fun r => !run.pulled.contains (seg, r) && decide ((s.conn (k.conn r)).st = 2)

/-- PULL_TIMEOUT (R366): every in-path entry asks the ranks that the segment still lacks, once each. -/
def State.opPull (s : State) (p seg : Nat) : State :=
  s.whenOp fun s => (s.part p).colls.foldl (fun s run =>
    match collCtx (s.part p) run.words with
    | none => s
    | some k =>
      let missing := s.lacking (s.part p) k run seg
      let s := missing.foldl (fun s r =>
        (s.sendRun (k.conn r) [reducePkt k.cid k.n run.step (25 * seg) false []]).updCol (collCol run.stream)
          fun c => { c with colPulls := inc c.colPulls }) s
      if missing.isEmpty then s
      else s.updPart p fun q => updRun q { run with pulled := run.pulled ++ missing.map fun r => (seg, r) }) s

/-- The partition, instance stage and ranks of a REDUCE packet that passes an in-path stage of this module (R336, R364): its
sender and its owner are the members whose addresses it carries. -/
def State.passing (s : State) (plane : Nat) (v4 : Bool) (src dst cid stepno : Nat) : Option (Nat × Bytes × Nat × Nat × Nat) :=
  (List.range 16).findSome? fun p => (s.part p).insts.findSome? fun b =>
    if leAt b 0 2 ≠ cid ∨ stepno ≠ 0 then none
    else (List.range 4).findSome? fun st =>
      if !iInpath b st then none
      else
        let who := fun (addr : Nat) => (List.range (iG b st)).find? fun r =>
          let k := s.conn (iConn b st + r)
          r ≠ iRank b st && connKind k = 1 && connPart k = p && connV4 k == v4 && connPeerAddr k plane = addr
        match who src, who dst with
        | some a, some o => if a = (o + 1) % iG b st then some (p, b, st, a, o) else none
        | _, _ => none

/-- The addition of a forwarder to one packet (R364): the granules that go on, TERM_LIMIT and LA_IMAGE_BAD events; none when the packet
passes unaided. Record slots of the packet's granules that the sum does not need are empty (log 75). -/
def State.inpathAdd (s : State) (p col : Nat) (k : CollCtx) (sender rel : Nat) (bs : Bytes) (n : Nat) (bad : List Nat)
    (errs : List MemErr) : Option (Bytes × Nat × Nat) × State :=
  let sp := chunkAt k.sp sender k.g
  let seg := sp.1 + rel
  let h := hdrOf bs
  if sp.2 ≤ seg ∨ h.part ≠ 0 ∨ h.nparts ≠ 1 ∨ h.solo ∨ testBit h.contrib k.r
      ∨ s.opening p (iLocal k.b k.st) ((k.sp.2 - k.sp.1) * k.formBytes k.form) then (none, s)
  else
    let rd := s.segStates p col k k.form (iLocal k.b k.st) (seg - k.sp.1) seg errs
    let s := rd.2
    match rd.1 with
    | some own =>
      let sts := (List.range own.length).map fun e => mergeStates (own.getD e accClear) (partStates bs bad e)
      let e := encodeSegment (sts.map (·.1))
      let out := encodeParts e (h.contrib + 2 ^ k.r) h.attempt 0 false
      let lim := sts.foldl (fun n x => n + x.2) 0
      let slots := 256 * (n - 25) / 96
      match out with
      | [b] => if b.length ≤ 256 * n then
          (some (slice (b.take (6400 + 96 * e.recs.length) ++ (List.replicate (slots - e.recs.length) emptySlot).flatten) 0 (256 * n), lim,
            if bad.isEmpty then badRecords bs else 0), s)
        else (none, s)
      | _ => (none, s)
    | none => (none, s)

/-- A REDUCE packet passes this module on an in-path route (R336, R364, R365): its granules and poison marks as they go on, and the
state; `errs` are met by reads of LOCAL. -/
def State.collPass (s : State) (plane : Nat) (v4 : Bool) (src dst : Nat) (pkt : Pkt) (errs : List MemErr) : List Gran × State :=
  let cid := nfld pkt.w2 63 48
  match s.passing plane v4 src dst cid (nfld pkt.w3 31 16) with
  | none => (pkt.grans, s)
  | some (p, b, st, sender, owner) =>
    let q := s.part p
    let k := ctxOf b st 0 false
    let step := nearStep q.step (nfld pkt.w3 9 0)
    let goff := nfld pkt.w2 47 24
    let bs := pkt.grans.flatMap (·.data)
    let bad := (List.range pkt.grans.length).filter fun i => (pkt.grans.getD i default).poison
    let h := hdrOf bs
    if pkt.grans.isEmpty ∨ goff % 25 ≠ 0 ∨ h.solo ∨ testBit h.contrib k.r then (pkt.grans, s)
    else
      let run := issuedRun q cid st step
      let (r, s) := match run with
        | some x => s.inpathAdd p (collCol x.stream) k sender (goff / 25) bs pkt.grans.length bad errs
        | none => (none, s)
      match r, run with
      | some (out, lim, badImgs), some run =>
        let c := collCol run.stream
        ((chunks 256 pkt.grans.length out).map fun x => ⟨x, false⟩,
          ((s.collBadImages p c badImgs).collLimits p c lim).updCol c fun r => { r with colInpath := inc r.colInpath })
      | _, _ =>
        let a : CollAsk := ⟨cid, st, step, iConn b st + owner, sender, goff / 25⟩
        let owed := q.collAsk.contains a || run.any fun x => x.owed.contains (sender, goff / 25)
        if owed then (pkt.grans, s)
        else
          let s := s.updPart p fun q =>
            let q := { q with collAsk := q.collAsk ++ [a] }
            match run with | some x => updRun q { x with owed := (sender, goff / 25) :: x.owed } | none => q
          (pkt.grans, s.collServe p errs)

def execCollIssue (p sid : Nat) (errs : List MemErr) (s : State) : Out := .next (s.opColl p sid errs)
def execPullTimeout (p seg : Nat) (s : State) : Out := .next (s.opPull p seg)

end Sys2Proof.Machine
end

