-- ==== Sys2Proof/Machine/Xfer.lean ====
section
/-! DEFINITION. Transfers (R214, R220, R315, R322): transfers within the member and WRITE packets on a connection; TOKEN_TIMEOUT
(R222). -/
namespace Sys2Proof.Machine

/-- The source of a transfer read: its payload and its scale plane, as the destination takes them; none when a granule cannot be
read. -/
def State.xferRead (s : State) (p : Nat) (ws : List W64) (errs : List MemErr) : Option (Payload × Payload) × State :=
  let x := s.xferForm ws
  let n := 256 * ef ws 2 23 0
  let a := ef ws 2 63 24
  let sa := ef ws 5 63 24
  let rd := s.partGrans p (gransOver a n) errs
  let s := rd.2
  match rd.1 with
  | none => (none, s)
  | some l =>
    let rd := s.partGrans p (gransOver sa (x.scales n)) errs
    let s := rd.2
    match rd.1 with
    | none => (none, s)
    | some m =>
      let (bs, bad) := runBytes l a n
      let (sc, sbad) := runBytes m sa (x.scales n)
      let lost := (List.range (x.scales n)).filter fun i => sbad.contains ((sa + i) / 256 - sa / 256)
      (some (x.payload bs bad, x.plane n sc lost), s)

/-- A payload as whole granules; the bytes after its end are zero. -/
def payloadGrans (x : Payload) : List Gran :=
  (List.range (ceilDiv x.1.length 256)).map fun i => ⟨slice x.1 (256 * i) 256, x.2.contains i⟩

/-- WRITE packets of a transfer to an address (R300), with the provisional mark of its data (R221). -/
def writePkts (m addr dtok step : Nat) (prov : Bool) (gs : List Gran) : List Pkt :=
  (cutGrans m (gs.length + 1) 0 gs).map fun e =>
    let base := Pkt.blank opWrite
    { base with prov := prov, w2 := (addr + 256 * e.1) % 2 ^ 40 * 2 ^ 24 + e.2.length * 2 ^ 18, w3 := dtok * 2 ^ 10 + step % 1024,
                grans := e.2 }

/-- A transfer of LEN 0 sends its Token only (R214), with the provisional mark of its step (R221). -/
def tokenPkt (dtok step : Nat) (prov : Bool) : Pkt :=
  let base := Pkt.blank opToken
  { base with prov := prov, w3 := dtok * 2 ^ 10 + step % 1024 }

/-- A transfer within the member: payload and scale plane written, their old granules verified where they are covered in part (R269), then
DTOK (R220). False: the destination cannot be written (R276). -/
def State.xferLocal (s : State) (p : Nat) (ws : List W64) (x : Payload × Payload) (errs : List MemErr) : Bool × State :=
  let d := ef ws 3 63 24
  let sd := ef ws 6 63 24
  if !s.reaches p d x.1.1.length then (false, s.accessFault p d)
  else if !s.reaches p sd x.2.1.length then (false, s.accessFault p sd)
  else
    let s := s.putRun p [] errs d x.1.1 fun g => x.1.2.contains g
    let s := s.putRun p [] errs sd x.2.1 fun g => x.2.2.any fun b => (sd + b) / 256 - sd / 256 = g
    let dtok := ef ws 4 63 42
    (true, s.updPart p fun q => if dtok = relNone then q else releaseTok q dtok q.step (provStep q q.step))

/-- A transfer on a connection: one operation of WRITE packets, the scale plane after the payload. -/
def State.xferSend (s : State) (c : Nat) (ws : List W64) (step : Nat) (prov : Bool) (x : Payload × Payload) : State :=
  let m := max 1 (connGranMax (s.conn c))
  let dtok := ef ws 4 63 42
  if ef ws 2 23 0 = 0 then (if dtok = relNone then s else s.sendRun c [tokenPkt dtok step prov])
  else s.sendRun c (writePkts m (ef ws 3 63 24) dtok step prov (payloadGrans x.1)
    ++ writePkts m (ef ws 6 63 24) dtok step prov (payloadGrans (x.2.1, x.2.2.map (· / 256))))

/-- A region that a transfer reads, or writes within the member, still initialises: the access is held (R257). -/
def State.xferOpening (s : State) (p : Nat) (ws : List W64) : Bool :=
  let x := s.xferForm ws
  let n := 256 * ef ws 2 23 0
  s.opening p (ef ws 2 63 24) n || s.opening p (ef ws 5 63 24) (x.scales n)
    || (ef ws 3 23 10 = 0x3FFF && (s.opening p (ef ws 3 63 24) (x.outBytes n) || s.opening p (ef ws 6 63 24) (x.outScales n)))

/-- XFER_ISSUE (R58 to R60, R214, R220, R234, R257, R315, R322). -/
def State.opXfer (s : State) (p sid : Nat) (errs : List MemErr) : State :=
  s.issue p sid (· = kXfer) errs (fun s _ ws =>
      (decide (ef ws 3 23 10 = 0x3FFF) || decide ((s.conn (ef ws 3 23 10)).st = 2)) && s.served p sid ws && !s.xferOpening p ws)
    fun s _ ws =>
      let s := s.chargePools p sid ws
      let c := ef ws 3 23 10
      let step := (s.part p).step
      let rd := s.xferRead p ws errs
      let s := rd.2
      match rd.1 with
      | none => s.accessFault p (ef ws 2 63 24)
      | some x =>
        let r := if c = 0x3FFF then s.xferLocal p ws x errs else (true, s.xferSend c ws step (provStep (s.part p) step) x)
        if r.1 then r.2.complete p sid step ws else r.2

def execXferIssue (p sid : Nat) (errs : List MemErr) (s : State) : Out := .next (s.opXfer p sid errs)

/-- TOKEN_TIMEOUT (R222, R388, R391). -/
def State.opTokenDue (s : State) (p sid : Nat) (errs : List MemErr) : State :=
  s.opTokenTimeout p sid (fun s _ ws =>
    if eKind ws = kVec then vecHeld (s.part p) ws else eKind ws = kColl && collHeld (s.part p) ws) errs

def execTokenTimeout (p sid : Nat) (errs : List MemErr) (s : State) : Out := .next (s.opTokenDue p sid errs)

end Sys2Proof.Machine
end

