-- ==== Sys2Proof/Machine/Image.lean ====
section
/-! DEFINITION. The Xairmer structure image (chapter 12): its header, sections and records, and the validation checks of R426
with the section and the byte offset of the field at fault. -/
namespace Sys2Proof.Machine

/-- A failed check: CAUSE, SECTION and OFFSET of XSI_LOAD_STATUS. -/
structure XsiBad where
  cause : Nat
  sect : Nat
  off : Nat
  deriving DecidableEq, Repr

/-- OFFSET all ones: no field. -/
def noOffset : Nat := 2 ^ 32 - 1

/-- Fields of the XSI header. -/
def xFlags (b : Bytes) : Nat := leAt b 6 2
def xModule (b : Bytes) : Bool := testBit (xFlags b) 0
def xForce (b : Bytes) : Bool := testBit (xFlags b) 1
def xStore (b : Bytes) : Bool := testBit (xFlags b) 2
def xTenant (b : Bytes) : Bool := testBit (xFlags b) 3
def xLen (b : Bytes) : Nat := leAt b 8 4
def xScope (b : Bytes) : Nat := leAt b 12 2
def xSeq (b : Bytes) : Nat := leAt b 16 8

/-- The partition of a tenant image. -/
def xPart (b : Bytes) : Nat := (bitsOf 16 (xScope b)).headD 0

/-- The first field that a list of (offset, holds) pairs finds at fault. -/
def badField (l : List (Nat × Bool)) : Option Nat := (l.find? fun e => !e.2).map (·.1)

/-- The tenant key of a fingerprint that the POLY records enrol for a partition. -/
def State.tenantKeyFor (s : State) (p : Nat) (fp : Bytes) : Option Bytes :=
  ((s.xsi.poly.filter fun r => leAt r 0 1 = 4 && leAt r 1 1 = p).map fun r => slice r 24 32).find? fun k => keyFp k = fp

/-- The key that SIGNER names (R422, R423). -/
def State.xsiKey (s : State) (b : Bytes) : Option Bytes :=
  if xTenant b then s.tenantKeyFor (xPart b) (slice b 40 16)
  else
    let k := s.secNow.ownerKey
    if k ≠ zeros 32 ∧ keyFp k = slice b 40 16 then some k else none

/-- Checks 0x01 to 0x05, which read the header and the signature (R426). -/
def State.xsiHead (s : State) (b : Bytes) : Option XsiBad :=
  let n := xLen b
  if b.length < n ∨ n < 328 ∨ 2 ^ 24 < n then some ⟨1, 0, 8⟩
  else match badField [(0, leAt b 0 4 = 0x4A345853), (4, leAt b 4 2 = 1), (6, xFlags b < 16), (8, n % 8 = 0),
      (14, 1 ≤ leAt b 14 2 ∧ leAt b 14 2 ≤ 10), (56, zeroAt b 56 200)] with
  | some o => some ⟨2, 0, o⟩
  | none =>
    if !zeroAt b 24 16 ∧ slice b 24 16 ≠ fingerprint then some ⟨3, 0, 24⟩
    else match badField [(6, !(xTenant b) || (!(xModule b) && !(xStore b))), (12, !(xTenant b) || decide (popCount 16 (xScope b) = 1)),
        (12, !(xModule b) || decide (xScope b = 0xFFFF)), (40, (s.xsiKey b).isSome)] with
    | some o => some ⟨4, 0, o⟩
    | none =>
      if edVerify ((s.xsiKey b).getD []) (b.take (n - 64)) (slice b (n - 64) 64) then none else some ⟨5, 0, n - 64⟩

/-- Check 0x06 (R425); at start a stored image with the sequence number in force is accepted (R415). -/
def State.xsiSeqBad (s : State) (b : Bytes) (stored : Bool) : Option XsiBad :=
  let least := if xTenant b then (s.part (xPart b)).seq + 1 else if stored then s.xsi.ownerSeq else s.xsi.ownerSeq + 1
  if xSeq b < least then some ⟨6, 0, 16⟩ else none

/-- The sections: code, tag and record size (section table); a COLL section holds groups. -/
def xsiTags : List (Nat × String × Nat) :=
  [(1, "PART", 48), (2, "REGN", 32), (3, "PORT", 48), (4, "ROUT", 40), (5, "COLL", 0), (6, "STRN", 16), (7, "CADY", 32),
    (8, "POLY", 64), (9, "POWR", 16), (10, "PROP", 16)]

/-- A record, with its section and its place in the image. -/
structure XRec where
  sect : Nat
  off : Nat
  b : Bytes
  deriving DecidableEq, Repr

/-- The groups of a COLL section from offset o on, or the offset of a group that does not end within it. -/
def cutGroups : Nat → Nat → Bytes → Except Nat (List XRec)
  | 0, o, b => if b.isEmpty then .ok [] else .error o
  | f + 1, o, b =>
    let n := 80 + 128 * leAt b 4 4
    if b.isEmpty then .ok []
    else if b.length < n then .error o
    else match cutGroups f (o + n) (b.drop n) with
      | .ok l => .ok (⟨5, o, b.take n⟩ :: l)
      | .error e => .error e

/-- The records of one section's body. -/
def cutSection (code size o : Nat) (b : Bytes) : Except Nat (List XRec) :=
  if size = 0 then cutGroups (b.length / 80) o b
  else .ok ((List.range (b.length / size)).map fun i => ⟨code, o + size * i, slice b (size * i) size⟩)

/-- The sections from offset o to `stop` (R420): the records, or the section and offset at fault. -/
def cutSections (b : Bytes) (stop : Nat) : Nat → Nat → Nat → Except (Nat × Nat) (List XRec)
  | 0, o, last => if o = stop then .ok [] else .error (last, o)
  | f + 1, o, last =>
    if stop < o + 8 then .error (0, o)
    else match xsiTags.find? fun t => ascii t.2.1 = slice b o 4 with
    | none => .error (0, o)
    | some (code, _, size) =>
      let n := leAt b (o + 4) 4
      if code ≤ last then .error (code, o)
      else if n % 8 ≠ 0 ∨ stop < o + 8 + n ∨ (size ≠ 0 ∧ n % size ≠ 0) then .error (code, o + 4)
      else match cutSection code size (o + 8) ((b.drop (o + 8)).take n), cutSections b stop f (o + 8 + n) code with
      | .ok l, .ok m => .ok (l ++ m)
      | .error e, _ => .error (code, e)
      | _, .error e => .error e

/-- The records of an image. -/
def xsiRecs (b : Bytes) : Except (Nat × Nat) (List XRec) := cutSections b (xLen b - 64) (leAt b 14 2) 256 0

/-- The region that a REGN record spells. -/
def XRec.region (r : XRec) : Region :=
  { Region.reset with pmap := BitVec.ofNat 64 (leAt r.b 8 8), dmap := BitVec.ofNat 64 (leAt r.b 16 8),
                      attr := BitVec.ofNat 64 (leAt r.b 24 8) }

/-- Word i of a record, from byte 8 + 8 i on. -/
def XRec.word (r : XRec) (i : Nat) : W64 := BitVec.ofNat 64 (leAt r.b (8 + 8 * i) 8)

/-- Byte o of a record. -/
def XRec.byte (r : XRec) (o : Nat) : Nat := leAt r.b o 1

/-- A record that concerns one partition; the others are module records. -/
def XRec.partial_ (r : XRec) : Bool := [1, 2, 5, 6, 7, 10].contains r.sect || (decide (r.sect = 9) && decide (r.byte 0 = 4))

/-- The partition that a record names. -/
def XRec.part (r : XRec) : Nat :=
  if r.sect = 2 then rgnPart r.region else if r.sect = 8 ∨ r.sect = 9 then r.byte 1 else r.byte 0

/-- The PART record of a partition. -/
def partRec (rs : List XRec) (p : Nat) : Option XRec := rs.find? fun r => r.sect = 1 && r.byte 0 = p

/-- CLUSTERS, CONN_FIRST and CONN_COUNT of a PART record. -/
def XRec.clusters (r : XRec) : Nat := leAt r.b 8 32
def XRec.connFirst (r : XRec) : Nat := leAt r.b 4 2
def XRec.connCount (r : XRec) : Nat := leAt r.b 6 2

/-- What a record is told from others of its section by: partition, index, or kind and index. -/
def XRec.key (r : XRec) : Nat := if r.sect = 2 ∨ r.sect = 4 then leAt r.b 0 2 else if r.sect = 3 then leAt r.b 0 2 else r.byte 0

/-- No earlier record of the section has the same key. -/
def XRec.fresh (r : XRec) (rs : List XRec) : Bool := !rs.any fun x => x.sect = r.sect && decide (x.off < r.off) && decide (x.key = r.key)

/-- The columns and MiB ranges that an allocation covers, tag and parity parts included (R246, R247). -/
def rgnFoot (r : Region) : List (Nat × Nat × Nat) :=
  let c := rgnDbase r / 2 ^ 16
  let o := rgnDbase r % 2 ^ 16
  let w := 2 ^ rgnWays r
  if rgnHbm r then (List.range w).map fun i => (c + i, o, o + rgnSize r / w) else [(c, o, o + rgnSize r)]

/-- Two footprints meet. -/
def footMeets (a b : List (Nat × Nat × Nat)) : Bool :=
  a.any fun x => b.any fun y => x.1 = y.1 && decide (x.2.1 < y.2.2) && decide (y.2.1 < x.2.2)

/-- Two regions meet in partition addresses. -/
def rgnMeets (a b : Region) : Bool :=
  decide (rgnPbase a < rgnPbase b + rgnSize b) && decide (rgnPbase b < rgnPbase a + rgnSize a)

/-- The clusters whose core store an SRAM allocation covers. -/
def rgnClusters (r : Region) : List Nat :=
  if rgnCore r then (List.range (rgnSize r)).map fun i => 16 * (rgnDbase r / 2 ^ 16) + (rgnDbase r % 2 ^ 16 - 0xFE00 + i) / 16 else []

/-- R244 on one REGN record. An entry with VALID 0 defines no region. -/
def State.regnFields (s : State) (rs : List XRec) (r : XRec) : List (Nat × Bool) :=
  let g := r.region
  let c := rgnDbase g / 2 ^ 16
  let o := rgnDbase g % 2 ^ 16
  let w := 2 ^ rgnWays g
  let others := (rs.filter fun x => x.sect = 2 && x.off ≠ r.off && rgnValid x.region).map (·.region)
  let place := [(0, decide (leAt r.b 0 2 < 4096) && r.fresh rs), (2, zeroAt r.b 2 6), (8, decide (fld g.pmap 22 0 = 0)),
    (16, decide (fld g.dmap 35 0 = 0)), (16, decide (rgnWays g ≤ 4)),
    (24, decide (fld g.attr 52 0 = 0) && decide (rgnCode g ≤ 1) && decide (rgnScrub g ≤ 0xC))]
  if !rgnValid g then place
  else place ++ [(8, decide (1 ≤ rgnSize g) && decide (rgnPbase g + rgnSize g ≤ 2 ^ 20)), (16, (partRec rs (rgnPart g)).isSome),
    (8, !others.any fun x => rgnPart x = rgnPart g && rgnMeets x g), (16, !others.any fun x => footMeets (rgnFoot x) (rgnFoot g))]
    ++ if rgnHbm g then
        [(8, decide (rgnSize g % w = 0)), (16, decide (o + rgnSize g / w ≤ 0xFE00)), (16, decide (c + w ≤ 16)),
          (16, (List.range w).all fun i => s.inService (c + i))]
      else
        [(24, decide (rgnCode g = 0) && !rgnRaw g && !rgnTags g), (16, decide (rgnWays g = 0)), (16, s.inService c),
          (16, if rgnCore g then decide (o + rgnSize g ≤ 0xFF00) else decide (o + rgnSize g ≤ 0xFF40)),
          (16, (rgnClusters g).all fun k => (partRec rs (rgnPart g)).any fun q => testBit q.clusters k)]

/-- NET_PORT_CFG as an image may set it (R288, R298, NET_PORT_CFG field map). -/
def portCfgOk (w : W64) : Bool :=
  decide (fld w 63 62 ≠ 3) && decide (fld w 61 58 < 10) && decide (fld w 55 53 ≠ fld w 52 50)
    && !testBit (fld w 49 42) (fld w 55 53) && !testBit (fld w 49 42) (fld w 52 50)
    && (!bit w 28 || (decide (fld w 40 29 ≠ 0) && decide (fld w 40 29 ≠ 0xFFF))) && decide (fld w 27 0 = 0)

/-- A PORT record. -/
def portFields (rs : List XRec) (r : XRec) : List (Nat × Bool) :=
  let base := [(0, decide (r.byte 0 ≤ 3)), (1, decide (r.byte 1 < [16, 2, 1, 1].getD (r.byte 0) 0) && r.fresh rs), (2, zeroAt r.b 2 6),
    (40, zeroAt r.b 40 8)]
  base ++ match r.byte 0 with
  | 0 => [(8, portCfgOk (r.word 0)), (16, decide (fld (r.word 1) 63 48 = 0)), (24, decide (fld (r.word 2) 63 48 = 0)), (32, zeroAt r.b 32 8)]
  | 1 => [(24, decide (fld (r.word 2) 63 33 = 0)), (32, decide (fld (r.word 3) 63 25 = 0))]
  | 2 => [(24, decide (fld (r.word 2) 63 33 = 0)), (32, decide (fld (r.word 3) 63 48 = 0))]
  | _ => [(8, decide (leAt r.b 8 8 ≤ 1)), (16, zeroAt r.b 16 24)]

/-- NET_PORT_CFG of port n after the image. -/
def portAfter (rs : List XRec) (n : Nat) : W64 :=
  ((rs.find? fun r => r.sect = 3 && r.byte 0 = 0 && r.byte 1 = n).map fun r => r.word 0).getD 0

/-- A ROUT record (R341, NET_RT_CTL field map). -/
def State.routFields (s : State) (rs : List XRec) (r : XRec) : List (Nat × Bool) :=
  let ctl := r.word 2
  let e : Route := ⟨r.word 0, r.word 1, ctl, r.word 3⟩
  let ports := (bitsOf 8 (rtPorts e)).map fun n => 8 * rtPlane e + n
  [(0, decide (leAt r.b 0 2 < 4096) && r.fresh rs), (2, zeroAt r.b 2 6), (24, decide (fld ctl 35 0 = 0)),
    (24, decide (rtPlen e ≤ if rtV4 e then 32 else 128)),
    (24, ports.all fun n => decide (fld (portAfter rs n) 63 62 ≠ 0) && s.inService n),
    (24, decide (rtSubs e ≠ 0) || ports.all fun n => decide (modeSubs (fld (portAfter rs n) 61 58) = 1)),
    (32, decide (fld (r.word 3) 63 48 = 0))]

/-- Bytes of an element on the wire in FIXED-ORDER and copies. -/
def fmtBytes (code : Nat) : Nat := ((fmtOfCode code).map fmtWidth).getD 8 / 8

/-- The size in bytes of the stage message of an instance (R359), in EXACT mode or not. -/
def stageBytes (b : Bytes) (st : Nat) (exact : Bool) : Nat :=
  let sp := stageSpan b st
  let segs := sp.2 - sp.1
  let elems := min (1024 * segs) (iElems b - 1024 * sp.1)
  let per := fun (n : Nat) => if iIn b = 0 then n * fmtBytes (iFmt b) else if iIn b = 1 then 96 * n else 6400 * ceilDiv n 1024
  match iOp b with
  | 6 => 256 * segs
  | 3 => per (iElems b * ((List.range 4).filter (st ≤ ·)).foldl (fun n t => n * iG b t) 1)
  | _ => if exact then 6400 * segs else elems * fmtBytes (iFmt b)

/-- The algorithm of R359 for a stage whose message has n bytes. -/
def stageAlg (job b : Bytes) (st n : Nat) : Nat :=
  let op := iOp b
  let g := iG b st
  if op = 5 then 4 else if op = 4 then 1
  else if (op = 1 ∨ op = 6) ∧ n ≤ leAt job 8 4 then 1
  else if (op = 1 ∨ op = 2 ∨ op = 3) ∧ n ≤ leAt job 12 4 ∧ g = 2 ^ Nat.log2 g then 2
  else 3

/-- Entries of an instance may be FIXED-ORDER (R347, R367): MODE is each entry's own, and an instance that cannot run so is EXACT. -/
def mayBeFixed (b : Bytes) : Bool :=
  decide (iOp b ≤ 2) && decide (iIn b = 0) && decide (iOut b = 0) && [8, 9, 10].contains (iFmt b) && decide (fld (iCtl b) 14 11 = iFmt b)
    && (List.range 4).all fun st => !iInpath b st

/-- A stage descriptor (R343, R345, R359), its fields at offset o. Connections that are still free become member connections later (log 60), and
are checked again when a schedule names them. -/
def State.stageFields (s : State) (p : Nat) (pr : XRec) (job b : Bytes) (o st : Nat) : List (Nat × Bool) :=
  let d := o + 64 + 16 * st
  let g := iG b st
  let path := leAt b (67 + 16 * st) 1
  let named := (List.range g).filter (· ≠ iRank b st) |>.map (iConn b st + ·)
  let compact := decide (iOp b ≤ 2) || decide (iIn b = 2)
  [(d, decide (1 ≤ g) && decide (g ≤ [16, 8, 16, 64].getD st 0)), (d + 1, decide (iRank b st < g)),
    (d + 2, if g ≤ 1 then decide (iAlg b st = 0)
      else decide (iAlg b st = stageAlg job b st (stageBytes b st true))
        || (mayBeFixed b && decide (iAlg b st = stageAlg job b st (stageBytes b st false)))),
    (d + 3, decide (path / 32 % 4 = 0) && (st = 0 || decide (path % 32 ≤ 17))
      && (!testBit path 7 || (decide (iAlg b st = 3) && decide (iOp b ≤ 2)))),
    (d + 4, named.all fun c => decide (pr.connFirst ≤ c) && decide (c < pr.connFirst + pr.connCount) && decide (connKind (s.conn c) ≤ 1)
      && !(compact && s.memberConn p c && decide (connGranMax (s.conn c) ≠ 32))),
    (d + 12, zeroAt b (76 + 16 * st) 4)]

/-- An instance record (R342, R343, R345, R362), its fields at offset o. -/
def State.instFields (s : State) (p : Nat) (pr : XRec) (job b : Bytes) (o : Nat) : List (Nat × Bool) :=
  let w := iCtl b
  let topk := decide (iOp b = 6)
  [(o + 64, decide (iMembers b ≤ 16384)), (o + 2, decide (1 ≤ iOp b) && decide (iOp b ≤ 6)), (o + 3, decide (iIn b ≠ 3) && decide (iOut b ≠ 3) && decide (leAt b 3 1 < 16)),
    (o + 4, decide (iFmt b ≤ 10) && (decide (iIn b ≠ 0) || decide (6 ≤ iFmt b))), (o + 5, zeroAt b 5 3),
    (o + 8, decide (1 ≤ iElems b) && decide (iElems b ≤ 2 ^ 40)),
    (o + 16, if topk then decide (w = 0) else
      (ctlOf w).any fun c => !c.raw && !c.bias && decide (c.act = .none) && decide (c.topkK = 0) && !c.topkClose
        && decide (c.layout ≠ .square) && !c.blockAxis),
    (o + 3, !topk || decide (iOut b = 0)), (o + 32, decide (iSpill b % 256 = 0) && decide (iSpill b < 2 ^ 40)), (o + 40, zeroAt b 40 24)]
    ++ (List.range 4).flatMap fun st => s.stageFields p pr job b o st

/-- The instance records of a COLL group. -/
def groupInsts (b : Bytes) : List Bytes := (List.range (leAt b 4 4)).map fun i => slice b (80 + 128 * i) 128

/-- A COLL group (R344). -/
def State.collFields (s : State) (rs : List XRec) (r : XRec) : List (Nat × Bool) :=
  match partRec rs (r.byte 0) with
  | none => [(0, false)]
  | some pr =>
    let insts := groupInsts r.b
    let numbered := (List.range insts.length).map fun i => (i, insts.getD i [])
    [(0, r.fresh rs), (1, zeroAt r.b 1 3), (8, zeroAt r.b 8 8), (16 + 34, zeroAt r.b 50 30)]
      ++ numbered.flatMap fun e =>
        (80 + 128 * e.1, !numbered.any fun x => decide (x.1 < e.1) && decide (leAt x.2 0 2 = leAt e.2 0 2))
          :: s.instFields (r.byte 0) pr (slice r.b 16 64) e.2 (80 + 128 * e.1)

/-- A source prefix: 0 to 128 bits of IPv6, or 129 to 160 for 1 to 32 bits of IPv4, whose address fills bytes 8 to 11. -/
def prefixFields (b : Bytes) : List (Nat × Bool) := [(3, decide (leAt b 3 1 ≤ 160)), (12, decide (leAt b 3 1 ≤ 128) || zeroAt b 12 12)]

/-- A POLY record. -/
def polyFields (r : XRec) : List (Nat × Bool) :=
  let b := r.b
  match r.byte 0 with
  | 1 => [(1, zeroAt b 1 2), (3, decide (r.byte 3 ≤ 1)), (4, zeroAt b 4 60)]
  | 2 => [(1, zeroAt b 1 2), (4, decide (leAt b 4 2 + leAt b 6 2 ≤ 0x3FFF)), (6, decide (1 ≤ leAt b 6 2) && decide (leAt b 6 2 ≤ 4)),
      (24, zeroAt b 24 40)] ++ prefixFields b
  | 3 => [(1, decide (r.byte 1 < 16)), (2, decide (r.byte 2 < 4)), (4, zeroAt b 4 4), (24, zeroAt b 24 40)] ++ prefixFields b
  | 4 => [(1, decide (r.byte 1 < 16)), (2, zeroAt b 2 22), (56, zeroAt b 56 8)]
  | _ => [(0, false)]

/-- A POWR record (R136). -/
def powrFields (r : XRec) : List (Nat × Bool) :=
  let b := r.b
  let v := leAt b 8 8
  match r.byte 0 with
  | 1 => [(1, zeroAt b 1 7), (8, decide (1000 ≤ v) && decide (v ≤ 3600))]
  | 2 => [(1, decide (r.byte 1 < 16)), (2, zeroAt b 2 6), (8, decide (50 ≤ v) && decide (v ≤ 300))]
  | 3 => [(1, decide (r.byte 1 < 16)), (4, decide (r.byte 4 ≤ 1)), (5, zeroAt b 5 3), (8, decide (v = 0))]
  | 4 => [(1, decide (r.byte 1 < 16)), (2, zeroAt b 2 6), (8, decide (1 ≤ v) && decide (v ≤ 2000))]
  | _ => [(0, false)]

/-- Check 0x08 on one record: the fields in order. -/
def State.recFields (s : State) (rs : List XRec) (r : XRec) : List (Nat × Bool) :=
  let b := r.b
  let mine := (0, (partRec rs (r.byte 0)).isSome && r.fresh rs)
  match r.sect with
  | 1 => [(0, decide (r.byte 0 < 16) && r.fresh rs), (1, decide (r.byte 1 < 4)), (2, zeroAt b 2 2),
      (6, decide (1 ≤ r.connCount) && decide (r.connFirst + r.connCount ≤ 0x3FFF)), (40, zeroAt b 40 8)]
  | 2 => s.regnFields rs r
  | 3 => portFields rs r
  | 4 => s.routFields rs r
  | 5 => s.collFields rs r
  | 6 => [mine, (1, zeroAt b 1 7), (8, decide (fld (r.word 0) 63 61 ≤ 5) && decide (fld (r.word 0) 11 0 = 0))]
  | 7 => [mine, (1, decide (r.byte 1 ≤ 1)), (2, zeroAt b 2 2), (8, decide (1 ≤ leAt b 8 4) && decide (leAt b 8 4 ≤ 65536)),
      (4, decide (leAt b 4 4 + leAt b 8 4 ≤ 65536)), (12, zeroAt b 12 4), (16, (slotCfgWrite .reset (r.word 1)).isSome), (24, zeroAt b 24 8)]
  | 8 => polyFields r
  | 9 => powrFields r
  | _ => [mine, (1, decide (r.byte 1 ≤ 1)), (2, zeroAt b 2 2), (4, decide (100 ≤ leAt b 4 4) && decide (leAt b 4 4 ≤ 60000)),
      (8, decide (leAt b 8 4 ≤ 86400)), (12, zeroAt b 12 4)]

/-- The first record at fault under some fields. -/
def firstRec (cause : Nat) (rs : List XRec) (f : XRec → List (Nat × Bool)) : Option XsiBad :=
  (rs.filterMap fun r => (badField (f r)).map fun o => (⟨cause, r.sect, r.off + o⟩ : XsiBad)).head?

/-- The partitions that exist outside a scope. -/
def State.outside (s : State) (scope : Nat) : List (Nat × Part) :=
  s.parts.filter fun e => decide (e.2.st ≠ .absent) && !testBit scope e.1

/-- Two ranges of (first, count) meet. -/
def rangeMeets (a b : Nat × Nat) : Bool := decide (a.1 < b.1 + b.2) && decide (b.1 < a.1 + a.2)

/-- The connection ranges of the fabric manager after the image (R307). -/
def State.fmRanges (s : State) (b : Bytes) (rs : List XRec) : List (Nat × Nat) :=
  let poly := if xModule b then (rs.filter (·.sect = 8)).map (·.b) else s.xsi.poly
  (poly.filter fun r => leAt r 0 1 = 2).map fun r => (leAt r 4 2, leAt r 6 2)

/-- Whether some ranges cover lo to hi - 1 together; fuel is their number. -/
def covered : Nat → List (Nat × Nat) → Nat → Nat → Bool
  | 0, _, lo, hi => decide (hi ≤ lo)
  | f + 1, l, lo, hi =>
    if hi ≤ lo then true
    else match l.find? fun e => decide (e.1 ≤ lo) && decide (lo < e.2) with
      | some e => covered f l e.2 hi
      | none => false

/-- Check 0x09 on one record: R307, R390, R423 and R424. -/
def State.resFields (s : State) (img : Bytes) (rs : List XRec) (r : XRec) : List (Nat × Bool) :=
  let out := s.outside (xScope img)
  let outRgns := (s.mem.regions.filter fun e => rgnValid e.2 && out.any fun q => q.1 = rgnPart e.2)
  let own := s.mem.regions.filter fun e => rgnValid e.2 && decide (rgnPart e.2 = xPart img)
  match r.sect with
  | 1 =>
    let q := s.part (r.byte 0)
    let ranges := (rs.filter fun x => x.sect = 1 && x.off ≠ r.off).map (fun x => (x.connFirst, x.connCount))
      ++ out.map (fun e => (e.2.connFirst, e.2.connCount)) ++ s.fmRanges img rs
    let masks := (rs.filter fun x => x.sect = 1 && x.off ≠ r.off).map (·.clusters) ++ out.map (·.2.clusters)
    [(8, (bitsOf 256 r.clusters).all fun k => s.inService (k / 16)), (8, masks.all fun m => Nat.land m r.clusters = 0),
      (4, !ranges.any fun x => rangeMeets x (r.connFirst, r.connCount)),
      (4, !(xTenant img) || (decide (r.connFirst = q.connFirst) && decide (r.connCount = q.connCount))),
      (8, !(xTenant img) || decide (Nat.land r.clusters q.clusters = r.clusters)), (1, !(xTenant img) || decide (r.byte 1 ≤ q.pri))]
  | 2 =>
    let i := leAt r.b 0 2
    let foot := rgnFoot r.region
    if !rgnValid r.region then [(0, !outRgns.any fun e => e.1 = i)]
    else
      [(0, !outRgns.any fun e => e.1 = i), (16, !outRgns.any fun e => footMeets (rgnFoot e.2) foot),
        (0, !(xTenant img) || own.any fun e => e.1 = i),
        (16, !(xTenant img) || foot.all fun x =>
          let l := (own.flatMap fun e => rgnFoot e.2).filter (fun y => y.1 = x.1) |>.map fun y => (y.2.1, y.2.2)
          covered (l.length + 1) l x.2.1 x.2.2)]
  | 6 =>
    let insts := (rs.filter fun x => x.sect = 5 && x.byte 0 = r.byte 0).flatMap fun x => groupInsts x.b
    [(8, insts.any fun b => decide (leAt b 0 2 = fld (r.word 0) 59 44) && decide (iOp b ≠ 4))]
  | 7 =>
    let range := (leAt r.b 4 4, leAt r.b 8 4)
    [(4, !(rs.any fun x => x.sect = 7 && x.off ≠ r.off && rangeMeets (leAt x.b 4 4, leAt x.b 8 4) range)
      && !out.any fun e => rangeMeets (e.2.slotFirst, e.2.slotCount) range)]
  | _ => []

/-- The partition records of an image for p as the module keeps them: the section's code, then the record (R427). -/
def recsFor (rs : List XRec) (p : Nat) : List Bytes :=
  (rs.filter fun r => r.partial_ && r.sect ≠ 9 && r.part = p).map fun r => BitVec.ofNat 8 r.sect :: r.b

/-- The POLY records that name partition p. -/
def polyFor (poly : List Bytes) (p : Nat) : List Bytes := poly.filter fun r => (leAt r 0 1 = 3 ∨ leAt r 0 1 = 4) ∧ leAt r 1 1 = p

/-- Partition p is unchanged by an image (R427): it exists, and the records are those in force. An image without POLY records or
without a grant leaves those in force. -/
def State.xsiUnchanged (s : State) (img : Bytes) (rs : List XRec) (p : Nat) : Bool :=
  let q := s.part p
  let now := recsFor rs p
  decide (q.st ≠ .absent) && now.all (q.recs.contains ·) && q.recs.all (now.contains ·)
    && (rs.filter fun r => r.sect = 9 && r.byte 0 = 4 && r.byte 1 = p).all (fun r => r.word 0 = Table.get 0 s.pwr.grants p)
    && (!(xModule img) || decide (polyFor ((rs.filter (·.sect = 8)).map (·.b)) p = polyFor s.xsi.poly p))

/-- The changed partitions that exist: those that a load tears down. -/
def State.xsiTorn (s : State) (img : Bytes) (rs : List XRec) : List Nat :=
  (bitsOf 16 (xScope img)).filter fun p => decide ((s.part p).st ≠ .absent) && !s.xsiUnchanged img rs p

/-- Check 0x0B (R429). -/
def State.disturbs (s : State) (p : Nat) : Bool :=
  decide ((s.part p).schSt = 2) || decide ((s.part p).schSt = 3) || (s.sessionConns p).any fun e => e.2.st = 2

/-- Check 0x0C: a partition that exists after the load without a grant. -/
def State.ungranted (s : State) (img : Bytes) (rs : List XRec) : Option XsiBad :=
  let has := fun (p : Nat) => rs.any fun r => r.sect = 9 && r.byte 0 = 4 && r.byte 1 = p
  let inForce := fun (p : Nat) => decide (Table.get 0 s.pwr.grants p ≠ 0)
  match rs.find? fun r => r.sect = 1 && !(has (r.byte 0) || inForce (r.byte 0)) with
  | some r => some ⟨0xC, 1, r.off⟩
  | none => if (s.outside (xScope img)).any fun e => !inForce e.1 then some ⟨0xC, 0, noOffset⟩ else none

/-- Checks 0x07 to 0x0C (R426), with the records. -/
def State.xsiBody (s : State) (img : Bytes) : Except XsiBad (List XRec) :=
  match xsiRecs img with
  | .error (sect, o) => .error ⟨7, sect, o⟩
  | .ok rs =>
    let scope := fun (r : XRec) =>
      [(0, if r.partial_ then testBit (xScope img) r.part && !(xTenant img && r.sect = 9) else xModule img)]
    match firstRec 8 rs (s.recFields rs) with
    | some e => .error e
    | none => match firstRec 9 rs (s.resFields img rs) with
    | some e => .error e
    | none => match firstRec 0xA rs scope with
    | some e => .error e
    | none =>
      if !(xForce img) && (s.xsiTorn img rs).any fun p => s.disturbs p then .error ⟨0xB, 0, noOffset⟩
      else match s.ungranted img rs with
      | some e => .error e
      | none => .ok rs

/-- Every check in order (R426). -/
def State.xsiCheck (s : State) (img : Bytes) (stored : Bool) : Except XsiBad (List XRec) :=
  match s.xsiHead img with
  | some e => .error e
  | none => match s.xsiSeqBad img stored with
  | some e => .error e
  | none => s.xsiBody img

end Sys2Proof.Machine
end

