-- ==== Sys2Proof/Machine/Xsi.lean ====
section
/-! DEFINITION. Staging claims (R417, R418, R461), loads of structure images (R419, R426), applying an image (R427 to R431), the
stored image (R415, R416, R449, R451), owner documents and START to FW_ACTIVATE (R460, R462), and the steps of a teardown that a load waits for. -/
namespace Sys2Proof.Machine

/-- A staging buffer's capacity: 16 MiB for structure images, 48 MiB for firmware (R417, R461). -/
def xsiRoom : Nat := 2 ^ 24
def fwRoom : Nat := 48 * 2 ^ 20

/-- CLAIM to XSI_STAGE by connection c (R417, R461). -/
def State.opXsiClaim (s : State) (c : Nat) : Nat × State :=
  if (s.xsi.stage.holder.any fun h => h ≠ c) ∨ s.fw.stage.holder = some c then (4, s)
  else (0, s.updXsi fun x => { x with stage := ⟨some c, [], s.tm.clk⟩ })

/-- RELEASE to XSI_STAGE (R418): nothing lapses when another connection holds the claim, or none. -/
def State.opXsiRelease (s : State) (c : Nat) : Nat × State := (0, s.updXsi fun x => { x with stage := x.stage.lapse c })

/-- CLAIM and RELEASE to FW_STAGE (R461). -/
def State.opFwClaim (s : State) (c : Nat) : Nat × State :=
  if (s.fw.stage.holder.any fun h => h ≠ c) ∨ s.xsi.stage.holder = some c then (4, s)
  else (0, s.updFw fun f => { f with stage := ⟨some c, [], s.tm.clk⟩ })
def State.opFwRelease (s : State) (c : Nat) : Nat × State := (0, s.updFw fun f => { f with stage := f.stage.lapse c })

/-- A claim with no SEND for 60 s lapses (R418). -/
def State.opClaimLapse (s : State) (fw : Bool) : State :=
  s.whenUp fun s =>
    let g := if fw then s.fw.stage else s.xsi.stage
    if g.holder.isSome ∧ 60000000000 ≤ s.since g.at_ then
      if fw then s.updFw fun f => { f with stage := .reset } else s.updXsi fun x => { x with stage := .reset }
    else s

/-- The bytes of a SEND appended to the buffer of the claim that its connection holds (R417): the status, and the state. -/
def State.stageSend (s : State) (c : Nat) (bs : Bytes) : Nat × State :=
  if s.xsi.stage.holder = some c then
    if xsiRoom < s.xsi.stage.buf.length + bs.length then (0x0E, s)
    else (0, s.updXsi fun x => { x with stage := { x.stage with buf := x.stage.buf ++ bs, at_ := s.tm.clk } })
  else if s.fw.stage.holder = some c then
    if fwRoom < s.fw.stage.buf.length + bs.length then (0x0E, s)
    else (0, s.updFw fun f => { f with stage := { f.stage with buf := f.stage.buf ++ bs, at_ := s.tm.clk } })
  else (4, s)

/-- The trace of the validation of a structure image (R475): partition 0xFF for an owner image, the failed check as step and cause. -/
def State.traceXsi (s : State) (cause : Nat) : State :=
  let img := s.xsi.stage.buf
  let p := if xTenant img then xPart img else 0xFF
  s.traceLead p 10 0 [p, cause, cause]

/-- An image rejected (R426): XSI_LOAD_STATUS, XSI_REJECTS, the log, and the alarm of causes 0x05 and 0x06. The load is complete,
so the loader's claim lapses (R418). -/
def State.xsiReject (s : State) (e : XsiBad) : State :=
  let s := s.updXsi fun x => { x with st := 4, cause := e.cause, sect := e.sect, offset := e.off, rejects := inc x.rejects,
                                      image := none, stage := x.loader.elim x.stage x.stage.lapse, loader := none }
  let s := s.logLead 0x08 s.xsiLoadStatus
  if e.cause = 5 then s.alarm 1 else if e.cause = 6 then s.alarm 2 else s

/-- START to XSI_LOAD by connection c (R419, R426). A valid image waits in state validating until it is applied. -/
def State.opXsiStart (s : State) (c : Nat) : Nat × State :=
  if s.xsi.st = 1 ∨ s.xsi.st = 2 ∨ (s.parts.any fun e => decide (e.2.st = .tearing)) ∨ s.xsi.stage.holder ≠ some c then (4, s)
  else
    let s := s.updXsi fun x => { x with st := 1, cause := 0, sect := 0, offset := noOffset, loader := some c }
    match s.xsiCheck s.xsi.stage.buf false with
    | .error e => (0, (s.traceXsi e.cause).xsiReject e)
    | .ok _ => (0, (s.traceXsi 0).updXsi fun x => { x with image := some (x.stage.buf.take (xLen x.stage.buf)) })

/-- Port n written by a PORT record, or back at its reset values; a port that changes goes down and trains again (R430). -/
def State.writePort (s : State) (rs : List XRec) (n : Nat) : State :=
  let r := rs.find? fun r => r.sect = 3 && r.byte 0 = 0 && r.byte 1 = n
  let w := fun i => (r.map fun x => x.word i).getD 0
  let q := s.port n
  if q.cfg = w 0 ∧ q.mac = w 1 ∧ q.gw = w 2 then s
  else (s.portDown n).updPort n fun q => { q with cfg := w 0, mac := w 1, gw := w 2 }

/-- The plane or MGMT record of an index; its reset values without one. -/
def planeOf (rs : List XRec) (kind i : Nat) (reset : Plane) : Plane :=
  match rs.find? fun r => r.sect = 3 && r.byte 0 = kind && r.byte 1 = i with
  | some r => ⟨r.word 0, r.word 1, r.word 2, r.word 3⟩
  | none => reset

/-- The route table of an image. -/
def routesOf (rs : List XRec) : Table Route :=
  rs.foldl (fun t r => if r.sect = 4 then Table.set Route.reset t (leAt r.b 0 2) ⟨r.word 0, r.word 1, r.word 2, r.word 3⟩ else t) []

/-- The POWR records of a kind for an index, the last of them. -/
def powrOf (rs : List XRec) (kind : Nat) (p : XRec → Bool) : Option XRec :=
  (rs.filter fun r => r.sect = 9 && r.byte 0 = kind && p r).getLast?

/-- The module sections written (R428 step 2, R430). What the image does not set holds its reset value (R413). -/
def State.writeModule (s : State) (rs : List XRec) : State :=
  let before := s
  let s := (List.range 16).foldl (fun s n => s.writePort rs n) s
  let planes := [0, 1].foldl (fun t i => Table.set Plane.reset t i (planeOf rs 1 i .reset)) s.net.planes
  let s := { s with net := { s.net with planes := planes, mgmt := planeOf rs 2 0 .mgmtReset, routes := routesOf rs } }
  let s := { s with tm := { s.tm with ppsEn := rs.any fun r => r.sect = 3 && r.byte 0 = 3 && bit (r.word 0) 0 } }
  let s := s.updXsi fun x => { x with poly := (rs.filter fun r => r.sect = 8).map (·.b) }
  let s := s.updPwr fun p => { p with cap := ((powrOf rs 1 fun _ => true).map fun r => r.word 0).getD Pwr.reset.cap }
  let s := columns.foldl (fun s c =>
    let lim := ((powrOf rs 2 fun r => r.byte 1 = c).map fun r => leAt r.b 8 8).getD 0xE1
    s.updColPwr c fun q => { q with limit := limitUnder q lim }) s
  let s := before.tracePower s
  (List.range 256).foldl (fun s k =>
    let v := ((powrOf rs 3 fun r => r.byte 1 = k / 16 && testBit (leAt r.b 2 2) (k % 16)).map fun r => r.byte 4).getD 1
    let s := ((List.range 16).filter fun i => (s.posn (16 * k + i)).timer.ramp ≠ .still).foldl (fun s i => s.bookFill (16 * k + i)) s
    s.updCluster k fun q => { q with ramp := at_ 1 0 v }) s

/-- The owner image in force cleared (R460): every field that it set holds its reset value (R413), MGMT has the addresses of R414 again, and
no partition has a grant or a sequence number. -/
def State.clearModule (s : State) : State :=
  let s := ((s.writeModule []).raiseMgmt).updPwr fun w => { w with grants := [] }
  (List.range 16).foldl (fun s p => s.updPart p fun q => { q with seq := 0 }) s

/-- An owner document processed (R460). -/
def State.ownerDoc (s : State) (bs : Bytes) (mgmt : Bool) : State :=
  match s.ownerCheck bs mgmt with
  | some (cause, sig) =>
    let s := s.actFail cause
    if sig then s.alarm 7 else s
  | none =>
    let release := decide (leAt bs 6 2 = 1)
    let key := if release then zeros 32 else slice bs 24 32
    let s := s.writeSec fun r => { r with ownerKey := key, transfers := r.transfers + 1, ownerSeq := 0 }
    let s := { s with flash := { s.flash with seq := some ⟨s.seqNow.counter + 1, [], []⟩, half0 := [], half1 := [] } }
    let s := (s.updXsi fun x => { x with ownerImage := false, ownerSeq := 0 }).clearModule
    let s := (s.updFw fun f => { f with owner := !release, act := .done, cause := 0 }).traceAct 0
    (s.measure 6 0xFF 0 0 (sha512 (bs.take 64))).logLead 0x07 s.fwStatus

/-- START to FW_ACTIVATE (R462): the status of the write, and the state. `mgmt`: the staged object arrived over MGMT (R460). -/
def State.opActivate (s : State) (mgmt : Bool) : Nat × State :=
  let f := s.fw
  if f.act = .awaiting ∨ f.act = .deferred ∨ f.act = .probation then (4, s)
  else
    let bs := f.stage.buf
    let s := (s.updFw fun f => { f with act := .verifying, cause := 0, stage := .reset }).traceAct (BitVec.ofNat 64 (leAt bs 32 8))
    if leAt bs 0 4 = 0x4A344F57 ∧ !f.romRecovery then (0, s.ownerDoc bs mgmt)
    else match s.fwCheck bs with
    | .error c => (0, s.actFail c)
    | .ok k =>
      let i := fwInfoOf bs k
      if i.kind = 1 then (0, s.writeRecovery i)
      else
        let run := (f.op.map (·.stateVer)).getD i.stateMin
        let bad := s.net.conns.any fun e => connHost e.2 && e.2.st = 2 && !levelOk i.iface e.2.level
        if run < i.stateMin ∨ i.stateVer < run then (0, s.actFail 7)
        else if bad then (0, s.actFail 8)
        else
          let s := s.updFw fun f => { f with act := .awaiting, newOp := some i, actAt := s.tm.clk, deferLogged := false,
                                             actBounds := s.runningParts }
          let s := s.traceAct i.build
          (0, if s.pwr.power ∨ s.pwr.thermal then s.actDefer else s)

/-- The grants of an image in force at once (R430); a partition that is absent after the load holds none but its own. -/
def State.writeGrants (s : State) (img : Bytes) (rs : List XRec) : State :=
  (bitsOf 16 (xScope img)).foldl (fun s p =>
    match powrOf rs 4 fun r => r.byte 1 = p with
    | some r => s.updPwr fun w => { w with grants := Table.set 0 w.grants p (r.word 0) }
    | none =>
      if (partRec rs p).isSome ∨ (s.part p).st ≠ .absent then s
      else s.updPwr fun w => { w with grants := Table.set 0 w.grants p 0 }) s

/-- Whether every column that a new partition's clusters and regions lie in is in service (R440). -/
def State.columnsServe (s : State) (rs : List XRec) (r : XRec) : Bool :=
  (bitsOf 256 r.clusters).all (fun k => s.inService (k / 16))
    && rs.all fun x => !(x.sect = 2 && rgnValid x.region && x.part = r.byte 0) || (rgnFoot x.region).all fun f => s.inService f.1

/-- A partition created from its records (R431). -/
def State.createPart (s : State) (rs : List XRec) (r : XRec) : State :=
  let p := r.byte 0
  let one := fun (code : Nat) => rs.find? fun x => x.sect = code && x.byte 0 = p
  let coll := one 5
  let cady := one 7
  let prop := one 10
  let rgns := rs.filter fun x => x.sect = 2 && rgnValid x.region && x.part = p
  let s := s.updPart p fun q =>
    { Part.reset with
      tgen := q.tgen, tgenAt := q.tgenAt, seq := q.seq, stuck := q.stuck
      st := if rgns.isEmpty then .ready else .building, pri := r.byte 1 % 4, clusters := r.clusters
      connFirst := r.connFirst, connCount := r.connCount
      slotFirst := (cady.map fun x => leAt x.b 4 4).getD 0, slotCount := (cady.map fun x => leAt x.b 8 4).getD 0
      cfgDefault := (cady.map fun x => x.word 1).getD Slot.reset.cfg, forceLa := cady.any fun x => testBit (x.byte 1) 0
      policy := (prop.map fun x => x.byte 1).getD 0, leaseMs := (prop.map fun x => leAt x.b 4 4).getD 2000
      orphanS := (prop.map fun x => leAt x.b 8 4).getD 600
      job := (coll.map fun x => slice x.b 16 64).getD [], insts := (coll.map fun x => groupInsts x.b).getD []
      recs := recsFor rs p, stn := { Stn.reset with cfg := ((one 6).map fun x => x.word 0).getD 0 } }
  let q := s.part p
  let s := { s with slots := (List.range q.slotCount).foldl (fun t i =>
    Table.set Slot.reset t (q.slotFirst + i) (freshSlot q.cfgDefault)) s.slots }
  rgns.foldl (fun s x =>
    let i := leAt x.b 0 2
    let g := x.region
    (s.updRegion i fun o => { o with pmap := g.pmap, dmap := g.dmap, attr := g.attr, debt := 0, sweeping := false, waiting := 0 }).startInit i) s

/-- The sequence numbers after an owner image (R425): 0 for a partition that it removes, or whose tenant key it changes. -/
def State.seqAfter (s : State) (img : Bytes) (rs : List XRec) (old : Nat → Option Bytes) : State :=
  let hit := fun (p : Nat) =>
    (testBit (xScope img) p && (partRec rs p).isNone) || (xModule img && decide (old p ≠ s.tenantKey p))
  let s := (List.range 16).foldl (fun s p => if hit p then s.updPart p fun q => { q with seq := 0 } else s) s
  if (List.range 16).any hit then s.writeSeq else s

/-- A stored half that holds a valid image (R449): checks 0x01 to 0x05. -/
def State.halfOk (s : State) (b : Bytes) : Bool := !b.isEmpty && (s.xsiHead b).isNone

/-- The half that holds the stored image: the valid one with the higher SEQ (R449). -/
def State.storedHalf (s : State) : Option Bool :=
  let a := s.halfOk s.flash.half0
  let b := s.halfOk s.flash.half1
  if a && b then some (decide (xSeq s.flash.half0 < xSeq s.flash.half1)) else if a then some false else if b then some true else none

/-- A stored half whose header passes checks 0x01 to 0x04 and whose signature fails (R449, R480). -/
def State.storedForged (s : State) : Bool :=
  [s.flash.half0, s.flash.half1].any fun b => !b.isEmpty && (s.xsiHead b).any fun e => decide (e.cause = 5)

/-- An image written to the flash, into the half that does not hold the stored image (R416, R449). -/
def State.storeImage (s : State) (img : Bytes) : State :=
  match s.storedHalf with
  | some false => { s with flash := { s.flash with half1 := img } }
  | _ => { s with flash := { s.flash with half0 := img } }

/-- Steps 2 to 5 of an apply (R428 to R431), once the changed partitions are absent. The image that a start applies is in the flash
already and is not written again. -/
def State.xsiFinish (s : State) (img : Bytes) (rs : List XRec) : State :=
  let key := fun p => s.tenantKey p
  let mark := s.xsi.loader.isSome && xStore img && xModule img && !xTenant img
  let s := if xModule img then s.writeModule rs else s
  let fresh := rs.filter fun r => r.sect = 1 && (s.part (r.byte 0)).st = .absent
  let whole := fresh.all fun r => s.columnsServe rs r
  let s := fresh.foldl (fun s r => if s.columnsServe rs r then s.createPart rs r else s) s
  let s := s.writeGrants img rs
  let s := if xTenant img then (s.updPart (xPart img) fun q => { q with seq := xSeq img }).writeSeq
    else
      let s := (s.updXsi fun x => { x with ownerSeq := xSeq img, ownerImage := true }).writeSec fun r => { r with ownerSeq := xSeq img }
      if s.xsi.loader.isSome then s.seqAfter img rs key else s
  let s := s.measure 4 (if xTenant img then xPart img else 0xFF) (xSeq img) (leAt img 40 8) (sha512 (img.take (xLen img - 64)))
  let s := s.updXsi fun x =>
    { x with st := 3, cause := if whole then 0 else 0xD, sect := 0, offset := noOffset, loads := inc x.loads, image := none,
             tornWait := [], stage := x.loader.elim x.stage x.stage.lapse, loader := none }
  let s := s.logLead 0x09 s.xsiLoadStatus
  let s := if mark then s.storeImage img else s
  if s.fw.zeroDue then s.zeroise else s

/-- The apply goes on when every partition that it tears down is absent. -/
def State.xsiOn (s : State) : State :=
  match s.xsi.image with
  | some img =>
    if s.xsi.st = 2 ∧ s.xsi.tornWait.all (fun p => decide ((s.part p).st = .absent)) then
      match xsiRecs img with
      | .ok rs => s.xsiFinish img rs
      | .error _ => s
    else s
  | none => s

/-- XSI_APPLY (R428): the changed partitions tear down; what follows waits for them. -/
def State.opXsiApply (s : State) : State :=
  s.whenBased fun s =>
    match s.xsi.image with
    | some img =>
      if s.xsi.st ≠ 1 then s
      else match xsiRecs img with
      | .ok rs =>
        let torn := s.xsiTorn img rs
        let s := s.updXsi fun x => { x with st := 2, tornWait := torn }
        (torn.foldl (fun s p => s.teardown p true) s).xsiOn
      | .error _ => s
    | none => s

/-- A teardown's drain count is zero (R436); a load that waited for it goes on. -/
def State.opDrainDone (s : State) (p : Nat) : State := s.whenUp fun s => (s.tearDone p).xsiOn

/-- The sequence numbers of the partitions after the stored image is applied, from the record `r` in force at the start (R451). -/
def State.restoreSeqs (s : State) (r : SeqRec) : State :=
  ((List.range 16).foldl (fun s p => s.updPart p fun q =>
    { q with seq := if (s.tenantKey p).any (fun k => keyFp k = Table.get [] r.fps p) then Table.get 0 r.seqs p else 0 }) s).writeSeq

/-- STORED_IMAGE_APPLY (R414, R415, R447 steps 3 to 5): after the self-test of every column whose ROM check passed, MGMT comes up
with the addresses of R414, the stored image is validated and applied, and the module is in standby. In recovery no image is
applied (R478). -/
def State.opStored (s : State) : State :=
  s.whenUp fun s =>
    let ready := (bitsOf 16 s.fw.romOk).all (fun c => testBit s.dev.tested c) && decide (s.dev.selftest ≠ 0) && !s.net.mgmtUp
    if !ready ∨ (s.fw.service ≠ .starting ∧ s.fw.service ≠ .recovery) then s
    else
      let s := s.raiseMgmt
      if s.fw.service = .recovery then s
      else
        let s := match s.storedHalf with
          | some h =>
            let img := if h then s.flash.half1 else s.flash.half0
            let img := img.take (xLen img)
            (match s.xsiCheck img true with
            | .error e => s.xsiReject e
            | .ok rs => (s.xsiFinish img rs).restoreSeqs s.seqNow)
          | none => if s.storedForged then s.xsiReject ⟨5, 0, noOffset⟩ else s
        if s.fw.service = .starting then
          let s := s.updFw fun f => { f with service := .standby }
          s.logLead 0x01 s.fwStatus
        else s

def execStoredImageApply (s : State) : Out := .next s.opStored
def execStageClaimLapse (fw : Bool) (s : State) : Out := .next (s.opClaimLapse fw)
def execXsiApply (s : State) : Out := .next s.opXsiApply
def execTeardownDrainDone (p : Nat) (s : State) : Out := .next (s.opDrainDone p)

end Sys2Proof.Machine
end

