-- ==== Sys2Proof/Machine/Conns.lean ====
section
/-! DEFINITION. Connections: opening and closing (R307 to R312, R505), admission of sessions and fabric managers (R32, R311, R432,
R444, POLY records), and the pacing rate of host traffic (R331). -/
namespace Sys2Proof.Machine

/-- The plane of a port; MGMT is plane 2, and ports 17 and 18 are the package network for planes A and B (log 133). -/
def planeOfPort (n : Nat) : Nat := if n < 16 then n / 8 else if n = 16 then 2 else n - 17

/-- A packet sent to the sender of a received one, on the sub-port of arrival: an answer on no connection, so that no engine keeps a copy
(R308, R322). -/
def State.reply (s : State) (rx : Rx) (p : Pkt) : State :=
  s.enqueue ⟨.elt (s.datagram (planeOfPort rx.port) rx.v4 rx.src (rx.port, rx.sub) clsControl p), clsControl, 0, p.sconn, none⟩

/-- A packet sent last on a connection that closes: it takes a PSN, and its copy would end with the entry. -/
def State.sendOnce (s : State) (c : Nat) (p : Pkt) : State :=
  let k := s.conn c
  let p := { p with sconn := c, dconn := connPeer k, tgen := k.peerTgen, psn := k.txPsn }
  let s := s.moveIfEmpty c
  match pickSub k (s.sprayNow c) with
  | some at' => (s.emit c p at').updConn c fun k => { k with txPsn := (k.txPsn + 1) % 2 ^ 32, spray := k.spray + 1 }
  | none => s

/-- Fields of a CTL packet: CTLOP, PART, ROLE and TGEN of W3 (opcode table). -/
def ctlOp (p : Pkt) : Nat := nfld p.w3 31 24
def ctlPart (p : Pkt) : Nat := nfld p.w3 23 20
def ctlRole (p : Pkt) : Nat := nfld p.w3 19 18
def ctlTgen (p : Pkt) : Nat := nfld p.w3 17 10

/-- An OPEN_ACK to an OPEN (R303, R310, R311, R469): it answers as CTL_RESP does, with its own CTLOP. -/
def openAckPkt (req : Pkt) (status tgen level : Nat) : Pkt :=
  let base := Pkt.blank opCtlResp
  { base with first := true, last := true, status := status, w2 := req.w2,
              w3 := 0x11 * 2 ^ 24 + ctlPart req * 2 ^ 20 + ctlRole req * 2 ^ 18 + tgen % 256 * 2 ^ 10,
              ctl := slice req.ctl 0 8 ++ natLE 4 level ++ zeros 4 }

/-- The trace of an OPEN received (point 0), or of the OPEN_ACK that answers it (point 1), on connection c (R475). -/
def State.traceOpen (s : State) (point c : Nat) (req : Pkt) (status : Nat) : State := s.traceLead 0xFF 1 point [c, ctlRole req, status]

/-- An OPEN refused: nothing is written. -/
def State.refuseOpen (s : State) (rx : Rx) (req : Pkt) (status : Nat) : State :=
  let s := s.traceOpen 1 req.dconn req status
  let a := openAckPkt req status 0 s.fw.iface
  s.reply rx { a with sconn := req.dconn, dconn := req.sconn, tgen := ctlTgen req }

/-- The initial PSN of a connection that the module opens: bits 35:4 of module time. -/
def State.initPsn (s : State) : Nat := fld s.tm.now 35 4

/-- The line rate of a connection's pool that is not scheduled, in bit/s: rmax of R331, of the ports in service (R232). -/
def State.rateMax (s : State) (c : Nat) : Nat :=
  let k := s.conn c
  if k.viaMgmt then 1000000000
  else
    let plane := b2n k.planeNow
    let ports := match s.lookup plane (connV4 k) (connPeerAddr k plane) with
      | some (_, r) =>
        let l := (bitsOf 8 (rtPorts r)).map (8 * plane + ·)
        if l.all fun n => s.roleNow n = 2 then l.take 1
        else ((List.range 8).map (8 * plane + ·)).filter fun n => s.roleNow n = 1
      | none => []
    (ports.map fun n => portRate * (4 - portHshare (s.port n)) / 8).foldl (· + ·) 0

/-- A connection enters open (R310, R330, R331): the peer's generation, the next PSN expected, the plane and the rate after open. -/
def State.enterOpen (s : State) (c tgen rxNext : Nat) : State :=
  let s := s.updConn c fun k =>
    { k with st := 2, peerTgen := tgen % 256, rxNext := rxNext % 2 ^ 32, rxGot := [], rxHeld := [], rxOps := [], rxDebt := 0, ackNow := false,
             rxCe := false, planeNow := bit k.cfg 56, moved := false, holes := [], ackAt := s.tm.clk, cutAt := s.tm.clk, raiseAt := s.tm.clk,
             leaseAt := s.tm.clk }
  if connHost (s.conn c) then s.updConn c fun k => { k with rate := s.rateMax c / 8 } else s

/-- A responder's own direction starts at the opener's initial PSN, and its spraying at sub-port index c mod 8 (R328). -/
def State.startSide (s : State) (c psn : Nat) : State :=
  s.updConn c fun k => { k with txPsn := psn % 2 ^ 32, spray := c % 8, copies := [], txWait := [], ops := [] }

/-- A member OPEN (R310, R338). -/
def State.memberOpen (s : State) (rx : Rx) (req : Pkt) : State :=
  let c := req.dconn
  let k := s.conn c
  let plane := planeOfPort rx.port
  let ok := decide (connKind k = 1) && decide (k.st ≠ 3) && decide (connPeer k = req.sconn) && decide (plane < 2) && connV4 k == rx.v4
    && decide (connPeerAddr k plane = rx.src) && decide (k.job.toNat = leAt req.ctl 0 8)
  if !ok then s.refuseOpen rx req 9
  else
    let tgen := (s.part (connPart k)).tgen
    let ack := openAckPkt req 0 tgen s.fw.iface
    let s := s.traceOpen 1 c req 0
    if k.st = 2 then s.send c ack
    else
      let s := if k.st = 1 then s else s.startSide c req.psn
      let s := s.enterOpen c (ctlTgen req) (req.psn + 1)
      ((s.send c ack).flush c).sendAck c (some (pktOp req, 0))

/-- A POLY record's source prefix holds an address: PLEN up to 128 is IPv6, 129 to 160 are 1 to 32 bits of IPv4. -/
def polyHas (r : Bytes) (v4 : Bool) (src : Nat) : Bool :=
  let n := leAt r 3 1
  if 128 < n then v4 && inPrefix true (n - 128) (leAt r 8 4) src else !v4 && inPrefix false n (leAt r 8 16) src

/-- An entry that the module writes for a session or a fabric manager (R311). -/
def State.grant (s : State) (rx : Rx) (req : Pkt) (c kind part session : Nat) : State :=
  let plane := planeOfPort rx.port
  let addr := (BitVec.ofNat 64 (rx.src / 2 ^ 64), BitVec.ofNat 64 rx.src)
  let cfg := fields [at_ 63 61 kind, at_ 60 57 part, at_ 56 56 (plane % 2), flag 54 rx.v4, at_ 53 48 32, at_ 47 34 req.sconn]
  let s := s.updConn c fun _ =>
    { Conn.reset with cfg := cfg, peerAHi := if plane = 1 then 0 else addr.1, peerALo := if plane = 1 then 0 else addr.2,
                      peerBHi := if plane = 1 then addr.1 else 0, peerBLo := if plane = 1 then addr.2 else 0,
                      level := leAt req.ctl 8 4, session := session, viaMgmt := decide (plane = 2) }
  let s := (s.startSide c req.psn).enterOpen c (ctlTgen req) (req.psn + 1)
  let tgen := if kind = 4 then 0 else (s.part part).tgen
  let s := s.traceOpen 1 c req 0
  (s.send c (openAckPkt req 0 tgen s.fw.iface)).sendAck c (some (pktOp req, 0))

/-- The open entry that an earlier copy of the same OPEN was granted. -/
def State.grantedTo (s : State) (rx : Rx) (req : Pkt) (kind part : Nat) : Option Nat :=
  let plane := planeOfPort rx.port
  (s.net.conns.find? fun e => connKind e.2 = kind && connPart e.2 = part && e.2.st = 2 && connPeer e.2 = req.sconn
    && connV4 e.2 == rx.v4 && connPeerAddr e.2 (if plane = 1 then 1 else 0) = rx.src && e.2.viaMgmt == decide (plane = 2)
    && e.2.rxNext = (req.psn + 1) % 2 ^ 32).map (·.1)

/-- The lowest free index of a range. -/
def State.freeIndex (s : State) (first count : Nat) : Option Nat :=
  ((List.range count).map (first + ·)).find? fun c => connKind (s.conn c) = 0

/-- PARTITION_RECLAIMED (R505, R507), by the session of connection c. -/
def State.reclaim (s : State) (p c : Nat) : State :=
  if (s.part p).st ≠ .orphaned then s
  else
    let s := s.updPart p fun q =>
      { q with holdAt := none, st := if q.schSt = 2 ∨ q.schSt = 3 then .parked else .ready }
    s.logP s.leadNow 0x96 0xFFFF p [BitVec.ofNat 64 c]

/-- The OPEN of a session (R32, R311, R432, R443, R478, R505). -/
def State.sessionOpen (s : State) (rx : Rx) (req : Pkt) (observer : Bool) : State :=
  let p := ctlPart req
  let q := s.part p
  let kind := if observer then 3 else 2
  let used := s.sessionMask p
  if s.fw.service = .recovery then s.refuseOpen rx req 0xD
  else if !s.operational ∨ q.st = .absent ∨ q.st = .building ∨ q.st = .tearing then s.refuseOpen rx req 4
  else match s.grantedTo rx req kind p with
  | some c => (s.traceOpen 1 c req 0).send c (openAckPkt req 0 q.tgen s.fw.iface)
  | none =>
    let admitted := rx.port ≠ 16 && s.xsi.poly.any fun r => leAt r 0 1 = 3 && leAt r 1 1 = p && testBit (leAt r 2 1) (b2n observer)
      && polyHas r rx.v4 rx.src
    let number := if observer then [1, 2, 3].find? fun i => !testBit used i else if testBit used 0 then none else some 0
    match admitted, number with
    | true, some n => match s.freeIndex q.connFirst q.connCount with
      | some c =>
        let s := if observer then s else s.reclaim p c
        s.grant rx req c kind p n
      | none => s.refuseOpen rx req 0xC
    | _, _ => s.refuseOpen rx req 0xA

/-- The connections of kind fabric manager that are in use. -/
def State.fmConns (s : State) : List (Nat × Conn) := s.net.conns.filter fun e => connKind e.2 = 4

/-- The OPEN of a fabric manager (R292, R307, R444, R446). Before an owner image is in force the entries are 0x3FFB to 0x3FFE. -/
def State.fmOpen (s : State) (rx : Rx) (req : Pkt) : State :=
  let mgmt := decide (rx.port = 16)
  match s.grantedTo rx req 4 0 with
  | some c => (s.traceOpen 1 c req 0).send c (openAckPkt req 0 0 s.fw.iface)
  | none =>
    if mgmt ∧ (if s.fw.romRecovery then 1 else 4) ≤ (s.fmConns.filter (·.2.viaMgmt)).length then s.refuseOpen rx req 0xC
    else
      let ranges := if s.xsi.ownerImage then
          (s.xsi.poly.filter fun r => leAt r 0 1 = 2 && polyHas r rx.v4 rx.src).map fun r => (leAt r 4 2, leAt r 6 2)
        else if mgmt then [(0x3FFB, 4)] else []
      if ranges.isEmpty then s.refuseOpen rx req 0xA
      else match ranges.findSome? fun r => s.freeIndex r.1 r.2 with
      | some c => s.grant rx req c 4 0 0
      | none => s.refuseOpen rx req 0xC

/-- An OPEN to the open endpoint (R307, R311). -/
def State.endpointOpen (s : State) (rx : Rx) (req : Pkt) : State :=
  match ctlRole req with
  | 1 => s.sessionOpen rx req false
  | 2 => s.sessionOpen rx req true
  | 3 => s.fmOpen rx req
  | _ => s.refuseOpen rx req 9

/-- An OPEN_ACK for a connection that is opening (R310); a refusal returns the entry to closed. -/
def State.openAck (s : State) (c : Nat) (ack : Pkt) : State :=
  if (s.conn c).st ≠ 1 then s
  else if ack.status ≠ 0 then (s.traceOpen 1 c ack ack.status).closeLocal c
  else
    let s := s.traceOpen 1 c ack 0
    let s := s.updConn c fun k => { k with ops := k.ops.filter fun o => o.opid ≠ pktOp ack, copies := k.copies.filter fun y => ctlOp y.pkt ≠ 0x10 }
    ((s.enterOpen c (ctlTgen ack) (ack.psn + 1)).sendAck c none).flush c

/-- CLOSE from the peer (R312): operations completed with 0x07, CLOSE_ACK, and the entry closed. -/
def State.closeIn (s : State) (c : Nat) (req : Pkt) : State :=
  let s := s.traceConn c 1 2 [c, ctlRole req, 0]
  let s := (s.finishRx c 7).sendAck c (some (pktOp req, 0))
  let base := Pkt.blank opCtlResp
  let s := s.sendOnce c { base with first := true, last := true, w2 := req.w2, w3 := 0x13 * 2 ^ 24, ctl := zeros 16 }
  (s.closeLocal c).tearClosed c

/-- CLOSE_ACK (R312, R436). -/
def State.closeAck (s : State) (c : Nat) : State :=
  if (s.conn c).st ≠ 4 then s else (s.closeLocal c).tearClosed c

/-- OPEN to NET_CONN_CMD of entry n (R309): a member entry that is closed. -/
def State.opConnOpen (s : State) (n : Nat) : Nat × State :=
  let k := s.conn n
  if connKind k ≠ 1 ∨ k.st ≠ 0 then (4, s)
  else
    let s := s.startSide n s.initPsn
    let s := s.updConn n fun k => { k with st := 1, planeNow := bit k.cfg 56, moved := false, ackAt := s.tm.clk }
    (0, s.sendCtl n 0x10 (connPart k) 0 (s.part (connPart k)).tgen (natLE 8 k.job.toNat ++ natLE 4 s.fw.iface ++ zeros 4))

/-- CLOSE to NET_CONN_CMD of entry n (R312, R340). A failed entry returns to closed at once. -/
def State.opConnClose (s : State) (n : Nat) : Nat × State :=
  let k := s.conn n
  if 1 < connKind k then (4, s)
  else if k.st = 1 ∨ k.st = 2 then (0, s.closeConn n)
  else if k.st = 3 then (0, s.closeLocal n)
  else (0, s)

end Sys2Proof.Machine
end

