-- ==== Sys2Proof/Machine/Access.lean ====
section
/-! DEFINITION. Control space (chapter 16): the blocks of the register index, what each register reads, what a read clears
(R11, R12), who may reach what (R433, R539 to R541), and what a write does. -/
namespace Sys2Proof.Machine

/-- The blocks and windows of the register index (R537, R543). -/
inductive RegBlock where
  | root | time | plane (i : Nat) | mgmt | xsi | fw | quote | dev | pwr | grant | mlog | plog | life | dump
  | sch (p : Nat) | memPart (p : Nat) | stn (p : Nat) | xsiPart (p : Nat) | devPart (p : Nat)
  | region (r : Nat) | conn (n : Nat) | route (r : Nat) | slot (n : Nat)
  | cad (c : Nat) | memCol (c : Nat) | port (n : Nat) | coll (c : Nat) | fwCol (c : Nat) | fwLog (c : Nat) | devCol (c : Nat)
  | pwrCol (c : Nat)
  | acc (n : Nat) | cube (n : Nat) | ramp (k : Nat) | out (n : Nat) | strainer (k : Nat)
  deriving DecidableEq, Repr, Inhabited

/-- A run of `count` blocks of `size` bytes from `base` on: the block's index and the offset in it. -/
def inBlocks (addr base size count : Nat) : Option (Nat × Nat) :=
  if base ≤ addr ∧ addr < base + size * count then some ((addr - base) / size, (addr - base) % size) else none

/-- One block of `size` bytes. -/
def oneBlock (addr base size : Nat) (b : RegBlock) : Option (RegBlock × Nat) := (inBlocks addr base size 1).map fun e => (b, e.2)

/-- An array of blocks. -/
def arrayBlock (addr base size count : Nat) (f : Nat → RegBlock) : Option (RegBlock × Nat) :=
  (inBlocks addr base size count).map fun e => (f e.1, e.2)

/-- The blocks of one cluster window, at byte `o` of cluster k's window. -/
def locateCluster (k o : Nat) : Option (RegBlock × Nat) :=
  arrayBlock o 0x4000 0x40 16 (fun p => .acc (16 * k + p)) <|> arrayBlock o 0x5000 0x40 16 (fun p => .cube (16 * k + p))
    <|> oneBlock o 0x6000 8 (.ramp k) <|> arrayBlock o 0x7000 0x40 16 (fun p => .out (16 * k + p))
    <|> oneBlock o 0x8000 0x100 (.strainer k)

/-- The small blocks of the device-global window. -/
def locateLow (a : Nat) : Option (RegBlock × Nat) :=
  oneBlock a 0x0 0x10 .root <|> oneBlock a 0x1000 0x20 .time <|> arrayBlock a 0x2000 0x100 16 .sch
    <|> arrayBlock a 0x3000 0x40 16 .memPart <|> arrayBlock a 0x4000 0x40 2 .plane <|> oneBlock a 0x4080 0x20 .mgmt
    <|> arrayBlock a 0x5000 0x100 16 .stn <|> oneBlock a 0x6000 0x100 .xsi <|> arrayBlock a 0x6100 0x40 16 .xsiPart
    <|> oneBlock a 0x7000 0x400 .fw <|> oneBlock a 0x7400 0x200 .quote <|> oneBlock a 0x8000 0x100 .dev
    <|> arrayBlock a 0x9000 0x40 16 .devPart <|> oneBlock a 0xA000 0x100 .pwr <|> oneBlock a 0xA100 0x80 .grant

/-- The windows, tables and per-column blocks of the device-global window. -/
def locateHigh (a : Nat) : Option (RegBlock × Nat) :=
  oneBlock a 0x200000 0x80000 .mlog <|> oneBlock a 0x300000 0x10000 .plog <|> oneBlock a 0x400000 0x4000 .life
    <|> oneBlock a 0x1000000 0x2000000 .dump <|> arrayBlock a 0x4000000 0x20 4096 .region
    <|> arrayBlock a 0x8000000 0x80 16384 .conn <|> arrayBlock a 0x8200000 0x20 4096 .route
    <|> arrayBlock a 0x10000000 0x100 65536 .slot <|> arrayBlock a 0x11000000 0x100 16 .cad
    <|> arrayBlock a 0x12000000 0x100 16 .memCol <|> arrayBlock a 0x13000000 0x100 16 .port
    <|> arrayBlock a 0x14000000 0x100 16 .coll <|> arrayBlock a 0x15000000 0x100 16 .fwCol
    <|> arrayBlock a 0x16000000 0x100000 16 .fwLog <|> arrayBlock a 0x17000000 0x100 16 .devCol
    <|> arrayBlock a 0x18000000 0x100 16 .pwrCol

/-- The block that holds an address, and the offset in it; none in a gap (R537). -/
def locate (a : Nat) : Option (RegBlock × Nat) :=
  if a < 0x100000000 then locateLow a <|> locateHigh a
  else (inBlocks a 0x100000000 0x100000 256).bind fun e => locateCluster e.1 e.2

/-- Register `off` of a list of registers 8 bytes apart; a reserved offset reads zero (R10). -/
def regAt (l : List W64) (off : Nat) : W64 := l.getD (off / 8) 0

/-- Eight bytes of a byte string. -/
def wordAt (bs : Bytes) (off : Nat) : W64 := BitVec.ofNat 64 (leAt bs off 8)

/-- A signed number as a 64-bit register. -/
def intWord (v : Int) : W64 := BitVec.ofInt 64 v

/-- The persistent entry at an index of the ring (R474). -/
def Flash.plogAt (f : Flash) (i : Nat) : Option LogEntry := f.plog[(f.plogHead + 1032192 - 1 - i % 1032192) % 1032192]?

/-- Which entry of a steward's ring stands at place i of its window, as the distance from the newest (R473). -/
def Steward.place (w : Steward) (i : Nat) : Nat := (w.head + 16384 - 1 - i) % 16384

/-- A life record's 16 bytes (life record table). -/
def lifeBytes (r : LifeRec) : Bytes :=
  natLE 1 r.kind ++ natLE 1 (b2n r.prior + 2 * b2n r.out) ++ natLE 2 r.days ++ natLE 2 r.low ++ natLE 2 r.high ++ natLE 1 r.margin
    ++ zeros 3 ++ natLE 4 (sat 32 r.ageS)

/-- The body of a unit record (unit record table). -/
def dumpBody (free : Nat) (r : DumpRec) : Bytes :=
  let latch := fun (o n : Nat) => (List.range n).map fun i => Config.dumpByte free r.unit (o + i)
  if r.status ≠ 0 then latch 0 64
  else if r.kind = 1 then
    slice r.operands 0 5440 ++ latch 0 64 ++ (r.words.flatMap fun w => natLE 8 w.toNat) ++ (r.regs.flatMap fun w => natLE 8 w.toNat) ++ zeros 32
  else latch 0 1024

/-- A unit record with its body. -/
def dumpRecBytes (free : Nat) (r : DumpRec) : Bytes :=
  let b := dumpBody free r
  natLE 2 r.unit ++ natLE 1 r.kind ++ natLE 1 r.status ++ natLE 4 b.length ++ natLE 8 r.hbAt ++ natLE 2 r.hb ++ zeros 6
    ++ natLE 4 (crc32c b) ++ zeros 4 ++ b

/-- The stream of the crash dump (R495); nothing while none is held. -/
def Dump.stream (d : Dump) : Bytes :=
  if d.state < 2 then []
  else
    let recs := d.recs.flatMap (dumpRecBytes d.free)
    let head := natLE 4 0x4A34444D ++ natLE 2 1 ++ natLE 2 (1 + 2 * b2n d.truncated) ++ natLE 4 d.seq ++ natLE 2 d.trigger
      ++ natLE 2 d.triggerUnit ++ natLE 8 d.time.toNat ++ fingerprint ++ natLE 4 d.recs.length
      ++ natLE 4 (d.recs.filter (·.status = 1)).length ++ natLE 8 (256 + recs.length) ++ natLE 8 d.fwStatus.toNat
      ++ natLE 8 d.colStatus.toNat ++ natLE 8 d.baseBuild.toNat ++ natLE 8 d.opBuild.toNat ++ zeros 164
    head ++ natLE 4 (crc32c head) ++ recs

/-- The registers of a plane or of MGMT. -/
def planeRegs (p : Plane) : List W64 := [p.ip6Hi, p.ip6Lo, p.ip4, p.cfg]

/-- The registers of a port (R339). -/
def portRegs (p : Port) : List W64 :=
  [p.cfg, p.mac, p.gw, portStatus p, p.tx, p.rx, p.fecCorr, p.fecUncorr, p.hdrDrop, p.staleGen, p.fwd, p.fwdDrop, p.retx, p.dup,
    p.tagFail, p.robDrop, p.pfcSent, p.ceSched, p.opTimeout, p.pfcIgnored]

/-- The schedule registers of partition p (R237). -/
def State.schRegs (s : State) (p : Nat) : List W64 :=
  let q := s.part p
  [0, schLoadStatus q, intWord (s.roundNow q), BitVec.ofNat 64 q.step, intWord q.shift, q.slipsSent, q.slipsLate, q.lateMax,
    q.tokenStray, q.overrun, q.preempt, q.tokenTimeout]

/-- The firmware registers of the module (R479). -/
def State.fwRegs (s : State) : List W64 :=
  let f := s.fw
  [s.fwStatus, (f.base.map (·.build)).getD 0, (f.op.map (·.build)).getD 0, s.minSvn, 0, stageStatus 25 f.stage, 0, f.nonces.getD 0 0,
    f.nonces.getD 1 0, f.nonces.getD 2 0, f.nonces.getD 3 0, 0, at_ 63 62 f.attest, f.alarms, f.alarmLast, f.trace, f.activations,
    at_ 19 0 f.plogBase, at_ 19 0 s.flash.plogHead, f.plogLost]

/-- The memory registers of a column (R286). -/
def memColRegs (q : ColRegs) : List W64 := [q.ce, q.rebuilds, q.ue, q.tagFail, q.stale, q.scrubLag, q.lastErr, q.pcFailed]

/-- The collective registers of a column (R370). -/
def collRegs (q : ColRegs) : List W64 :=
  [q.colSteps, q.colPartsIn, q.colEsc, q.colInpath, q.colSolo, q.colPulls, q.colDiscard, q.colBad, q.colSpillFull, q.colLastErr,
    q.colTermLimit]

/-- The registers of a slot; its history stands at 0x80 (R172). -/
def slotRegs (q : Slot) : List W64 := [q.cfg, q.state, q.pending, q.ovf, q.replays, q.lost] ++ List.replicate 10 0 ++ q.hist.take 16

/-- The registers of a connection entry (R339). -/
def connRegs (k : Conn) : List W64 := [k.cfg, k.peerAHi, k.peerALo, k.peerBHi, k.peerBLo, k.job, k.timers, connState k, 0]

/-- The Strainer registers of a cluster (R411). -/
def State.strainerRegs (s : State) (k : Nat) : List W64 :=
  let q := s.cluster k
  [s.stnStatus k, q.checked, q.convChecked, q.checkCycles, q.mismatch, q.residue, q.unchecked, q.lastFail]

/-- What the register at an offset of a block reads (register index). -/
def State.readReg (s : State) (b : RegBlock) (off : Nat) : W64 :=
  match b with
  | .root => regAt [devPartId, s.columnStatus] off
  | .time => regAt [s.tm.now, s.timeStatus, s.tm.ppsReject, s.tm.unlocks] off
  | .plane i => regAt (planeRegs (s.plane i)) off
  | .mgmt => regAt (planeRegs s.net.mgmt) off
  | .xsi => regAt [0, stageStatus 24 s.xsi.stage, 0, s.xsiLoadStatus, BitVec.ofNat 64 s.xsi.ownerSeq, s.xsi.loads, s.xsi.rejects] off
  | .fw => regAt s.fwRegs off
  | .quote => wordAt s.fw.quote off
  | .dev => regAt [0, s.resetCause, 0, s.dumpStatus, s.dev.dumpSkipped, s.dev.hangs, s.dev.hangLast, s.dev.noticeLost] off
  | .pwr => regAt [s.pwrInput, s.pwr.cap, s.pwrAlert, s.pinStatus, s.pwr.filtered, s.pwr.throttleUs, s.pwr.emergencies, s.coolantWord, 0,
      at_ 63 62 s.pwr.remove, s.lifeSummary] off
  | .grant => Table.get 0 s.pwr.grants (off / 8)
  | .mlog => match s.fw.mlog[off / 128]? with
    | some e => wordAt (mEntryBytes (off / 128) e) (off % 128)
    | none => 0
  | .plog => match s.flash.plogAt (s.fw.plogBase + off / 64) with
    | some e => wordAt (logBytes e) (off % 64)
    | none => 0
  | .life => wordAt (lifeBytes (Table.get default s.pwr.life (off / 16))) (off % 16)
  | .dump => wordAt s.dev.dump.stream off
  | .sch p => regAt (s.schRegs p) off
  | .memPart p => regAt [0, wipeStatus (s.part p), dmaStatus (s.part p)] off
  | .stn p =>
    let t := (s.part p).stn
    regAt [t.cfg, t.committed, stnState (s.part p), t.retracts, t.fails, t.poisoned, t.drops, t.heldUpd] off
  | .xsiPart p => regAt [s.partStatus p, BitVec.ofNat 64 (s.part p).seq, BitVec.ofNat 64 (s.drainCount p)] off
  | .devPart p => regAt [0, partFaultWord (s.part p), s.partLease p, (s.part p).faults] off
  | .region r => regAt [(s.region r).pmap, (s.region r).dmap, (s.region r).attr, regionStatus (s.region r)] off
  | .conn n => regAt (connRegs (s.conn n)) off
  | .route r => regAt [(s.route r).hi, (s.route r).lo, (s.route r).ctl, (s.route r).mac] off
  | .slot n => regAt (slotRegs (s.slot n)) off
  | .cad c => regAt [(s.col c).cadReplays, (s.col c).cadPromotions, (s.col c).cadCeiling, (s.col c).cadDeclined, (s.col c).cadLast] off
  | .memCol c => regAt (memColRegs (s.col c)) off
  | .port n => regAt (portRegs (s.port n)) off
  | .coll c => regAt (collRegs (s.col c)) off
  | .fwCol c => regAt [s.fwSteward c, at_ 31 0 (s.steward c).head, (s.steward c).lost, (s.steward c).fires] off
  | .fwLog c =>
    match (s.steward c).ring[(s.steward c).place (off / 64)]? with
    | some e => wordAt (logBytes e) (off % 64)
    | none => 0
  | .devCol c => regAt [(s.col c).devResets] off
  | .pwrCol c => regAt [(s.colPwr c).limit, colPwrState (s.colPwr c), (s.colPwr c).phaseFails] off
  | .acc n => regAt [(s.posn n).saTiles, (s.posn n).exactLost, (s.posn n).termLimit, (s.posn n).imageBad, (s.posn n).lastLoss] off
  | .cube n => regAt [(s.posn n).tiles, (s.posn n).advance, (s.posn n).drainStall, incBy (s.posn n).fill (s.fallNow n).1, (s.posn n).gated, (s.posn n).vecNan,
      s.cubStatus n] off
  | .ramp k => (s.cluster k).ramp
  | .out n => regAt [(s.posn n).converted, (s.posn n).rangeOvf, (s.posn n).clipped, (s.posn n).vanished, (s.posn n).nan, (s.posn n).topkNan,
      (s.posn n).topkDup, (s.posn n).lastOvf] off
  | .strainer k => regAt (s.strainerRegs k) off

/-- The RC registers of the module's own blocks cleared by a read. -/
def State.clearGlobal (s : State) (b : RegBlock) (r : Nat) : State :=
  match b, r with
  | .time, 2 => { s with tm := { s.tm with ppsReject := 0 } }
  | .time, 3 => { s with tm := { s.tm with unlocks := 0 } }
  | .xsi, 5 => s.updXsi fun x => { x with loads := 0 }
  | .xsi, 6 => s.updXsi fun x => { x with rejects := 0 }
  | .fw, 13 => s.updFw fun f => { f with alarms := 0 }
  | .fw, 16 => s.updFw fun f => { f with activations := 0 }
  | .fw, 19 => s.updFw fun f => { f with plogLost := 0 }
  | .dev, 4 => s.updDev fun d => { d with dumpSkipped := 0 }
  | .dev, 5 => s.updDev fun d => { d with hangs := 0 }
  | .dev, 7 => s.updDev fun d => { d with noticeLost := 0 }
  | .pwr, 4 => s.updPwr fun p => { p with filtered := 0 }
  | .pwr, 5 => s.updPwr fun p => { p with throttleUs := 0 }
  | .pwr, 6 => s.updPwr fun p => { p with emergencies := 0 }
  | _, _ => s

/-- The RC registers of a partition. -/
def clearSch (q : Part) (r : Nat) : Part :=
  match r with
  | 5 => { q with slipsSent := 0 }
  | 6 => { q with slipsLate := 0 }
  | 7 => { q with lateMax := 0 }
  | 8 => { q with tokenStray := 0 }
  | 9 => { q with overrun := 0 }
  | 10 => { q with preempt := 0 }
  | 11 => { q with tokenTimeout := 0 }
  | _ => q

def clearStn (t : Stn) (r : Nat) : Stn :=
  match r with
  | 3 => { t with retracts := 0 }
  | 4 => { t with fails := 0 }
  | 5 => { t with poisoned := 0 }
  | 6 => { t with drops := 0 }
  | 7 => { t with heldUpd := 0 }
  | _ => t

/-- The RC registers of a slot, a port and a column's blocks. -/
def clearSlot (q : Slot) (r : Nat) : Slot :=
  match r with
  | 3 => { q with ovf := 0 }
  | 4 => { q with replays := 0 }
  | 5 => { q with lost := 0 }
  | _ => q

def clearPort (p : Port) (r : Nat) : Port :=
  match r with
  | 4 => { p with tx := 0 }
  | 5 => { p with rx := 0 }
  | 6 => { p with fecCorr := 0 }
  | 7 => { p with fecUncorr := 0 }
  | 8 => { p with hdrDrop := 0 }
  | 9 => { p with staleGen := 0 }
  | 10 => { p with fwd := 0 }
  | 11 => { p with fwdDrop := 0 }
  | 12 => { p with retx := 0 }
  | 13 => { p with dup := 0 }
  | 14 => { p with tagFail := 0 }
  | 15 => { p with robDrop := 0 }
  | 16 => { p with pfcSent := 0 }
  | 17 => { p with ceSched := 0 }
  | 18 => { p with opTimeout := 0 }
  | 19 => { p with pfcIgnored := 0 }
  | _ => p

def clearCad (q : ColRegs) (r : Nat) : ColRegs :=
  match r with
  | 0 => { q with cadReplays := 0 }
  | 1 => { q with cadPromotions := 0 }
  | 2 => { q with cadCeiling := 0 }
  | 3 => { q with cadDeclined := 0 }
  | _ => q

def clearMem (q : ColRegs) (r : Nat) : ColRegs :=
  match r with
  | 0 => { q with ce := 0 }
  | 1 => { q with rebuilds := 0 }
  | 2 => { q with ue := 0 }
  | 3 => { q with tagFail := 0 }
  | 4 => { q with stale := 0 }
  | 5 => { q with scrubLag := 0 }
  | _ => q

def clearColl (q : ColRegs) (r : Nat) : ColRegs :=
  match r with
  | 0 => { q with colSteps := 0 }
  | 1 => { q with colPartsIn := 0 }
  | 2 => { q with colEsc := 0 }
  | 3 => { q with colInpath := 0 }
  | 4 => { q with colSolo := 0 }
  | 5 => { q with colPulls := 0 }
  | 6 => { q with colDiscard := 0 }
  | 7 => { q with colBad := 0 }
  | 8 => { q with colSpillFull := 0 }
  | 10 => { q with colTermLimit := 0 }
  | _ => q

/-- The RC registers of a position: accumulator, cube and output. -/
def clearAcc (q : Pos) (r : Nat) : Pos :=
  match r with
  | 0 => { q with saTiles := 0 }
  | 1 => { q with exactLost := 0 }
  | 2 => { q with termLimit := 0 }
  | 3 => { q with imageBad := 0 }
  | _ => q

def clearCube (q : Pos) (now : Timer) (r : Nat) : Pos :=
  match r with
  | 0 => { q with tiles := 0 }
  | 1 => { q with advance := 0 }
  | 2 => { q with drainStall := 0 }
  | 3 => { q with fill := 0, timer := now }
  | 4 => { q with gated := 0 }
  | 5 => { q with vecNan := 0 }
  | _ => q

def clearOut (q : Pos) (r : Nat) : Pos :=
  match r with
  | 0 => { q with converted := 0 }
  | 1 => { q with rangeOvf := 0 }
  | 2 => { q with clipped := 0 }
  | 3 => { q with vanished := 0 }
  | 4 => { q with nan := 0 }
  | 5 => { q with topkNan := 0 }
  | 6 => { q with topkDup := 0 }
  | _ => q

/-- The RC registers of a cluster's Strainer block. -/
def clearStrainer (q : Cluster) (r : Nat) : Cluster :=
  match r with
  | 1 => { q with checked := 0 }
  | 2 => { q with convChecked := 0 }
  | 3 => { q with checkCycles := 0 }
  | 4 => { q with mismatch := 0 }
  | 5 => { q with residue := 0 }
  | 6 => { q with unchecked := 0 }
  | _ => q

/-- What a read of the register at an offset of a block clears (R11). A read of a log window also marks how far the ring has been
read (R473; log 21). -/
def State.clearReg (s : State) (b : RegBlock) (off : Nat) : State :=
  let r := off / 8
  match b with
  | .sch p => s.updPart p fun q => clearSch q r
  | .stn p => s.updStn p fun t => clearStn t r
  | .devPart p => if r = 3 then s.updPart p fun q => { q with faults := 0 } else s
  | .slot n => s.updSlot n fun q => clearSlot q r
  | .cad c => s.updCol c fun q => clearCad q r
  | .memCol c => s.updCol c fun q => clearMem q r
  | .port n => s.updPort n fun q => clearPort q r
  | .coll c => s.updCol c fun q => clearColl q r
  | .fwCol c => s.updSteward c fun w => if r = 2 then { w with lost := 0 } else if r = 3 then { w with fires := 0 } else w
  | .fwLog c =>
    let i := (s.steward c).place (off / 64)
    if i < (s.steward c).ring.length then s.updSteward c fun w => { w with seen := max w.seen (w.head - i) } else s
  | .devCol c => if r = 0 then s.updCol c fun q => { q with devResets := 0 } else s
  | .pwrCol c => if r = 2 then s.updColPwr c fun q => { q with phaseFails := 0 } else s
  | .acc n => s.updPos n fun q => clearAcc q r
  | .cube n => s.updPos n fun q => clearCube q (s.fallNow n).2 r
  | .out n => s.updPos n fun q => clearOut q r
  | .strainer k => s.updCluster k fun q => clearStrainer q r
  | _ => s.clearGlobal b r

/-- The partition whose register a block is (R433, R502): none for the registers of the module, and for a cluster, slot, region or
connection that no partition holds. -/
def State.blockPart (s : State) (b : RegBlock) : Option Nat :=
  let ranged := fun (first count : Part → Nat) (n : Nat) =>
    (List.range 16).find? fun p => (s.part p).st ≠ .absent && decide (first (s.part p) ≤ n) && decide (n < first (s.part p) + count (s.part p))
  match b with
  | .sch p | .memPart p | .stn p | .xsiPart p | .devPart p => some p
  | .acc n | .cube n | .out n => s.clusterPart (n / 16)
  | .ramp k | .strainer k => s.clusterPart k
  | .slot n => ranged (·.slotFirst) (·.slotCount) n
  | .conn n => ranged (·.connFirst) (·.connCount) n
  | .region r => if rgnValid (s.region r) then some (rgnPart (s.region r)) else none
  | _ => none

/-- Registers that every session reads (access by role table). -/
def sessionReads (b : RegBlock) (off : Nat) : Bool :=
  match b with
  | .root => true
  | .time => decide (off < 0x10)
  | .xsi => decide (off = 0x18)
  | _ => false

/-- Registers outside its partition that a controlling session writes. -/
def sessionWrites (b : RegBlock) (off : Nat) : Bool :=
  match b with
  | .xsi => decide (off = 0) || decide (off = 0x10)
  | _ => false

/-- Registers that a fabric manager writes (R433, R479, R510, R536). -/
def managerWrites (b : RegBlock) (off : Nat) : Bool :=
  match b with
  | .devPart _ => decide (off = 0)
  | .xsi => decide (off = 0) || decide (off = 0x10)
  | .fw => [0x20, 0x30, 0x38, 0x40, 0x48, 0x50, 0x58, 0x78, 0x88].contains off
  | .dev => decide (off = 0) || decide (off = 0x10)
  | .pwr => decide (off = 0x10) || decide (off = 0x40)
  | _ => false

/-- Check 5 of R539: whether the role and the partition of a connection may reach a register. -/
def State.roleMay (s : State) (k : Conn) (write : Bool) (b : RegBlock) (off : Nat) : Bool :=
  let own := s.blockPart b == some (connPart k)
  match connKind k with
  | 2 => own || (if write then sessionWrites b off else sessionReads b off)
  | 3 => !write && (own || sessionReads b off)
  | 4 => !write || managerWrites b off
  | _ => false

/-- The column that a register is held in (R541). -/
def blockCol : RegBlock → Option Nat
  | .acc n | .cube n | .out n => some (n / 256)
  | .ramp k | .strainer k => some (k / 16)
  | .cad c | .memCol c | .port c | .coll c | .pwrCol c => some c
  | .slot n => some (n / 4096)
  | _ => none

/-- Whether some steward keeps the log ring of column c (R472, R541). -/
def State.ringKept (s : State) (c : Nat) : Bool :=
  (s.inService c && !(s.steward c).held) || (testBit s.dev.standbyActive c && s.inService ((c + 8) % 16))

/-- Whether a job of a partition is running (R173): a parked one is not. -/
def jobRuns (q : Part) : Bool := decide (q.st = .running) || (decide (q.schSt = 3) && !q.isParked)

/-- Offsets of a slot that software writes: configuration, state and history. -/
def slotWritable (off : Nat) : Bool := decide (off = 0) || decide (off = 8) || decide (0x80 ≤ off)

/-- Check 6 of R539, but for what a command itself answers: whether the target's state allows the access now. -/
def State.stateMay (s : State) (write : Bool) (b : RegBlock) (off : Nat) : Bool :=
  let there := match b with
    | .fwLog c => s.ringKept c
    | _ => match blockCol b with
      | some c => s.inService c
      | none => true
  there && (!write || match b with
    | .slot _ => !slotWritable off || !(s.blockPart b).any fun p => jobRuns (s.part p)
    | .conn n => decide (connKind (s.conn n) < 2) && (decide ((s.conn n).st = 0) || decide (off = 0x40))
    | _ => true)

/-- What recovery lets a fabric manager read (R478). -/
def recoveryReads (b : RegBlock) (off : Nat) : Bool :=
  match b with
  | .root | .dev | .devPart _ | .devCol _ | .dump | .fwLog _ | .plog | .mlog => true
  | .fw => decide (off = 0) || decide (off = 0x70)
  | _ => false

/-- Check 1 of R539 (R446, R478): the status that recovery, or ROM recovery, gives. -/
def State.recoveryGate (s : State) (k : Conn) (write : Bool) (a : Nat) : Option Nat :=
  let at' := locate a
  if s.fw.service = .recovery then
    if !write && decide (connKind k = 4) && at'.any fun e => recoveryReads e.1 e.2 then none else some 0xD
  else if s.fw.romRecovery then
    if write && (at' == some (.fw, 0x20) || at' == some (.fw, 0x30)) then none else some 4
  else none

/-- Whether the interface level of a connection is compatible; without an operational image there is none to compare (R469, R470). -/
def State.levelMay (s : State) (k : Conn) : Bool := !s.operational || !connHost k || levelOk s.fw.iface k.level

/-- Check 2 of R539. -/
def State.levelGate (s : State) (k : Conn) (write : Bool) (a : Nat) : Bool :=
  s.levelMay k || !write || locate a == some (.fw, 0x20) || locate a == some (.fw, 0x30)

/-- Checks 1 to 6 of one register access (R538, R539): the block and the offset, or the status. -/
def State.ctlCheck (s : State) (c : Nat) (write : Bool) (a : Nat) : Except Nat (RegBlock × Nat) :=
  let k := s.conn c
  match s.recoveryGate k write a with
  | some st => .error st
  | none =>
    if !s.levelGate k write a then .error 0xB
    else if a % 8 ≠ 0 then .error 2
    else match locate a with
    | none => .error 1
    | some (b, off) =>
      if !s.roleMay k write b off then .error 3
      else if !s.stateMay write b off then .error 4
      else .ok (b, off)

/-- REG_READ on connection c (R303, R539): status, value and state. An observer's read clears nothing (R434). -/
def State.ctlRead (s : State) (c a : Nat) : Nat × W64 × State :=
  match s.ctlCheck c false a with
  | .error st => (st, 0, s)
  | .ok (b, off) => (0, s.readReg b off, if connKind (s.conn c) = 3 then s else s.clearReg b off)

/-- A write of NET_CONN_CFG and of the other words of a closed entry (R11, R13, R309, R340, field maps): the entry written, or none when the
content is rejected: a reserved KIND, or a value that a field map rejects. -/
def connWrite (k : Conn) (off : Nat) (v : W64) : Option Conn :=
  match off with
  | 0x00 =>
    if 5 ≤ fld v 63 61 ∨ fld v 53 48 = 0 ∨ 32 < fld v 53 48 then none
    else some { k with cfg := fields [at_ 63 34 (fld v 63 34)] }
  | 0x08 => some { k with peerAHi := v }
  | 0x10 => some { k with peerALo := v }
  | 0x18 => some { k with peerBHi := v }
  | 0x20 => some { k with peerBLo := v }
  | 0x28 => some { k with job := v }
  | 0x30 =>
    if fld v 63 48 = 0 ∨ fld v 47 40 = 0 ∨ fld v 39 36 = 0 ∨ fld v 35 20 = 0 then none
    else some { k with timers := fields [at_ 63 20 (fld v 63 20)] }
  | _ => some k

/-- A write to a slot's register (R173, R176, R177); the reserved bits of a history entry are ignored (R10). -/
def slotWrite (q : Slot) (off : Nat) (v : W64) : Option Slot :=
  if off = 0 then slotCfgWrite q v
  else if off = 8 then slotStateWrite q v
  else if 0x80 ≤ off then some { q with hist := modAt q.hist ((off - 0x80) / 8) fun _ => at_ 63 9 (fld v 63 9) }
  else some q

/-- CLAIM or RELEASE: both or neither is no action. -/
def twoBits (v : W64) : Option Bool := if bit v 0 && !bit v 1 then some true else if !bit v 0 && bit v 1 then some false else none

/-- A write that passed checks 1 to 6, but for MEM_DMA_CTRL (R11, R540, R541): its status and the state. A register that is not
written here ignores the write. -/
def State.writeReg (s : State) (c : Nat) (b : RegBlock) (off : Nat) (v : W64) (errs : List MemErr) : Nat × State :=
  match b, off with
  | .sch p, 0 => if fld v 39 0 % 256 ≠ 0 ∧ !s.loadBarred p then (0xE, s) else s.opLoad p (fld v 39 0) errs
  | .memPart p, 0 => s.opWipe p (fld v 11 0)
  | .xsi, 0x00 => match twoBits v with
    | some true => s.opXsiClaim c
    | some false => s.opXsiRelease c
    | none => (0, s)
  | .xsi, 0x10 => if bit v 0 then s.opXsiStart c else (0, s)
  | .fw, 0x20 => match twoBits v with
    | some true => s.opFwClaim c
    | some false => s.opFwRelease c
    | none => (0, s)
  | .fw, 0x30 => if bit v 0 then s.opActivate (s.conn (s.fw.stage.holder.getD c)).viaMgmt else (0, s)
  | .fw, 0x38 => (0, s.updFw fun f => { f with nonces := modAt f.nonces 0 fun _ => v })
  | .fw, 0x40 => (0, s.updFw fun f => { f with nonces := modAt f.nonces 1 fun _ => v })
  | .fw, 0x48 => (0, s.updFw fun f => { f with nonces := modAt f.nonces 2 fun _ => v })
  | .fw, 0x50 => (0, s.updFw fun f => { f with nonces := modAt f.nonces 3 fun _ => v })
  | .fw, 0x58 => (0, if bit v 0 then s.opAttest else s)
  | .fw, 0x78 => (0, s.updFw fun f => { f with trace := at_ 15 0 (fld v 15 0) })
  | .fw, 0x88 => (0, s.updFw fun f => { f with plogBase := fld v 19 0 })
  | .dev, 0x00 => s.opDevReset (fld v 63 60) (fld v 15 0)
  | .dev, 0x10 => match twoBits v with
    | some true => (0, s.opDumpTake)
    | some false => (0, s.opDumpAck)
    | none => (0, s)
  | .devPart p, 0 => s.opPartCmd p (fld v 2 0)
  | .pwr, 0x10 => (0, s.updPwr fun p => { p with ageing := p.ageing && !bit v 6, phaseAlert := p.phaseAlert && !bit v 4 })
  | .pwr, 0x40 => match twoBits v with
    | some true => (0, s.opRemoveRequest)
    | some false => (0, s.opRemoveCancel)
    | none => (0, s)
  | .conn n, 0x40 => match twoBits v with
    | some true => s.opConnOpen n
    | some false => s.opConnClose n
    | none => (0, s)
  | .conn n, off => match connWrite (s.conn n) off v with
    | some k => (0, s.updConn n fun _ => k)
    | none => (0xE, s)
  | .slot n, off => match slotWrite (s.slot n) off v with
    | some q => (0, s.updSlot n fun _ => q)
    | none => (0xE, s)
  | _, _ => (0, s)

end Sys2Proof.Machine
end

