-- ==== Sys2Proof/Machine/Rx.lean ====
section
/-! DEFINITION. What a received packet does once its PSN is accepted: the checks of a header (R300 to R302), placing and delivering
(R317, R318, R320, R321), host DMA (R272, R275), register accesses as CTL operations (R303, R542), and completion (R320, R327). -/
namespace Sys2Proof.Machine

/-- A reserved bit of a header is set (R300), by opcode. -/
def rxReserved (op w0 w2 w3 : Nat) : Bool :=
  let zero := fun (w hi lo : Nat) => decide (nfld w hi lo = 0)
  testBit w0 48 || !(match op with
    | 1 => zero w2 17 16
    | 2 => zero w3 15 0
    | 3 => zero w2 39 24 && zero w2 17 16 && zero w3 31 0
    | 4 => zero w2 63 24 && zero w2 17 16 && zero w3 31 0
    | 5 => zero w2 17 16 && zero w3 15 10
    | 6 => zero w2 63 16
    | 7 | 8 => zero w3 9 0
    | 9 | 10 | 11 => zero w2 63 16 && zero w3 31 0
    | 12 => zero w2 47 0 && zero w3 31 0
    | _ => true)

/-- The length of a control payload (opcode table). -/
def ctlLenOk (op n : Nat) : Bool :=
  if op = opCtl ∨ op = opCtlResp ∨ op = opSlip then decide (n = 16)
  else if op = Sys2Proof.Machine.opVerdict ∨ op = opAbort then decide (n ≤ 64)
  else if op = opAck then decide (n = 64)
  else decide (n = 0)

/-- HCHK of a received header holds. -/
def hchkOk (rx : Rx) : Bool := decide (nfld rx.w3 31 0 = hchk rx.w0 rx.w1 rx.w2 (nfld rx.w3 63 32))

/-- A received packet passes the checks of R300 and R302. -/
def rxHdrOk (rx : Rx) : Bool :=
  let op := nfld rx.w0 59 56
  let ngran := nfld rx.w2 23 18
  decide (nfld rx.w0 63 60 = 1) && decide (1 ≤ op ∧ op ≤ 12) && decide (nfld rx.w0 7 0 ≤ 0xE)
    && !rxReserved op rx.w0 rx.w2 (nfld rx.w3 63 32) && hchkOk rx
    && (if opGrans op then decide (ngran ≤ 32) && decide (rx.grans.length = ngran) && decide (rx.tags.length = ngran) else rx.grans.isEmpty)
    && ctlLenOk op rx.ctl.length && (rx.ctl.isEmpty || decide (rx.check = crc32c rx.ctl))

/-- The packet of a received frame, each granule with the poison mark of the trailer (R301). -/
def rxPkt (rx : Rx) : Pkt :=
  pktOf rx.w0 rx.w1 rx.w2 rx.w3 ((List.range rx.grans.length).map fun i => ⟨slice (rx.grans.getD i []) 0 256, testBit rx.mask i⟩) rx.ctl

/-- A granule's tag does not match (R301, R326). -/
def rxTagBad (rx : Rx) : Bool := (rx.grans.zip rx.tags).any fun e => crc32c (slice e.1 0 256) ≠ e.2

/-- PSN a comes before PSN b (PSNs compare modulo 2^32). -/
def psnLt (a b : Nat) : Bool := let d := (b + 2 ^ 32 - a % 2 ^ 32) % 2 ^ 32; decide (0 < d) && decide (d < 2 ^ 31)

/-- The operation of an OPID at the receiver, and an update of it. -/
def rxOpOf (k : Conn) (id : Nat) : Option RxOp := k.rxOps.find? fun o => o.opid = id
def State.updRxOp (s : State) (c id : Nat) (f : RxOp → RxOp) : State :=
  s.updConn c fun k => { k with rxOps := k.rxOps.map fun o => if o.opid = id then f o else o }
def State.dropRxOp (s : State) (c id : Nat) : State := s.updConn c fun k => { k with rxOps := k.rxOps.filter fun o => o.opid ≠ id }

/-- The partition address of a WRITE or READ. -/
def pktAddr (p : Pkt) : Nat := nfld p.w2 63 24

/-- Packets of connection c are served: it is open, or a session that a teardown closes and that has not closed yet (R435). -/
def State.serves (s : State) (c : Nat) : Bool :=
  let k := s.conn c
  decide (k.st = 2) || (decide (k.st = 4) && (decide (connKind k = 2) || decide (connKind k = 3))
    && decide ((s.part (connPart k)).st = .tearing))

/-- The status that the service state, the level, the role and the form of a data or message operation give (R305, R433, R446, R470,
R478), and the fence of a teardown (R435, R436); 0 when it may proceed. -/
def State.opGate (s : State) (c : Nat) (p : Pkt) : Nat :=
  let k := s.conn c
  let member := decide (connKind k = 1)
  let addressed := decide (p.op = opWrite) || decide (p.op = opRead)
  let role : Bool :=
    if p.op = opSend ∨ p.op = opReadResp then true
    else if p.op = opRead then decide (1 ≤ connKind k ∧ connKind k ≤ 3)
    else if p.op = opWrite ∨ p.op = opToken then member || decide (connKind k = 2)
    else member
  if s.fw.service = .recovery then 0xD
  else if k.st = 4 ∧ [opWrite, opRead, opToken, opSend].contains p.op then 7
  else if s.fw.romRecovery ∧ p.op ≠ opSend then 4
  else if !s.levelMay k && !(p.op = opSend && decide (s.fw.stage.holder = some c)) then 0xB
  else if !role then 3
  else if addressed && decide (pktAddr p % 256 ≠ 0) then 2
  else if p.op = opRead ∧ nfld p.w2 23 0 = 0 then 0xE
  else 0

/-- Where n granules of partition memory stand (R245, R257, R433): an access fault (none), or whether one of their regions still
initialises. A session needs HRD or HWR. -/
def State.granPlaces (s : State) (k : Conn) (write : Bool) (addr n : Nat) : Option Bool :=
  let l := (List.range n).map fun i => s.place (connPart k) (addr + 256 * i)
  let may := fun (r : Region) => !connHost k || (if write then rgnHwr r else rgnHrd r)
  if l.all fun e => e.any fun x => may x.2.1 then some (l.any fun e => e.any fun x => x.2.2.2) else none

/-- The lines of the granule at allocation address a as they stand: bytes and poison mark, none for one that is invalid or unwritten. -/
def State.granNow (s : State) (r : Region) (a : Nat) : List (Option (Bytes × Bool)) :=
  (List.range 4).map fun i =>
    match s.lineNow r (rgnDpa r (a + 64 * i)) with
    | .data => some (s.stored r (a + 64 * i), false)
    | .poisoned => some (s.stored r (a + 64 * i), true)
    | .invalid | .unwritten => none

/-- The DMA channel of a session. -/
def State.dmaOf (s : State) (c : Nat) : Dma := Table.get .reset (s.part (connPart (s.conn c))).dma (s.conn c).session
def State.setDma (s : State) (c : Nat) (d : Dma) : State :=
  let k := s.conn c
  s.updPart (connPart k) fun q => { q with dma := Table.set .reset q.dma k.session d }

/-- A session's READ or WRITE meets an uncorrectable granule (R272, R275): HOST_DMA_FAULT, and the channel halts with the operation. -/
def State.haltDma (s : State) (c : Nat) (p : Pkt) : State :=
  let part := connPart (s.conn c)
  let s := s.logP s.leadNow 0x44 0xFFFF part [s.lastErrOf part (pktAddr p)]
  s.setDma c { s.dmaOf c with halted := true, addr := pktAddr p, conn := c, faulting := some p }

/-- Whether an uncorrectable error halts the DMA channel of a connection: it is a session, and no teardown runs (R272, R285). -/
def State.mayHalt (s : State) (c : Nat) : Bool := connHost (s.conn c) && decide ((s.part (connPart (s.conn c))).st ≠ .tearing)

/-- Granule i of a WRITE packet placed (R262, R272, R306, R317): the Bool says that it halts the session's channel instead. -/
def State.placeGran (s : State) (c : Nat) (p : Pkt) (o : RxOp) (i : Nat) (errs : List MemErr) : Bool × State :=
  let part := connPart (s.conn c)
  let g := p.grans.getD i default
  match s.place part (pktAddr p + 256 * i) with
  | some (j, r, a, _) =>
    if staleGen o.gens j r then (false, s.dropStale r a)
    else
      let v : Cover := ⟨a - 256 * i, a - 256 * i + 256 * p.grans.length, errs⟩
      let x := s.mergeGran (if connHost (s.conn c) then accHost else accOperand) part j r a g.data g.poison v
      if x.2.1 && s.mayHalt c then (true, x.2.2)
      else
        let u : Undo := ⟨j, a, r.gen, s.granNow r a, x.1.data⟩
        (false, (x.2.2.storeGran r a x.1 v).updRxOp c o.opid fun o => { o with undo := u :: o.undo })
  | none => (false, s)

/-- A WRITE packet placed (R317): none while a region that it needs initialises (R257). -/
def State.placeWrite (s : State) (c : Nat) (p : Pkt) (errs : List MemErr) : Bool × State :=
  let k := s.conn c
  match rxOpOf k (pktOp p) with
  | none => (true, s)
  | some o =>
    if o.status ≠ 0 then (true, s)
    else match s.granPlaces k true (pktAddr p) p.grans.length with
    | none => (true, s.updRxOp c o.opid fun o => { o with status := 1 })
    | some true => (false, s)
    | some false =>
      let x := (List.range p.grans.length).foldl (fun (x : Bool × State) i => if x.1 then x else x.2.placeGran c p o i errs) (false, s)
      (true, if x.1 then x.2.haltDma c p else x.2)

/-- What a granule of a failed WRITE replaced put back, where it still stands under the same generation (R306). -/
def State.undoGran (s : State) (u : Undo) : State :=
  let r := s.region u.rgn
  let v : Cover := ⟨0, 0, []⟩
  if r.gen ≠ u.gen ∨ (List.range 4).flatMap (fun i => s.stored r (u.addr + 64 * i)) ≠ u.new then s
  else
    let line := fun (i : Nat) => (u.old.getD i none).getD (zeros 64, false)
    let s := (List.range 4).foldl (fun s i =>
      let a := u.addr + 64 * i
      let s := s.storeLine r a (line i).1 (line i).2 v
      if (u.old.getD i none).isNone && rgnHbm r then s.setLine (s.phys (rgnDpa r a) / 64) none else s) s
    s.storeTag r u.addr ((List.range 4).flatMap fun i => (line i).1) v

/-- Whether the data that a partition's memory gives are provisional: its job has a step that is not committed (R386). -/
def partProv (q : Part) : Bool := q.sched.isSome && provStep q q.step

/-- READ_RESP packets of a served READ (R300, R306, R386): the status goes with the last of them. -/
def State.sendRead (s : State) (c id status : Nat) (gs : List Gran) : State :=
  let l := cutGrans (max 1 (connGranMax (s.conn c))) (gs.length + 1) 0 gs
  let l := if l.isEmpty then [(0, [])] else l
  let prov := partProv (s.part (connPart (s.conn c)))
  (List.range l.length).foldl (fun s i =>
    let e := l.getD i (0, [])
    let last := decide (i + 1 = l.length)
    let base := Pkt.blank opReadResp
    s.send c { base with first := decide (i = 0), last := last, prov := prov && !e.2.isEmpty, status := if last then status else 0,
                         w2 := e.1 % 2 ^ 24 * 2 ^ 40 + e.2.length * 2 ^ 18 + id, grans := e.2 }) s

/-- A READ that fails: one READ_RESP with NGRAN 0, LAST and the status (R320). -/
def State.failRead (s : State) (c id status : Nat) : State := (s.dropRxOp c id).sendRead c id status []

/-- The granules of a READ (R250 to R256, R262, R269). -/
def State.readGrans (s : State) (access part : Nat) (gens : List (Nat × Nat)) (addr n : Nat) (errs : List MemErr) : List Gran × State :=
  (List.range n).foldl (fun (a : List Gran × State) i =>
    match a.2.place part (addr + 256 * i) with
    | some (j, r, x, _) =>
      if staleGen gens j r then (a.1 ++ [⟨zeros 256, false⟩], a.2)
      else
        let (g, s) := a.2.readGranAt access part j r x errs
        (a.1 ++ [g], s)
    | none => a) ([], s)

/-- A READ served (R272, R306, R320): none while a region that it needs initialises. A session's READ that meets an uncorrectable
granule halts its DMA channel; a member's is delivered with its poison marks. -/
def State.serveRead (s : State) (c : Nat) (p : Pkt) (errs : List MemErr) : Bool × State :=
  let k := s.conn c
  let id := pktOp p
  let n := nfld p.w2 23 0
  match rxOpOf k id with
  | none => (true, s)
  | some o =>
    if o.status ≠ 0 then (true, s.failRead c id o.status)
    else match s.granPlaces k false (pktAddr p) n with
    | none => (true, s.failRead c id 1)
    | some true => (false, s)
    | some false =>
      let r := s.readGrans (if connHost k then accHost else accOperand) (connPart k) o.gens (pktAddr p) n errs
      let bad := r.1.any (·.poison)
      if bad && r.2.mayHalt c then (true, r.2.haltDma c p)
      else (true, (r.2.dropRxOp c id).sendRead c id (if bad then 5 else 0) r.1)

/-- Whether a session's channel holds this operation back (R272). -/
def State.dmaHolds (s : State) (c : Nat) (p : Pkt) : Bool :=
  let k := s.conn c
  (decide (connKind k = 2) || decide (connKind k = 3)) && [opWrite, opRead, opToken].contains p.op && (s.dmaOf c).halted

/-- An answer to a CTL operation (R303, R320): CTL_RESP, then the DONE ACK; none when the connection is gone. -/
def State.answer (s : State) (c : Nat) (p : Pkt) (status : Nat) (v : W64) : State :=
  if s.serves c then
    (s.sendResp c p status (natLE 8 v.toNat ++ zeros 8)).sendAck c (some (pktOp p, status)) else s

/-- Operations that a channel held, completed with a status (R275). -/
def State.endHeld (s : State) (c status : Nat) (l : List Pkt) : State :=
  l.foldl (fun s p =>
    if (rxOpOf (s.conn c) (pktOp p)).isNone then s
    else if p.op = opRead then s.failRead c (pktOp p) status
    else s.updRxOp c (pktOp p) fun o => { o with status := if o.status = 0 then status else o.status }) s

/-- Held operations served in order; a further halt holds the rest again (R275). -/
def State.serveHeld : Nat → State → Nat → List Pkt → List MemErr → State
  | 0, s, _, _, _ => s
  | n + 1, s, c, l, errs =>
    match l with
    | [] => s
    | p :: t =>
      if (s.dmaOf c).halted then s.setDma c { s.dmaOf c with held := (s.dmaOf c).held ++ l }
      else
        let r := if p.op = opWrite then s.placeWrite c p errs else if p.op = opRead then s.serveRead c p errs else (true, s)
        State.serveHeld n (if r.1 then r.2 else s.updConn c fun k => { k with rxHeld := k.rxHeld ++ [p] }) c t errs

/-- RESUME or ABORT to the DMA channel of a session (R275); a channel that is not halted is unaffected. -/
def State.opDma (s : State) (p channel : Nat) (abort : Bool) (errs : List MemErr) : State :=
  let d := Table.get Dma.reset (s.part p).dma channel
  if !d.halted then s
  else
    let s := s.updPart p fun q => { q with dma := Table.set Dma.reset q.dma channel .reset }
    let f := d.faulting.toList
    if abort then s.endHeld d.conn 7 (f ++ d.held)
    else (s.endHeld d.conn 5 f).serveHeld d.held.length d.conn d.held errs

/-- What a completed operation does besides its DONE ACK (R318, R320, R321): the status, and the state. -/
def State.finishOp (s : State) (c : Nat) (o : RxOp) : Nat × State :=
  let p := connPart (s.conn c)
  if o.status ≠ 0 then (o.status, o.undo.foldl (fun s u => s.undoGran u) s)
  else if o.op = opWrite ∨ o.op = opToken then
    if o.dtok = relNone then (0, s)
    else
      let q := s.part p
      (0, s.updPart p fun q' => releaseTok q' o.dtok (nearStep (streamStep q (streamOf q (o.dtok / 512))) o.step) o.prov)
  else if o.op = opSend then
    let (st, s') := s.stageSend c o.data
    if !s.levelMay (s.conn c) ∧ s.fw.stage.holder ≠ some c then (0xB, s) else (st, s')
  else (0, s)

/-- An operation is complete (R320): every PSN up to its LAST has arrived, none of them waits, and no channel holds it. -/
def State.opReady (s : State) (c : Nat) (o : RxOp) : Bool :=
  let k := s.conn c
  let d := s.dmaOf c
  match o.lastPsn with
  | some l => [opWrite, opReadResp, opSend, opReduce, opToken].contains o.op && psnLt l k.rxNext && k.rxHeld.all (fun p => psnLt l p.psn)
      && !(decide (d.conn = c) && (d.held ++ d.faulting.toList).any fun p => pktOp p = o.opid)
  | none => false

/-- Completed operations finished, each with its DONE ACK. -/
def State.completeOps : Nat → State → Nat → State
  | 0, s, _ => s
  | n + 1, s, c =>
    match (s.conn c).rxOps.find? fun o => s.opReady c o with
    | some o =>
      let (st, s) := s.finishOp c o
      State.completeOps n ((s.dropRxOp c o.opid).sendAck c (some (o.opid, st))) c
    | none => s

/-- A write of one register on connection c (R303, R539): its status and the state. A session that a teardown closes only reads (R435). -/
def State.ctlWrite (s : State) (c a : Nat) (v : W64) (errs : List MemErr) : Nat × State :=
  match s.ctlCheck c true a with
  | .error st => (st, s)
  | .ok x => if (s.conn c).st = 4 then (4, s) else match x with
  | (.memPart p, 0x18) =>
    if bit v 8 == bit v 9 then (0, s)
    else
      let n := (Table.get Dma.reset (s.part p).dma (fld v 1 0)).conn
      let s := s.opDma p (fld v 1 0) (bit v 9) errs
      (0, s.completeOps (s.conn n).rxOps.length n)
  | (b, off) => s.writeReg c b off v errs

/-- A CTL operation delivered (R303, R312, R538). -/
def State.ctlIn (s : State) (c : Nat) (p : Pkt) (errs : List MemErr) : State :=
  let full := ((rxOpOf (s.conn c) (pktOp p)).map (·.status)).getD 0
  let s := s.dropRxOp c (pktOp p)
  let a := nfld p.w2 63 16
  if full ≠ 0 then s.answer c p full 0
  else match ctlOp p with
  | 1 => let (st, v, s) := s.ctlRead c a; s.answer c p st v
  | 2 => let (st, s) := s.ctlWrite c a (BitVec.ofNat 64 (leAt p.ctl 0 8)) errs; s.answer c p st 0
  | 0x12 => if s.fw.service = .recovery then s.answer c p 0xD 0 else s.closeIn c p
  | 0x10 | 0x11 | 0x13 => s
  | _ =>
    if s.fw.service = .recovery then s.answer c p 0xD 0
    else if s.fw.romRecovery then s.answer c p 4 0
    else if !s.levelMay (s.conn c) then s.answer c p 0xB 0
    else s.answer c p 0xE 0

/-- A SLIP, VERDICT or ABORT delivered (R225, R398, R499): it completes, and then it acts. -/
def State.msgIn (s : State) (c : Nat) (p : Pkt) : State :=
  let st := ((rxOpOf (s.conn c) (pktOp p)).map (·.status)).getD 0
  let s := (s.dropRxOp c (pktOp p)).sendAck c (some (pktOp p, st))
  if st ≠ 0 then s
  else if p.op = opSlip then s.slipIn c p.ctl
  else if p.op = Sys2Proof.Machine.opVerdict then s.verdictIn c p.ctl
  else s.abortIn c p.ctl

/-- The granules of a SEND gathered (R318): a poisoned one spoils the SEND. -/
def State.sendIn (s : State) (c : Nat) (p : Pkt) : State :=
  s.updRxOp c (pktOp p) fun o =>
    { o with data := o.data ++ p.grans.flatMap (·.data), status := if o.status = 0 ∧ p.grans.any (·.poison) then 5 else o.status }

/-- One packet delivered or placed (R317): none while it must wait for a region. -/
def State.deliverPkt (s : State) (c : Nat) (p : Pkt) (errs : List MemErr) : Bool × State :=
  if s.dmaHolds c p then (true, s.setDma c { s.dmaOf c with held := (s.dmaOf c).held ++ [p] })
  else if p.op = opWrite then s.placeWrite c p errs
  else if p.op = opRead then s.serveRead c p errs
  else if p.op = opReduce then
    (true, if ((rxOpOf (s.conn c) (pktOp p)).map (·.status)).getD 0 = 0 then s.collReceive c p errs else s)
  else if p.op = opSend then (true, s.sendIn c p)
  else if p.op = opCtl then (true, s.ctlIn c p errs)
  else if p.op = opSlip ∨ p.op = Sys2Proof.Machine.opVerdict ∨ p.op = opAbort then (true, s.msgIn c p)
  else (true, s)

/-- Packets placed on arrival, in any order (R317). -/
def placedNow (p : Pkt) : Bool := [opWrite, opReadResp, opReduce].contains p.op

/-- The earliest packet that waits on a connection. -/
def firstHeld (k : Conn) : Option Pkt :=
  k.rxHeld.foldl (fun b p => match b with
    | some x => if psnLt p.psn x.psn then some p else b
    | none => some p) none

/-- Packets that wait delivered in PSN order while nothing before them is missing or waits (R317). -/
def State.deliver : Nat → State → Nat → List MemErr → State
  | 0, s, _, _ => s
  | n + 1, s, c, errs =>
    match firstHeld (s.conn c) with
    | some p =>
      if psnLt p.psn (s.conn c).rxNext ∧ s.serves c then
        let r := (s.updConn c fun k => { k with rxHeld := k.rxHeld.filter fun x => x.psn ≠ p.psn }).deliverPkt c p errs
        if r.1 then State.deliver n r.2 c errs else s
      else s
    | none => s

/-- An earlier READ of the connection still waits for a granule that a WRITE packet covers: the WRITE must not overtake it (R279). -/
def overtakes (k : Conn) (p : Pkt) : Bool :=
  p.op = opWrite && k.rxHeld.any fun q => q.op = opRead && psnLt q.psn p.psn
    && decide (pktAddr p < pktAddr q + 256 * nfld q.w2 23 0) && decide (pktAddr q < pktAddr p + 256 * p.grans.length)

/-- Packets that are placed in any order placed, but for those that wait for a region (R257, R279, R317). -/
def State.placeHeld (s : State) (c : Nat) (errs : List MemErr) : State :=
  ((s.conn c).rxHeld.filter placedNow).foldl (fun s p =>
    if overtakes (s.conn c) p then s
    else
      let r := (s.updConn c fun k => { k with rxHeld := k.rxHeld.filter fun x => x.psn ≠ p.psn }).deliverPkt c p errs
      if r.1 then r.2 else s) s

/-- Packets that waited for a region placed (R257), then deliveries, the packets that waited for them, and completions. -/
def State.settleRx (s : State) (c : Nat) (errs : List MemErr) : State :=
  let s := s.placeHeld c errs
  let s := (s.deliver (s.conn c).rxHeld.length c errs).placeHeld c errs
  let s := s.deliver (s.conn c).rxHeld.length c errs
  if s.serves c then s.completeOps (s.conn c).rxOps.length c else s

/-- The PSN expected next, past those that have arrived. -/
def advPsn : Nat → Nat → List Nat → Nat × List Nat
  | 0, n, l => (n, l)
  | f + 1, n, l => if l.contains n then advPsn f ((n + 1) % 2 ^ 32) (l.filter (· ≠ n)) else (n, l)

/-- Operations under way in the module, its own and its peers' (R327). -/
def State.opsInFlight (s : State) : Nat := (s.net.conns.map fun e => e.2.ops.length + e.2.rxOps.length).foldl (· + ·) 0

/-- Opcodes of requests, which open an operation at their receiver. -/
def opensOp (op : Nat) : Bool := decide (op ≠ opCtlResp) && decide (op ≠ opAck)

/-- An operation's first packet to arrive opens it (R320, R325): with 0x0C when too many are open, and with the generation of every region
of the partition as it stands. -/
def State.openRxOp (s : State) (c : Nat) (p : Pkt) : State :=
  if (rxOpOf (s.conn c) (pktOp p)).isSome then s
  else
    let o : RxOp := ⟨pktOp p, p.op, if 65536 ≤ s.opsInFlight then 0xC else 0, none, relNone, 0, false, [], [],
      s.gensOf (connPart (s.conn c)), []⟩
    s.updConn c fun k => { k with rxOps := k.rxOps ++ [o] }

/-- The operation of an accepted packet recorded (R320, R327): opened with its gate's status on its first packet, closed by LAST. -/
def State.noteOp (s : State) (c : Nat) (p : Pkt) : State :=
  if !opensOp p.op then s
  else
    (s.openRxOp c p).updRxOp c (pktOp p) fun o =>
      { o with status := if o.status = 0 then (if p.op = opCtl then 0 else s.opGate c p) else o.status,
               lastPsn := if p.last then some p.psn else o.lastPsn,
               dtok := if p.last ∧ (p.op = opWrite ∨ p.op = opToken) then nfld p.w3 31 10 else o.dtok,
               step := if p.last then nfld p.w3 9 0 else o.step,
               prov := if p.last then p.prov else o.prov,
               bad := o.bad.filter fun e => e.1 ≠ p.psn }

end Sys2Proof.Machine
end

