-- ==== Sys2Proof/Machine/Control.lean ====
section
/-! DEFINITION. The rows that stand for one write of a control register: each is the CTL REG_WRITE that arrived on its originator's
connection, delivered in PSN order (R303, R542; log 22), with the checks of R539 and its answer. -/
namespace Sys2Proof.Machine

/-- A register written by the originator of a row, and the answer to it. Nothing happens when the originator's connection is not open. -/
def State.viaWrite (s : State) (v : Via) (a : Nat) (w : W64) (errs : List MemErr) : State :=
  if !(s.based || (s.up && s.fw.romRecovery)) ∨ (s.conn v.conn).st ≠ 2 then s
  else
    let (st, s) := s.ctlWrite v.conn a w errs
    let base := Pkt.blank opCtl
    s.answer v.conn { base with w2 := a % 2 ^ 48 * 2 ^ 16 + v.opid % 65536, w3 := 2 * 2 ^ 24 } st 0

/-- A row whose index lies in its array; outside it nothing happens. -/
def State.within (s : State) (n bound : Nat) (f : State → State) : State := if n < bound then f s else s

/-- DEV_RESET with a domain and a target (R485). -/
def resetWord (domain target : Nat) : W64 := fields [at_ 63 60 domain, at_ 15 0 target]

/-- DEV_PART_CMD of a partition (R502). -/
def State.partCmd (s : State) (v : Via) (p cmd : Nat) : State := s.within p 16 fun s => s.viaWrite v (0x9000 + 0x40 * p) (at_ 2 0 cmd) []

/-- MEM_DMA_CTRL of a partition (R275, R287). -/
def State.dmaCtrl (s : State) (v : Via) (p channel op : Nat) : State :=
  s.within p 16 fun s => s.viaWrite v (0x3018 + 0x40 * p) (at_ 1 0 channel ||| at_ op op 1) []

/-- NET_CONN_CMD of an entry (R309, R312). -/
def State.connCmd (s : State) (v : Via) (n : Nat) (w : W64) : State := s.within n 16384 fun s => s.viaWrite v (0x8000040 + 0x80 * n) w []

def execPwrRemoveRequest (v : Via) (s : State) : Out := .next (s.viaWrite v 0xA040 1 [])
def execPwrRemoveCancel (v : Via) (s : State) : Out := .next (s.viaWrite v 0xA040 2 [])
def execDevDumpTake (v : Via) (s : State) : Out := .next (s.viaWrite v 0x8010 1 [])
def execDevDumpAck (v : Via) (s : State) : Out := .next (s.viaWrite v 0x8010 2 [])
def execDevResetCore (v : Via) (t : Nat) (s : State) : Out := .next (s.viaWrite v 0x8000 (resetWord 1 t) [])
def execDevResetCluster (v : Via) (t : Nat) (s : State) : Out := .next (s.viaWrite v 0x8000 (resetWord 2 t) [])
def execDevResetColumn (v : Via) (t : Nat) (s : State) : Out := .next (s.viaWrite v 0x8000 (resetWord 3 t) [])
def execDevResetPort (v : Via) (t : Nat) (s : State) : Out := .next (s.viaWrite v 0x8000 (resetWord 4 t) [])
def execDevResetModuleWarm (v : Via) (s : State) : Out := .next (s.viaWrite v 0x8000 (resetWord 6 0) [])
def execDevResetModuleCold (v : Via) (s : State) : Out := .next (s.viaWrite v 0x8000 (resetWord 7 0) [])
def execXsiStageClaim (v : Via) (s : State) : Out := .next (s.viaWrite v 0x6000 1 [])
def execXsiStageRelease (v : Via) (s : State) : Out := .next (s.viaWrite v 0x6000 2 [])
def execXsiLoadStart (v : Via) (s : State) : Out := .next (s.viaWrite v 0x6010 1 [])
def execFwStageClaim (v : Via) (s : State) : Out := .next (s.viaWrite v 0x7020 1 [])
def execFwStageRelease (v : Via) (s : State) : Out := .next (s.viaWrite v 0x7020 2 [])
def execFwActivateStart (v : Via) (s : State) : Out := .next (s.viaWrite v 0x7030 1 [])
def execFwAttestStart (v : Via) (s : State) : Out := .next (s.viaWrite v 0x7058 1 [])
def execSchLoad (v : Via) (p addr : Nat) (errs : List MemErr) (s : State) : Out :=
  .next (s.within p 16 fun s => s.viaWrite v (0x2000 + 0x100 * p) (at_ 39 0 addr) errs)
def execMemWipe (v : Via) (p r : Nat) (s : State) : Out :=
  .next (s.within p 16 fun s => s.viaWrite v (0x3000 + 0x40 * p) (at_ 11 0 r) [])
def execMemDmaResume (v : Via) (p channel : Nat) (s : State) : Out := .next (s.dmaCtrl v p channel 8)
def execMemDmaAbort (v : Via) (p channel : Nat) (s : State) : Out := .next (s.dmaCtrl v p channel 9)
def execCadSlotCfgWrite (v : Via) (n : Nat) (w : W64) (s : State) : Out :=
  .next (s.within n 65536 fun s => s.viaWrite v (0x10000000 + 0x100 * n) w [])
def execCadSlotStateWrite (v : Via) (n : Nat) (w : W64) (s : State) : Out :=
  .next (s.within n 65536 fun s => s.viaWrite v (0x10000008 + 0x100 * n) w [])
def execNetConnOpen (v : Via) (n : Nat) (s : State) : Out := .next (s.connCmd v n 1)
def execNetConnClose (v : Via) (n : Nat) (s : State) : Out := .next (s.connCmd v n 2)
def execDevPartPark (v : Via) (p : Nat) (s : State) : Out := .next (s.partCmd v p 1)
def execDevPartResume (v : Via) (p : Nat) (s : State) : Out := .next (s.partCmd v p 2)
def execDevPartEnd (v : Via) (p : Nat) (s : State) : Out := .next (s.partCmd v p 3)
def execDevPartAbort (v : Via) (p : Nat) (s : State) : Out := .next (s.partCmd v p 4)
def execDevPartVacate (v : Via) (p : Nat) (s : State) : Out := .next (s.partCmd v p 5)

end Sys2Proof.Machine
end

