-- ==== Sys2Proof/Machine/Receive.lean ====
section
/-! DEFINITION. Frames received (R292 to R299, R313, R316, R326, R501), and the meanings of the rows that a received packet stands
for. -/
namespace Sys2Proof.Machine

/-- A frame reaches the transport: its sub-port or MGMT is up, or it comes over the package network (log 133). -/
def State.arrives (s : State) (rx : Rx) : Bool := s.listens && s.lineUp rx.port rx.sub && decide (rx.port ≤ 18)

/-- A frame received, with the codewords of its FEC (R339). -/
def State.countRx (s : State) (rx : Rx) : State :=
  s.countPort rx.port fun q =>
    { q with rx := inc q.rx, fecCorr := incBy q.fecCorr rx.fecCorr, fecUncorr := incBy q.fecUncorr rx.fecUncorr }

/-- A CE mark on a packet that is no host packet (R299). -/
def State.countCe (s : State) (n : Nat) (ce : Bool) : State :=
  if ce then s.countPort n fun q => { q with ceSched := inc q.ceSched } else s
def State.hdrDrop (s : State) (n : Nat) : State := s.countPort n fun p => { p with hdrDrop := inc p.hdrDrop }

/-- The VLAN tag of a frame is what port n takes (R295); MGMT carries untagged frames (R292). -/
def State.tagOk (s : State) (n : Nat) (vid : Option Nat) (stacked : Bool) : Bool :=
  if n < 16 ∧ portTagged (s.port n) then !stacked && vid == some (portVid (s.port n)) else vid.isNone && !stacked
def State.vlanOk (s : State) (rx : Rx) : Bool := s.tagOk rx.port rx.vid rx.stacked

/-- The UDP port of ELT where a frame arrived. -/
def State.eltPort (s : State) (n : Nat) : Nat := if n < 16 then fld (s.plane (planeOfPort n)).cfg 15 0 else 47320

/-- The opcodes that MGMT carries (R292). -/
def mgmtOp (op : Nat) : Bool := [opCtl, opCtlResp, opSend, opAck].contains op

/-- The pool in which a packet arrived (R232, R235). -/
def State.poolIn (s : State) (n : Nat) : Nat := if portRole (s.port n) = 2 then n else 16 + planeOfPort n

/-- A packet of the host class (egress class table). -/
def hostPkt (k : Conn) (p : Pkt) : Bool := connHost k && !opControl p.op

/-- What the arrival of an accepted packet leaves behind (R319, R503, R235): the lease renewed, the acknowledgement owed, the charge of
scheduled traffic. -/
def State.noteArrival (s : State) (c : Nat) (rx : Rx) (p : Pkt) : State :=
  let k := s.conn c
  let s := s.updConn c fun k =>
    { k with leaseAt := s.tm.clk, rxDebt := k.rxDebt + 1, rxDebtAt := if k.rxDebt = 0 then s.tm.clk else k.rxDebtAt,
             ackNow := k.ackNow || p.areq || p.last || decide (16 ≤ k.rxDebt + 1) }
  if connKind k = 1 ∧ placedNow p then
    let pool := s.poolIn rx.port
    s.updPart (connPart k) fun q =>
      { q with roundIn := Table.set 0 q.roundIn pool (Table.get 0 q.roundIn pool + chargeOf p.grans.length) }
  else s

/-- The content of an accepted packet: delivered at once, or held for its turn or until its region is open (R257, R317). -/
def State.takeContent (s : State) (c : Nat) (p : Pkt) (errs : List MemErr) : State :=
  let held := s.updConn c fun k => { k with rxHeld := k.rxHeld ++ [p] }
  if placedNow p then
    let r := s.deliverPkt c p errs
    if r.1 then r.2 else held
  else if p.op = opCtlResp then s
  else held

/-- A packet whose PSN is in the window and has not arrived (R317, R326): its tags are verified, its PSN taken, its content placed or
held for delivery in order. -/
def State.acceptPkt (s : State) (c : Nat) (rx : Rx) (p : Pkt) : State :=
  if rxTagBad rx then
    let s := (s.noteOp c { p with last := false }).updRxOp c (pktOp p) fun o =>
      { o with bad := (p.psn, (if p.op = opWrite then pktAddr p else 0), (if p.op = opWrite then p.grans.map (·.data) else []))
                      :: o.bad.filter fun e => e.1 ≠ p.psn }
    let s := s.countPort rx.port fun q => { q with tagFail := inc q.tagFail }
    s.logP (rx.port % 16) 0x42 rx.port (if connKind (s.conn c) = 4 then 0xFF else connPart (s.conn c)) [(s.col (rx.port % 16)).lastErr]
  else
    let s := (s.noteArrival c rx p).noteOp c p
    let a := advPsn 4097 (s.conn c).rxNext (p.psn :: (s.conn c).rxGot)
    ((s.updConn c fun k => { k with rxNext := a.1, rxGot := a.2 }).takeContent c p rx.errs).settleRx c rx.errs

/-- A packet of an open connection by where its PSN falls (R316, R235). A CE mark on a host packet is echoed by the next ACK (R299, R319). -/
def State.windowIn (s : State) (c : Nat) (rx : Rx) (p : Pkt) : State :=
  let s := if rx.ce ∧ hostPkt (s.conn c) p then s.updConn c fun k => { k with rxCe := true } else s
  let k := s.conn c
  let d := (p.psn + 2 ^ 32 - k.rxNext) % 2 ^ 32
  let s :=
    if d < 4096 ∧ !k.rxGot.contains p.psn then
      if rx.roomFull then s.countPort rx.port fun q => { q with robDrop := inc q.robDrop } else s.acceptPkt c rx p
    else if d < 4096 ∨ 2 ^ 31 ≤ d then
      (s.countPort rx.port fun q => { q with dup := inc q.dup }).updConn c fun k => { k with ackNow := true }
    else s.hdrDrop rx.port
  if (s.conn c).ackNow ∧ s.serves c then s.sendAck c none else s

/-- The connections that the engine of connection c serves try again what waits (R322). -/
def State.flushServed (s : State) (c : Nat) : State :=
  (s.net.conns.filter fun e => !e.2.txWait.isEmpty && decide (s.serving e.1 = s.serving c)).foldl (fun s e => s.flush e.1) s

/-- An ACK (R319, R322, R323, R325, R331): covered copies freed, a hole shown, the operation of DONE ended, the host rate cut; the room goes
to every connection that the engine serves. -/
def State.ackIn (s : State) (c : Nat) (p : Pkt) : State :=
  let k := s.conn c
  let bits := leNat p.ctl
  let at' := fun (psn : Nat) => (psn + 2 ^ 32 - (p.ackpsn + 1)) % 2 ^ 32
  let covered := fun (psn : Nat) => psnLt psn p.ackpsn || (decide (at' psn < 512) && testBit bits (at' psn))
  let advanced := k.copies.any fun y => psnLt y.pkt.psn p.ackpsn
  let left := k.copies.filter fun y => !covered y.pkt.psn
  let seen := (List.range 512).filter fun i => testBit bits i
  let holes := (left.filter fun y => seen.any fun i => psnLt y.pkt.psn ((p.ackpsn + 1 + i) % 2 ^ 32)).map fun y => y.pkt.psn
  let cut := p.cee && connHost k && decide (8000 ≤ s.since k.cutAt)
  let s := s.updConn c fun k =>
    { k with copies := left, holes := holes, ackAt := if advanced then s.tm.clk else k.ackAt,
             ops := if p.done then k.ops.filter fun o => o.opid ≠ pktOp p else k.ops,
             rate := if cut then max (k.rate - k.rate / 4) 1000000000 else k.rate, cutAt := if cut then s.tm.clk else k.cutAt }
  s.flushServed c

/-- A packet for a connection entry (R292, R312, R313, R435, R501): the generation of a partition's entry is checked first (R338). A CLOSE that
meets the module's own is answered at once. -/
def State.entryIn (s : State) (rx : Rx) (p : Pkt) : State :=
  let c := p.dconn
  let k := s.conn c
  let ctl := decide (p.op = opCtl) || decide (p.op = opCtlResp)
  let lives := s.serves c || (decide (k.st = 1) && ((ctl && decide (ctlOp p = 0x11)) || decide (p.op = opAck)))
    || (decide (k.st = 4) && ((ctl && decide (ctlOp p = 0x13)) || (decide (p.op = opCtl) && decide (ctlOp p = 0x12)) || decide (p.op = opAck)))
  if connKind k = 0 ∨ (rx.port = 16 ∧ connKind k ≠ 4) then s.hdrDrop rx.port
  else if connKind k ≠ 4 ∧ p.tgen ≠ (s.part (connPart k)).tgen then s.countPort rx.port fun q => { q with staleGen := inc q.staleGen }
  else if !lives then s.hdrDrop rx.port
  else if p.op = opAck then s.ackIn c p
  else if k.st = 1 then s.openAck c p
  else if k.st = 4 ∧ ctl ∧ ctlOp p = 0x13 then s.closeAck c
  else if s.serves c then s.windowIn c rx p
  else s.closeIn c p

/-- A frame for the module itself (R293, R294, R300, R302, R307, R313). -/
def State.ownIn (s : State) (rx : Rx) : State :=
  if rx.fragment ∨ rx.sumBad then s.hdrDrop rx.port
  else if rx.dport ≠ s.eltPort rx.port then s
  else if !rxHdrOk rx then s.hdrDrop rx.port
  else
    let p := (rxPkt rx)
    let s := s.countCe rx.port (rx.ce && !(decide (p.dconn ≠ 0x3FFF) && hostPkt (s.conn p.dconn) p))
    if rx.port = 16 ∧ !mgmtOp p.op then s.hdrDrop rx.port
    else
      let open_ := decide (p.op = opCtl) && decide (ctlOp p = 0x10)
      let s := if open_ then s.traceOpen 0 p.dconn p 0 else s
      if p.dconn = 0x3FFF then (if open_ then s.endpointOpen rx p else s.hdrDrop rx.port)
      else if open_ then (if s.fw.service = .recovery then s.refuseOpen rx p 0xD else s.memberOpen rx p)
      else s.entryIn rx p

/-- A frame received on a sub-port or MGMT and addressed to the module: counted, dropped on a failed frame check or a wrong tag, and
otherwise taken in. A frame that is not what its row names changes nothing (log 4). -/
def State.receive (s : State) (rx : Rx) (row : Nat → Pkt → Bool) : State :=
  if !s.arrives rx ∨ !row (nfld rx.w0 59 56) (rxPkt rx) then s
  else if !s.isOwn (planeOfPort rx.port) rx.v4 rx.dst then s
  else
    let s := s.countRx rx
    if rx.fcsBad ∨ !s.vlanOk rx then s else s.ownIn rx

/-- A row that stands for one opcode. -/
def isOp (op : Nat) : Nat → Pkt → Bool := fun o _ => decide (o = op)

/-- Rows of CTL packets by their CTLOP, as CTL or CTL_RESP. -/
def isCtl (f : Nat → Bool) : Nat → Pkt → Bool := fun o p => decide (o = opCtl) && f (ctlOp p)
def isResp (f : Nat → Bool) : Nat → Pkt → Bool := fun o p => (decide (o = opCtl) || decide (o = opCtlResp)) && f (ctlOp p)

/-- CTLOP codes of the CTL operation table that are reserved. -/
def ctlReserved (x : Nat) : Bool := !([1, 2, 0x10, 0x11, 0x12, 0x13].contains x)

/-- Rows of VERDICT packets by KIND. -/
def isVerdict (f : Nat → Bool) : Nat → Pkt → Bool := fun o p => decide (o = Sys2Proof.Machine.opVerdict) && f (leAt p.ctl 8 1)

/-- WRITE_RECEIVE; a packet with a reserved opcode is dropped by the same path (R300). -/
def execWriteReceive (rx : Rx) (s : State) : Out :=
  .next (s.receive rx fun o _ => decide (o = opWrite) || decide (o = 0) || decide (12 < o))
def execReadReceive (rx : Rx) (s : State) : Out := .next (s.receive rx (isOp opRead))
def execReadRespReceive (rx : Rx) (s : State) : Out := .next (s.receive rx (isOp opReadResp))
def execSendReceive (rx : Rx) (s : State) : Out := .next (s.receive rx (isOp opSend))
def execReduceReceive (rx : Rx) (s : State) : Out := .next (s.receive rx (isOp opReduce))
def execTokenReceive (rx : Rx) (s : State) : Out := .next (s.receive rx (isOp opToken))
/-- REG_READ; a reserved CTLOP is answered with 0x0E by the same path (R303). -/
def execRegRead (rx : Rx) (s : State) : Out := .next (s.receive rx (isCtl fun x => decide (x = 1) || ctlReserved x))
def execRegWrite (rx : Rx) (s : State) : Out := .next (s.receive rx (isCtl fun x => decide (x = 2)))
def execMemberOpenReceive (rx : Rx) (s : State) : Out :=
  .next (s.receive rx fun o p => isCtl (fun x => decide (x = 0x10)) o p && decide (p.dconn ≠ 0x3FFF))
def execSessionOpen (rx : Rx) (s : State) : Out :=
  .next (s.receive rx fun o p => isCtl (fun x => decide (x = 0x10)) o p && decide (p.dconn = 0x3FFF))
/-- OPEN_ACK_RECEIVE; the other responses, which nothing waits for, take the same path. -/
def execOpenAckReceive (rx : Rx) (s : State) : Out :=
  .next (s.receive rx fun o p => isResp (fun x => decide (x = 0x11)) o p || (decide (o = opCtlResp) && decide (ctlOp p ≠ 0x13)))
def execCloseReceive (rx : Rx) (s : State) : Out := .next (s.receive rx (isCtl fun x => decide (x = 0x12)))
def execCloseAckReceive (rx : Rx) (s : State) : Out := .next (s.receive rx (isResp fun x => decide (x = 0x13)))
def execAckReceive (rx : Rx) (s : State) : Out := .next (s.receive rx (isOp opAck))
def execSlipReceive (rx : Rx) (s : State) : Out := .next (s.receive rx (isOp opSlip))
/-- VERDICT_VOTE_RECEIVE; a reserved KIND is dropped and counted by the same path (R398). -/
def execVerdictVoteReceive (rx : Rx) (s : State) : Out :=
  .next (s.receive rx (isVerdict fun k => decide (k = 1) || decide (k = 0) || decide (8 < k)))
def execVerdictTreeVoteReceive (rx : Rx) (s : State) : Out := .next (s.receive rx (isVerdict (· = 2)))
def execVerdictDecideReceive (rx : Rx) (s : State) : Out := .next (s.receive rx (isVerdict (· = 3)))
def execVerdictRequestReceive (rx : Rx) (s : State) : Out := .next (s.receive rx (isVerdict (· = 4)))
def execVerdictRetractReceive (rx : Rx) (s : State) : Out := .next (s.receive rx (isVerdict (· = 5)))
def execVerdictQuiescedReceive (rx : Rx) (s : State) : Out := .next (s.receive rx (isVerdict (· = 6)))
def execVerdictResumeReceive (rx : Rx) (s : State) : Out := .next (s.receive rx (isVerdict (· = 7)))
def execVerdictHandoverReceive (rx : Rx) (s : State) : Out := .next (s.receive rx (isVerdict (· = 8)))
def execAbortReceive (rx : Rx) (s : State) : Out := .next (s.receive rx (isOp opAbort))

/-- A region opens, and the packets and the collectives that waited for it are served (R257). -/
def State.regionOpens (s : State) (r : Nat) : State :=
  s.whenUp fun s =>
    let s := s.opInitDone r
    let s := (s.net.conns.filter fun e => !e.2.rxHeld.isEmpty).foldl (fun s e => s.settleRx e.1 []) s
    s.collResume (rgnPart (s.region r)) []
def execRegionInitDone (r : Nat) (s : State) : Out := .next (s.regionOpens r)

end Sys2Proof.Machine
end

