-- ==== Sys2Proof/Machine/Ptp.lean ====
section
/-! DEFINITION. Time from PTP (R197 to R200): the module as an ordinary clock with the delay request-response mechanism on each plane, the
source in force and its frequency, the time states, and PTP messages forwarded for peers (R337). The layout of a PTP message is IEEE 1588's
(PRESUMED, log 138). -/
namespace Sys2Proof.Machine

/-- Message types of IEEE 1588; 0 to 3 are the event messages. -/
def ptpSync : Nat := 0
def ptpDelayReq : Nat := 1
def ptpFollowUp : Nat := 8
def ptpDelayResp : Nat := 9

/-- What is known of a plane's source, and an update of it. -/
def State.side (s : State) (plane : Nat) : PtpSide := Table.get .reset s.tm.sides plane
def State.updSide (s : State) (plane : Nat) (f : PtpSide → PtpSide) : State :=
  { s with tm := { s.tm with sides := Table.set .reset s.tm.sides plane (f (s.side plane)) } }

/-- The usable plane that ranks highest (R198); plane A first among equals. -/
def State.timePlane (s : State) : Option Nat :=
  let use := (bitsOf 2 s.tm.usable)
  match use.find? fun i => !bit (s.plane i).cfg 24 with
  | some i => some i
  | none => use.head?

/-- TIME_UNLOCK (R200). No source is PPS_IN outside HOLDOVER (R237). -/
def State.timeUnlock (s : State) : State :=
  let s := { s with tm := { s.tm with st := .unlocked, good := 0, unlocks := inc s.tm.unlocks,
                                      source := if s.tm.source = 3 then 0 else s.tm.source } }
  s.logLead 0x30 s.timeStatus

/-- Whether any schedule runs on the module (R199). -/
def State.anySchedule (s : State) : Bool := s.parts.any fun e => decide (e.2.schSt = 3)

/-- Time taken from a plane (R198): its frequency, where its clock is recovered, and the errors counted anew after a change of source. -/
def State.timeFrom (s : State) (plane : Nat) : State :=
  let f := (s.side plane).freq
  { s with tm := { s.tm with source := plane + 1, synce := f.isSome, freq := f.getD s.tm.freq,
                             good := if s.tm.source = plane + 1 then s.tm.good else 0 } }

/-- A plane whose source is usable (R198, R200): time comes from the plane that ranks highest, and a module that had no source acquires. -/
def State.sourceUp (s : State) (plane : Nat) : State :=
  let s := { s with tm := { s.tm with usable := setBit s.tm.usable plane } }
  match s.timePlane with
  | some i =>
    let s := s.timeFrom i
    if s.tm.st = .neverLocked ∨ s.tm.st = .holdover then { s with tm := { s.tm with st := .acquiring, good := 0 } } else s
  | none => s

/-- What a plane remembers in module time, after module time has stepped. -/
def PtpSide.step (d : PtpSide) (by_ : Int) : PtpSide :=
  { d with wait := d.wait.map fun w => (w.1, w.2.1, ((w.2.2.1 : Int) + by_).toNat, w.2.2.2), sync := d.sync.map fun y => (y.1, y.2 + by_),
           req := d.req.map fun q => (q.1, ((q.2 : Int) + by_).toNat) }

/-- The offset that a Sync message of the plane in force shows (R199, R200): `offset` is the source's time less module time in ns, `rate` the
correction that the servo asks for in parts per million. Without a running schedule the module steps its time. -/
def State.ptpOffset (s : State) (offset rate : Int) : State :=
  let err := offset.natAbs
  let good := if err ≤ 100 then s.tm.good + 1 else 0
  let locks := (decide (s.tm.st = .acquiring) || decide (s.tm.st = .unlocked)) && decide (16 ≤ good)
  let step := !s.anySchedule && decide (1000 < err)
  let s := { s with tm := { s.tm with
    errNs := err, good := good, everLocked := s.tm.everLocked || locks, st := if locks then .locked else s.tm.st,
    drift := if step then 0 else max (-100) (min 100 rate),
    now := if step then s.tm.now + BitVec.ofInt 64 offset else s.tm.now,
    sides := if step then s.tm.sides.map fun e => (e.1, e.2.step offset) else s.tm.sides } }
  if s.tm.st = .locked ∧ 1000 < err then s.timeUnlock else s

/-- A correctionField in whole nanoseconds. -/
def corrNs (c : Int) : Int := c / 65536

/-- The clockIdentity of a port's MAC address with port number 1: the identity of the module's clock on a plane. -/
def State.clockId (s : State) (n : Nat) : Nat :=
  let mac := fld (s.port n).mac 47 0
  (mac / 2 ^ 24 * 2 ^ 40 + 0xFFFE * 2 ^ 24 + mac % 2 ^ 24) * 2 ^ 16 + 1

/-- The bytes of a message of the clock: the header, and a timestamp of zero. -/
def ptpBytes (m : PtpMsg) : Bytes :=
  natBE 1 m.kind ++ natBE 1 0x12 ++ natBE 2 44 ++ natBE 1 m.domain ++ zeros 3 ++ natBE 8 (m.corr % 2 ^ 64).toNat ++ zeros 4
    ++ natBE 10 m.source ++ natBE 2 m.seq ++ zeros 1 ++ natBE 1 (m.interval % 256).toNat ++ zeros 10

/-- The one's-complement sum of 16-bit words. -/
def onesAdd (a b : Nat) : Nat := let x := a + b; if x < 65536 then x else x - 65535
def onesSum (bs : Bytes) : Nat := (List.range ((bs.length + 1) / 2)).foldl (fun a i =>
  onesAdd a ((slice bs (2 * i) 2 ++ zeros 1).take 2 |>.foldl (fun n b => 256 * n + b.toNat) 0)) 0

/-- A UDP checksum as it travels: zero is sent as all ones. -/
def udpSum (a : Nat) : Nat := if a = 65535 then 65535 else 65535 - a

/-- The UDP checksum of a message of the clock to port 319: the pseudo-header, the UDP header, the message. -/
def ptpSum (v4 : Bool) (src dst : Nat) (m : PtpMsg) : Nat :=
  let n := if v4 then 4 else 16
  udpSum (onesSum (natBE n src ++ natBE n dst ++ natBE 2 17 ++ natBE 2 52 ++ natBE 2 319 ++ natBE 2 319 ++ natBE 2 52 ++ ptpBytes m))

/-- A UDP checksum that stays valid as the correctionField goes from `a` to `b` (R337); none stays none. -/
def moveSum (sum : Nat) (a b : Int) : Nat :=
  if sum = 0 then 0
  else
    let w := fun (c : Int) => onesSum (natBE 8 (c % 2 ^ 64).toNat)
    udpSum (onesAdd (onesAdd (65535 - sum) (65535 - w a)) (w b))

/-- A Delay_Req in answer to a Sync, on the sub-port where it came and by its mapping (R197): its sequence number and when it left. -/
def State.delayReq (s : State) (plane : Nat) (x : PtpRx) : State :=
  let f := x.frame
  let v4 := decide (f.map = .udp4)
  let m : PtpMsg := ⟨ptpDelayReq, x.frame.msg.domain, false, 0, s.clockId x.port, (s.side plane).seq, 0x7F, 0, 0⟩
  let src := if f.map = .ethernet then 0 else s.ownAddr plane v4
  let sum := if f.map = .ethernet then 0 else ptpSum v4 src f.dst m
  let l := s.linkOf (x.port, x.sub) (if f.map = .ethernet then 0x011B19000000 else s.nextHop x.port v4 f.dst) (portPcp (s.port x.port) clsControl)
  let s := s.enqueue ⟨.ptp l ⟨f.map, src, f.dst, f.ttl, sum, m⟩, clsControl, 0, 0, none⟩
  s.updSide plane fun d => { d with req := some (d.seq, s.tm.now.toNat), seq := (d.seq + 1) % 65536 }

/-- A Sync whose time at the source is known (R197): a Delay_Req answers it, and once the path delay is known the plane in force gives its
offset. -/
def State.syncDone (s : State) (plane : Nat) (x : PtpRx) (sent arrived : Int) : State :=
  let s := (s.updSide plane fun d => { d with sync := some (sent, arrived), wait := none }).delayReq plane x
  match (s.side plane).path with
  | some path => if s.timePlane = some plane then s.ptpOffset (sent + path - arrived) x.rate else s
  | none => s

/-- The clock of a plane takes a message in (R197, R198): Sync and its Follow_Up, and the Delay_Resp that answers its own Delay_Req. A message
of another domain, and a Sync interval outside 2^-7 s to 1 s, is not accepted. -/
def State.ptpTake (s : State) (plane : Nat) (x : PtpRx) : State :=
  let m := x.frame.msg
  let now : Int := s.tm.now.toNat
  if m.domain ≠ fld (s.plane plane).cfg 23 16 then s
  else if m.kind = ptpSync then
    if m.interval < -7 ∨ 0 < m.interval then s
    else
      let s := (s.updSide plane fun d => { d with freq := x.synce.map fun f => max (-4) (min 4 f) }).sourceUp plane
      if m.twoStep then s.updSide plane fun d => { d with wait := some (m.source, m.seq, s.tm.now.toNat, m.corr) }
      else s.syncDone plane x (m.stamp + corrNs m.corr) now
  else if m.kind = ptpFollowUp then
    match (s.side plane).wait with
    | some (src, seq, at', corr) =>
      if m.source = src ∧ m.seq = seq then s.syncDone plane x (m.stamp + corrNs (corr + m.corr)) at' else s
    | none => s
  else if m.kind = ptpDelayResp then
    match (s.side plane).req, (s.side plane).sync with
    | some (seq, left), some (sent, arrived) =>
      if m.seq = seq ∧ m.target = s.clockId x.port then
        s.updSide plane fun d => { d with req := none, path := some (((arrived - sent) + (m.stamp - corrNs m.corr - left)) / 2) }
      else s
    | _, _ => s
  else s

/-- Whether a message is for the module's own clock: not over UDP, to an address of its own, or to a group. -/
def State.ptpMine (s : State) (plane : Nat) (f : PtpFrame) : Bool :=
  match f.map with
  | .ethernet => true
  | .udp4 => s.isOwn plane true f.dst || decide (f.dst / 2 ^ 28 = 14)
  | .udp6 => s.isOwn plane false f.dst || decide (f.dst / 2 ^ 120 = 255)

/-- A message as it goes on (R337): an event message with its residence time added to the correctionField, and its checks valid. -/
def ptpOn (x : PtpRx) (ttl : Nat) : PtpFrame :=
  let f := x.frame
  let m := f.msg
  let corr := if m.kind < 4 then m.corr + 65536 * x.residence else m.corr
  { f with ttl := ttl, sum := moveSum f.sum m.corr corr, msg := { m with corr := corr } }

/-- A message put in the queue of a sub-port. -/
def State.ptpSend (s : State) (x : PtpRx) (hop ttl : Nat) (at' : Nat × Nat) : State :=
  s.enqueue ⟨.ptp (s.linkOf at' hop (portPcp (s.port at'.1) clsControl)) (ptpOn x ttl), clsControl, 0, 0, none⟩

/-- A message that a direct port received forwarded (R333, R337; log 138): over UDP by the route table, otherwise on every other sub-port of
the plane's direct ports. -/
def State.ptpForward (s : State) (plane : Nat) (x : PtpRx) : State :=
  let f := x.frame
  let n := x.port
  let others := fun (l : List (Nat × Nat)) => l.filter fun e => e ≠ (x.port, x.sub) ∧ s.roleNow e.1 = 2
  let fwd := fun (s : State) => s.countPort n fun q => { q with fwd := inc q.fwd }
  if f.map = .ethernet then
    let set := others ((List.range 8).flatMap fun i => (List.range 8).filterMap fun b =>
      if s.lineUp (8 * plane + i) b then some (8 * plane + i, b) else none)
    if set.isEmpty then s.fwdDrop n else fwd (set.foldl (fun s e => s.ptpSend x 0x011B19000000 f.ttl e) s)
  else
    let v4 := decide (f.map = .udp4)
    if s.isMine v4 f.dst then s
    else if f.ttl ≤ 1 then s.fwdDrop n
    else match s.lookup plane v4 f.dst with
    | none => s.fwdDrop n
    | some (_, r) =>
      let set := others (s.sprayOf plane r)
      if set.isEmpty then s.fwdDrop n
      else
        let (v, s) := s.fresh
        let at' := set.getD (v.toNat % set.length) (0, 0)
        fwd (s.ptpSend x (s.nextHop at'.1 v4 f.dst) (f.ttl - 1) at')

/-- A PTP frame received (R197, R295, R337): counted, forwarded when it came on a direct port, and taken in by the module's own clock. -/
def State.opPtp (s : State) (x : PtpRx) : State :=
  s.whenBased fun s =>
    if 16 ≤ x.port ∨ !s.subUp x.port x.sub then s
    else
      let s := s.countPort x.port fun q => { q with rx := inc q.rx }
      if x.fcsBad ∨ x.sumBad ∨ !s.tagOk x.port x.vid x.stacked then s
      else
        let plane := x.port / 8
        let s := if s.roleNow x.port = 2 then s.ptpForward plane x else s
        if s.ptpMine plane x.frame then s.ptpTake plane x else s

/-- A PTP message on a direct port, forwarded for peers (R337). -/
def State.opPtpTransit (s : State) (x : PtpRx) : State := if s.roleNow x.port = 2 then s.opPtp x else s

/-- A source lost (R198, R200): the next usable one, or HOLDOVER, or never locked. -/
def State.opPtpLost (s : State) (plane : Nat) : State :=
  s.whenBased fun s =>
    if 2 ≤ plane ∨ !testBit s.tm.usable plane then s
    else
      let s := { s with tm := { s.tm with usable := clearBit s.tm.usable plane } }
      let s := s.updSide plane fun _ => .reset
      match s.timePlane with
      | some i => s.timeFrom i
      | none =>
        let s := { s with tm := { s.tm with source := 0, synce := false, good := 0 } }
        match s.tm.st with
        | .acquiring => { s with tm := { s.tm with st := if s.tm.everLocked then .holdover else .neverLocked, holdAt := s.tm.clk } }
        | .locked => { s with tm := { s.tm with st := .holdover, holdAt := s.tm.clk } }
        | _ => s

/-- The estimated drift in HOLDOVER (R200): above 1,000 ns the module is UNLOCKED. -/
def State.opHoldover (s : State) (err : Nat) : State :=
  s.whenBased fun s =>
    if s.tm.st ≠ .holdover then s
    else
      let s := { s with tm := { s.tm with errNs := err } }
      if 1000 < err then s.timeUnlock else s

def execPtpSyncReceive (link : PtpLink) (frame : PtpFrame) (rate : Int) (synce : Option Int) (s : State) : Out :=
  .next (s.opPtp ⟨link, frame, rate, synce⟩)
def execPtpSourceLost (plane : Nat) (s : State) : Out := .next (s.opPtpLost plane)
def execHoldoverErrorLimit (err : Nat) (s : State) : Out := .next (s.opHoldover err)

end Sys2Proof.Machine
end

