-- ==== Sys2Proof/Machine/Link.lean ====
section
/-! DEFINITION. Links (R288 to R291), acknowledgement and retransmission timers (R319, R323 to R325, R330, R331), forwarding for peers
(R333 to R336), PFC (R298), and neighbour requests (R296). -/
namespace Sys2Proof.Machine

/-- The lanes of a sub-port in a PHY mode (R288), as a mask. -/
def subLanes (mode sub : Nat) : Nat :=
  if mode < 2 then 0xFF else if mode < 4 then 0x0F else if mode < 6 then 0x0F * 2 ^ (4 * sub) else if mode < 8 then 0x03 * 2 ^ (2 * sub)
  else 2 ^ sub

/-- LINK_DOWN of a sub-port (R291, R330): it leaves every spray set, connections that have no other move, and queued packets are sprayed
again. -/
def State.opLinkDown (s : State) (n sub : Nat) : State :=
  s.whenUp fun s =>
    if 16 ≤ n ∨ !s.subUp n sub then s
    else
      let s := s.updPort n fun p => { p with subs := clearBit p.subs sub, lanes := p.lanes - (p.lanes &&& subLanes (portMode p) sub) }
      s.moveAll.resprayAll.flushAll.logP n 0x50 n 0xFF [portStatus (s.port n)]

/-- LINK_UP of a sub-port of a port that is not disabled (R290, R291). -/
def State.opLinkUp (s : State) (n sub : Nat) : State :=
  s.whenBased fun s =>
    if 16 ≤ n ∨ s.roleNow n = 0 ∨ modeSubs (portMode (s.port n)) ≤ sub ∨ testBit (s.port n).subs sub then s
    else
      let s := s.updPort n fun p => { p with subs := setBit p.subs sub, lanes := p.lanes ||| subLanes (portMode p) sub }
      s.resprayAll.flushAll.logP n 0x51 n 0xFF [portStatus (s.port n)]

/-- ACK_SEND (R319): 2 µs after the oldest packet not yet acknowledged, or at once when one is owed. -/
def State.opAckSend (s : State) (c : Nat) : State :=
  let k := s.conn c
  if s.listens && s.serves c && (k.ackNow || (decide (0 < k.rxDebt) && decide (2000 ≤ s.since k.rxDebtAt))) then s.sendAck c none else s

/-- The next sub-port after the port last used (R323). -/
def nextSub (set : List (Nat × Nat)) (last : Nat) : Option (Nat × Nat) :=
  match set.find? fun e => last < e.1 with
  | some e => some e
  | none => set.head?

/-- One retransmission of a copy (R323): RETX, the next port, and NET_RETX of the serving column. A connection whose spray set is empty
moves if it can (R330). -/
def State.resend (s : State) (c : Nat) (y : Copy) : State :=
  let s := s.moveIfEmpty c
  match nextSub (s.sprayNow c) y.port with
  | none => s
  | some at' =>
    let s := (s.emit c { y.pkt with retx := true } at').countPort (s.serving c) fun q => { q with retx := inc q.retx }
    s.updConn c fun k => { k with copies := k.copies.map fun x =>
      if x.pkt.psn = y.pkt.psn then { x with sentAt := s.tm.clk, tries := x.tries + 1, port := at'.1 } else x }

/-- A retransmission that is due (R323, R324): past RETRY_MAX the connection moves to its other plane, where every unacknowledged packet
is sent again with its retry count reset, or fails. -/
def State.retry (s : State) (c : Nat) (y : Copy) : State :=
  let k := s.conn c
  if y.tries < connRetryMax k then s.resend c y
  else
    let s := s.traceConn c 7 1 [c, b2n k.planeNow, y.pkt.psn]
    if mayMove k then
      let s := (s.movePlane c).updConn c fun k => { k with copies := k.copies.map fun y => { y with tries := 0 } }
      (s.conn c).copies.foldl (fun s y => s.resend c y) s
    else s.connFail c

/-- HOLE_RETRANSMIT (R323): a packet that the latest ACK shows missing, last sent at least HOLE_US ago. -/
def State.opHole (s : State) (c psn : Nat) : State :=
  let k := s.conn c
  match k.copies.find? fun y => y.pkt.psn = psn with
  | some y => if s.listens && k.holes.contains psn && decide (connHoleUs k * 1000 ≤ s.since y.sentAt) then s.retry c y else s
  | none => s

/-- RTO_TIMEOUT (R323, R331): the oldest unacknowledged packet again, RTO_US after it was sent and after the last ACK that advanced. The
retransmission halves a host rate. -/
def State.opRto (s : State) (c : Nat) : State :=
  let k := s.conn c
  match k.copies.head? with
  | some y =>
    if s.listens && decide (connRtoUs k * 1000 ≤ s.since (max k.ackAt y.sentAt)) then
      let t := s.retry c y
      let sent := decide ((t.conn c).st ≠ 3) && !(t.sprayNow c).isEmpty
      if sent && connHost k then t.updConn c fun k => { k with rate := max (k.rate / 2) 1000000000 } else t
    else s
  | none => s

/-- OP_TIMEOUT (R325): logged, counted in the serving column, and the connection fails. An operation whose first packet has not left has
not begun. -/
def State.opTimeoutOf (s : State) (c id : Nat) : State :=
  let k := s.conn c
  let due := k.ops.any fun o => o.opid = id && o.startAt.any fun t => decide (connOptimeMs k * 1000000 ≤ s.since t)
  if !s.listens ∨ !due then s
  else
    let s := s.countPort (s.serving c) fun q => { q with opTimeout := inc q.opTimeout }
    (s.logP (s.serving c) 0x53 0xFFFF (if connKind k = 4 then 0xFF else connPart k) [connState k]).connFail c

/-- RATE_INCREASE (R331): 8 µs without a cut. -/
def State.opRate (s : State) (c : Nat) : State :=
  let k := s.conn c
  if s.listens && connHost k && decide (k.st = 2) && decide (8000 ≤ s.since (max k.cutAt k.raiseAt)) then
    s.updConn c fun k => { k with rate := min (k.rate + s.rateMax c / 64) (s.rateMax c), raiseAt := s.tm.clk }
  else s

/-- A transit packet as it goes on (R333, R336): HOPS one higher, the hop limit one lower, and after a reduction in path the new granules
with their tags. -/
def forwarded (rx : Rx) (gs : Option (List Gran)) : Rx :=
  let h := nfld rx.w0 11 8
  let rx := { rx with w0 := rx.w0 - h * 2 ^ 8 + min 15 (h + 1) * 2 ^ 8, ttl := rx.ttl - 1 }
  match gs with
  | none => rx
  | some l =>
    { rx with grans := l.map (·.data), tags := l.map fun g => crc32c g.data,
              mask := (List.range l.length).foldl (fun m i => if (l.getD i default).poison then m + 2 ^ i else m) 0 }

/-- The COLL section enlists this module for a collective (R336). -/
def State.enlists (s : State) (cid : Nat) : Bool := s.parts.any fun e => (instOf e.2 cid).isSome

/-- The frame of a transit packet put in the queue of its port: it keeps its PCP (egress class table). -/
def State.sendTransit (s : State) (rx : Rx) (gs : Option (List Gran)) (bad : Bool) (at' : Nat × Nat) : State :=
  s.enqueue ⟨.forward (s.linkOf at' (s.nextHop at'.1 rx.v4 rx.dst) rx.pcp) (forwarded rx gs) bad, clsTransit, 0, 0, none⟩

/-- One sub-port of those that a route leaves to a transit packet: a free value (log 44). -/
def State.pickFree (s : State) (set : List (Nat × Nat)) : (Nat × Nat) × State :=
  let (v, s) := s.fresh
  (set.getD (v.toNat % set.length) (0, 0), s)

/-- A mismatch of the incoming tags in the collective engine (R269, R272, R336): TAG_FAIL, and the granules that fail are poisoned. -/
def State.engineTags (s : State) (rx : Rx) : Pkt × State :=
  let p := rxPkt rx
  if !rxTagBad rx then (p, s)
  else
    let bad := fun (i : Nat) => decide (crc32c (slice (rx.grans.getD i []) 0 256) ≠ rx.tags.getD i 0)
    let s := s.countPort rx.port fun q => { q with tagFail := inc q.tagFail }
    let s := s.logP (rx.port % 16) 0x42 rx.port 0xFF [(s.col (rx.port % 16)).lastErr]
    ({ p with grans := (List.range p.grans.length).map fun i =>
        let g := p.grans.getD i default
        { g with poison := g.poison || bad i } }, s)

/-- A packet forwarded for a peer (R332 to R336): cut-through, but for a REDUCE of an in-path route that the COLL section enlists this module
for, which passes the collective engine whole. -/
def State.opForward (s : State) (rx : Rx) : State :=
  let plane := planeOfPort rx.port
  if 16 ≤ rx.port ∨ !s.arrives rx ∨ s.isMine rx.v4 rx.dst then s
  else
    let s := s.countRx rx
    if !s.vlanOk rx then s
    else if rx.fragment then s.hdrDrop rx.port
    else if portRole (s.port rx.port) ≠ 2 ∨ !hchkOk rx ∨ rx.ttl ≤ 1 then s.fwdDrop rx.port
    else match s.lookup plane rx.v4 rx.dst with
    | none => s.fwdDrop rx.port
    | some (_, r) =>
      let s := s.countCe rx.port rx.ce
      let set := (s.sprayOf plane r).filter fun e => e ≠ (rx.port, rx.sub)
      if set.isEmpty then s.fwdDrop rx.port
      else
        let (at', s) := s.pickFree set
        let inpath := rtInpath r && decide (nfld rx.w0 59 56 = opReduce) && s.enlists (nfld rx.w2 63 48)
        if inpath then
          if rx.fcsBad then s.fwdDrop rx.port
          else
            let (p, s) := s.engineTags rx
            let (l, s) := s.collPass plane rx.v4 rx.src rx.dst p rx.errs
            (s.sendTransit rx (some l) false at').countPort rx.port fun q => { q with fwd := inc q.fwd }
        else
          let s := s.sendTransit rx none rx.fcsBad at'
          if rx.fcsBad then s.fwdDrop rx.port else s.countPort rx.port fun q => { q with fwd := inc q.fwd }

/-- A PFC frame (R298): the priorities that it pauses, of those enabled; any other priority is ignored and counted. A pause holds until
a later PFC frame lifts it (log 142). -/
def State.opPfcIn (s : State) (n mask : Nat) : State :=
  s.whenBased fun s =>
    if 16 ≤ n ∨ s.roleNow n = 0 then s
    else s.updPort n fun p =>
      let on := mask % 256 &&& portPfcEn p
      { p with rx := inc p.rx, paused := on, pfcIgnored := if mask % 256 = on then p.pfcIgnored else inc p.pfcIgnored }

/-- The sub-ports of port n that are up. -/
def State.upSubs (s : State) (n : Nat) : List Nat := (List.range 8).filter fun b => s.lineUp n b

/-- A PFC pause of the module's own (R298), on each sub-port that is up: sent above 1.5 MiB, renewed after 50 µs while the buffer holds more
than 1 MiB. -/
def State.opPfcOut (s : State) (n prio fill : Nat) : State :=
  s.whenBased fun s =>
    let p := s.port n
    if 16 ≤ n ∨ 8 ≤ prio ∨ s.roleNow n = 0 ∨ !testBit (portPfcEn p) prio then s
    else
      let at' := Table.get 0 p.pfcAt prio
      if fill ≤ 2 ^ 20 then s.updPort n fun p => { p with pfcAt := Table.set 0 p.pfcAt prio 0 }
      else if (s.upSubs n).isEmpty ∨ (at' = 0 ∧ fill ≤ 3 * 2 ^ 19) ∨ (at' ≠ 0 ∧ s.since (at' - 1) < 50000) then s
      else
        let s := s.updPort n fun p => { p with pfcAt := Table.set 0 p.pfcAt prio (s.tm.clk + 1), pfcSent := inc p.pfcSent }
        (s.upSubs n).foldl (fun s b =>
          s.enqueue ⟨.pfc (s.linkOf (n, b) 0x0180C2000001 (portPcp (s.port n) clsControl)) prio, clsControl, 0, 0, none⟩) s

/-- An ARP request or neighbour solicitation (R296, R297): answered to its sender for the module's own addresses, with the MAC address of
the port. -/
def State.opNeighbour (s : State) (n sub : Nat) (vid : Option Nat) (v6 : Bool) (target asker askerMac : Nat) : State :=
  if !s.listens ∨ 16 < n ∨ !s.lineUp n sub then s
  else
    let s := s.countPort n fun p => { p with rx := inc p.rx }
    if !s.tagOk n vid false ∨ !s.isOwn (planeOfPort n) (!v6) target then s
    else
      let l := s.linkOf (n, sub) askerMac (portPcp (s.port n) clsControl)
      s.enqueue ⟨.neighbour l v6 target asker l.srcMac, clsControl, 0, 0, none⟩

def execLinkDown (port sub : Nat) (s : State) : Out := .next (s.opLinkDown port sub)
def execLinkUp (port sub : Nat) (s : State) : Out := .next (s.opLinkUp port sub)
def execAckSend (c : Nat) (s : State) : Out := .next (s.opAckSend c)
def execHoleRetransmit (c psn : Nat) (s : State) : Out := .next (s.opHole c psn)
def execRtoTimeout (c : Nat) (s : State) : Out := .next (s.opRto c)
def execOpTimeout (c id : Nat) (s : State) : Out := .next (s.opTimeoutOf c id)
def execRateIncrease (c : Nat) (s : State) : Out := .next (s.opRate c)
def execForwardPacket (f : Transit) (s : State) : Out := .next (match f with | .packet rx => s.opForward rx | .ptp x => s.opPtpTransit x)
def execPfcFrameReceive (port mask : Nat) (s : State) : Out := .next (s.opPfcIn port mask)
def execPfcPauseSend (port prio fill : Nat) (s : State) : Out := .next (s.opPfcOut port prio fill)
def execNeighbourReceive (a : Arrival) (v6 : Bool) (target : Nat) (asker : Asker) (s : State) : Out :=
  .next (s.opNeighbour a.port a.sub a.vid v6 target asker.ip asker.mac)

end Sys2Proof.Machine
end

