-- ==== Sys2Proof/Machine/Dispatch.lean ====
section
/-! DEFINITION. The effect of a command on everything but the queue: one meaning per row of spec/opcode_table.json. -/
namespace Sys2Proof.Machine

def exec (i : Instr) (s : State) : Host.Outcome State Fault Refusal :=
  match i with
  | .powerUp rom shares => Sys2Proof.Machine.execPowerUp rom shares s
  | .baseStageStart => Sys2Proof.Machine.execBaseStageStart s
  | .selftestDone col pass => Sys2Proof.Machine.execSelftestDone col pass s
  | .storedImageApply => Sys2Proof.Machine.execStoredImageApply s
  | .modEnAssert us => Sys2Proof.Machine.execModEnAssert us s
  | .modEnDeassert us => Sys2Proof.Machine.execModEnDeassert us s
  | .regulatorsOff => Sys2Proof.Machine.execRegulatorsOff s
  | .throtNAssert ns => Sys2Proof.Machine.execThrotNAssert ns s
  | .throtNDeassert ns => Sys2Proof.Machine.execThrotNDeassert ns s
  | .resetReqNAssert us => Sys2Proof.Machine.execResetReqNAssert us s
  | .resetReqNRelease => Sys2Proof.Machine.execResetReqNRelease s
  | .pinHeld pin => Sys2Proof.Machine.execPinHeld pin s
  | .ppsInEdge ns => Sys2Proof.Machine.execPpsInEdge ns s
  | .powerEmergency m us => Sys2Proof.Machine.execPowerEmergency m us s
  | .powerClear m ms => Sys2Proof.Machine.execPowerClear m ms s
  | .inputSag low m us => Sys2Proof.Machine.execInputSag low m us s
  | .brownOut volts us => Sys2Proof.Machine.execBrownOut volts us s
  | .overVoltageOff volts us => Sys2Proof.Machine.execOverVoltageOff volts us s
  | .phaseFail conv unit volts => Sys2Proof.Machine.execPhaseFail conv unit volts s
  | .pwrManagerTick cols => Sys2Proof.Machine.execPwrManagerTick cols s
  | .fastLimiter m => Sys2Proof.Machine.execFastLimiter m s
  | .thermalSample tj => Sys2Proof.Machine.execThermalSample tj s
  | .thermalClear => Sys2Proof.Machine.execThermalClear s
  | .thermalTrip ms regTemp => Sys2Proof.Machine.execThermalTrip ms regTemp s
  | .coolantSample inlet outlet watts => Sys2Proof.Machine.execCoolantSample inlet outlet watts s
  | .coolantWarn => Sys2Proof.Machine.execCoolantWarn s
  | .lifeUpdate recs => Sys2Proof.Machine.execLifeUpdate recs s
  | .pwrRemoveRequest v => Sys2Proof.Machine.execPwrRemoveRequest v s
  | .pwrRemoveCancel v => Sys2Proof.Machine.execPwrRemoveCancel v s
  | .removeReady => Sys2Proof.Machine.execRemoveReady s
  | .wdFire col => Sys2Proof.Machine.execWdFire col s
  | .standbyTakeover col => Sys2Proof.Machine.execStandbyTakeover col s
  | .heartbeatSample col beats => Sys2Proof.Machine.execHeartbeatSample col beats s
  | .laneSelftest cluster pass => Sys2Proof.Machine.execLaneSelftest cluster pass s
  | .logDigestCheck upset => Sys2Proof.Machine.execLogDigestCheck upset s
  | .plogCopy => Sys2Proof.Machine.execPlogCopy s
  | .devDumpTake v => Sys2Proof.Machine.execDevDumpTake v s
  | .devDumpAck v => Sys2Proof.Machine.execDevDumpAck v s
  | .dumpDone unreachable => Sys2Proof.Machine.execDumpDone unreachable s
  | .dumpCopy => Sys2Proof.Machine.execDumpCopy s
  | .devResetCore v target => Sys2Proof.Machine.execDevResetCore v target s
  | .devResetCluster v target => Sys2Proof.Machine.execDevResetCluster v target s
  | .devResetColumn v target => Sys2Proof.Machine.execDevResetColumn v target s
  | .devResetPort v target => Sys2Proof.Machine.execDevResetPort v target s
  | .devResetModuleWarm v => Sys2Proof.Machine.execDevResetModuleWarm v s
  | .devResetModuleCold v => Sys2Proof.Machine.execDevResetModuleCold v s
  | .columnReset col pass => Sys2Proof.Machine.execColumnReset col pass s
  | .xsiStageClaim v => Sys2Proof.Machine.execXsiStageClaim v s
  | .xsiStageRelease v => Sys2Proof.Machine.execXsiStageRelease v s
  | .stageClaimLapse fw => Sys2Proof.Machine.execStageClaimLapse fw s
  | .xsiLoadStart v => Sys2Proof.Machine.execXsiLoadStart v s
  | .xsiApply => Sys2Proof.Machine.execXsiApply s
  | .teardownPeerTimeout part => Sys2Proof.Machine.execTeardownPeerTimeout part s
  | .teardownDrainDone part => Sys2Proof.Machine.execTeardownDrainDone part s
  | .xsiDrainStuck part => Sys2Proof.Machine.execXsiDrainStuck part s
  | .drainStuckColumnReset part col => Sys2Proof.Machine.execDrainStuckColumnReset part col s
  | .regionInitDone region => Sys2Proof.Machine.execRegionInitDone region s
  | .fwStageClaim v => Sys2Proof.Machine.execFwStageClaim v s
  | .fwStageRelease v => Sys2Proof.Machine.execFwStageRelease v s
  | .fwActivateStart v => Sys2Proof.Machine.execFwActivateStart v s
  | .fwHandover us => Sys2Proof.Machine.execFwHandover us s
  | .fwHandoverTimeout => Sys2Proof.Machine.execFwHandoverTimeout s
  | .fwHandoverPointTimeout => Sys2Proof.Machine.execFwHandoverPointTimeout s
  | .fwProbationEnd => Sys2Proof.Machine.execFwProbationEnd s
  | .fwAttestStart v => Sys2Proof.Machine.execFwAttestStart v s
  | .schLoad v part addr errs => Sys2Proof.Machine.execSchLoad v part addr errs s
  | .roundStart part => Sys2Proof.Machine.execRoundStart part s
  | .tileIssue part stream errs upset => Sys2Proof.Machine.execTileIssue part stream errs upset s
  | .tileLaReplay part stream errs upset => Sys2Proof.Machine.execTileLaReplay part stream errs upset s
  | .drainStart part stream errs upset => Sys2Proof.Machine.execDrainStart part stream errs upset s
  | .convIssue part stream errs upset => Sys2Proof.Machine.execConvIssue part stream errs upset s
  | .vecIssue part stream errs => Sys2Proof.Machine.execVecIssue part stream errs s
  | .mergeIssue part stream errs => Sys2Proof.Machine.execMergeIssue part stream errs s
  | .xferIssue part stream errs => Sys2Proof.Machine.execXferIssue part stream errs s
  | .reserveIssue part stream errs => Sys2Proof.Machine.execReserveIssue part stream errs s
  | .collIssue part stream errs => Sys2Proof.Machine.execCollIssue part stream errs s
  | .pullTimeout part seg => Sys2Proof.Machine.execPullTimeout part seg s
  | .layerIssue part stream errs => Sys2Proof.Machine.execLayerIssue part stream errs s
  | .waitIssue part stream errs => Sys2Proof.Machine.execWaitIssue part stream errs s
  | .layerClose part lidx => Sys2Proof.Machine.execLayerClose part lidx s
  | .layerReplayIssue part lidx => Sys2Proof.Machine.execLayerReplayIssue part lidx s
  | .stepEnd part stream errs => Sys2Proof.Machine.execStepEnd part stream errs s
  | .stepBoundary part => Sys2Proof.Machine.execStepBoundary part s
  | .tokenTimeout part stream errs => Sys2Proof.Machine.execTokenTimeout part stream errs s
  | .tileCheckDone cluster lane => Sys2Proof.Machine.execTileCheckDone cluster lane s
  | .verdictReady part => Sys2Proof.Machine.execVerdictReady part s
  | .carrierComplete part => Sys2Proof.Machine.execCarrierComplete part s
  | .quiescedSend part => Sys2Proof.Machine.execQuiescedSend part s
  | .memWipe v part region => Sys2Proof.Machine.execMemWipe v part region s
  | .sweepPassDone pass => Sys2Proof.Machine.execSweepPassDone pass s
  | .scrubPass region errs codes => Sys2Proof.Machine.execScrubPass region errs codes s
  | .memDmaResume v part channel => Sys2Proof.Machine.execMemDmaResume v part channel s
  | .memDmaAbort v part channel => Sys2Proof.Machine.execMemDmaAbort v part channel s
  | .linkDown port sub => Sys2Proof.Machine.execLinkDown port sub s
  | .linkUp port sub => Sys2Proof.Machine.execLinkUp port sub s
  | .writeReceive rx => Sys2Proof.Machine.execWriteReceive rx s
  | .readReceive rx => Sys2Proof.Machine.execReadReceive rx s
  | .readRespReceive rx => Sys2Proof.Machine.execReadRespReceive rx s
  | .sendReceive rx => Sys2Proof.Machine.execSendReceive rx s
  | .reduceReceive rx => Sys2Proof.Machine.execReduceReceive rx s
  | .tokenReceive rx => Sys2Proof.Machine.execTokenReceive rx s
  | .regRead rx => Sys2Proof.Machine.execRegRead rx s
  | .regWrite rx => Sys2Proof.Machine.execRegWrite rx s
  | .cadSlotCfgWrite v slot value => Sys2Proof.Machine.execCadSlotCfgWrite v slot value s
  | .cadSlotStateWrite v slot value => Sys2Proof.Machine.execCadSlotStateWrite v slot value s
  | .netConnOpen v conn => Sys2Proof.Machine.execNetConnOpen v conn s
  | .netConnClose v conn => Sys2Proof.Machine.execNetConnClose v conn s
  | .memberOpenReceive rx => Sys2Proof.Machine.execMemberOpenReceive rx s
  | .sessionOpen rx => Sys2Proof.Machine.execSessionOpen rx s
  | .openAckReceive rx => Sys2Proof.Machine.execOpenAckReceive rx s
  | .closeReceive rx => Sys2Proof.Machine.execCloseReceive rx s
  | .closeAckReceive rx => Sys2Proof.Machine.execCloseAckReceive rx s
  | .ackReceive rx => Sys2Proof.Machine.execAckReceive rx s
  | .ackSend conn => Sys2Proof.Machine.execAckSend conn s
  | .holeRetransmit conn psn => Sys2Proof.Machine.execHoleRetransmit conn psn s
  | .rtoTimeout conn => Sys2Proof.Machine.execRtoTimeout conn s
  | .opTimeout conn opid => Sys2Proof.Machine.execOpTimeout conn opid s
  | .rateIncrease conn => Sys2Proof.Machine.execRateIncrease conn s
  | .forwardPacket f => Sys2Proof.Machine.execForwardPacket f s
  | .pfcFrameReceive port mask => Sys2Proof.Machine.execPfcFrameReceive port mask s
  | .pfcPauseSend port prio fill => Sys2Proof.Machine.execPfcPauseSend port prio fill s
  | .neighbourReceive arr v6 target asker => Sys2Proof.Machine.execNeighbourReceive arr v6 target asker s
  | .ptpSyncReceive link frame rate synce => Sys2Proof.Machine.execPtpSyncReceive link frame rate synce s
  | .ptpSourceLost plane => Sys2Proof.Machine.execPtpSourceLost plane s
  | .slipReceive rx => Sys2Proof.Machine.execSlipReceive rx s
  | .verdictVoteReceive rx => Sys2Proof.Machine.execVerdictVoteReceive rx s
  | .verdictTreeVoteReceive rx => Sys2Proof.Machine.execVerdictTreeVoteReceive rx s
  | .verdictDecideReceive rx => Sys2Proof.Machine.execVerdictDecideReceive rx s
  | .verdictRequestReceive rx => Sys2Proof.Machine.execVerdictRequestReceive rx s
  | .verdictRetractReceive rx => Sys2Proof.Machine.execVerdictRetractReceive rx s
  | .verdictQuiescedReceive rx => Sys2Proof.Machine.execVerdictQuiescedReceive rx s
  | .verdictResumeReceive rx => Sys2Proof.Machine.execVerdictResumeReceive rx s
  | .verdictHandoverReceive rx => Sys2Proof.Machine.execVerdictHandoverReceive rx s
  | .abortReceive rx => Sys2Proof.Machine.execAbortReceive rx s
  | .faultNoticeFlush => Sys2Proof.Machine.execFaultNoticeFlush s
  | .devPartPark v part => Sys2Proof.Machine.execDevPartPark v part s
  | .devPartResume v part => Sys2Proof.Machine.execDevPartResume v part s
  | .devPartEnd v part => Sys2Proof.Machine.execDevPartEnd v part s
  | .devPartAbort v part => Sys2Proof.Machine.execDevPartAbort v part s
  | .devPartVacate v part => Sys2Proof.Machine.execDevPartVacate v part s
  | .leaseExpired conn => Sys2Proof.Machine.execLeaseExpired conn s
  | .partitionParked part => Sys2Proof.Machine.execPartitionParked part s
  | .orphanExpired part => Sys2Proof.Machine.execOrphanExpired part s
  | .holdoverErrorLimit err => Sys2Proof.Machine.execHoldoverErrorLimit err s
  | .probationFailureReport => Sys2Proof.Machine.execProbationFailureReport s

end Sys2Proof.Machine
end

