-- ==== Sys2Proof/Safety.lean ====
section
/-! DEFINITION. What statements say of a run: that a command runs, which pieces of the state it leaves alone, what a removal of
power leaves, and the invariants of the module. -/
namespace Sys2Proof

open Sys2Proof.Machine

/-- Command `i` runs from `s` to a next state, and `P` holds of that state. -/
def Runs (i : Instr) (s : State) (P : State → Prop) : Prop := ∃ t, Sys2Proof.Machine.exec i s = .next t ∧ P t

/-- Command `i` runs from `s` and changes nothing. -/
def Idles (i : Instr) (s : State) : Prop := Sys2Proof.Machine.exec i s = .next s

/-- The pieces of the state, by the chapters that give them. -/
inductive Piece where
  | time | power | faults | stewards | columns | flash | firmware | structure_ | memory | network | partitions | slots
  | positions | clusters | freeCount | queue
  deriving DecidableEq, Repr

/-- Whether a piece is the same in two states. -/
def Piece.same (s t : State) : Piece → Prop
  | .time => t.tm = s.tm
  | .power => t.pwr = s.pwr
  | .faults => t.dev = s.dev
  | .stewards => t.stew = s.stew
  | .columns => t.cols = s.cols
  | .flash => t.flash = s.flash
  | .firmware => t.fw = s.fw
  | .structure_ => t.xsi = s.xsi
  | .memory => t.mem = s.mem
  | .network => t.net = s.net
  | .partitions => t.parts = s.parts
  | .slots => t.slots = s.slots
  | .positions => t.pos = s.pos
  | .clusters => t.cls = s.cls
  | .freeCount => t.free = s.free
  | .queue => t.pending = s.pending

/-- Every piece but those listed is the same in `t` as in `s`. -/
def Keeps (touched : List Piece) (s t : State) : Prop := ∀ p, p ∉ touched → p.same s t

/-- The newest log entry of column c is an event of the code given, with the payload given (R473). -/
def Logged (t : State) (c event : Nat) (payload : List W64) : Prop :=
  ∃ e, (t.steward c).ring.head? = some e ∧ e.event = event ∧ e.payload = payload

/-- Between `s` and `t` nothing of a position changes but its timer: a change of clock leaves the cycles counted so far (R103). -/
def TimersOnly (s t : State) : Prop := ∀ n, t.posn n = { s.posn n with timer := (t.posn n).timer }

/-- Power was removed from `s` (R482, R512): every volatile piece is at its reset value, the flash keeps its content, and no pin of
the module shows more than the levels it is given. -/
def PowerGone (s t : State) (ph : Phase) : Prop :=
  t.flash = s.flash ∧ t.pwr.phase = ph ∧ t.pwr.modPg = false ∧ t.dev = .reset ∧ t.fw = .reset ∧ t.xsi = .reset ∧
    t.mem = .reset ∧ t.stew = [] ∧ t.cols = [] ∧ t.parts = [] ∧ t.slots = [] ∧ t.pos = [] ∧ t.cls = [] ∧
    t.net.conns = [] ∧ t.net.routes = [] ∧ t.tm.st = .neverLocked ∧ t.pending = s.pending

/-- The state of a granule on its way to no error: the error list of a command that meets none. -/
def noErrs : List MemErr := []

/-- A recovered frequency within what an equipment clock follows: whole parts per million of 4.6 (R198). -/
def FreqOk (f : Int) : Prop := -4 ≤ f ∧ f ≤ 4

/-- The invariant of module time (R198 to R201, R237): the correction of the rate stays within 100 parts per million and the frequency
within the clock's range, their gathered fraction stays below a nanosecond, LOCKED and HOLDOVER are states of a module that has been locked,
and the source and the usable sources are codes of their fields, PPS_IN a source in HOLDOVER only. -/
def TimeInv (t : TimeSt) : Prop :=
  (-100 ≤ t.drift ∧ t.drift ≤ 100) ∧ FreqOk t.freq ∧ (∀ e ∈ t.sides, ∀ f, e.2.freq = some f → FreqOk f) ∧
    (-1000000 < t.acc ∧ t.acc < 1000000) ∧ ((t.st = .locked ∨ t.st = .holdover) → t.everLocked = true) ∧
    t.source ≤ 3 ∧ (t.source = 3 → t.st = .holdover) ∧ t.usable < 4

/-- The memory is in its canonical form: bytes, line metadata, regions and the tags of SRAM rise strictly by address or index, and no entry
is what an unlisted one reads as (R240, R244, R255, R266). -/
abbrev Memory.wf (m : Mem) : Prop :=
  Table.wf 0 m.cells = true ∧ Table.wf none m.lines = true ∧ Table.wf Region.reset m.regions = true ∧ Table.wf zeroTag m.tags = true

/-- The byte at a physical address: device physical below 2^40, and the core stores by physical slot from there on. -/
def byteAt (s : State) (a : Nat) : Byte := Table.get 0 s.mem.cells a

/-- A safe run: every step so far answered a next state. -/
def SafeFor (s : State) : Nat → Prop
  | 0 => True
  | n + 1 => ∃ t, Sys2Proof.Machine.step s = .next t ∧ SafeFor t n

/-- The connection of a control row is one over which its originator may write: open, of the kind given, at a compatible interface level,
and the module is not in recovery (R443, R470, R478, R539). Kind 2 is a controlling session, 4 a fabric manager. -/
def ViaOpen (s : State) (v : Via) (kind : Nat) : Prop :=
  s.based = true ∧ s.fw.service ≠ .recovery ∧ s.fw.romRecovery = false ∧ (s.conn v.conn).st = 2 ∧ connKind (s.conn v.conn) = kind ∧
    s.levelMay (s.conn v.conn) = true

/-- The CTL packet of a REG_WRITE to an address, as its answer echoes it (R303). -/
def ctlRequest (v : Via) (a : Nat) : Pkt :=
  { Pkt.blank opCtl with w2 := a % 2 ^ 48 * 2 ^ 16 + v.opid % 65536, w3 := 2 * 2 ^ 24 }

/-- `t` is `u` once the register write of row `v` to address `a` is answered with a status: CTL_RESP and the DONE ACK (R303, R320). -/
def Answered (v : Via) (a status : Nat) (u t : State) : Prop := t = u.answer v.conn (ctlRequest v a) status 0

/-- The image that stands at an address of partition memory, read without an error and changing nothing (R207): its header, its stream
table, and every stream's entries. -/
def Fetched (s : State) (p addr : Nat) (im : Image) : Prop :=
  s.fetchBytes p [] addr 256 = (.ok im.hdr, s) ∧
    s.fetchBytes p [] (addr + 256) (16 * leAt im.hdr 60 4) = (.ok im.table, s) ∧
    im.streams.length = leAt im.hdr 60 4 ∧
    ∀ (i : Nat) (x : ImgStream), im.streams[i]? = some x →
      x.sid = leAt im.table (16 * i) 2 ∧ x.count = leAt im.table (16 * i + 2) 6 ∧ x.off = leAt im.table (16 * i + 8) 8 ∧
        ∃ b, s.fetchBytes p [] (addr + x.off) (64 * x.count) = (.ok b, s) ∧
          x.ents = (List.range x.count).map fun i => wordsOf (slice b (64 * i) 64)

/-- Entry `i` with words `ws`, of a kind, is the one that a stream of partition p issues next, and R218 lets it: its schedule runs, no
retraction or stop holds the stream, the planned round has come and every wait is met; the fetch changes nothing. -/
def MayIssue (s : State) (p sid i : Nat) (ws : List W64) (kind : Nat) (errs : List MemErr) : Prop :=
  s.operational = true ∧ mayIssue (s.part p) sid = true ∧ s.nextEntry p sid errs = (some (i, ws), s) ∧ eKind ws = kind ∧
    s.due (s.part p) ws = true ∧ waitsMet (s.part p) sid ws = true

/-- `t` is `u`, in which the operands of a tile have been read, once the tile has run to its last block at position pos (R81 to R85,
R101, R107, R113): the set that the timer names holds the 64 accumulators, the tile waits for its drain, and the other set, every other
position, memory and the slots are as they were. -/
def TileRan (sa : Bool) (u t : State) (p pos i step : Nat) (ws : List W64) (inp : TileIn) (upset : List Nat) : Prop :=
  (∃ x, (t.posn pos).waiting = (u.posn pos).waiting ++ [x] ∧ x.part = p ∧ x.stream = pos ∧ x.entry = i ∧ x.step = step ∧ x.words = ws ∧
      x.set1 = (u.posn pos).timer.set1) ∧
    (if (u.posn pos).timer.set1 then (t.posn pos).set1 = upsetStates inp.runLa.1 upset ∧ (t.posn pos).set0 = (u.posn pos).set0
      else (t.posn pos).set0 = upsetStates inp.runLa.1 upset ∧ (t.posn pos).set1 = (u.posn pos).set1) ∧
    (t.posn pos).timer.set1 = !(u.posn pos).timer.set1 ∧
    (t.posn pos).saTiles = (if sa then inc (u.posn pos).saTiles else (u.posn pos).saTiles) ∧
    (t.posn pos).imageBad = incBy (u.posn pos).imageBad inp.runLa.2.1 ∧ (t.posn pos).termLimit = incBy (u.posn pos).termLimit inp.runLa.2.2 ∧
    (t.posn pos).advance = incBy (u.posn pos).advance
      (tileCycles (ef ws 5 63 28) (tileClass (u.view (ws.getD 2 0)).f (u.view (ws.getD 3 0)).f) sa) ∧
    (t.posn pos).replay = (u.posn pos).replay ∧ (t.posn pos).tiles = (u.posn pos).tiles ∧ (t.posn pos).tops = (u.posn pos).tops ∧
    (∀ q, q ≠ pos → t.posn q = u.posn q) ∧ (∀ q, q ≠ p → t.part q = u.part q) ∧
    Keeps (if sa then [.positions, .clusters, .stewards, .firmware, .partitions] else [.positions, .clusters, .stewards, .firmware]) u t

/-- The blocks of a chunk of a tile in SA mode (R104). -/
def saBlocksPerChunk (s : State) (ws : List W64) : Nat :=
  (chunkShape (tileClass (s.view (ws.getD 2 0)).f (s.view (ws.getD 3 0)).f) true).1

/-- Every byte outside the core store of position pos is the same (R242). -/
def OtherBytesSame (s t : State) (pos : Nat) : Prop :=
  ∀ a, a < s.phys (rgnDpa (coreRegion pos) 0) ∨ s.phys (rgnDpa (coreRegion pos) 0) + 2 ^ 20 ≤ a → byteAt t a = byteAt s a

/-- The FP32 code at a byte address of a position's core store. -/
def codeAt (s : State) (pos a : Nat) : Nat := leNat (s.peek (s.phys (rgnDpa (coreRegion pos) a)) 4)

/-- The address of element e of vector v of a dense FP32 tensor at base granule b (R51). -/
def denseAddr (b vlen v e : Nat) : Nat := 256 * b + 4 * (v * (vlen * 32) + e)

/-- An exact value scaled by the parameter block's scale and narrowed to FP32 without an activation (R138, R139, R148). -/
def plainOut (c : Ctl) (prm : OutPrm) (x : Elem) : Nat :=
  (narrow .fp32 c.round c.ovf false 0 0 (product x (decodeScaled .fp32 prm.scale 127 false))).code

/-- The control word asks for plain FP32 output: no activation, bias, top-k list, report or random rounding (R140). -/
def plainCtl (c : Ctl) : Prop :=
  c.raw = false ∧ c.bias = false ∧ c.act = .none ∧ c.topkK = 0 ∧ c.topkClose = false ∧ c.slotEn = false ∧ c.round ≠ .sr

/-- As `MayIssue`, but R218 holds the entry back: its planned round has not come, or a wait is not met. -/
def HeldBack (s : State) (p sid i : Nat) (ws : List W64) (kind : Nat) (errs : List MemErr) : Prop :=
  s.operational = true ∧ mayIssue (s.part p) sid = true ∧ s.nextEntry p sid errs = (some (i, ws), s) ∧ eKind ws = kind ∧
    (s.due (s.part p) ws = false ∨ waitsMet (s.part p) sid ws = false)

/-- The packets that a connection has sent and not yet freed, then those that wait to go, in order, with the PSN left out (R322). -/
def outList (k : Conn) : List Pkt := (k.copies.map (·.pkt) ++ k.txWait).map fun p => { p with psn := 0 }

/-- Connection c sends the packets `ps` between `s` and `t`: they follow those it had (R322), from its own entry to its peer's (R306). -/
def Sends (s t : State) (c : Nat) (ps : List Pkt) : Prop :=
  outList (t.conn c) = outList (s.conn c) ++ ps ∧ ∀ q ∈ ps, q.sconn = c ∧ q.dconn = connPeer (s.conn c)

/-- A frame that brings an intact ELT packet to the module on a port (R293 to R295, R300, R302): `p` is the packet. -/
def Arrives (s : State) (rx : Rx) (p : Pkt) : Prop :=
  s.arrives rx = true ∧ rx.port < 16 ∧ s.isOwn (planeOfPort rx.port) rx.v4 rx.dst = true ∧ rx.fcsBad = false ∧ s.vlanOk rx = true ∧
    rx.fragment = false ∧ rx.sumBad = false ∧ rx.dport = s.eltPort rx.port ∧ rxHdrOk rx = true ∧ p = rxPkt rx ∧ p.dconn ≠ 0x3FFF

/-- The packet is for a connection that is open, of the generation in force (R313). -/
def OnOpen (s : State) (rx : Rx) (p : Pkt) (c : Nat) : Prop :=
  Arrives s rx p ∧ p.dconn = c ∧ (s.conn c).st = 2 ∧ connKind (s.conn c) ≠ 0 ∧ (connKind (s.conn c) = 4 ∨ p.tgen = (s.part (connPart (s.conn c))).tgen)

/-- The packet comes in order, with true tags, and is one whole operation; the receiver has nothing else under way on the connection and
there is room (R316, R317, R320, R327). -/
def InOrder (s : State) (rx : Rx) (p : Pkt) (c : Nat) : Prop :=
  OnOpen s rx p c ∧ p.psn = (s.conn c).rxNext ∧ (s.conn c).rxGot = [] ∧ (s.conn c).rxHeld = [] ∧ (s.conn c).rxOps = [] ∧
    rx.roomFull = false ∧ rxTagBad rx = false ∧ p.first = true ∧ p.last = true ∧ s.opsInFlight < 65536

/-- A whole SLIP, VERDICT or ABORT from a member of partition q that may send it (R225, R305, R398, R499). -/
def Message (s : State) (rx : Rx) (p : Pkt) (c q op : Nat) : Prop :=
  InOrder s rx p c ∧ p.op = op ∧ connKind (s.conn c) = 1 ∧ connPart (s.conn c) = q ∧ s.opGate c p = 0

/-- A datagram waits at its port to leave, in the class given (R297). -/
def Waits (t : State) (cls : Nat) (d : Datagram) : Prop := ∃ q, q ∈ t.net.egress ∧ q.frame = .elt d ∧ q.cls = cls

/-- The module sends an ACK of connection c whose DONE completes operation `id` with a status (R297, R319, R320). -/
def DoneSent (t : State) (c id st : Nat) : Prop :=
  ∃ d, Waits t clsControl d ∧ d.pkt.op = opAck ∧ d.pkt.done = true ∧ d.pkt.sconn = c ∧ d.pkt.status = st ∧ d.pkt.w2 = id * 2 ^ 48

/-- A PTP message of a plane's domain that the module's own clock takes, on a port that does not forward (R197, R295). -/
def PtpIn (s : State) (x : PtpRx) (plane : Nat) : Prop :=
  s.based = true ∧ x.port < 16 ∧ x.port / 8 = plane ∧ s.subUp x.port x.sub = true ∧ s.roleNow x.port ≠ 2 ∧ x.fcsBad = false ∧
    x.sumBad = false ∧ s.tagOk x.port x.vid x.stacked = true ∧ s.ptpMine plane x.frame = true ∧
    x.frame.msg.domain = fld (s.plane plane).cfg 23 16

/-- A Sync message that the clock of a plane accepts (R197). -/
def SyncIn (s : State) (x : PtpRx) (plane : Nat) : Prop :=
  PtpIn s x plane ∧ x.frame.msg.kind = ptpSync ∧ -7 ≤ x.frame.msg.interval ∧ x.frame.msg.interval ≤ 0

/-- With the source of `plane` usable, time comes from plane i (R198). -/
def GivesTime (s : State) (plane i : Nat) : Prop :=
  ({ s with tm := { s.tm with usable := setBit s.tm.usable plane } } : State).timePlane = some i

/-- A Delay_Req has been queued on the sub-port where message x came (R197). -/
def DelayAsked (s t : State) (x : PtpRx) (plane : Nat) : Prop :=
  ∃ l f, t.net.egress = s.net.egress ++ [⟨.ptp l f, clsControl, 0, 0, none⟩] ∧ l.port = x.port ∧ l.sub = x.sub ∧
    f.map = x.frame.map ∧ f.msg.kind = ptpDelayReq ∧ f.msg.domain = x.frame.msg.domain ∧ f.msg.seq = (s.side plane).seq

/-- A member follows a step that may still commit: the Strainer runs, the step is uncommitted and the attempt is the current one (R398). -/
def LiveStep (q : Part) (n att : Nat) : Prop := q.stn.st ≠ 0 ∧ uncommitted q n = true ∧ att = attemptOf q n ∧ att < 256 ∧ n < 2 ^ 64

/-- A whole data packet that its connection may send (R305, R433): no access of its session's channel is held, and the regions and tables of
memory are in order; `part` is the partition it is for. -/
def DataIn (s : State) (rx : Rx) (p : Pkt) (c part op : Nat) : Prop :=
  InOrder s rx p c ∧ p.op = op ∧ connPart (s.conn c) = part ∧ s.opGate c p = 0 ∧ s.dmaOf c = Dma.reset ∧ rx.errs = [] ∧
    (∀ k, (s.col k).pcFailed = 0) ∧ Memory.wf s.mem

/-- The lines beside its own that the write of the granule at allocation address a updates: that of its tag (R248), and the parity lines of a
strong region (R249, R252). -/
def sideLines (r : Region) (a : Nat) : List Nat :=
  let tag := if rgnHbm r && rgnTags r then [rgnTagAt r (a / 256) / 64 * 64] else []
  tag ++ if rgnStrong r then ((List.range 4).map (a + 64 * ·) ++ tag).map fun x => rgnParAt r (rgnStripe r x) else []

/-- A region's allocation lies within the HBM of each of its columns (R246). -/
def RegionFits (r : Region) : Prop := rgnHbm r = true → rgnDbase r % 2 ^ 16 * 2 ^ 20 + rgnBytes r / 2 ^ rgnWays r ≤ 0xFE0000000

/-- Between u and t no byte changes but the 256 at allocation address a of region r and the lines that go with them. -/
def OnlyGranule (u t : State) (r : Region) (a : Nat) : Prop :=
  ∀ b, (b < t.phys (rgnDpa r a) ∨ t.phys (rgnDpa r a) + 256 ≤ b) →
    (∀ x ∈ sideLines r a, b < rgnDpa r x ∨ rgnDpa r x + 64 ≤ b) → byteAt t b = byteAt u b

/-- The tag of the granule at allocation address a, where one is read, is that of its data (R248, R254, R266). -/
def TagTrue (s : State) (r : Region) (a : Nat) : Prop :=
  s.tagged r a = true →
    (s.readTag 0 0 0 r a []).1 = crc32c (s.peek (s.phys (rgnDpa r a)) 256) ∧ (s.readTag 0 0 0 r a []).2.1 = false

/-- One granule of partition memory that a connection may write, or read, stands at allocation address a of region r (R245, R433). -/
def GranAt (s : State) (c part addr : Nat) (write : Bool) (r : Region) (a : Nat) : Prop :=
  ∃ i, s.place part addr = some (i, r, a, false) ∧
    (connHost (s.conn c) = false ∨ (if write then rgnHwr r else rgnHrd r) = true)

end Sys2Proof
end

