-- ==== Sys2Proof/Certificates/Slice0/Obligations.lean ====
section
/-! DEFINITION. The statements for the provers. `Runs i s P`: command i runs from s to a next state of which P holds; `Keeps l s t`:
every piece of the state but those of l is the same. -/

open Sys2Proof Sys2Proof.Machine

/-! The queue and time. -/

/-- A step runs the command at the front of the queue on the state with the queue's rest. -/
def Obligations.StepRunsFrontCommand : Prop :=
  ∀ (c : Instr) (rest : List Instr) (s : State), s.pending = c :: rest →
    Sys2Proof.Machine.step s = Sys2Proof.Machine.exec c { s with pending := rest }

/-- With no command waiting a step is one nanosecond (log 5): the clock advances, module time advances with it at the frequency and the rate
in force while the module runs, the floor of THROT_N goes when its millisecond is over, frames that wait at the ports may leave (R297), and
every other piece stays (the logs too, unless the end of the floor is traced, R475). A frame that waits alone and may go leaves; of those that
may go a line serves one of least rank, and a class comes before the next (R297). -/
def Obligations.EmptyQueueIsOneNanosecond : Prop :=
  (∀ s : State, s.pending = [] →
    ∃ t, Sys2Proof.Machine.step s = .next t ∧ t.tm.clk = s.tm.clk + 1 ∧ Keeps [.time, .power, .stewards, .network] s t ∧
      (s.net.egress = [] ∨ s.listens = false → t.net = s.net) ∧ (s.up = false → t.tm.now = s.tm.now) ∧
      (s.up = true → s.tm.drift = 0 → s.tm.freq = 0 → (-1000000 < s.tm.acc ∧ s.tm.acc < 1000000) → t.tm.now = s.tm.now + 1) ∧
      (∀ a, s.pwr.throtOffAt = some a → a ≤ s.tm.clk + 1 → t.pwr.throt = false ∧ t.pwr.throtOffAt = none) ∧
      (s.pwr.throtOffAt = none → t.pwr = s.pwr ∧ t.stew = s.stew)) ∧
  (∀ (s : State) (q : Queued), s.pending = [] → s.listens = true → s.pwr.throtOffAt = none → s.net.egress = [q] →
    ({ s with tm := { s.tm with clk := s.tm.clk + 1 } } : State).mayGo q = true →
    ∃ t, Sys2Proof.Machine.step s = .next t ∧ t.net.egress = [] ∧ t.net.out = s.net.out ++ [q.frame] ∧
      (q.frame.link.port < 16 → (t.port q.frame.link.port).tx = inc (s.port q.frame.link.port).tx)) ∧
  (∀ (s : State) (n b : Nat) (x : Queued), s.nextFrame n b = some x →
    x ∈ s.net.egress ∧ x.frame.link.port = n ∧ x.frame.link.sub = b ∧ s.mayGo x = true ∧
      (∀ y ∈ s.net.egress, y.frame.link.port = n → y.frame.link.sub = b → s.mayGo y = true →
        (s.line n).rank x ≤ (s.line n).rank y ∧ x.cls ≤ y.cls))

/-- No command touches the queue of the commands that wait behind it, nor the model's elapsed-time clock (log 5): only an empty queue lets
time pass. -/
def Obligations.NoCommandTouchesQueueOrClock : Prop :=
  (∀ (i : Instr) (s t : State), Sys2Proof.Machine.exec i s = .next t → t.pending = s.pending) ∧
  (∀ (i : Instr) (s t : State), Sys2Proof.Machine.exec i s = .next t → t.tm.clk = s.tm.clk)

/-- Every step keeps the invariant of module time: the rate within 100 parts per million (R199), the frequency within the range of its clock
(R198), HOLDOVER and LOCKED only in a module that has been locked (R200), the source and the usable sources within their fields, and PPS_IN
a source in HOLDOVER only (R237). -/
def Obligations.TimeInvariantKeptByEveryStep : Prop :=
  ∀ s t : State, TimeInv s.tm → Sys2Proof.Machine.step s = .next t → TimeInv t.tm

/-! Power, cooling and pins (chapter 15). -/

/-- MOD_EN (R512, R525, R530): an accepted assertion starts the module, an accepted deassertion takes MOD_PG low, leaves one BOOT_STAGE entry
of all ones in the persistent log and turns the regulators off 10 ms later, and a change shorter than its filter does nothing but count. -/
def Obligations.ModuleEnableStartsAndStops : Prop :=
  (∀ (s : State) (us : Nat), testBit s.pwr.pins pinModEn = false → 10000 ≤ us → s.pinFree pinModEn 1000000000 = true →
    s.pwr.phase = .off →
    Runs (.modEnAssert us) s fun t => testBit t.pwr.pins pinModEn = true ∧
      t.pwr = { s.pwr with phase := .starting, phaseAt := s.tm.clk, pins := t.pwr.pins, pinAt := t.pwr.pinAt } ∧ Keeps [.power] s t) ∧
  (∀ (s : State) (us : Nat), s.up = false → testBit s.pwr.pins pinModEn = false → us < 10000 → Idles (.modEnAssert us) s) ∧
  (∀ (s : State) (us : Nat), testBit s.pwr.pins pinModEn = true → 100 ≤ us → s.pwr.phase = .on → s.based = true → s.fw.latch = false →
    s.dev.dump.state ≠ 3 →
    Runs (.modEnDeassert us) s fun t => testBit t.pwr.pins pinModEn = false ∧
      t.pwr = { s.pwr with phase := .turningOff, phaseAt := s.tm.clk, modPg := false, pins := t.pwr.pins, pinAt := t.pwr.pinAt,
                           held := clearBit s.pwr.held pinModEn } ∧
      (∃ e, t.flash.plog.head? = some e ∧ e.event = 0x01 ∧ e.payload = [BitVec.allOnes 64]) ∧
      t.flash = { s.flash with plog := t.flash.plog, plogHead := (s.flash.plogHead + 1) % 1032192 } ∧ Keeps [.power, .flash] s t) ∧
  (∀ s : State, s.pwr.phase = .turningOff → 10000000 ≤ s.since s.pwr.phaseAt → Runs .regulatorsOff s fun t => PowerGone s t .off) ∧
  (∀ s : State, s.pwr.phase = .turningOff → s.since s.pwr.phaseAt < 10000000 → Idles .regulatorsOff s)

/-- A removal of power by the input or by heat (R511, R521): every volatile piece is at its reset value and the flash keeps its content.
A dip of the input that returns (R511, R535): INPUT_SAG is logged with the lowest voltage, every column having
ridden through at the floor's bin 8 or lower frequency, and before MOD_PG the start begins again. -/
def Obligations.InputFaultsAndHeat : Prop :=
  (∀ (s : State) (volts us : Nat), s.pwr.phase ≠ .off → s.pwr.phase ≠ .tripped → volts < 3600 ∨ (volts < 4400 ∧ 5000 < us) →
    Runs (.brownOut volts us) s fun t => PowerGone s t .off) ∧
  (∀ (s : State) (volts us : Nat), s.pwr.phase ≠ .off → s.pwr.phase ≠ .tripped → 6200 < volts ∨ (6000 < volts ∧ 10000 < us) →
    Runs (.overVoltageOff volts us) s fun t => PowerGone s t .off) ∧
  (∀ (s : State) (ms regTemp : Nat), s.up = true → (s.pwr.hotAt.isSome = true ∧ 10 ≤ ms) ∨ 1350 ≤ regTemp →
    Runs (.thermalTrip ms regTemp) s fun t => PowerGone s t .tripped) ∧
  (∀ (s : State) (volts us : Nat), 4400 ≤ volts → Idles (.brownOut volts us) s) ∧
  (∀ (s : State) (low : Nat) (m : PowerIn) (us : Nat), s.based = true → s.pwr.phase ≠ .starting → 3600 ≤ low → low < 4400 → us ≤ 5000 →
    4600 < m.volts →
    Runs (.inputSag low m us) s fun t =>
      Logged t s.leadNow 0xC4 [fields [at_ 63 48 low, at_ 47 32 m.amps, at_ 31 16 m.watts]] ∧
      t.pwr = { s.pwr with cols := t.pwr.cols, volts := sat 16 m.volts, amps := sat 16 m.amps, watts := sat 16 m.watts } ∧
      (∀ c, c < 16 → (t.colPwr c).bin = max 8 (s.colPwr c).bin) ∧ TimersOnly s t ∧ Keeps [.power, .stewards, .firmware, .positions] s t) ∧
  (∀ (s : State) (low : Nat) (m : PowerIn) (us : Nat), s.pwr.phase = .starting → 3600 ≤ low → low < 4400 → us ≤ 5000 → 4600 < m.volts →
    Runs (.inputSag low m us) s fun t => t = { s with pwr := { s.pwr with phaseAt := s.tm.clk } })

/-- THROT_N (R516, R525, R527): while the floor is in force every column stands at bin 8 or lower frequency and the cap at no more than
1,200 W; the floor goes 1 ms after the accepted deassertion.
A phase or a bus converter fails (R514): it leaves service and PHASE_FAIL is logged; the first failure on a rail leaves the column's
limit, and from the second on the limit is no more than 45 A for each phase that remains, at the core voltage (mV).
The fast limiter (R519): above 1.1 times the cap, or above 85.00 A, every column's clock is stretched to a half, or to a quarter when
every column stands at bin 24; below both limits it only keeps what the sensors read.
Emergencies (R516, R521, R523): as one begins the floor comes into force with them, and as one clears only the other and THROT_N keep it. -/
def Obligations.ThrottlesAndPhases : Prop :=
  (∀ (s : State) (ns : Nat), s.up = true → testBit s.pwr.pins pinThrot = false → 1000 ≤ ns → s.pinFree pinThrot 100000 = true →
    Runs (.throtNAssert ns) s fun t => t.pwr.throt = true ∧ t.pwr.throtOffAt = none ∧ t.capNow ≤ 1200 ∧
      (∀ c, c < 16 → (t.colPwr c).bin = max 8 (s.colPwr c).bin) ∧
      (∀ c, 16 ≤ c → t.colPwr c = s.colPwr c) ∧ TimersOnly s t ∧ Keeps [.power, .stewards, .positions] s t) ∧
  (∀ (s : State) (ns : Nat), s.up = true → testBit s.pwr.pins pinThrot = true → 1000 ≤ ns → s.pinFree pinThrot 100000 = true →
    Runs (.throtNDeassert ns) s fun t => testBit t.pwr.pins pinThrot = false ∧
      t.pwr = { s.pwr with pins := t.pwr.pins, held := t.pwr.held, pinAt := t.pwr.pinAt, throtOffAt := some (s.tm.clk + 1000000) } ∧
      Keeps [.power] s t) ∧
  (∀ (s : State) (unit volts : Nat), s.based = true →
    Runs (.phaseFail true unit volts) s fun t =>
      t.pwr = { s.pwr with converters := s.pwr.converters - 1, phaseAlert := true } ∧ Logged t s.leadNow 0xC5 [0xFF] ∧
        Keeps [.power, .stewards, .firmware] s t) ∧
  (∀ (s : State) (c volts : Nat), s.based = true → c < 16 → 12 ≤ (s.colPwr c).phases →
    Runs (.phaseFail false c volts) s fun t =>
      t.colPwr c = { s.colPwr c with phases := (s.colPwr c).phases - 1, phaseFails := inc (s.colPwr c).phaseFails } ∧
        (∀ d, d ≠ c → t.colPwr d = s.colPwr d) ∧ t.pwr.phaseAlert = true ∧ Logged t c 0xC5 [colPwrState (t.colPwr c)] ∧
        Keeps [.power, .stewards, .firmware] s t) ∧
  (∀ (s : State) (c volts : Nat), s.based = true → c < 16 → (s.colPwr c).phases ≤ 11 →
    Runs (.phaseFail false c volts) s fun t =>
      (t.colPwr c).phases = (s.colPwr c).phases - 1 ∧ (t.colPwr c).phaseFails = inc (s.colPwr c).phaseFails ∧
        (t.colPwr c).limit = at_ 8 0 (min (fld (s.colPwr c).limit 8 0) (((s.colPwr c).phases - 1) * 45 * volts / 1000)) ∧
        (∀ d, d ≠ c → t.colPwr d = s.colPwr d) ∧ t.pwr.phaseAlert = true ∧ Keeps [.power, .stewards, .firmware] s t) ∧
  (∀ (s : State) (m : PowerIn), s.based = true → 11 * s.capNow < 10 * m.watts ∨ 8500 < m.amps →
    Runs (.fastLimiter m) s fun t =>
      t.pwr.stretch = (if ∀ c ∈ List.range 16, (s.colPwr c).bin = 24 then 4 else 2) ∧
        (∀ c, c < 16 → t.colPwr c = { s.colPwr c with cause := 6 }) ∧
        t.pwr = { s.pwr with stretch := t.pwr.stretch, cols := t.pwr.cols, volts := sat 16 m.volts, amps := sat 16 m.amps,
                             watts := sat 16 m.watts } ∧ TimersOnly s t ∧ Keeps [.power, .positions] s t) ∧
  (∀ (s : State) (m : PowerIn), s.based = true → 10 * m.watts ≤ 11 * s.capNow → m.amps ≤ 8500 →
    Runs (.fastLimiter m) s fun t =>
      t.pwr = { s.pwr with volts := sat 16 m.volts, amps := sat 16 m.amps, watts := sat 16 m.watts } ∧ Keeps [.power] s t) ∧
  (∀ (s : State) (m : PowerIn) (us : Nat), s.based = true → s.pwr.power = false → m.volts < 4600 → 100 < us →
    ∃ t, Sys2Proof.Machine.exec (.powerEmergency m us) s = .next t ∧ t.pwr.power = true ∧ t.floorOn = true ∧ t.capNow ≤ 1200) ∧
  (∀ (s : State) (m : PowerIn) (ms : Nat), s.based = true → s.pwr.power = true → 4700 ≤ m.volts → m.volts ≤ 6000 → m.amps ≤ 8000 →
    m.regTemp ≤ 1150 → 100 ≤ ms →
    ∃ t, Sys2Proof.Machine.exec (.powerClear m ms) s = .next t ∧ t.floorOn = (s.pwr.throt || s.pwr.thermal) ∧ t.parts = s.parts) ∧
  (∀ (s : State) (tj : List Nat), s.based = true → tj.length = 16 →
    ∃ t, Sys2Proof.Machine.exec (.thermalSample tj) s = .next t ∧ (∀ c, c < 16 → (t.colPwr c).tj = sat 11 (tj.getD c 0)) ∧
      ((∃ x ∈ tj, 1000 ≤ x) → t.floorOn = true ∧ t.capNow ≤ 1200)) ∧
  (∀ s : State, s.based = true → s.pwr.thermal = true → 1000000000 ≤ s.since s.pwr.thermalAt → (∀ c, c < 16 → (s.colPwr c).tj ≤ 950) →
    ∃ t, Sys2Proof.Machine.exec .thermalClear s = .next t ∧ t.floorOn = (s.pwr.throt || s.pwr.power) ∧ t.parts = s.parts)

/-- A power emergency (R511, R523): it begins below 46.00 V for more than 100 µs, above 85.00 A for 1 ms or at 125 °C, counts, is logged with
PWR_INPUT and puts the floor in force; it clears after 100 ms within the limits.
A thermal emergency (R521): it begins at a junction of 100.0 °C, counts and puts the floor in force; it clears one second after the last
junction above 95.0 °C. -/
def Obligations.EmergenciesBeginAndClear : Prop :=
  (∀ (s : State) (m : PowerIn) (us : Nat), s.based = true → s.pwr.power = false →
    (m.volts < 4600 ∧ 100 < us) ∨ (8500 < m.amps ∧ 1000 ≤ us) ∨ 1250 ≤ m.regTemp →
    Runs (.powerEmergency m us) s fun t => t.pwr.power = true ∧ t.pwr.emergencies = inc s.pwr.emergencies ∧
      t.pwr.volts = sat 16 m.volts ∧ t.pwr.amps = sat 16 m.amps ∧ t.pwr.watts = sat 16 m.watts ∧
      (∀ c, c < 16 → (t.colPwr c).bin = max 8 (s.colPwr c).bin) ∧ (s.fw.act = .awaiting → t.fw.act = .deferred) ∧ TimersOnly s t ∧
      Keeps [.power, .stewards, .firmware, .positions] s t) ∧
  (∀ (s : State) (m : PowerIn) (ms : Nat), s.based = true → s.pwr.power = true → 4700 ≤ m.volts → m.volts ≤ 6000 → m.amps ≤ 8000 →
    m.regTemp ≤ 1150 → 100 ≤ ms →
    Runs (.powerClear m ms) s fun t => t.pwr.power = false ∧
      t.pwr = { s.pwr with power := false, volts := sat 16 m.volts, amps := sat 16 m.amps, watts := sat 16 m.watts } ∧
      Keeps [.power, .stewards, .firmware] s t) ∧
  (∀ (s : State) (m : PowerIn) (us : Nat), s.pwr.power = true → Idles (.powerEmergency m us) s) ∧
  (∀ (s : State) (tj : List Nat), s.based = true → s.pwr.thermal = false → tj.length = 16 → (∃ x ∈ tj, 1000 ≤ x) →
    Runs (.thermalSample tj) s fun t => t.pwr.thermal = true ∧ t.pwr.emergencies = inc s.pwr.emergencies ∧ t.pwr.thermalAt = s.tm.clk ∧
      (∀ c, c < 16 → 8 ≤ (t.colPwr c).bin ∧ (t.colPwr c).tj = sat 11 (tj.getD c 0)) ∧ TimersOnly s t ∧
      Keeps [.power, .stewards, .firmware, .positions] s t) ∧
  (∀ (s : State) (tj : List Nat), s.based = true → tj.length = 16 → (∀ x ∈ tj, x < 950) → (∀ c, c < 16 → (s.colPwr c).cooling = false) →
    Runs (.thermalSample tj) s fun t => t.pwr.thermal = s.pwr.thermal ∧ t.pwr.hotAt = none ∧
      (∀ c, c < 16 → t.colPwr c = { s.colPwr c with tj := sat 11 (tj.getD c 0) }) ∧ Keeps [.power] s t) ∧
  (∀ s : State, s.based = true → s.pwr.thermal = true → 1000000000 ≤ s.since s.pwr.thermalAt → (∀ c, c < 16 → (s.colPwr c).tj ≤ 950) →
    Runs .thermalClear s fun t => t.pwr = { s.pwr with thermal := false } ∧ Keeps [.power, .stewards, .firmware] s t)

/-- A tick of the power manager (R513, R516 to R520): every column stands at no more than the frequency its limit and the floor allow, one whose
power exceeds its limit falls, no column rises by more than one bin, and one rises only with room above, below 93.0 °C and a millisecond after
its last rise; each column shows the power it was measured at. While the input power is within the cap no column falls further than it
must. -/
def Obligations.PowerManagerTickKeepsTheLimits : Prop :=
  ∀ (s : State) (ms : List ColMeasure), s.based = true → ms.length = 16 →
    Runs (.pwrManagerTick ms) s fun t =>
      (∀ c, c < 16 → ∀ m, ms[c]? = some m →
        min 24 (s.throtDue.binNeed c m) ≤ (t.colPwr c).bin ∧
        (s.throtDue.floorOn = true → 8 ≤ (t.colPwr c).bin) ∧
        (fld (s.colPwr c).limit 8 0 < m.power → (s.colPwr c).bin < 24 → (s.colPwr c).bin < (t.colPwr c).bin) ∧
        (s.colPwr c).bin ≤ (t.colPwr c).bin + 1 ∧
        ((t.colPwr c).bin < (s.colPwr c).bin →
          s.throtDue.roomAbove c m = true ∧ (s.colPwr c).tj ≤ 930 ∧ 1000000 ≤ s.since (s.colPwr c).raisedAt) ∧
        (s.pwr.watts ≤ s.throtDue.capNow → (t.colPwr c).bin ≤ max (s.colPwr c).bin (min 24 (s.throtDue.binNeed c m))) ∧
        (t.colPwr c).power = sat 12 m.power ∧ (t.colPwr c).limit = (s.colPwr c).limit) ∧
      TimersOnly s t ∧ Keeps [.power, .stewards, .firmware, .positions] s t

/-- Coolant (R522): the flow is P / (3,980 J/(kg K) * 1.02 kg/L * ΔT), in mL/min with temperatures of 0.1 °C; COOLANT comes after 10 s of an
inlet above 40.0 °C or a flow below 3.0 L/min, and goes with the condition. Without a rise in temperature the flow is a free value (log 3).
Remaining life (R531, R533): each record given is kept at its index with its monitor's kind, the others stay; a lowest DAYS below 30 sets
AGEING and logs AGEING_LOW with the summary, once in a day. -/
def Obligations.CoolantLifeAndAgeing : Prop :=
  (∀ (s : State) (inlet outlet watts : Nat), s.based = true → inlet < outlet →
    Runs (.coolantSample inlet outlet watts) s fun t =>
      let flow := sat 16 (6000000 * watts / (40596 * (outlet - inlet)))
      let bad := decide (400 < inlet) || decide (flow < 3000)
      t.pwr = { s.pwr with inlet := sat 16 inlet, outlet := sat 16 outlet, flow := flow, coolant := s.pwr.coolant && bad,
                           coolantBadAt := if bad then some (s.pwr.coolantBadAt.getD s.tm.clk) else none } ∧ Keeps [.power] s t) ∧
  (∀ (s : State) (inlet outlet watts : Nat), s.based = true → outlet ≤ inlet →
    Runs (.coolantSample inlet outlet watts) s fun t =>
      t.pwr = { s.pwr with inlet := sat 16 inlet, outlet := sat 16 outlet, flow := t.pwr.flow, coolant := t.pwr.coolant,
                           coolantBadAt := t.pwr.coolantBadAt } ∧ t.free = s.free + 1 ∧ Keeps [.power, .freeCount] s t) ∧
  (∀ (s : State) (a : Nat), s.based = true → s.pwr.coolantBadAt = some a → 10000000000 ≤ s.since a → s.pwr.coolant = false →
    Runs .coolantWarn s fun t =>
      t.pwr = { s.pwr with coolant := true } ∧ Logged t s.leadNow 0xCA [s.coolantWord] ∧ Keeps [.power, .stewards, .firmware] s t) ∧
  (∀ (s : State) (a : Nat), s.pwr.coolantBadAt = some a → s.since a < 10000000000 → Idles .coolantWarn s) ∧
  (∀ (s : State) (r : LifeRec), s.based = true → r.index < 616 →
    Runs (.lifeUpdate [r]) s fun t =>
      (Table.get default t.pwr.life r.index) =
        { r with kind := lifeKind r.index, ageS := sat 32 (s.since s.pwr.phaseAt / 1000000000),
                 prior := decide (sat 32 (s.since s.pwr.phaseAt / 1000000000) < 86400), days := sat 16 r.days, low := sat 16 r.low,
                 high := sat 16 r.high } ∧
      (∀ i, i ≠ r.index → Table.get default t.pwr.life i = Table.get default s.pwr.life i) ∧
      (∀ x, lowestLife t.pwr.life = some x → x.days < 30 → t.pwr.ageing = true ∧
        ((∀ a, s.pwr.ageLogAt = some a → 86400000000000 ≤ s.since a) → t.pwr.ageLogAt = some s.tm.clk ∧
          Logged t s.leadNow 0xCB [t.lifeSummary])) ∧
      (∀ x, lowestLife t.pwr.life = some x → 30 ≤ x.days → t.pwr.ageing = s.pwr.ageing ∧ t.stew = s.stew) ∧
      Keeps [.power, .stewards, .firmware] s t) ∧
  (∀ (s : State) (r : LifeRec), s.based = true → 616 ≤ r.index →
    Runs (.lifeUpdate [r]) s fun t => t.pwr.life = s.pwr.life ∧ Keeps [.power, .stewards, .firmware] s t)

/-- Planned removal (R529): a REQUEST of a fabric manager parks every running partition at its step and a CANCEL lets it go on; READY comes
when no partition runs, the dump copy is not in progress and the log copy has caught up. -/
def Obligations.PlannedRemoval : Prop :=
  (∀ (s : State) (v : Via), ViaOpen s v 4 → s.pwr.remove = 0 →
    Runs (.pwrRemoveRequest v) s fun t =>
      Answered v 0xA040 0
        { s with pwr := { s.pwr with remove := 1 }
                 parts := s.parts.map fun e => (e.1, if e.2.st = .running ∧ !e.2.parking then { e.2 with parking := true, parkStep := e.2.step } else e.2) } t) ∧
  (∀ (s : State) (v : Via), ViaOpen s v 4 → s.pwr.remove ≠ 0 →
    Runs (.pwrRemoveRequest v) s fun t => Answered v 0xA040 0 s t) ∧
  (∀ (s : State) (v : Via), ViaOpen s v 4 → s.pwr.remove ≠ 0 →
    Runs (.pwrRemoveCancel v) s fun t =>
      Answered v 0xA040 0
        { s with pwr := { s.pwr with remove := 0 }
                 parts := s.parts.map fun e => (e.1, if e.2.st = .running ∧ !e.2.parkHost then { e.2 with parking := false, parkStop := false } else e.2) } t) ∧
  (∀ (s : State) (v : Via), ViaOpen s v 2 → Runs (.pwrRemoveRequest v) s fun t => Answered v 0xA040 3 s t) ∧
  (∀ s : State, s.based = true → s.pwr.remove = 1 → (∀ e ∈ s.parts, e.2.st ≠ .running) → s.dev.dump.state ≠ 3 → s.fw.plogWait = [] →
    Runs .removeReady s fun t => t.pwr = { s.pwr with remove := 2 } ∧ Keeps [.power, .stewards, .firmware] s t) ∧
  (∀ s : State, s.dev.dump.state = 3 ∨ s.fw.plogWait ≠ [] ∨ (∃ e ∈ s.parts, e.2.st = .running) → Idles .removeReady s)

/-- RESET_REQ_N, the held pins and PPS_IN (R201, R486, R525). -/
def Obligations.ResetAndPpsPins : Prop :=
  (∀ (s : State) (us : Nat), s.up = true → testBit s.pwr.pins pinReset = false → 10000 ≤ us → s.pinFree pinReset 10000000000 = true →
    s.dev.dump.state ≠ 1 →
    Runs (.resetReqNAssert us) s fun t => t.up = false ∧ testBit t.pwr.pins pinReset = true ∧ t.dev.source = 2 ∧ t.dev.domain = 1 ∧
      t.dev.warmCount = s.dev.warmCount + 1 ∧ t.parts = [] ∧ t.net.conns = [] ∧ t.pos = [] ∧ t.dev.margins = s.dev.margins) ∧
  (∀ (s : State) (us : Nat), s.up = true → testBit s.pwr.pins pinReset = false → 10000 ≤ us → s.pinFree pinReset 10000000000 = true →
    s.dev.dump.state = 1 →
    Runs (.resetReqNAssert us) s fun t => testBit t.pwr.pins pinReset = true ∧ t.dev = { s.dev with warmDue := some 2 } ∧
      Keeps [.power, .faults] s t) ∧
  (∀ (s : State), testBit s.pwr.pins pinReset = true →
    Runs .resetReqNRelease s fun t => t.dev = { s.dev with resetHeld := false } ∧ testBit t.pwr.pins pinReset = false ∧
      (10000000000 < s.since (Table.get 0 s.pwr.pinAt pinReset) → testBit t.pwr.held pinReset = true) ∧ Keeps [.power, .faults] s t) ∧
  (∀ s : State, s.based = true → testBit s.pwr.pins pinThrot = true → 60000000000 ≤ s.since (Table.get 0 s.pwr.pinAt pinThrot) →
    testBit s.pwr.held pinThrot = false →
    Runs (.pinHeld pinThrot) s fun t => t.pwr = { s.pwr with held := setBit s.pwr.held pinThrot } ∧ Logged t s.leadNow 0xC6 [t.pinStatus] ∧
      Keeps [.power, .stewards, .firmware] s t) ∧
  (∀ s : State, s.based = true → s.tm.ppsEn = true → 2000000000 ≤ s.since s.tm.ppsLast → testBit s.pwr.held pinPps = false →
    Runs (.pinHeld pinPps) s fun t => testBit t.pwr.held pinPps = true ∧ t.tm = { s.tm with ppsOk := false } ∧
      Keeps [.time, .power, .stewards, .firmware] s t) ∧
  (∀ (s : State) (ns : Nat), s.up = true → s.tm.ppsEn = true → 100 ≤ ns → s.tm.everLocked = true → s.tm.st = .holdover →
    s.tm.now.toNat % 1000000000 ≤ 100000 ∨ 999900000 ≤ s.tm.now.toNat % 1000000000 →
    Runs (.ppsInEdge ns) s fun t => t.tm = { s.tm with ppsLast := s.tm.clk, ppsOk := true, source := 3, drift := t.tm.drift } ∧
      -100 ≤ t.tm.drift ∧ t.tm.drift ≤ 100 ∧ Keeps [.time, .power, .freeCount] s t) ∧
  (∀ (s : State) (ns : Nat), s.up = true → s.tm.ppsEn = true → 100 ≤ ns →
    s.tm.everLocked = false ∨ (100000 < s.tm.now.toNat % 1000000000 ∧ s.tm.now.toNat % 1000000000 < 999900000) →
    Runs (.ppsInEdge ns) s fun t => t.tm = { s.tm with ppsLast := s.tm.clk, ppsOk := false, ppsReject := inc s.tm.ppsReject } ∧
      Keeps [.time, .power] s t) ∧
  (∀ (s : State) (ns : Nat), s.tm.ppsEn = false → Idles (.ppsInEdge ns) s)

/-! Start, self-test, the stored image (chapters 01, 13). -/

/-- POWER_UP (R444 to R446, R512): the rails are up, and the ROM of a die that passed picks the preferred recovery copy, counted as a trial;
without a copy that verifies it stays in ROM recovery, with MGMT up at the addresses of R414 and the alert strap. Fewer than four shares, or
a record that is not valid, raise SECURITY_ALARM (R450 to R452).
BASE_STAGE_START (R240, R447, R452, R456): with an identity the base stage starts with its keys, and the SRAM of every column whose ROM
check passed reads zero; without one the module is in recovery. ROM recovery starts no base stage. -/
def Obligations.PowerUpAndBaseStage : Prop :=
  (∀ (s : State) (rom shares : Nat), s.pwr.phase = .off ∨ s.pwr.phase = .starting → testBit rom 0 = true ∨ testBit rom 8 = true →
    rom < 65536 → s.flash.trial < 2 →
    ({ s with fw := { s.fw with identity := decide (4 ≤ popCount 16 shares) } } : State).copyOk (if s.flash.prefer then s.flash.copyB else s.flash.copyA) = true →
    Runs (.powerUp rom shares) s fun t =>
      t.pwr.phase = .on ∧ t.pwr.modPg = true ∧ t.fw.service = .rom ∧ t.fw.romOk = rom ∧ t.fw.romRecovery = false ∧
        t.fw.identity = decide (4 ≤ popCount 16 shares) ∧
        (popCount 16 shares < 4 ∨ s.flash.sec = none ∨ s.flash.seq = none → t.fw.alarm = true ∧ t.fw.alarms ≠ 0) ∧ t.fw.bootCopy = s.flash.prefer ∧
        t.fw.base = some (if s.flash.prefer then s.flash.copyB else s.flash.copyA) ∧
        t.flash = { s.flash with trial := s.flash.trial + 1 } ∧
        t.dev = (if testBit s.pwr.pins pinReset then { s.dev with resetHeld := true } else s.dev) ∧
        (testBit s.pwr.pins pinThrot = true → t.pwr.throt = true ∧ ∀ c, c < 16 → 8 ≤ (t.colPwr c).bin) ∧ TimersOnly s t ∧
        Keeps [.power, .firmware, .flash, .stewards, .faults, .positions] s t) ∧
  (∀ (s : State) (rom shares : Nat), s.pwr.phase = .off ∨ s.pwr.phase = .starting → testBit rom 0 = true ∨ testBit rom 8 = true →
    rom < 65536 → ({ s with fw := { s.fw with identity := decide (4 ≤ popCount 16 shares) } } : State).copyOk s.flash.copyA = false →
    ({ s with fw := { s.fw with identity := decide (4 ≤ popCount 16 shares) } } : State).copyOk s.flash.copyB = false →
    Runs (.powerUp rom shares) s fun t =>
      t.fw.romRecovery = true ∧ t.fw.base = none ∧ t.net.mgmtUp = true ∧ t.net.mgmt.cfg = BitVec.ofNat 64 mgmtMac ∧ t.pwr.alertStrap = true ∧ t.pwr.modPg = true) ∧
  (∀ (s : State) (rom shares : Nat), s.pwr.phase = .on → Idles (.powerUp rom shares) s) ∧
  (∀ (s : State) (b : FwInfo), s.up = true → s.fw.service = .rom → s.fw.base = some b → s.fw.romRecovery = false →
    Runs .baseStageStart s fun t =>
      t.fw.service = (if s.fw.latch || !s.fw.identity then .recovery else .starting) ∧
        t.fw.aliasKeys = (!s.fw.latch && s.fw.identity) ∧ t.fw.latch = (s.fw.latch || !s.fw.identity) ∧
        (s.fw.mlog.length + 2 ≤ 4096 → (t.fw.mlog.drop s.fw.mlog.length).map (·.kind) = [1, 2] ∧ t.fw.mlog.take s.fw.mlog.length = s.fw.mlog) ∧
        (∀ a, a < 2 ^ 40 → dpaHbm a = true → Table.get 0 t.mem.cells a = Table.get 0 s.mem.cells a) ∧
        (∀ a, a < 2 ^ 40 → dpaHbm a = false → testBit s.fw.romOk (dpaCol a) = true → Table.get 0 t.mem.cells a = 0) ∧
        Logged t s.leadNow 0x01 [t.fwStatus] ∧ Keeps [.firmware, .memory, .stewards, .structure_] s t) ∧
  (∀ s : State, s.fw.romRecovery = true → Idles .baseStageStart s)

/-- A column's self-test (R18 to R21): its result and service bits, and the lead, which is the lowest column that passed.
STORED_IMAGE_APPLY (R414, R415, R443): once every column that may has been tested, MGMT comes up with the addresses of R414; without a
stored image the module is in standby with no partition changed, one whose signature fails is rejected and alarms (R480), and in recovery it
applies none. -/
def Obligations.SelfTestAndStandby : Prop :=
  (∀ (s : State) (c : Nat) (pass : Bool), s.up = true → c < 16 → testBit s.dev.tested c = false → s.fw.service = .starting →
    Runs (.selftestDone c pass) s fun t =>
      t.dev.tested = setBit s.dev.tested c ∧
        t.dev.selftest = (if pass && testBit s.fw.romOk c then setBit s.dev.selftest c else s.dev.selftest) ∧
        t.dev.inService = (if pass && testBit s.fw.romOk c then setBit s.dev.inService c else s.dev.inService) ∧
        (∀ k, k < 16 → testBit t.dev.selftest k = true → (∀ j, j < k → testBit t.dev.selftest j = false) → t.dev.lead = k) ∧
        ((pass && testBit s.fw.romOk c) = true → s.fw.latch = false → t.flash.trial = 0) ∧
        Keeps [.faults, .flash, .firmware, .power] s t) ∧
  (∀ (s : State) (c : Nat) (pass : Bool), testBit s.dev.tested c = true → Idles (.selftestDone c pass) s) ∧
  (∀ s : State, s.up = true → s.fw.service = .starting → (∀ c ∈ bitsOf 16 s.fw.romOk, testBit s.dev.tested c = true) → s.dev.selftest ≠ 0 →
    s.net.mgmtUp = false → s.storedHalf = none → s.storedForged = false →
    Runs .storedImageApply s fun t =>
      t.fw.service = .standby ∧ t.net.mgmtUp = true ∧ t.net.mgmt.cfg = BitVec.ofNat 64 mgmtMac ∧
        t.net.mgmt.ip6Lo = BitVec.ofNat 64 (linkLocal mgmtMac) ∧ Logged t s.leadNow 0x01 [t.fwStatus] ∧
        Keeps [.network, .firmware, .stewards] s t) ∧
  (∀ s : State, s.up = true → s.fw.service = .starting → s.fw.latch = false → (∀ c ∈ bitsOf 16 s.fw.romOk, testBit s.dev.tested c = true) →
    s.dev.selftest ≠ 0 → s.net.mgmtUp = false → s.storedHalf = none → s.storedForged = true →
    Runs .storedImageApply s fun t =>
      t.xsi.st = 4 ∧ t.xsi.cause = 5 ∧ t.xsi.rejects = inc s.xsi.rejects ∧ t.fw.alarms = inc s.fw.alarms ∧ fld t.fw.alarmLast 63 60 = 1 ∧
        t.fw.service = (if s.zeroisePolicy then .recovery else .standby) ∧ t.net.mgmtUp = true ∧ t.flash.half0 = s.flash.half0) ∧
  (∀ s : State, s.up = true → s.fw.service = .recovery → (∀ c ∈ bitsOf 16 s.fw.romOk, testBit s.dev.tested c = true) → s.dev.selftest ≠ 0 →
    s.net.mgmtUp = false →
    Runs .storedImageApply s fun t => t.net.mgmtUp = true ∧ t.fw = s.fw ∧ Keeps [.network, .stewards] s t) ∧
  (∀ s : State, s.dev.selftest = 0 → Idles .storedImageApply s)

/-! Watchdogs, hangs, logs, dumps and resets (chapters 13, 14). -/

/-- A steward's watchdog and its standby (R471, R472, R493): a fire holds the steward, counts, and takes a dump that names it; then the
standby, eight columns on, carries its duties when its column is in service, and otherwise the column leaves service.
Heartbeats and lanes (R384, R490, R491): a counter that has changed starts a new run of samples and raises nothing; the tenth sample of
one value raises UNIT_HANG for its unit; a lane that fails its self-test is marked and logged once. -/
def Obligations.StewardsAndHeartbeats : Prop :=
  (∀ (s : State) (c : Nat), s.based = true → c < 16 → (s.steward c).held = false →
    Runs (.wdFire c) s fun t =>
      (t.steward c).held = true ∧ (t.steward c).fires = inc (s.steward c).fires ∧
        (s.dev.dump.state = 0 ∨ s.dev.dump.state = 4 → t.dev.dump.state = 1 ∧ t.dev.dump.trigger = 6 ∧ t.dev.dump.triggerUnit = c * 4096 + 294) ∧
        (s.fw.act ≠ .probation → t.fw.act = s.fw.act ∧ t.fw.service = s.fw.service ∧ ∀ d, d ≠ c → t.steward d = s.steward d) ∧
        Keeps [.stewards, .firmware, .faults, .freeCount] s t) ∧
  (∀ (s : State) (c : Nat), s.based = true → (s.steward c).held = true → s.inService c = true → testBit s.dev.standbyActive c = false →
    s.inService ((c + 8) % 16) = true →
    Runs (.standbyTakeover c) s fun t =>
      t.dev = { s.dev with standbyActive := setBit s.dev.standbyActive c } ∧
        t.steward ((c + 8) % 16) = { s.steward ((c + 8) % 16) with carrying := true } ∧ Keeps [.faults, .stewards] s t) ∧
  (∀ (s : State) (c : Nat), s.based = true → (s.steward c).held = true → s.inService c = true → testBit s.dev.standbyActive c = false →
    s.inService ((c + 8) % 16) = false →
    Runs (.standbyTakeover c) s fun t => t.inService c = false ∧ (∀ d, d ≠ c → t.inService d = s.inService d) ∧ Keeps [.faults] s t) ∧
  (∀ (s : State) (c : Nat), (s.steward c).held = true → Idles (.wdFire c) s) ∧
  (∀ (s : State) (c : Nat) (beats : List (Nat × Nat)), s.based = true → s.inService c = true →
    (∀ u, u < 296 → u ≠ 294 → ∃ v, beats.find? (fun e => e.1 = u) = some (u, v) ∧ v % 65536 ≠ (Table.get Beat.reset s.dev.beats (c * 4096 + u)).value) →
    s.dev.heldUnits = [] →
    Runs (.heartbeatSample c beats) s fun t =>
      (∀ u v, u < 296 → u ≠ 294 → beats.find? (fun e => e.1 = u) = some (u, v) →
        Table.get Beat.reset t.dev.beats (c * 4096 + u) = ⟨v % 65536, 1, s.tm.now.toNat⟩) ∧
      t.dev = { s.dev with beats := t.dev.beats } ∧ Keeps [.faults] s t) ∧
  (∀ (s : State) (c u v at' : Nat), s.based = true → c < 16 → s.inService c = true → u < 272 → v < 65536 →
    Table.get Beat.reset s.dev.beats (c * 4096 + u) = ⟨v, 9, at'⟩ →
    (∀ w, w < 296 → w ≠ 294 → w ≠ u → (Table.get Beat.reset s.dev.beats (c * 4096 + w)).same ≤ 8) → s.dev.heldUnits = [] →
    Runs (.heartbeatSample c [(u, v)]) s fun t =>
      t.dev.hangs = inc s.dev.hangs ∧ t.dev.heldUnits = [c * 4096 + u] ∧ fld t.dev.hangLast 63 48 = c * 4096 + u ∧
        (∀ n, s.posOfSlot (16 * c + u / 17) (u % 17) = some n → (t.posn n).fails = 2 ∧ (t.posn n).set0 = [] ∧ (t.posn n).set1 = [] ∧
          ∀ m, m ≠ n → t.posn m = s.posn m)) ∧
  (∀ (s : State) (k : Nat), s.up = true → k < 256 → s.inService (k / 16) = true → (s.cluster k).laneFailed = false →
    Runs (.laneSelftest k false) s fun t =>
      t.cluster k = { s.cluster k with laneFailed := true } ∧ (∀ j, j ≠ k → t.cluster j = s.cluster j) ∧
        Logged t (k / 16) 0x71 [(s.cluster k).lastFail] ∧ Keeps [.clusters, .stewards, .firmware] s t) ∧
  (∀ (s : State) (k : Nat), Idles (.laneSelftest k true) s)

/-- The measurement digest and the persistent log (R459, R474, R476): untouched copies raise nothing; any difference raises SECURITY_ALARM
with source 6; waiting entries are copied, at most 1,024 in a second, and the others are counted as lost.
A trace (R475): with its class enabled it is an entry of severity 0 with TRACE set, whose point number is the model's free value (log 109)
and which carries its arguments; with the class disabled it is nothing; and it never changes anything but the log. -/
def Obligations.DigestCheckAndLogCopy : Prop :=
  (∀ s : State, s.fw.dropped = 0 → s.fw.digest = digestOf s.fw.mlog → s.fw.digestCopy = s.fw.digest → s.fw.digest.length = 64 →
    Idles (.logDigestCheck 0) s) ∧
  (∀ (s : State) (upset : Nat), s.based = true → s.fw.dropped = 0 → s.fw.digestCopy = s.fw.digest → s.fw.digest.length = 64 →
    upset ≠ 0 → upset < 2 ^ 512 →
    Runs (.logDigestCheck upset) s fun t => t.fw.alarms = inc s.fw.alarms ∧ t.fw.alarm = true ∧ fld t.fw.alarmLast 63 60 = 6) ∧
  (∀ s : State, s.based = true → s.since s.fw.plogAt < 1000000000 → s.fw.plogCount ≤ 1024 →
    Runs .plogCopy s fun t =>
      let n := min s.fw.plogWait.length (1024 - s.fw.plogCount)
      t.fw = { s.fw with plogWait := [], plogCount := s.fw.plogCount + n, plogLost := incBy s.fw.plogLost (s.fw.plogWait.length - n) } ∧
        t.flash = { s.flash with plog := ((s.fw.plogWait.take n).reverse ++ s.flash.plog).take 1032192
                                 plogHead := (s.flash.plogHead + n) % 1032192 } ∧ Keeps [.flash, .firmware] s t) ∧
  (∀ s : State, s.based = true → 1000000000 ≤ s.since s.fw.plogAt → s.fw.plogWait.length ≤ 1024 →
    Runs .plogCopy s fun t => t.fw.plogLost = incBy s.fw.plogLost 0 ∧ t.fw.plogWait = [] ∧ t.fw.plogAt = s.tm.clk ∧
      t.flash.plog = (s.fw.plogWait.reverse ++ s.flash.plog).take 1032192 ∧ Keeps [.flash, .firmware] s t) ∧
  (∀ (s : State) (col part k point : Nat) (args : List Nat), k < 12 → bit s.fw.trace k = true →
    (∃ e, ((s.trace col part k point args).steward col).ring.head? = some e ∧ e.event = 0xF0 + k ∧ e.sev = 0 ∧ e.flags = 1 ∧
      e.time = s.tm.now ∧ e.payload = Config.tracePoint k point :: args.map (BitVec.ofNat 64 ·)) ∧
    Keeps [.stewards] s (s.trace col part k point args)) ∧
  (∀ (s : State) (col part k point : Nat) (args : List Nat), 12 ≤ k ∨ bit s.fw.trace k = false → s.trace col part k point args = s)

/-- The crash dump (R489, R493 to R495): TAKE begins one where none is held, and counts a skip where one is held and not acknowledged; ACK
lets the next one replace it; DUMP_DONE records every unit; DUMP_COPY starts a copy to the flash and completes it. -/
def Obligations.CrashDump : Prop :=
  (∀ (s : State) (v : Via), ViaOpen s v 4 → s.dev.dump.state = 0 →
    Runs (.devDumpTake v) s fun t => ∃ u, Answered v 0x8010 0 u t ∧
      u.dev.dump.state = 1 ∧ u.dev.dump.trigger = 0 ∧ u.dev.dump.seq = s.dev.dump.seq + 1 ∧ u.dev.dump.time = s.tm.now ∧
        u.dev = { s.dev with dump := u.dev.dump } ∧ u.free = s.free + 1 ∧ Keeps [.faults, .freeCount] s u) ∧
  (∀ (s : State) (v : Via), ViaOpen s v 4 → s.dev.dump.state = 2 → s.dev.dump.acked = false →
    Runs (.devDumpTake v) s fun t =>
      Answered v 0x8010 0 { s with dev := { s.dev with dumpSkipped := inc s.dev.dumpSkipped } } t) ∧
  (∀ (s : State) (v : Via), ViaOpen s v 4 → s.dev.dump.state = 2 ∨ s.dev.dump.state = 3 ∨ s.dev.dump.state = 4 →
    Runs (.devDumpAck v) s fun t =>
      Answered v 0x8010 0 { s with dev := { s.dev with dump := { s.dev.dump with acked := true } } } t) ∧
  (∀ (s : State) (un : List Nat), s.up = true → s.dev.dump.state = 1 → s.dev.warmDue = none →
    Runs (.dumpDone un) s fun t =>
      t.dev.dump.state = 2 ∧ t.dev.dump.recs.map (·.unit) = (List.range 16).flatMap (fun c => (List.range 296).map fun u => c * 4096 + u) ∧
        (∀ r ∈ t.dev.dump.recs, (s.inService (r.unit / 4096) = false → r.status = 3) ∧
          (s.inService (r.unit / 4096) = true → un.contains r.unit = true → r.status = 1) ∧
          (s.inService (r.unit / 4096) = true → un.contains r.unit = false → r.status = 0 ∨ (r.status = 2 ∧ t.dev.dump.truncated = true))) ∧
        t.dev.resetDue = s.dev.resetDue ++ s.dev.dump.resetAfter ∧ Logged t s.leadNow 0x99 [t.dumpStatus] ∧
        Keeps [.faults, .stewards, .firmware] s t) ∧
  (∀ s : State, s.up = true → s.fw.service = .standby ∨ s.fw.service = .operational → s.pwr.power = false → s.pwr.thermal = false →
    s.dev.dump.state = 2 →
    Runs .dumpCopy s fun t => t.dev = { s.dev with dump := { s.dev.dump with state := 3 } } ∧ Keeps [.faults] s t) ∧
  (∀ s : State, s.up = true → s.fw.service = .standby ∨ s.fw.service = .operational → s.pwr.power = false → s.pwr.thermal = false →
    s.dev.dump.state = 3 →
    Runs .dumpCopy s fun t => t.dev.dump.state = 4 ∧ t.flash = { s.flash with dumpCopy := some t.dev.dump } ∧
      Logged t s.leadNow 0x9A [t.dumpStatus] ∧ Keeps [.faults, .flash, .stewards, .firmware] s t) ∧
  (∀ s : State, s.up = true → s.pwr.power = true ∨ s.pwr.thermal = true → s.dev.dump.state = 3 →
    Runs .dumpCopy s fun t => t.dev = { s.dev with dump := { s.dev.dump with state := 2 } } ∧ t.flash = s.flash ∧ Keeps [.faults] s t)

/-- DEV_RESET of a core or a cluster (R481, R485): the core state of the position, or of every position of the cluster, is cleared and its
registers and countdowns are kept, the fill cycles of a fall that no tile has ended counted first (R122, R134); while a schedule runs on the cluster the write is answered 0x04 and changes nothing. -/
def Obligations.DevResetOfCoresAndClusters : Prop :=
  (∀ (s : State) (v : Via) (n : Nat), ViaOpen s v 4 → n < 4096 → s.clusterRuns (n / 16) = false →
    Runs (.devResetCore v n) s fun t => ∃ u, Answered v 0x8000 0 u t ∧
      u.posn n = { s.posn n with set0 := [], set1 := [], operands := [], waiting := [], replay := none, timer := .reset, blocks := [],
                                 owed := [], tops := [], saves := [], fill := incBy (s.posn n).fill (s.fallNow n).1 } ∧
      (∀ m, m ≠ n → u.posn m = s.posn m) ∧ Logged u s.leadNow 0x98 [resetWord 1 n] ∧ Keeps [.positions, .stewards, .firmware] s u) ∧
  (∀ (s : State) (v : Via) (k : Nat), ViaOpen s v 4 → k < 256 → s.clusterRuns k = false →
    Runs (.devResetCluster v k) s fun t => ∃ u, Answered v 0x8000 0 u t ∧
      (∀ p, p < 16 → u.posn (16 * k + p) =
        { s.posn (16 * k + p) with set0 := [], set1 := [], operands := [], waiting := [], replay := none, timer := .reset, blocks := [],
                                   owed := [], tops := [], saves := [],
                                   fill := incBy (s.posn (16 * k + p)).fill (s.fallNow (16 * k + p)).1 }) ∧
      (∀ m, m / 16 ≠ k → u.posn m = s.posn m) ∧ u.cluster k = { s.cluster k with queue := [] } ∧
      (∀ j, j ≠ k → u.cluster j = s.cluster j) ∧ Logged u s.leadNow 0x98 [resetWord 2 k] ∧
      Keeps [.positions, .clusters, .stewards, .firmware] s u) ∧
  (∀ (s : State) (v : Via) (n : Nat), ViaOpen s v 4 → n < 4096 → s.clusterRuns (n / 16) = true →
    Runs (.devResetCore v n) s fun t => Answered v 0x8000 4 s t) ∧
  (∀ (s : State) (v : Via) (k : Nat), ViaOpen s v 4 → k < 256 → s.clusterRuns k = true →
    Runs (.devResetCluster v k) s fun t => Answered v 0x8000 4 s t)

/-- DEV_RESET of a column, a port or the module (R481 to R485, R509): a column becomes due, a port's link state is cleared and its sub-ports that were
up report LINK_DOWN, a warm reset
keeps flash, dump, margins and logs and clears the rest, and a cold reset is a removal of power after which the module starts again. A
session's write is refused. -/
def Obligations.DevResetOfColumnsPortsAndModule : Prop :=
  (∀ (s : State) (v : Via) (c : Nat), ViaOpen s v 4 → c < 16 →
    Runs (.devResetColumn v c) s fun t => ∃ u, Answered v 0x8000 0 u t ∧ u.dev = { s.dev with resetDue := s.dev.resetDue ++ [c] } ∧
      Logged u s.leadNow 0x98 [resetWord 3 c] ∧ Keeps [.faults, .stewards, .firmware] s u) ∧
  (∀ (s : State) (v : Via) (n b : Nat), ViaOpen s v 4 → n < 16 → b < 8 → testBit (s.port n).subs b = true →
    Runs (.devResetPort v n) s fun t => ∃ u, Answered v 0x8000 0 u t ∧
      (u.port n).subs = 0 ∧ (u.port n).lanes = 0 ∧ (u.port n).paused = 0 ∧ (u.port n).cfg = (s.port n).cfg ∧ (u.port n).tx = (s.port n).tx ∧
      (n ≠ s.leadNow → Logged u n 0x50 [portStatus (u.port n)]) ∧ Logged u s.leadNow 0x98 [resetWord 4 n] ∧
      Keeps [.network, .stewards, .firmware] s u) ∧
  (∀ (s : State) (v : Via) (n : Nat), ViaOpen s v 4 → n < 16 → (s.port n).subs = 0 →
    Runs (.devResetPort v n) s fun t => ∃ u, Answered v 0x8000 0 u t ∧
      u.port n = { s.port n with lanes := 0, subs := 0, paused := 0, pfcAt := [] } ∧ (∀ m, m ≠ n → u.port m = s.port m) ∧
      u.net = { s.net with ports := u.net.ports } ∧ Logged u s.leadNow 0x98 [resetWord 4 n] ∧ Keeps [.network, .stewards, .firmware] s u) ∧
  (∀ (s : State) (v : Via), ViaOpen s v 4 → s.dev.dump.state ≠ 1 →
    Runs (.devResetModuleWarm v) s fun t => t.fw.service = .rom ∧ t.dev.domain = 1 ∧ t.dev.source = 1 ∧
      t.dev.warmCount = s.dev.warmCount + 1 ∧ t.dev.margins = s.dev.margins ∧
      t.dev.dump = { s.dev.dump with state := if s.dev.dump.state = 3 then 2 else s.dev.dump.state } ∧ t.parts = [] ∧ t.slots = [] ∧
      t.pos = [] ∧ t.cls = [] ∧ t.net.conns = [] ∧ t.mem = .reset ∧ t.flash.plog = s.flash.plog ∧ t.flash.sec = s.flash.sec ∧
      Logged t t.leadNow 0x98 [t.resetCause] ∧ t.pwr.life = s.pwr.life ∧ t.pwr.phase = s.pwr.phase) ∧
  (∀ (s : State) (v : Via), ViaOpen s v 4 → s.dev.dump.state = 1 →
    Runs (.devResetModuleWarm v) s fun t => Answered v 0x8000 0 { s with dev := { s.dev with warmDue := some 1 } } t) ∧
  (∀ (s : State) (v : Via), ViaOpen s v 4 →
    Runs (.devResetModuleCold v) s fun t => t.flash = s.flash ∧ t.pwr.phase = .starting ∧ t.pwr.modPg = false ∧
      t.dev = { Dev.reset with domain := 2, source := 1 } ∧ t.fw = .reset ∧ t.mem = .reset ∧ t.parts = [] ∧ t.net.conns = [] ∧
      t.stew = []) ∧
  (∀ (s : State) (v : Via), ViaOpen s v 2 → Runs (.devResetModuleCold v) s fun t => Answered v 0x8000 3 s t)

/-- COLUMN_RESET (R24, R481, R484): a column that is due loses its positions, counters and link state, its resets are counted, and it is
back in service exactly when it passes; a column that is not due is untouched. -/
def Obligations.ColumnResetClearsTheColumn : Prop :=
  (∀ (s : State) (c : Nat) (pass : Bool), s.up = true → c < 16 → s.dev.resetDue.contains c = true →
    Runs (.columnReset c pass) s fun t =>
      t.inService c = (pass && testBit s.dev.selftest c) ∧ t.dev.resetDue.contains c = false ∧
        (t.col c).devResets = inc (s.col c).devResets ∧ (t.col c).ce = 0 ∧ (t.col c).lastErr = 0 ∧
        (∀ n, n / 256 = c → t.posn n = .reset) ∧ (∀ n, n / 256 ≠ c → t.posn n = s.posn n) ∧
        (∀ k, k / 16 = c → t.cluster k = { Cluster.reset with ramp := (s.cluster k).ramp }) ∧
        (t.port c).cfg = (s.port c).cfg ∧ (t.port c).subs = 0 ∧ (t.steward c).held = false ∧ t.dev.margins = s.dev.margins ∧
        (∀ a, a < 2 ^ 40 → dpaCol a = c → dpaHbm a = false → Table.get 0 t.mem.cells a = 0)) ∧
  (∀ (s : State) (c : Nat) (pass : Bool), s.dev.resetDue.contains c = false → Idles (.columnReset c pass) s)

/-! Structure images, claims and teardowns (chapter 12). -/

/-- Staging claims (R417, R418, R461): CLAIM takes a free buffer, empty; another connection's claim is refused with 0x04; RELEASE gives the
holder's claim up; a claim with no SEND for 60 s lapses.
XSI_LOAD (R419, R420, R426): START by the claim's holder checks the staged image; one whose first bytes are no image header is rejected
with cause 0x01 and changes no structure; a valid one waits to be applied. Anyone else, or a load under way, is answered 0x04. -/
def Obligations.StagingAndLoadStart : Prop :=
  (∀ (s : State) (v : Via) (k : Nat), k = 2 ∨ k = 4 → ViaOpen s v k → s.xsi.stage.holder = none → s.fw.stage.holder ≠ some v.conn →
    Runs (.xsiStageClaim v) s fun t =>
      Answered v 0x6000 0 { s with xsi := { s.xsi with stage := ⟨some v.conn, [], s.tm.clk⟩ } } t) ∧
  (∀ (s : State) (v : Via) (k h : Nat), k = 2 ∨ k = 4 → ViaOpen s v k → s.xsi.stage.holder = some h → h ≠ v.conn →
    Runs (.xsiStageClaim v) s fun t => Answered v 0x6000 4 s t) ∧
  (∀ (s : State) (v : Via) (k : Nat), k = 2 ∨ k = 4 → ViaOpen s v k → s.xsi.stage.holder = some v.conn →
    Runs (.xsiStageRelease v) s fun t => Answered v 0x6000 0 { s with xsi := { s.xsi with stage := ⟨none, [], 0⟩ } } t) ∧
  (∀ (s : State) (v : Via) (k : Nat), k = 2 ∨ k = 4 → ViaOpen s v k → s.xsi.stage.holder ≠ some v.conn →
    Runs (.xsiStageRelease v) s fun t => Answered v 0x6000 0 s t) ∧
  (∀ (s : State) (v : Via), ViaOpen s v 4 → s.fw.stage.holder = none → s.xsi.stage.holder ≠ some v.conn →
    Runs (.fwStageClaim v) s fun t => Answered v 0x7020 0 { s with fw := { s.fw with stage := ⟨some v.conn, [], s.tm.clk⟩ } } t) ∧
  (∀ (s : State) (v : Via), ViaOpen s v 4 → s.fw.stage.holder = some v.conn →
    Runs (.fwStageRelease v) s fun t => Answered v 0x7020 0 { s with fw := { s.fw with stage := ⟨none, [], 0⟩ } } t) ∧
  (∀ (s : State) (v : Via), ViaOpen s v 2 → Runs (.fwStageClaim v) s fun t => Answered v 0x7020 3 s t) ∧
  (∀ (s : State) (h : Nat), s.up = true → s.xsi.stage.holder = some h → 60000000000 ≤ s.since s.xsi.stage.at_ →
    Runs (.stageClaimLapse false) s fun t => t.xsi = { s.xsi with stage := ⟨none, [], 0⟩ } ∧ Keeps [.structure_] s t) ∧
  (∀ (s : State) (h : Nat), s.up = true → s.fw.stage.holder = some h → 60000000000 ≤ s.since s.fw.stage.at_ →
    Runs (.stageClaimLapse true) s fun t => t.fw = { s.fw with stage := ⟨none, [], 0⟩ } ∧ Keeps [.firmware] s t) ∧
  (∀ (s : State), s.since s.xsi.stage.at_ < 60000000000 → Idles (.stageClaimLapse false) s) ∧
  (∀ (s : State) (v : Via) (k : Nat) (e : XsiBad), k = 2 ∨ k = 4 → ViaOpen s v k → s.xsi.st ≠ 1 → s.xsi.st ≠ 2 →
    (∀ x ∈ s.parts, x.2.st ≠ .tearing) → s.xsi.stage.holder = some v.conn →
    ({ s with xsi := { s.xsi with st := 1, cause := 0, sect := 0, offset := noOffset, loader := some v.conn } } : State).xsiCheck
      s.xsi.stage.buf false = .error e → e.cause ≠ 5 → e.cause ≠ 6 →
    Runs (.xsiLoadStart v) s fun t => ∃ u, Answered v 0x6010 0 u t ∧
      u.xsi = { s.xsi with st := 4, cause := e.cause, sect := e.sect, offset := e.off, rejects := inc s.xsi.rejects, image := none,
                           stage := ⟨none, [], 0⟩, loader := none } ∧
      Logged u s.leadNow 0x08 [u.xsiLoadStatus] ∧ Keeps [.structure_, .stewards, .firmware] s u) ∧
  (∀ (s : State) (v : Via) (k : Nat) (rs : List XRec), k = 2 ∨ k = 4 → ViaOpen s v k → s.xsi.st ≠ 1 → s.xsi.st ≠ 2 →
    (∀ x ∈ s.parts, x.2.st ≠ .tearing) → s.xsi.stage.holder = some v.conn →
    ({ s with xsi := { s.xsi with st := 1, cause := 0, sect := 0, offset := noOffset, loader := some v.conn } } : State).xsiCheck
      s.xsi.stage.buf false = .ok rs →
    Runs (.xsiLoadStart v) s fun t => ∃ u, Answered v 0x6010 0 u t ∧
      u.xsi = { s.xsi with st := 1, cause := 0, sect := 0, offset := noOffset, loader := some v.conn
                           image := some (s.xsi.stage.buf.take (xLen s.xsi.stage.buf)) } ∧ Keeps [.structure_, .stewards] s u) ∧
  (∀ (s : State) (v : Via) (k : Nat), k = 2 ∨ k = 4 → ViaOpen s v k →
    s.xsi.st = 1 ∨ s.xsi.st = 2 ∨ (∃ x ∈ s.parts, x.2.st = .tearing) ∨ s.xsi.stage.holder ≠ some v.conn →
    Runs (.xsiLoadStart v) s fun t => Answered v 0x6010 4 s t) ∧
  (∀ (s : State) (b : Bytes), b.length < 328 → ∃ e, s.xsiCheck b false = .error e ∧ e.cause = 1)

/-- XSI_APPLY (R428, R413): with no changed partition the image is applied at once, counted and logged, and every partition that exists
goes on as it was but for its sequence number; a changed one is torn down first, and the load waits for it. -/
def Obligations.StructureImageIsApplied : Prop :=
  (∀ (s : State) (img : Bytes) (rs : List XRec), s.based = true → s.xsi.image = some img → s.xsi.st = 1 → xsiRecs img = .ok rs →
    s.xsiTorn img rs = [] → s.fw.zeroDue = false →
    Runs .xsiApply s fun t =>
      t.xsi.st = 3 ∧ t.xsi.image = none ∧ t.xsi.loads = inc s.xsi.loads ∧ t.xsi.loader = none ∧
        (xTenant img = false → t.xsi.ownerSeq = xSeq img ∧ t.xsi.ownerImage = true) ∧
        (∀ p, (s.part p).st ≠ .absent → t.part p = { s.part p with seq := (t.part p).seq }) ∧
        Logged t s.leadNow 0x09 [t.xsiLoadStatus]) ∧
  (∀ (s : State) (img : Bytes) (rs : List XRec), s.based = true → s.xsi.image = some img → s.xsi.st = 1 → xsiRecs img = .ok rs →
    s.xsiTorn img rs ≠ [] →
    Runs .xsiApply s fun t => t.xsi.st = 2 ∧ t.xsi.tornWait = s.xsiTorn img rs ∧ t.xsi.image = some img ∧
      (∀ p ∈ s.xsiTorn img rs, (t.part p).st = .tearing) ∧ (∀ p, p ∉ s.xsiTorn img rs → (t.part p).st = (s.part p).st)) ∧
  (∀ s : State, s.xsi.st ≠ 1 → Idles .xsiApply s)

/-- Steps 2 to 7 of a teardown (R313, R431, R436): after 10 ms the silent peers are abandoned and the transport generation goes up; when
the drain count is zero a vacated partition is ready, and a removed one is absent with its generation kept and its entries free. -/
def Obligations.TeardownRunsItsSteps : Prop :=
  (∀ (s : State) (p : Nat) (x : Tear), s.up = true → (s.part p).tear = some x → x.stage = 2 → 10000000 ≤ s.since x.at_ →
    (∀ a, (s.part p).tgenAt = some a → 16000000 ≤ s.since a) →
    Runs (.teardownPeerTimeout p) s fun t =>
      (t.part p).tgen = ((s.part p).tgen + 1) % 256 ∧ (t.part p).tgenAt = some s.tm.clk ∧
        (t.part p).tear = some { remove := x.remove, at_ := s.tm.clk, closing := [], stage := 5 } ∧
        (∀ c ∈ x.closing, (t.conn c).st = 0) ∧ (∀ q, q ≠ p → (t.part q).tgen = (s.part q).tgen)) ∧
  (∀ (s : State) (p : Nat) (x : Tear), (s.part p).tear = some x → s.since x.at_ < 10000000 → Idles (.teardownPeerTimeout p) s) ∧
  (∀ (s : State) (p : Nat) (x : Tear), s.up = true → p < 16 → (s.part p).tear = some x → x.stage = 5 → s.drainCount p = 0 → x.remove = false →
    s.xsi.image = none →
    Runs (.teardownDrainDone p) s fun t =>
      (t.part p).st = .ready ∧ (t.part p).tear = none ∧ (t.part p).streams = [] ∧ (t.part p).tgen = (s.part p).tgen ∧
        (∀ i, i < (s.part p).slotCount → t.slot ((s.part p).slotFirst + i) = { Slot.reset with cfg := (s.part p).cfgDefault }) ∧
        (∀ n ∈ partPositions (s.part p), (t.posn n).set0 = [] ∧ (t.posn n).waiting = [] ∧ (t.posn n).g = 0) ∧
        (∀ q, q ≠ p → t.part q = { s.part q with dma := (t.part q).dma })) ∧
  (∀ (s : State) (p : Nat) (x : Tear), s.up = true → p < 16 → (s.part p).tear = some x → x.stage = 5 → s.drainCount p = 0 → x.remove = true →
    s.xsi.image = none →
    Runs (.teardownDrainDone p) s fun t =>
      t.part p = { Part.reset with tgen := (s.part p).tgen, tgenAt := (s.part p).tgenAt, seq := (s.part p).seq, stuck := (s.part p).stuck } ∧
        (∀ i, i < (s.part p).connCount → t.conn ((s.part p).connFirst + i) = .reset) ∧
        (∀ i, i < (s.part p).slotCount → t.slot ((s.part p).slotFirst + i) = { Slot.reset with cfg := (s.part p).cfgDefault }) ∧
        (∀ e ∈ t.mem.regions, rgnValid e.2 = true → rgnPart e.2 ≠ p) ∧ (∀ q, q ≠ p → t.part q = { s.part q with dma := (t.part q).dma })) ∧
  (∀ (s : State) (p : Nat), s.drainCount p ≠ 0 → s.xsi.image = none → Idles (.teardownDrainDone p) s)

/-- A drain that does not end (R438) and an orphan hold that does (R506): STUCK and the cluster resets after 100 ms, a column reset due
10 ms later where a unit that the column shares still holds counts, a vacate when the hold is over. -/
def Obligations.StuckDrainsAndOrphans : Prop :=
  (∀ (s : State) (p : Nat) (x : Tear), s.up = true → (s.part p).tear = some x → x.stage = 5 → (s.part p).stuck = false →
    100000000 ≤ s.since x.at_ → s.drainCount p ≠ 0 →
    Runs (.xsiDrainStuck p) s fun t =>
      t.part p = { s.part p with stuck := true, tear := some { x with at_ := s.tm.clk } } ∧ (∀ q, q ≠ p → t.part q = s.part q) ∧
        (∀ k, k < 256 → testBit (s.part p).clusters k = true → t.clusterBusy k = false) ∧
        (∀ n, testBit (s.part p).clusters (n / 16) = false → t.posn n = s.posn n) ∧ Logged t s.leadNow 0x80 [t.partStatus p] ∧
        Keeps [.partitions, .stewards, .firmware, .faults, .freeCount, .positions, .clusters] s t) ∧
  (∀ (s : State) (p c : Nat) (x : Tear), s.up = true → (s.part p).tear = some x → x.stage = 5 → (s.part p).stuck = true →
    10000000 ≤ s.since x.at_ → s.sharedHolds p c = true → s.inService c = true →
    Runs (.drainStuckColumnReset p c) s fun t => t.dev = { s.dev with resetDue := s.dev.resetDue ++ [c] } ∧ Keeps [.faults] s t) ∧
  (∀ (s : State) (p : Nat), s.drainCount p = 0 → Idles (.xsiDrainStuck p) s) ∧
  (∀ (s : State) (p c : Nat), s.sharedHolds p c = false → Idles (.drainStuckColumnReset p c) s) ∧
  (∀ (s : State) (p a : Nat), s.operational = true → (s.part p).st = .orphaned → (s.part p).holdAt = some a →
    (s.part p).orphanS * 1000000000 ≤ s.since a →
    Runs (.orphanExpired p) s fun t => (t.part p).st = .tearing ∧ (t.part p).holdAt = none ∧ (∃ x, (t.part p).tear = some x ∧ x.remove = false) ∧
      (∀ q, q ≠ p → (t.part q).st = (s.part q).st)) ∧
  (∀ (s : State) (p a : Nat), (s.part p).holdAt = some a → s.since a < (s.part p).orphanS * 1000000000 → Idles (.orphanExpired p) s)

/-! Memory (chapter 08). -/

/-- After reset the invariant of module time holds (R199 to R201), the memory is in its canonical form, every byte reads zero and no
region is valid (R240, R244). -/
def Obligations.InvariantsHoldAtReset : Prop :=
  (TimeInv State.reset.tm) ∧
  (Memory.wf State.reset.mem ∧ (∀ a, byteAt State.reset a = 0) ∧ ∀ r, rgnValid (State.reset.region r) = false)

/-- Every step keeps the canonical form of the memory. -/
def Obligations.MemoryFormKeptByEveryStep : Prop :=
  ∀ s t : State, Memory.wf s.mem → Sys2Proof.Machine.step s = .next t → Memory.wf t.mem

/-- Bytes put at a physical address read back, and every other byte stays (R240).
The scrub (R264, R265, R273): it changes no byte; a corrected line is counted in its column, a line that can be neither corrected nor
rebuilt is written as poisoned and counted, and a pass is counted in each stack of the region whose periods stretch it. -/
def Obligations.BytesReadBackAndScrub : Prop :=
  (∀ (s : State) (a : Nat) (bs : Bytes),
    (s.poke a bs).peek a bs.length = bs ∧ (∀ x, x < a ∨ a + bs.length ≤ x → byteAt (s.poke a bs) x = byteAt s x) ∧
      (s.poke a bs).mem.lines = s.mem.lines ∧ (Memory.wf s.mem → Memory.wf (s.poke a bs).mem)) ∧
  (∀ (s : State) (r : Nat) (errs codes : List MemErr), s.up = true → rgnValid (s.region r) = true → (s.region r).st = 2 →
    rgnHbm (s.region r) = true → rgnScrub (s.region r) ≠ 0 →
    Runs (.scrubPass r errs codes) s fun t => t.mem.cells = s.mem.cells ∧ t.mem.regions = s.mem.regions ∧ t.pos = s.pos ∧ t.tm = s.tm) ∧
  (∀ (s : State) (r c : Nat), s.up = true → rgnValid (s.region r) = true → (s.region r).st = 2 → rgnHbm (s.region r) = true →
    rgnScrub (s.region r) ≠ 0 → c < 16 → rgnInCol (s.region r) c = true → (∀ k, (s.col k).pcFailed = 0) →
    Runs (.scrubPass r [] []) s fun t =>
      (t.col c).scrubLag = (if s.stretched c then inc (s.col c).scrubLag else (s.col c).scrubLag) ∧ (t.col c).ce = (s.col c).ce ∧
        t.mem = s.mem ∧ Keeps [.columns] s t) ∧
  (∀ (s : State) (r l : Nat), s.up = true → rgnValid (s.region r) = true → (s.region r).st = 2 → rgnHbm (s.region r) = true →
    rgnScrub (s.region r) ≠ 0 → rgnHas (s.region r) (64 * l) = true → s.lineNow (s.region r) (64 * l) = .data → RegionFits (s.region r) →
    (∀ k, (s.col k).pcFailed = 0) →
    Runs (.scrubPass r [⟨l, .correctable⟩] []) s fun t =>
      (t.col (dpaCol (64 * l))).ce = inc (s.col (dpaCol (64 * l))).ce ∧ t.mem = s.mem) ∧
  (∀ (s : State) (r l : Nat), s.up = true → rgnValid (s.region r) = true → (s.region r).st = 2 → rgnHbm (s.region r) = true →
    rgnScrub (s.region r) ≠ 0 → rgnHas (s.region r) (64 * l) = true → s.lineNow (s.region r) (64 * l) = .data → rgnCode (s.region r) ≠ 1 →
    RegionFits (s.region r) → (∀ k, (s.col k).pcFailed = 0) →
    Runs (.scrubPass r [⟨l, .lost⟩] []) s fun t =>
      (t.col (dpaCol (64 * l))).ue = inc (s.col (dpaCol (64 * l))).ue ∧
        t.lineMeta (s.phys (64 * l) / 64) = some ⟨(s.region r).gen, true⟩ ∧
        (∀ k, k ≠ s.phys (64 * l) / 64 → t.lineMeta k = s.lineMeta k) ∧ t.mem.cells = s.mem.cells) ∧
  (∀ (s : State) (r : Nat) (errs codes : List MemErr), rgnScrub (s.region r) = 0 → Idles (.scrubPass r errs codes) s)

/-- Regions open, are wiped and swept (R257 to R261): an initialised region opens, and a building partition whose regions are all open is
ready; a wipe raises the generation and the debt, or waits at a debt of 14; a pass ends the debt, rewrites every stale line, and lets every
wipe that waited proceed. -/
def Obligations.RegionsOpenWipeAndSweep : Prop :=
  (∀ (s : State) (r : Nat), s.up = true → (s.region r).st = 1 → (∀ e ∈ s.net.conns, e.2.rxHeld = []) →
    (∀ x ∈ (s.part (rgnPart (s.region r))).colls, x.done = true) → (s.part (rgnPart (s.region r))).collAsk = [] →
    Runs (.regionInitDone r) s fun t =>
      t.region r = { s.region r with st := 2, debt := 0, sweeping := false } ∧ (∀ i, i ≠ r → t.region i = s.region i) ∧
        ((s.part (rgnPart (s.region r))).st = .building → (∀ e ∈ t.mem.regions, rgnValid e.2 = true → rgnPart e.2 = rgnPart (s.region r) →
          e.2.st = 2) → (t.part (rgnPart (s.region r))).st = .ready) ∧
        ((s.part (rgnPart (s.region r))).st ≠ .building → (t.part (rgnPart (s.region r))).st = (s.part (rgnPart (s.region r))).st) ∧
        t.mem = { s.mem with regions := t.mem.regions } ∧ Keeps [.memory, .partitions] s t) ∧
  (∀ (s : State) (v : Via) (p r : Nat), ViaOpen s v 2 → p < 16 → connPart (s.conn v.conn) = p → r < 4096 → rgnValid (s.region r) = true →
    rgnPart (s.region r) = p → (s.region r).st = 2 → (s.part p).schSt ≠ 2 → (s.part p).schSt ≠ 3 → rgnHbm (s.region r) = true →
    rgnRaw (s.region r) = false → (s.region r).debt < 14 →
    Runs (.memWipe v p r) s fun t => ∃ u, Answered v (0x3000 + 0x40 * p) 0 u t ∧
      u.region r = { s.region r with gen := ((s.region r).gen + 1) % 16, debt := (s.region r).debt + 1, sweeping := true } ∧
      (∀ i, i ≠ r → u.region i = s.region i) ∧ u.mem = { s.mem with regions := u.mem.regions } ∧
      u.part p = { s.part p with wipeSt := 4, wipeCause := 0, wipeRegion := r, wipeGen := ((s.region r).gen + 1) % 16 } ∧
      Keeps [.memory, .partitions, .stewards] s u) ∧
  (∀ (s : State) (v : Via) (p r : Nat), ViaOpen s v 2 → p < 16 → connPart (s.conn v.conn) = p → r < 4096 → rgnValid (s.region r) = true →
    rgnPart (s.region r) = p → (s.region r).st = 2 → (s.part p).schSt ≠ 2 → (s.part p).schSt ≠ 3 → rgnHbm (s.region r) = true →
    rgnRaw (s.region r) = false → 14 ≤ (s.region r).debt →
    Runs (.memWipe v p r) s fun t => ∃ u, Answered v (0x3000 + 0x40 * p) 0 u t ∧ (u.part p).wipeSt = 2 ∧
      u.region r = { s.region r with sweeping := true, waiting := (s.region r).waiting + 1 } ∧ u.mem.cells = s.mem.cells) ∧
  (∀ (s : State) (v : Via) (p r : Nat), ViaOpen s v 2 → p < 16 → connPart (s.conn v.conn) = p → r < 4096 →
    rgnValid (s.region r) = false ∨ rgnPart (s.region r) ≠ p ∨ (s.region r).st ≠ 2 →
    Runs (.memWipe v p r) s fun t =>
      Answered v (0x3000 + 0x40 * p) 4
        (s.updPart p fun q => { q with wipeSt := 5, wipeCause := 1, wipeRegion := r, wipeGen := (s.region r).gen }) t) ∧
  (∀ (s : State) (r : Nat), s.up = true → Memory.wf s.mem → (s.region r).sweeping = true → (s.region r).st = 2 → (s.region r).waiting = 0 →
    (∀ k, (s.col k).pcFailed = 0) →
    Runs (.sweepPassDone ⟨r, []⟩) s fun t =>
      t.region r = { s.region r with debt := 0, sweeping := false } ∧
        (∀ l m, s.lineMeta l = some m → rgnHas (s.region r) (64 * l) = true → m.gen ≠ (s.region r).gen →
          t.lineMeta l = none ∧ ∀ i, i < 64 → byteAt t (64 * l + i) = 0) ∧
        (∀ l m, s.lineMeta l = some m → rgnHas (s.region r) (64 * l) = false ∨ m.gen = (s.region r).gen →
          t.lineMeta l = some m ∧ ∀ i, i < 64 → byteAt t (64 * l + i) = byteAt s (64 * l + i)) ∧ Keeps [.memory, .stewards] s t) ∧
  (∀ (s : State) (r : Nat) (errs : List MemErr), s.up = true → (s.region r).sweeping = true → (s.region r).st = 2 →
    (s.region r).waiting ≠ 0 →
    Runs (.sweepPassDone ⟨r, errs⟩) s fun t =>
      (t.region r).gen = ((s.region r).gen + (s.region r).waiting) % 16 ∧ (t.region r).debt = (s.region r).waiting ∧
        (t.region r).waiting = 0 ∧ (t.region r).sweeping = true ∧ (∀ i, i ≠ r → t.region i = s.region i)) ∧
  (∀ (s : State) (r : Nat) (errs : List MemErr), (s.region r).sweeping = false → Idles (.sweepPassDone ⟨r, errs⟩) s)

/-! Firmware and attestation (chapter 13). -/

/-- FW_ACTIVATE and FW_ATTEST by a fabric manager (R458, R462 to R465): an image that fails a check ends with its cause; a recovery image goes
into the copy that is not running; an operational one waits for its handover point; while one waits a further START is answered 0x04; an
attestation with intact copies of L leaves the quote. -/
def Obligations.FirmwareActivationStarts : Prop :=
  (∀ (s : State) (v : Via) (e : Nat), ViaOpen s v 4 → s.fw.act = .idle ∨ s.fw.act = .done ∨ s.fw.act = .failed →
    leAt s.fw.stage.buf 0 4 ≠ 0x4A344F57 → s.fwCheck s.fw.stage.buf = .error e → e ≠ 5 → e ≠ 6 →
    Runs (.fwActivateStart v) s fun t => ∃ u, Answered v 0x7030 0 u t ∧
      u.fw = { s.fw with act := .failed, cause := e, newOp := none, stage := ⟨none, [], 0⟩ } ∧ Keeps [.firmware, .stewards] s u) ∧
  (∀ (s : State) (v : Via) (k : Nat), ViaOpen s v 4 → s.fw.act = .idle ∨ s.fw.act = .done ∨ s.fw.act = .failed →
    leAt s.fw.stage.buf 0 4 ≠ 0x4A344F57 → s.fwCheck s.fw.stage.buf = .ok k → (fwInfoOf s.fw.stage.buf k).kind = 1 → s.fw.bootCopy = false →
    Runs (.fwActivateStart v) s fun t => ∃ u, Answered v 0x7030 0 u t ∧
      u.fw = { s.fw with act := .done, cause := 0, stage := ⟨none, [], 0⟩ } ∧
      u.flash = { s.flash with copyB := fwInfoOf s.fw.stage.buf k, prefer := true, trial := 0 } ∧ Keeps [.firmware, .flash, .stewards] s u) ∧
  (∀ (s : State) (v : Via) (k : Nat) (i : FwInfo), ViaOpen s v 4 → s.fw.act = .idle ∨ s.fw.act = .done ∨ s.fw.act = .failed →
    leAt s.fw.stage.buf 0 4 ≠ 0x4A344F57 → s.fwCheck s.fw.stage.buf = .ok k → i = fwInfoOf s.fw.stage.buf k → i.kind = 2 →
    i.stateMin ≤ (s.fw.op.map (·.stateVer)).getD i.stateMin → (s.fw.op.map (·.stateVer)).getD i.stateMin ≤ i.stateVer →
    (∀ e ∈ s.net.conns, connHost e.2 = true → e.2.st = 2 → levelOk i.iface e.2.level = true) → s.pwr.power = false → s.pwr.thermal = false →
    Runs (.fwActivateStart v) s fun t => ∃ u, Answered v 0x7030 0 u t ∧
      u.fw = { s.fw with act := .awaiting, cause := 0, stage := ⟨none, [], 0⟩, newOp := some i, actAt := s.tm.clk, deferLogged := false
                         actBounds := s.runningParts, plogWait := u.fw.plogWait } ∧ Keeps [.firmware, .stewards] s u) ∧
  (∀ (s : State) (v : Via), ViaOpen s v 4 → s.fw.act = .awaiting ∨ s.fw.act = .deferred ∨ s.fw.act = .probation →
    Runs (.fwActivateStart v) s fun t => Answered v 0x7030 4 s t) ∧
  (∀ (s : State) (v : Via), ViaOpen s v 4 → s.fw.dropped = 0 → s.fw.digest = digestOf s.fw.mlog → s.fw.digestCopy = s.fw.digest →
    s.fw.digest.length = 64 →
    Runs (.fwAttestStart v) s fun t => Answered v 0x7058 0 { s with fw := { s.fw with attest := 2, quote := s.makeQuote } } t) ∧
  (∀ (s : State) (v : Via), ViaOpen s v 2 →
    Runs (.fwAttestStart v) s (fun t => Answered v 0x7058 3 s t) ∧ Runs (.fwActivateStart v) s fun t => Answered v 0x7030 3 s t)

/-- The handover and the probation (R462, R465 to R468): within 5 ms the new image runs on probation with every lease moved by the pause; a
steward that is late, or a point not reached within 60 s, ends the activation with the old image; 10 s later the probation ends and raises
the lowest SVN; a failure before that brings the old image back. -/
def Obligations.HandoverAndProbation : Prop :=
  (∀ (s : State) (i : FwInfo) (us : Nat), s.based = true → s.fw.newOp = some i → s.handoverPoint = true → us ≤ 5000 →
    Runs (.fwHandover us) s fun t =>
      t.fw.op = some i ∧ t.fw.oldOp = s.fw.op ∧ t.fw.newOp = none ∧ t.fw.act = .probation ∧ t.fw.service = .operational ∧
        t.fw.iface = i.iface ∧ t.fw.probationAt = s.tm.clk ∧
        t.net.conns = s.net.conns.map (fun e => (e.1, if connHost e.2 then { e.2 with leaseAt := e.2.leaseAt + us * 1000 } else e.2)) ∧
        t.net = { s.net with conns := t.net.conns } ∧ Keeps [.firmware, .network, .stewards] s t) ∧
  (∀ s : State, s.based = true → s.handoverPoint = true →
    Runs .fwHandoverTimeout s fun t =>
      t.fw = { s.fw with act := .failed, cause := 0x0A, newOp := none } ∧
        t.net.conns = s.net.conns.map (fun e => (e.1, if connHost e.2 then { e.2 with leaseAt := e.2.leaseAt + 5000000 } else e.2)) ∧
        Keeps [.firmware, .network, .stewards] s t) ∧
  (∀ s : State, s.based = true → s.fw.act = .awaiting ∨ s.fw.act = .deferred → 60000000000 ≤ s.since s.fw.actAt →
    Runs .fwHandoverPointTimeout s fun t => t.fw = { s.fw with act := .failed, cause := 9, newOp := none } ∧ Keeps [.firmware, .stewards] s t) ∧
  (∀ (s : State) (i : FwInfo), s.based = true → s.fw.op = some i → s.fw.act = .probation → 10000000000 ≤ s.since s.fw.probationAt →
    s.fw.latch = false →
    Runs .fwProbationEnd s fun t =>
      t.fw.act = .done ∧ t.fw.oldOp = none ∧ t.fw.op = some i ∧ t.fw.minOp = max s.secNow.minOp i.svn ∧
        t.fw.activations = inc s.fw.activations ∧ t.secNow.minOp = max s.secNow.minOp i.svn ∧
        t.flash = { s.flash with sec := t.flash.sec } ∧ Logged t s.leadNow 0x02 [t.fwStatus] ∧ Keeps [.firmware, .flash, .stewards] s t) ∧
  (∀ (s : State) (i : FwInfo), s.based = true → s.fw.act = .probation → s.fw.oldOp = some i →
    Runs .probationFailureReport s fun t =>
      t.fw.op = some i ∧ t.fw.oldOp = none ∧ t.fw.act = .failed ∧ t.fw.cause = 0x0A ∧ t.fw.iface = i.iface ∧ t.fw.service = .operational ∧
        Logged t s.leadNow 0x03 [t.fwStatus] ∧ Keeps [.firmware, .stewards] s t) ∧
  (∀ s : State, s.handoverPoint = false → (∀ us, Idles (.fwHandover us) s) ∧ Idles .fwHandoverTimeout s) ∧
  (∀ s : State, s.fw.act ≠ .probation → Idles .fwProbationEnd s ∧ Idles .probationFailureReport s) ∧
  (∀ s : State, s.since s.fw.actAt < 60000000000 → Idles .fwHandoverPointTimeout s)

/-! Schedules and streams (chapter 07). -/

/-- SCH_LOAD by the partition's controlling session and ROUND_START (R207, R223, R230, R396): an image that passes every check is admitted at
step F with step F - 1 committed and every stream at its first entry; one that fails a check leaves its cause; an address off a granule, a
pending removal or another partition's session is refused; a round records lateness, and a member later than SLACK + D sends a SLIP. -/
def Obligations.ScheduleLoadAndRounds : Prop :=
  (∀ (s : State) (v : Via) (p addr : Nat) (im : Image), ViaOpen s v 2 → p < 16 → connPart (s.conn v.conn) = p → addr < 2 ^ 40 →
    addr % 256 = 0 → s.pwr.remove = 0 → (s.part p).st = .ready → (s.part p).schSt ≠ 2 → (s.part p).schSt ≠ 3 → Fetched s p addr im →
    headerOk im.hdr = true → digestOk im.hdr = true → leAt im.hdr 20 4 ≤ fld (Table.get 0 s.pwr.grants p) 10 0 →
    s.tableBad p im.table (leAt im.hdr 60 4) = none → s.admission p im = none →
    Runs (.schLoad v p addr []) s fun t => ∃ u, Answered v (0x2000 + 0x100 * p) 0 u t ∧
      (u.part p).st = .running ∧ (u.part p).schSt = 2 ∧ (u.part p).sched = some (schedOf addr im.hdr) ∧
        (u.part p).step = leAt im.hdr 32 8 ∧ (u.part p).stn.st = 1 ∧ (u.part p).stn.committed = BitVec.ofNat 64 (leAt im.hdr 32 8) - 1 ∧
        (∀ sid ∈ partStreams (s.part p), (streamOf (u.part p) sid).live = true ∧ (streamOf (u.part p) sid).next = 0) ∧
        (∀ q, q ≠ p → u.part q = s.part q) ∧ u.mem = s.mem ∧ Keeps [.partitions, .positions, .slots, .firmware, .stewards] s u) ∧
  (∀ (s : State) (v : Via) (p addr : Nat) (im : Image) (r : Reject), ViaOpen s v 2 → p < 16 → connPart (s.conn v.conn) = p → addr < 2 ^ 40 →
    addr % 256 = 0 → s.pwr.remove = 0 → (s.part p).st = .ready → (s.part p).schSt ≠ 2 → (s.part p).schSt ≠ 3 → Fetched s p addr im →
    headerOk im.hdr = true → digestOk im.hdr = true → leAt im.hdr 20 4 ≤ fld (Table.get 0 s.pwr.grants p) 10 0 →
    s.tableBad p im.table (leAt im.hdr 60 4) = none → s.admission p im = some r →
    Runs (.schLoad v p addr []) s fun t => ∃ u, Answered v (0x2000 + 0x100 * p) 0 u t ∧
      u.part p = { s.part p with schSt := 4, schRej := false, schCause := r.cause, schStream := r.sid, schEntry := r.entry } ∧
      (∀ q, q ≠ p → u.part q = s.part q) ∧ Keeps [.partitions, .stewards] s u) ∧
  (∀ (s : State) (v : Via) (p addr : Nat) (errs : List MemErr), ViaOpen s v 2 → p < 16 → connPart (s.conn v.conn) = p → addr < 2 ^ 40 →
    addr % 256 ≠ 0 → s.loadBarred p = false → Runs (.schLoad v p addr errs) s fun t => Answered v (0x2000 + 0x100 * p) 0xE s t) ∧
  (∀ (s : State) (v : Via) (p addr : Nat) (errs : List MemErr), ViaOpen s v 2 → p < 16 → connPart (s.conn v.conn) = p → addr < 2 ^ 40 →
    s.pwr.remove ≠ 0 ∨ (s.part p).st = .absent ∨ (s.part p).st = .tearing →
    Runs (.schLoad v p addr errs) s fun t => Answered v (0x2000 + 0x100 * p) 4 s t) ∧
  (∀ (s : State) (v : Via) (p addr : Nat) (errs : List MemErr), ViaOpen s v 2 → p < 16 → connPart (s.conn v.conn) ≠ p → addr < 2 ^ 40 →
    Runs (.schLoad v p addr errs) s fun t => Answered v (0x2000 + 0x100 * p) 3 s t) ∧
  (∀ (s u : State) (p late : Nat) (h : Sched), s.operational = true → (s.part p).sched = some h → (s.part p).schSt = 2 ∨ (s.part p).schSt = 3 →
    (s.part p).stn.st = 1 → u = (s.overrun p h).servePools p h →
    late = u.lateness p → late ≤ h.slack + (s.part p).slipD →
    Runs (.roundStart p) s fun t =>
      t.part p = { s.part p with roundIn := [], overrun := (u.part p).overrun, preempt := (u.part p).preempt, poolDebt := (u.part p).poolDebt,
                                 lateMax := if (s.part p).lateMax.toNat < late then BitVec.ofNat 64 late else (s.part p).lateMax } ∧
        (∀ q, q ≠ p → t.part q = s.part q) ∧ Keeps [.partitions] s t) ∧
  (∀ (s u : State) (p late : Nat) (h : Sched), s.operational = true → (s.part p).sched = some h → (s.part p).schSt = 2 ∨ (s.part p).schSt = 3 →
    (s.part p).stn.st = 1 → u = (s.overrun p h).servePools p h →
    late = u.lateness p → h.slack + (s.part p).slipD < late →
    Runs (.roundStart p) s fun t =>
      (t.part p).slipD = 2 ^ h.qexp * ceilDiv late (2 ^ h.qexp) ∧ (t.part p).slipsSent = inc (s.part p).slipsSent ∧
        ((t.part p).slipLabel = (s.part p).step + 1 ∨ (t.part p).slipLabel = (s.part p).step + 2) ∧ (t.part p).shift = (s.part p).shift ∧
        Logged t s.leadNow 0x32 [schLoadStatus (s.part p)] ∧ (∀ q, q ≠ p → t.part q = s.part q) ∧
        Keeps [.partitions, .network, .stewards, .firmware] s t)

/-! Tiles and drains (chapters 03, 04, 05). -/

/-- TILE_ISSUE in LA mode and TILE_LA_REPLAY (R81 to R84, R94, R101, R107, R113, R118): the tile fills the set that the timer names with
the exact accumulators of its 64 outputs, and waits for its drain. A request for SA that the slot does not allow runs in LA mode and is
counted. With no room, while a tile that waits has still to use a granule that the entry writes (R279), or with no tile that waits for a replay, nothing
happens. -/
def Obligations.LaTileFillsASet : Prop :=
  (∀ (s u : State) (p pos i : Nat) (ws : List W64) (l : Grans) (arrays upset : List Nat) (errs : List MemErr),
    MayIssue s p pos i ws kTile errs → s.tileRoom p pos ws = true → tileSa ws = false →
    (s.updPart p fun q => markIssue q pos i).tileLoad p pos ws errs = (l, arrays, u) →
    Runs (.tileIssue p pos errs upset) s fun t =>
      TileRan false u t p pos i ((s.updPart p fun q => markIssue q pos i).part p).step ws (u.tileIn ws l arrays) upset) ∧
  (∀ (s u : State) (p pos : Nat) (x : Tile) (l : Grans) (arrays upset : List Nat) (errs : List MemErr),
    s.operational = true → s.unitFree pos = true → (s.posn pos).replay = some x → x.part = p →
    (s.updPos pos fun q => { q with replay := none }).tileLoad p pos x.words errs = (l, arrays, u) →
    Runs (.tileLaReplay p pos errs upset) s fun t =>
      TileRan false u t p pos x.entry x.step x.words (u.tileIn x.words l arrays) upset) ∧
  (∀ (s u : State) (p pos i : Nat) (ws : List W64) (c : Ctl) (l : Grans) (arrays upset : List Nat) (errs : List MemErr),
    MayIssue s p pos i ws kTile errs → s.tileRoom p pos ws = true → tileSa ws = true → eLidx ws = lidxNone → ctlOf (ws.getD 7 0) = some c →
    tileClass (s.view (ws.getD 2 0)).f (s.view (ws.getD 3 0)).f ≤ 2 →
    (s.part p).forceLa = true ∨ stSaOk (s.slot c.slot).state = false →
    ((s.updPart p fun q => markIssue q pos i).updCol (c.slot / 4096) fun k => { k with cadDeclined := inc k.cadDeclined }).tileLoad p pos ws errs
      = (l, arrays, u) →
    Runs (.tileIssue p pos errs upset) s fun t =>
      TileRan false u t p pos i ((s.updPart p fun q => markIssue q pos i).part p).step ws (u.tileIn ws l arrays) upset) ∧
  (∀ (s : State) (p pos i : Nat) (ws : List W64) (upset : List Nat) (errs : List MemErr),
    MayIssue s p pos i ws kTile errs → s.tileRoom p pos ws = false → Idles (.tileIssue p pos errs upset) s) ∧
  (∀ (s : State) (p pos : Nat) (upset : List Nat) (errs : List MemErr), (s.posn pos).replay = none →
    Idles (.tileLaReplay p pos errs upset) s)

/-- A tile in SA mode (R87 to R94, R97, R99, R179): with no loss its accumulators are those of LA mode and it is counted; the first loss
under scope TILE leaves ACC_LAST_LOSS, an EXACT_LOST entry and the tile waiting for its LA replay, and no accumulator changes; under scope
LAYER the layer is told and the tile does not wait. A tile whose anchor is out of range loses exactness before it reads anything (R89). -/
def Obligations.SaTileRunsOrLosesExactness : Prop :=
  (∀ (s u : State) (p pos i : Nat) (ws : List W64) (c : Ctl) (l : Grans) (arrays upset : List Nat) (errs : List MemErr),
    MayIssue s p pos i ws kTile errs → s.tileRoom p pos ws = true → tileSa ws = true → eLidx ws = lidxNone → ctlOf (ws.getD 7 0) = some c →
    tileClass (s.view (ws.getD 2 0)).f (s.view (ws.getD 3 0)).f ≤ 2 → (s.part p).forceLa = false → stSaOk (s.slot c.slot).state = true →
    (s.updPart p fun q => markIssue q pos i).tileLoad p pos ws errs = (l, arrays, u) →
    (u.tileIn ws l arrays).loss (stAnchor (s.slot c.slot).state) (saBlocksPerChunk u ws) = none →
    Runs (.tileIssue p pos errs upset) s fun t =>
      TileRan true u t p pos i ((s.updPart p fun q => markIssue q pos i).part p).step ws (u.tileIn ws l arrays) upset) ∧
  (∀ (s u : State) (p pos i : Nat) (ws : List W64) (c : Ctl) (l : Grans) (arrays upset : List Nat) (errs : List MemErr) (x : Loss) (w : W64),
    MayIssue s p pos i ws kTile errs → s.tileRoom p pos ws = true → tileSa ws = true → tileScope ws = false → eLidx ws = lidxNone →
    ctlOf (ws.getD 7 0) = some c → tileClass (s.view (ws.getD 2 0)).f (s.view (ws.getD 3 0)).f ≤ 2 → (s.part p).forceLa = false →
    stSaOk (s.slot c.slot).state = true →
    (s.updPart p fun q => markIssue q pos i).tileLoad p pos ws errs = (l, arrays, u) →
    (u.tileIn ws l arrays).loss (stAnchor (s.slot c.slot).state) (saBlocksPerChunk u ws) = some x →
    w = lastLossWord (i % 2 ^ 32) (stAnchor (s.slot c.slot).state) x →
    Runs (.tileIssue p pos errs upset) s fun t =>
      (t.posn pos).exactLost = inc (u.posn pos).exactLost ∧ (t.posn pos).lastLoss = w ∧ Logged t (pos / 256) 0x10 [w] ∧
        (t.slot c.slot).lost = inc (u.slot c.slot).lost ∧ hLost (t.slot c.slot).pending = true ∧
        (∃ y, (t.posn pos).replay = some y ∧ y.part = p ∧ y.entry = i ∧ y.words = ws) ∧ (t.posn pos).waiting = (u.posn pos).waiting ∧
        (t.posn pos).set0 = (u.posn pos).set0 ∧ (t.posn pos).set1 = (u.posn pos).set1 ∧ (t.posn pos).saTiles = (u.posn pos).saTiles ∧
        (∀ q, q ≠ pos → t.posn q = u.posn q) ∧ (∀ n, n ≠ c.slot → t.slot n = u.slot n) ∧ t.mem = u.mem ∧ t.net = u.net ∧ t.flash = u.flash) ∧
  (∀ (s : State) (p pos i : Nat) (ws : List W64) (c : Ctl) (upset : List Nat) (errs : List MemErr),
    MayIssue s p pos i ws kTile errs → s.tileRoom p pos ws = true → tileSa ws = true → tileScope ws = false → eLidx ws = lidxNone →
    ctlOf (ws.getD 7 0) = some c → tileClass (s.view (ws.getD 2 0)).f (s.view (ws.getD 3 0)).f ≤ 2 → (s.part p).forceLa = false →
    stSaOk (s.slot c.slot).state = true → anchorOk (stAnchor (s.slot c.slot).state) = false →
    Runs (.tileIssue p pos errs upset) s fun t =>
      fld (t.posn pos).lastLoss 25 24 = 3 ∧ (t.posn pos).operands = (s.posn pos).operands ∧ (t.posn pos).gated = (s.posn pos).gated ∧
        t.cols = s.cols ∧ t.mem = s.mem ∧ (∃ y, (t.posn pos).replay = some y ∧ y.entry = i ∧ y.words = ws)) ∧
  (∀ (s u : State) (p pos i : Nat) (ws : List W64) (c : Ctl) (y : Layer) (l : Grans) (arrays upset : List Nat) (errs : List MemErr) (x : Loss),
    MayIssue s p pos i ws kTile errs → s.tileRoom p pos ws = true → tileSa ws = true → tileScope ws = true → ctlOf (ws.getD 7 0) = some c →
    tileClass (s.view (ws.getD 2 0)).f (s.view (ws.getD 3 0)).f ≤ 2 → (s.part p).forceLa = false → stSaOk (s.slot c.slot).state = true →
    layerOf ((s.updPart p fun q => markIssue q pos i).part p) (eLidx ws) = some y → layerOf (u.part p) (eLidx ws) = some y → y.la = false →
    (s.updPart p fun q => markIssue q pos i).tileLoad p pos ws errs = (l, arrays, u) →
    (u.tileIn ws l arrays).loss (stAnchor (s.slot c.slot).state) (saBlocksPerChunk u ws) = some x →
    Runs (.tileIssue p pos errs upset) s fun t =>
      (∃ z, layerOf (t.part p) (eLidx ws) = some z ∧ z.lost = true ∧ z.sa = true ∧ z.lostTiles = sat 32 (y.lostTiles + 1) ∧
          z.lostPos = min y.lostPos pos) ∧
        (t.posn pos).replay = (u.posn pos).replay ∧ (t.posn pos).waiting = (u.posn pos).waiting ∧
        (t.posn pos).exactLost = inc (u.posn pos).exactLost)

/-- DRAIN_START (R79, R85, R113, R138, R148, R215, R373): the tile that waits longest drains; with RAW its 64 accumulator images stand from OUT on,
and with a plain FP32 control each output's code is that of its scaled, narrowed accumulator; a sampled tile queues its check, its release
goes out, and no byte outside the position's core store changes. With no tile waiting nothing happens. -/
def Obligations.DrainWritesSixtyFourOutputs : Prop :=
  (∀ (s : State) (p pos : Nat) (x : Tile) (rest : List Tile) (c : Ctl) (errs : List MemErr), s.operational = true → s.unitFree pos = true →
    pos < 4096 → (s.posn pos).waiting = x :: rest → x.part = p → ctlOf (x.words.getD 7 0) = some c → c.raw = true →
    256 * eOut x.words + 6144 ≤ 2 ^ 20 →
    Runs (.drainStart p pos errs []) s fun t =>
      (t.posn pos) = { s.posn pos with waiting := rest, tiles := inc (s.posn pos).tiles } ∧ (∀ q, q ≠ pos → t.posn q = s.posn q) ∧
        (∀ o, o < 64 → t.peek (t.phys (rgnDpa (coreRegion pos) (256 * eOut x.words + 96 * o))) 96 =
          accImage ((if x.set1 then (s.posn pos).set1 else (s.posn pos).set0).getD o accClear)) ∧
        (∀ a, a < s.phys (rgnDpa (coreRegion pos) (256 * eOut x.words)) ∨ s.phys (rgnDpa (coreRegion pos) (256 * eOut x.words)) + 6144 ≤ a →
          byteAt t a = byteAt s a) ∧
        t.part p = completeEntry (s.part p) pos x.step x.words ∧ (∀ q, q ≠ p → t.part q = s.part q) ∧
        (t.cluster (pos / 16)).queue = (s.cluster (pos / 16)).queue ++
          (if x.sampled then [⟨p, x.step, pos, x.entry, false, x.limit, x.bad⟩] else []) ∧
        Keeps [.positions, .memory, .partitions, .clusters, .columns, .stewards, .firmware] s t) ∧
  (∀ (s u : State) (p pos : Nat) (x : Tile) (rest : List Tile) (c : Ctl) (prm : OutPrm) (l : Grans) (errs : List MemErr),
    s.operational = true → s.unitFree pos = true → pos < 4096 → (s.posn pos).waiting = x :: rest → x.part = p →
    ctlOf (x.words.getD 7 0) = some c → plainCtl c → x.fmt = .fp32 → x.lay = .dense → (s.posn pos).blocks = [] →
    (s.updPos pos fun q => { q with waiting := rest, tiles := inc q.tiles }).loadPrm p pos x.words { c with format := .fp32, layout := .dense, scaleSrc := x.src } errs
      = (prm, false, l, u) →
    (∀ o, (((if x.set1 then (s.posn pos).set1 else (s.posn pos).set0).getD o accClear).poison = false)) →
    16 * eOcol x.words + 16 ≤ 32 * eOutVlen x.words →
    denseAddr (eOut x.words) (eOutVlen x.words) (4 * eOrow x.words + 4) 0 ≤ 2 ^ 20 →
    Runs (.drainStart p pos errs []) s fun t =>
      (t.posn pos).waiting = rest ∧ (t.posn pos).tiles = inc (s.posn pos).tiles ∧
        (t.posn pos).converted = incBy (s.posn pos).converted 64 ∧ (∀ q, q ≠ pos → t.posn q = s.posn q) ∧
        (∀ o, o < 64 → codeAt t pos (denseAddr (eOut x.words) (eOutVlen x.words) (4 * eOrow x.words + o / 16) (16 * eOcol x.words + o % 16)) =
          plainOut c prm (classify ((if x.set1 then (s.posn pos).set1 else (s.posn pos).set0).getD o accClear)) % 2 ^ 32) ∧
        OtherBytesSame s t pos ∧ t.part p = completeEntry (s.part p) pos x.step x.words ∧ (∀ q, q ≠ p → t.part q = s.part q) ∧
        Keeps [.positions, .memory, .partitions, .clusters, .columns, .stewards, .firmware] s t) ∧
  (∀ (s : State) (p pos : Nat) (errs : List MemErr) (upset : List Nat), (s.posn pos).waiting = [] → Idles (.drainStart p pos errs upset) s)

/-- CONV_ISSUE (R132, R138, R148, R214): with a plain dense FP32 control the n elements of the vector are scaled, narrowed and written in
order, each is counted, and the release goes out; no byte outside the position's core store changes. -/
def Obligations.ConvWritesItsVector : Prop :=
  (∀ (s u u2 : State) (p pos i n : Nat) (ws : List W64) (c : Ctl) (prm : OutPrm) (l lp : Grans) (errs : List MemErr) (v : View),
    MayIssue s p pos i ws kConv errs → s.unitRoom p pos ws = true → pos < 4096 → ctlOf (ws.getD 7 0) = some c → plainCtl c → c.format = .fp32 →
    c.layout = .dense → eLidx ws = lidxNone → n = ef ws 3 63 40 → v = viewF32 (ws.getD 2 0) → (s.posn pos).blocks = [] →
    ((s.updPart p fun q => markIssue q pos i).updPos pos fun q => { q with h := (countdown (fractionD (s.part p).stn.cfg) q.h).2 }).loadGrans p pos
      (v.allGrans (ef ws 3 39 24) (ef ws 3 23 8) 1 n) errs = (l, u) →
    u.loadPrm p pos ws c errs = (prm, false, lp, u2) → (∀ e ∈ l, e.2.poison = false) →
    denseAddr (eOut ws) (eOutVlen ws) (eOrow ws) (16 * eOcol ws + n) ≤ 2 ^ 20 →
    Runs (.convIssue p pos errs []) s fun t =>
      (∀ k, k < n → codeAt t pos (denseAddr (eOut ws) (eOutVlen ws) (eOrow ws) (16 * eOcol ws + k)) =
          plainOut c prm (v.elem l (v.place (ef ws 3 39 24) (ef ws 3 23 8) 0 k).1 (v.place (ef ws 3 39 24) (ef ws 3 23 8) 0 k).2) % 2 ^ 32) ∧
        (t.posn pos).converted = incBy (s.posn pos).converted n ∧ (t.posn pos).set0 = (s.posn pos).set0 ∧ (t.posn pos).set1 = (s.posn pos).set1 ∧
        (∀ q, q ≠ pos → t.posn q = s.posn q) ∧ OtherBytesSame s t pos ∧
        t.part p = completeEntry (markIssue (s.part p) pos i) pos (s.part p).step ws ∧ (∀ q, q ≠ p → t.part q = s.part q) ∧
        Keeps [.positions, .memory, .partitions, .clusters, .columns, .stewards, .firmware] s t) ∧
  (∀ (s : State) (p pos i : Nat) (ws : List W64) (errs : List MemErr) (upset : List Nat), MayIssue s p pos i ws kConv errs →
    s.unitRoom p pos ws = false → Idles (.convIssue p pos errs upset) s)

/-- VEC_ISSUE (R128 to R133, R135, R388, R409): every result is written in order to its descriptor's place, NaN results are counted, a
poisoned update of a step is counted and logged, and the release goes out; an update that the step before holds back is counted once and
does not run; no byte outside the position's core store changes.
MERGE_ISSUE (R164 to R168): the list that the inputs merge to stands in the output granule, the duplicates are counted, and the release
goes out; no other byte changes. -/
def Obligations.VectorAndMergeEntriesWrite : Prop :=
  (∀ (s u : State) (p pos i : Nat) (ws : List W64) (op : VecOp) (x : VecIn) (b : Nat → Nat) (errs : List MemErr),
    MayIssue s p pos i ws kVec errs → s.unitRoom p pos ws = true → pos < 4096 → vecHeld (s.part p) ws = false → vecOp ws = some op →
    (s.updPart p fun q => markIssue q pos i).vecLoad p pos ws op errs = (x, u) →
    (∀ j, j < (vecShape op).2.2 → 256 * b j + 4 * vecCount ws ≤ 2 ^ 20 ∧ ∃ v, x.views[4 + j]? = some v ∧ v.d.base = b j ∧ v.d.vlen ≠ 0) →
    (∀ j k, j < k → k < (vecShape op).2.2 → 256 * b j + 4 * vecCount ws ≤ 256 * b k ∨ 256 * b k + 4 * vecCount ws ≤ 256 * b j) →
    Runs (.vecIssue p pos errs) s fun t =>
      (∀ e ∈ vecResults op x.prms x.bad x.views x.l (vecCount ws), codeAt t pos (256 * b (e.1 - 4) + 4 * e.2.1) = e.2.2.code % 2 ^ 32) ∧
        t.posn pos = { s.posn pos with vecNan := (incBy (s.posn pos).vecNan
          ((vecResults op x.prms x.bad x.views x.l (vecCount ws)).countP fun e => vecIsNan e.2.2)) } ∧
        (∀ q, q ≠ pos → t.posn q = s.posn q) ∧ OtherBytesSame s t pos ∧ (∀ q, q ≠ p → t.part q = s.part q) ∧
        (vecIsUpd op = false ∨ (∀ e ∈ vecResults op x.prms x.bad x.views x.l (vecCount ws), e.2.2.poison = false) →
          t.part p = completeEntry (markIssue (s.part p) pos i) pos (s.part p).step ws) ∧
        (vecIsUpd op = true → (∃ e ∈ vecResults op x.prms x.bad x.views x.l (vecCount ws), e.2.2.poison = true) →
          (t.part p).stn.poisoned = inc (s.part p).stn.poisoned ∧ (s.part p).step ∈ (t.part p).stn.poisonSteps ∧
            Logged t (pos / 256) 0x75 [stnState (s.part p)]) ∧
        Keeps [.positions, .memory, .partitions, .columns, .stewards, .firmware] s t) ∧
  (∀ (s : State) (p pos i : Nat) (ws : List W64) (errs : List MemErr), MayIssue s p pos i ws kVec errs → vecHeld (s.part p) ws = true →
    (streamOf (s.part p) pos).heldUpd = false →
    Runs (.vecIssue p pos errs) s fun t =>
      (t.part p).stn = { (s.part p).stn with heldUpd := inc (s.part p).stn.heldUpd } ∧ (streamOf (t.part p) pos).heldUpd = true ∧
        (streamOf (t.part p) pos).next = (streamOf (s.part p) pos).next ∧ (∀ q, q ≠ p → t.part q = s.part q) ∧ Keeps [.partitions] s t) ∧
  (∀ (s : State) (p pos i : Nat) (ws : List W64) (errs : List MemErr), MayIssue s p pos i ws kVec errs →
    (vecHeld (s.part p) ws = true ∧ (streamOf (s.part p) pos).heldUpd = true) ∨ (vecHeld (s.part p) ws = false ∧ s.unitRoom p pos ws = false) →
    Idles (.vecIssue p pos errs) s) ∧
  (∀ (s u : State) (p pos i : Nat) (ws : List W64) (gs : List Nat) (l : Grans) (m : TopMerge) (errs : List MemErr),
    MayIssue s p pos i ws kMerge errs → s.unitRoom p pos ws = true → pos < 4096 →
    gs = (List.range (ef ws 2 39 32)).map (ef ws 2 63 52 + ·) →
    (s.updPart p fun q => markIssue q pos i).loadGrans p pos gs errs = (l, u) → m = topMerge (gs.map fun g => (granOf l (256 * g)).data) →
    Runs (.mergeIssue p pos errs) s fun t =>
      t.peek (t.phys (rgnDpa (coreRegion pos) (256 * ef ws 2 51 40))) 256 = topBytes m.out ∧
        (∀ a, a < s.phys (rgnDpa (coreRegion pos) (256 * ef ws 2 51 40)) ∨ s.phys (rgnDpa (coreRegion pos) (256 * ef ws 2 51 40)) + 256 ≤ a →
          byteAt t a = byteAt s a) ∧
        t.posn pos = { s.posn pos with topkDup := incBy (s.posn pos).topkDup m.dups } ∧ (∀ q, q ≠ pos → t.posn q = s.posn q) ∧
        t.part p = completeEntry (markIssue (s.part p) pos i) pos (s.part p).step ws ∧ (∀ q, q ≠ p → t.part q = s.part q) ∧
        (0 < m.bads → Logged t (pos / 256) 0x14 [0]) ∧ Keeps [.positions, .memory, .partitions, .columns, .stewards, .firmware] s t) ∧
  (∀ (s : State) (p pos i : Nat) (ws : List W64) (errs : List MemErr), MayIssue s p pos i ws kMerge errs → s.unitRoom p pos ws = false →
    Idles (.mergeIssue p pos errs) s)

/-- XFER_ISSUE (R214, R220, R276, R315, R322): a transfer within the member writes its payload and its scale plane and releases DTOK; one on a
connection becomes one operation of WRITE packets that carry the payload's granules and then the scale plane's, or a Token for LEN 0; an
unreadable source stops the partition's streams and is a partition fault; on a connection that is not open it waits. -/
def Obligations.TransfersMoveOrSend : Prop :=
  (∀ (s u : State) (p sid i : Nat) (ws : List W64) (x : Payload × Payload) (errs : List MemErr), MayIssue s p sid i ws kXfer errs →
    s.served p sid ws = true → s.xferOpening p ws = false →
    ef ws 3 23 10 = 0x3FFF → ((s.updPart p fun q => markIssue q sid i).chargePools p sid ws).xferRead p ws errs = (some x, u) →
    u.reaches p (ef ws 3 63 24) x.1.1.length = true → u.reaches p (ef ws 6 63 24) x.2.1.length = true →
    Runs (.xferIssue p sid errs) s fun t =>
      t.part p = completeEntry (if ef ws 4 63 42 = relNone then u.part p
            else releaseTok (u.part p) (ef ws 4 63 42) (u.part p).step (provStep (u.part p) (u.part p).step)) sid (s.part p).step ws ∧
        (∀ q, q ≠ p → t.part q = u.part q) ∧ t.mem.regions = u.mem.regions ∧
        (∀ n r a, errs = [] → x.1.1.length = 256 → x.2.1 = [] → ef ws 3 63 24 % 256 = 0 → (∀ c, (u.col c).pcFailed = 0) →
          u.place p (ef ws 3 63 24) = some (n, r, a, false) → a + 256 ≤ rgnDlen r → RegionFits r →
          t.peek (t.phys (rgnDpa r a)) 256 = x.1.1 ∧ OnlyGranule u t r a) ∧
        Keeps [.memory, .partitions, .columns, .stewards, .firmware] u t) ∧
  (∀ (s u : State) (p sid i c : Nat) (ws : List W64) (x : Payload × Payload) (errs : List MemErr), MayIssue s p sid i ws kXfer errs →
    s.served p sid ws = true → s.xferOpening p ws = false →
    c = ef ws 3 23 10 → c ≠ 0x3FFF → (s.conn c).st = 2 → ef ws 2 23 0 ≠ 0 →
    ((s.updPart p fun q => markIssue q sid i).chargePools p sid ws).xferRead p ws errs = (some x, u) → x.1.1 ≠ [] →
    Runs (.xferIssue p sid errs) s fun t =>
      (∃ ps, Sends u t c ps ∧ (∀ q ∈ ps, q.op = opWrite ∧ q.prov = provStep (s.part p) (s.part p).step) ∧
          ps.flatMap (·.grans) = payloadGrans x.1 ++ payloadGrans (x.2.1, x.2.2.map (· / 256))) ∧
        ((t.conn c).ops.map fun o => (o.opid, o.kind)) = ((u.conn c).ops.map fun o => (o.opid, o.kind)) ++ [(u.net.opid, .data)] ∧
        (∀ k, k ≠ c → t.conn k = u.conn k) ∧
        t.part p = completeEntry (u.part p) sid (s.part p).step ws ∧ (∀ q, q ≠ p → t.part q = u.part q) ∧
        Keeps [.network, .partitions, .stewards] u t) ∧
  (∀ (s u : State) (p sid i c : Nat) (ws : List W64) (x : Payload × Payload) (errs : List MemErr), MayIssue s p sid i ws kXfer errs →
    s.served p sid ws = true → s.xferOpening p ws = false →
    c = ef ws 3 23 10 → c ≠ 0x3FFF → (s.conn c).st = 2 → ef ws 2 23 0 = 0 → ef ws 4 63 42 ≠ relNone →
    ((s.updPart p fun q => markIssue q sid i).chargePools p sid ws).xferRead p ws errs = (some x, u) →
    Runs (.xferIssue p sid errs) s fun t =>
      (∃ q, Sends u t c [q] ∧ q.op = opToken ∧ q.w3 = ef ws 4 63 42 * 2 ^ 10 + (s.part p).step % 1024 ∧
          q.prov = provStep (s.part p) (s.part p).step) ∧ t.mem = u.mem) ∧
  (∀ (s u : State) (p sid i : Nat) (ws : List W64) (errs : List MemErr), MayIssue s p sid i ws kXfer errs →
    s.served p sid ws = true → s.xferOpening p ws = false →
    ef ws 3 23 10 = 0x3FFF ∨ (s.conn (ef ws 3 23 10)).st = 2 →
    ((s.updPart p fun q => markIssue q sid i).chargePools p sid ws).xferRead p ws errs = (none, u) → (u.part p).st ≠ .tearing →
    Runs (.xferIssue p sid errs) s fun t =>
      (∀ e ∈ (t.part p).streams, e.2.stopped = true) ∧ (t.part p).faultEvent = 0x46 ∧ (t.part p).faults = inc (u.part p).faults ∧
        t.mem = u.mem) ∧
  (∀ (s u : State) (p sid i : Nat) (ws : List W64) (x : Payload × Payload) (errs : List MemErr), MayIssue s p sid i ws kXfer errs →
    s.served p sid ws = true → s.xferOpening p ws = false →
    ef ws 3 23 10 = 0x3FFF → ((s.updPart p fun q => markIssue q sid i).chargePools p sid ws).xferRead p ws errs = (some x, u) →
    u.reaches p (ef ws 3 63 24) x.1.1.length = false ∨ u.reaches p (ef ws 6 63 24) x.2.1.length = false → (u.part p).st ≠ .tearing →
    Runs (.xferIssue p sid errs) s fun t =>
      (∀ e ∈ (t.part p).streams, e.2.stopped = true) ∧ (t.part p).faultEvent = 0x46 ∧ (t.part p).faults = inc (u.part p).faults ∧
        (∀ k, (streamOf (t.part p) k).tokens = (streamOf (u.part p) k).tokens) ∧ (t.part p).layers = (u.part p).layers ∧ t.mem = u.mem) ∧
  (∀ (s : State) (p sid i : Nat) (ws : List W64) (errs : List MemErr), MayIssue s p sid i ws kXfer errs →
    (ef ws 3 23 10 ≠ 0x3FFF ∧ (s.conn (ef ws 3 23 10)).st ≠ 2) ∨ s.served p sid ws = false ∨ s.xferOpening p ws = true →
    Idles (.xferIssue p sid errs) s)

/-- WAIT_ISSUE, RESERVE_ISSUE, LAYER_ISSUE and STEP_END (R209, R210, R215, R219, R232): a wait releases its Token, a reserve entry only goes by, a
layer entry joins its stream to the layer it declares, and STEP_END clears the stream's Token counters of the step; and no entry of any kind
issues before its planned round or with a wait unmet (R218). -/
def Obligations.ControlEntriesAndTheIssueRule : Prop :=
  (∀ (s : State) (p sid i : Nat) (ws : List W64) (errs : List MemErr), MayIssue s p sid i ws kWait errs →
    Runs (.waitIssue p sid errs) s fun t =>
      t = s.updPart p fun q => completeEntry (markIssue q sid i) sid (s.part p).step ws) ∧
  (∀ (s : State) (p sid i : Nat) (ws : List W64) (errs : List MemErr), MayIssue s p sid i ws kReserve errs →
    Runs (.reserveIssue p sid errs) s fun t => t = s.updPart p fun q => markIssue q sid i) ∧
  (∀ (s : State) (p sid i : Nat) (ws : List W64) (errs : List MemErr), MayIssue s p sid i ws kLayer errs →
    (∀ l ∈ (s.part p).layers, l.lidx ≠ ef ws 2 15 4) → redoOf (s.part p) sid = none →
    Runs (.layerIssue p sid errs) s fun t =>
      (t.part p).layers = (s.part p).layers ++
          [{ Layer.reset with lidx := ef ws 2 15 4, layerId := ef ws 2 63 32, slot := ef ws 2 31 16, npos := ef ws 3 63 51,
                              streams := [⟨sid, i + 1, none, false⟩] }] ∧
        streamOf (t.part p) sid = { streamOf (s.part p) sid with next := i + 1, timedOut := false, heldUpd := false } ∧
        (∀ q, q ≠ p → t.part q = s.part q) ∧ Keeps [.partitions] s t) ∧
  (∀ (s : State) (p sid i : Nat) (ws : List W64) (l : Layer) (errs : List MemErr), MayIssue s p sid i ws kLayer errs →
    (s.part p).layers = [l] → l.lidx = ef ws 2 15 4 → redoOf (s.part p) sid = none →
    Runs (.layerIssue p sid errs) s fun t =>
      (t.part p).layers = [{ l with streams := l.streams ++ [⟨sid, i + 1, none, false⟩] }] ∧ Keeps [.partitions] s t) ∧
  (∀ (s : State) (p sid i : Nat) (ws : List W64) (errs : List MemErr), MayIssue s p sid i ws kStepEnd errs → redoOf (s.part p) sid = none →
    Runs (.stepEnd p sid errs) s fun t =>
      (streamOf (t.part p) sid).ended = true ∧
        (∀ j, Table.get 0 (streamOf (t.part p) sid).tokens (2 * j + (s.part p).step % 2) = 0) ∧
        (∀ j, Table.get 0 (streamOf (t.part p) sid).tokens (2 * j + ((s.part p).step + 1) % 2) =
          Table.get 0 (streamOf (s.part p) sid).tokens (2 * j + ((s.part p).step + 1) % 2)) ∧
        (∀ x, x ≠ sid → streamOf (t.part p) x = streamOf (s.part p) x) ∧ (t.part p).step = (s.part p).step ∧
        (∀ q, q ≠ p → t.part q = s.part q) ∧ Keeps [.partitions] s t) ∧
  (∀ (s : State) (p sid i kind : Nat) (ws : List W64) (errs : List MemErr) (upset : List Nat), HeldBack s p sid i ws kind errs →
    Idles (.tileIssue p sid errs upset) s ∧ Idles (.convIssue p sid errs upset) s ∧ Idles (.vecIssue p sid errs) s ∧
      Idles (.mergeIssue p sid errs) s ∧ Idles (.xferIssue p sid errs) s ∧ Idles (.reserveIssue p sid errs) s ∧
      Idles (.collIssue p sid errs) s ∧ Idles (.layerIssue p sid errs) s ∧ Idles (.waitIssue p sid errs) s ∧ Idles (.stepEnd p sid errs) s)

/-- LAYER_CLOSE and LAYER_REPLAY_ISSUE (R186 to R193): an attempt without a loss or an overflow below the ceiling is accepted and its withheld
releases go out; otherwise a replay is ordered, no release goes out, LEVEL rises by one for an overflow, SA is off for a loss, and after
1,024 cycles the streams reissue the layer's entries.
STEP_BOUNDARY and TOKEN_TIMEOUT (R182, R183, R222, R226, R229): the boundary takes every slot of the partition one history entry on, the member
into the next step with the shift that its SLIPs call for, and every stream back to its first entry; it waits for open layers and work that
is not done. A wait that stays unmet WAIT_LIMIT rounds is counted once and is a partition fault. -/
def Obligations.LayersCloseAndStepsEnd : Prop :=
  (∀ (s : State) (p lidx : Nat) (l : Layer), s.operational = true → layerOf (s.part p) lidx = some l → l.waiting = false →
    l.npos ≤ (l.streams.filter (·.closed)).length → (s.part p).stn.st = 1 → l.lost = false →
    l.ovf = false ∨ atCeiling (s.slot l.slot) = true → l.ceilRaised = false →
    Runs (.layerClose p lidx) s fun t =>
      t.part p = l.rels.foldl (fun q rel => releaseTok q rel q.step (provStep q q.step)) { s.part p with layers := (s.part p).layers.filter fun x => x.lidx ≠ lidx } ∧
        (∀ n, t.posn n = { s.posn n with saves := (t.posn n).saves }) ∧ (∀ q, q ≠ p → t.part q = s.part q) ∧
        Keeps [.partitions, .positions] s t) ∧
  (∀ (s : State) (p lidx : Nat) (l : Layer), s.operational = true → layerOf (s.part p) lidx = some l → l.waiting = false →
    l.npos ≤ (l.streams.filter (·.closed)).length → (s.part p).stn.st = 1 → l.lost = false → l.ovf = true →
    atCeiling (s.slot l.slot) = true → l.ceilRaised = true →
    Runs (.layerClose p lidx) s fun t =>
      (∃ w, Logged t (l.slot / 4096) 0x21 w) ∧ layerOf (t.part p) lidx = none ∧ Keeps [.partitions, .positions, .columns, .stewards, .firmware] s t) ∧
  (∀ (s : State) (p lidx : Nat) (l : Layer) (up : Bool), s.operational = true → layerOf (s.part p) lidx = some l → l.waiting = false →
    l.npos ≤ (l.streams.filter (·.closed)).length → (s.part p).stn.st = 1 → up = (l.ovf && !atCeiling (s.slot l.slot)) →
    l.lost = true ∨ up = true →
    Runs (.layerClose p lidx) s fun t =>
      (∃ z, layerOf (t.part p) lidx = some z ∧ z.attempt = l.attempt + 1 ∧ z.la = (l.la || l.lost) ∧ z.waiting = true ∧ z.rels = [] ∧
          z.lost = false ∧ z.ovf = false ∧ z.streams = l.streams ∧ z.closedAt = s.tm.clk) ∧
        (t.part p).streams = (s.part p).streams ∧ (t.slot l.slot).replays = inc (s.slot l.slot).replays ∧
        (t.slot l.slot).state = (if up then (raiseLevel (s.slot l.slot) l.amax).state else (s.slot l.slot).state) ∧
        (up = true → stLevel (t.slot l.slot).state = stLevel (s.slot l.slot).state + 1) ∧
        (t.col (l.slot / 4096)).cadReplays = inc (s.col (l.slot / 4096)).cadReplays ∧ (∃ w, Logged t (l.slot / 4096) 0x20 w) ∧
        (∀ n, n ≠ l.slot → t.slot n = s.slot n) ∧ (∀ q, q ≠ p → t.part q = s.part q) ∧
        (∀ n, t.posn n = { s.posn n with blocks := (t.posn n).blocks, owed := (t.posn n).owed, tops := (t.posn n).tops, saves := (t.posn n).saves }) ∧
        Keeps [.partitions, .positions, .slots, .columns, .stewards, .firmware] s t) ∧
  (∀ (s : State) (p lidx : Nat) (l : Layer), layerOf (s.part p) lidx = some l →
    l.waiting = true ∨ (l.streams.filter (·.closed)).length < l.npos → Idles (.layerClose p lidx) s) ∧
  (∀ (s : State) (p lidx : Nat) (l : Layer), s.operational = true → layerOf (s.part p) lidx = some l → l.waiting = true →
    (s.part p).stn.st = 1 → (∀ x ∈ l.streams, 1024000 ≤ s.since l.closedAt * s.clusterMhz (x.stream / 16)) →
    Runs (.layerReplayIssue p lidx) s fun t =>
      (∃ z, layerOf (t.part p) lidx = some z ∧ z = { l with waiting := false, streams := l.streams.map fun x =>
          { x with cursor := some x.first, closed := false } }) ∧
        (t.part p).streams = (s.part p).streams ∧ (∀ q, q ≠ p → t.part q = s.part q) ∧ Keeps [.partitions] s t) ∧
  (∀ (s : State) (p lidx : Nat) (l : Layer), layerOf (s.part p) lidx = some l →
    (∃ x ∈ l.streams, s.since l.closedAt * s.clusterMhz (x.stream / 16) < 1024000) → Idles (.layerReplayIssue p lidx) s) ∧
  (∀ (s : State) (p : Nat), s.operational = true → s.boundaryReady p = true →
    Runs (.stepBoundary p) s fun t =>
      (t.part p).step = (s.part p).step + 1 ∧ (t.part p).shift = (s.part p).shift + Table.get 0 (s.part p).slipBest ((s.part p).step + 1) ∧
        (∀ e ∈ (t.part p).streams, e.2.next = 0 ∧ e.2.ended = false ∧ e.2.timedOut = false) ∧
        (∀ n ∈ slotsOf (s.part p), (t.slot n) =
          { (slotBoundary (s.slot n)).1 with startState := (slotBoundary (s.slot n)).1.state }) ∧
        (∀ n, n ∉ slotsOf (s.part p) → t.slot n = s.slot n) ∧ (t.part p).stn = (s.part p).stn ∧ p ∉ t.fw.actBounds ∧
        (∀ q, q ≠ p → t.part q = s.part q) ∧ Keeps [.partitions, .slots, .positions, .columns, .stewards, .firmware] s t) ∧
  (∀ (s : State) (p : Nat), s.boundaryReady p = false → Idles (.stepBoundary p) s) ∧
  (∀ (s : State) (p : Nat) (l : Layer), l ∈ (s.part p).layers → Idles (.stepBoundary p) s) ∧
  (∀ (s : State) (p sid i : Nat) (ws : List W64) (h : Sched) (errs : List MemErr), s.operational = true → mayIssue (s.part p) sid = true →
    (streamOf (s.part p) sid).timedOut = false → s.nextEntry p sid errs = (some (i, ws), s) → (s.part p).sched = some h →
    planned (s.part p) (s.part p).step (eRound ws) + (h.waitLimit : Int) ≤ s.roundNow (s.part p) → waitsMet (s.part p) sid ws = false →
    Runs (.tokenTimeout p sid errs) s fun t =>
      (t.part p).tokenTimeout = inc (s.part p).tokenTimeout ∧ (streamOf (t.part p) sid).timedOut = true ∧ (t.part p).faultEvent = 0x31 ∧
        (t.part p).faults = inc (s.part p).faults ∧ t.mem = s.mem ∧ t.pos = s.pos ∧ t.tm = s.tm) ∧
  (∀ (s : State) (p sid : Nat) (errs : List MemErr), (streamOf (s.part p) sid).timedOut = true → Idles (.tokenTimeout p sid errs) s) ∧
  (∀ (s : State) (p sid i : Nat) (ws : List W64) (h : Sched) (errs : List MemErr), mayIssue (s.part p) sid = true →
    s.nextEntry p sid errs = (some (i, ws), s) → (s.part p).sched = some h →
    s.roundNow (s.part p) < planned (s.part p) (s.part p).step (eRound ws) + (h.waitLimit : Int) → Idles (.tokenTimeout p sid errs) s)

/-! Collectives (chapter 10). -/

/-- COLL_ISSUE (R315, R348, R357, R370): a step that is not exact sends its granules from BUF and, receiving nothing, completes; an exact step
sends the parts of its segments and waits for those it lacks; a destination that is not open, or a carrier entry whose verdict is not ready,
holds the entry; data that cannot be read stop the streams.
PULL_TIMEOUT (R366, R370): HOLD rounds after an in-path entry's planned round, every open rank that a segment still lacks is asked once. -/
def Obligations.CollectivesStepAndPull : Prop :=
  (∀ (s u : State) (p sid i d : Nat) (ws : List W64) (k : CollCtx) (l : Marked) (errs : List MemErr), MayIssue s p sid i ws kColl errs →
    s.served p sid ws = true → collCtx (s.part p) ws = some k → s.collOpening p k ws = false → k.cid ≠ carrierCid (s.part p) →
    k.mv.dest = some d → (s.conn (k.conn d)).st = 2 → k.mv.src = none → k.exact = false → k.regroup = none →
    cCid ws ≠ carrierCid (s.part p) → (s.part p).collIn = [] → (s.part p).collAsk = [] → (s.part p).colls = [] →
    ((s.updPart p fun q => markIssue q sid i).chargePools p sid ws).readMarked p (ef ws 3 63 24) (256 * ef ws 3 23 0) errs = (some l, u) →
    u.parts = ((s.updPart p fun q => markIssue q sid i).chargePools p sid ws).parts → u.net = s.net →
    Runs (.collIssue p sid errs) s fun t =>
      (∃ ps, Sends s t (k.conn d) ps ∧ (∀ q ∈ ps, q.op = opReduce ∧ q.prov = provStep (s.part p) (s.part p).step) ∧
          ps.flatMap (·.grans) = markedGrans l) ∧
        (∀ x ∈ (t.part p).colls, x.stream = sid ∧ x.entry = i ∧ x.done = true) ∧
        (t.col (collCol sid)).colSteps = inc (u.col (collCol sid)).colSteps ∧
        (t.part p).streams = (completeEntry (markIssue (s.part p) sid i) sid (s.part p).step ws).streams ∧ t.mem = s.mem ∧
        (∀ q, q ≠ p → t.part q = s.part q) ∧ Keeps [.network, .partitions, .columns, .stewards, .firmware] s t) ∧
  (∀ (s u : State) (p sid i d m : Nat) (ws : List W64) (k : CollCtx) (pkts : List Pkt) (errs : List MemErr), MayIssue s p sid i ws kColl errs →
    s.served p sid ws = true → collCtx (s.part p) ws = some k → s.collOpening p k ws = false → k.cid ≠ carrierCid (s.part p) →
    cCid ws ≠ carrierCid (s.part p) → k.mv.dest = some d →
    (s.conn (k.conn d)).st = 2 → k.mv.src ≠ none → k.exact = true → k.mv.recv.1 < k.mv.recv.2 →
    k.own ≠ k.want → (s.part p).collIn = [] → (s.part p).collAsk = [] → (s.part p).colls = [] →
    (((s.updPart p fun q => markIssue q sid i).chargePools p sid ws).encodeSpan k (s.part p).step k.mv.send.1 k.mv.send.2
        k.sent (attemptOf (s.part p) (s.part p).step) (provStep (s.part p) (s.part p).step)
        fun v seg => v.segStates p (collCol sid) k
          (if !k.mv.combine ∨ (k.resAt (s.part p) (s.part p).step k.mv.send.1).isSome then 2 else k.form) (ef ws 3 63 24) (seg - k.mv.send.1) seg errs)
      = (some (pkts, m), u) →
    u.parts = ((s.updPart p fun q => markIssue q sid i).chargePools p sid ws).parts → u.net = s.net →
    Runs (.collIssue p sid errs) s fun t =>
      (∃ ps, Sends s t (k.conn d) ps ∧ ps.length = pkts.length ∧ ps.flatMap (·.grans) = pkts.flatMap (·.grans)) ∧
        (∀ x ∈ (t.part p).colls, x.stream = sid ∧ x.entry = i ∧ x.done = false) ∧ (t.part p).colls ≠ [] ∧
        (t.col (collCol sid)).colEsc = incBy (u.col (collCol sid)).colEsc m ∧ t.mem = s.mem ∧
        (t.part p).streams = (markIssue (s.part p) sid i).streams ∧ (∀ q, q ≠ p → t.part q = s.part q)) ∧
  (∀ (s : State) (p sid i d : Nat) (ws : List W64) (k : CollCtx) (errs : List MemErr), MayIssue s p sid i ws kColl errs →
    collCtx (s.part p) ws = some k →
    (k.mv.dest = some d ∧ (s.conn (k.conn d)).st ≠ 2) ∨ collHeld (s.part p) ws = true ∨ s.served p sid ws = false ∨ s.collOpening p k ws = true →
    Idles (.collIssue p sid errs) s) ∧
  (∀ (s u : State) (p sid i d : Nat) (ws : List W64) (k : CollCtx) (errs : List MemErr), MayIssue s p sid i ws kColl errs →
    s.served p sid ws = true → collCtx (s.part p) ws = some k → s.collOpening p k ws = false → k.cid ≠ carrierCid (s.part p) →
    cCid ws ≠ carrierCid (s.part p) → k.mv.dest = some d →
    (s.conn (k.conn d)).st = 2 → k.exact = false → k.regroup = none → (s.part p).st ≠ .tearing →
    ((s.updPart p fun q => markIssue q sid i).chargePools p sid ws).readMarked p (ef ws 3 63 24) (256 * ef ws 3 23 0) errs = (none, u) →
    Runs (.collIssue p sid errs) s fun t =>
      (∀ e ∈ (t.part p).streams, e.2.stopped = true) ∧ (t.part p).faultEvent = 0x46 ∧ t.mem = s.mem) ∧
  (∀ (s : State) (p seg : Nat) (run : CollRun) (k : CollCtx) (missing : List Nat), s.operational = true → s.net.opid < 65536 → (s.part p).colls = [run] →
    collCtx (s.part p) run.words = some k → run.done = false → k.inpath = true → k.exact = true → seg < k.mv.recv.2 - k.mv.recv.1 →
    run.due + (iHold k.b k.st : Int) ≤ s.roundNow (s.part p) → k.union run seg ≠ k.want →
    missing = ((bitsOf k.g (k.want - k.union run seg)).filter fun r => !run.pulled.contains (seg, r) && decide ((s.conn (k.conn r)).st = 2)) →
    Runs (.pullTimeout p seg) s fun t =>
      (∀ r ∈ missing, ∃ q, Sends s t (k.conn r) [q] ∧ q.op = opReduce ∧ q.grans = [] ∧ q.prov = false ∧ nfld q.w2 63 48 = k.cid % 65536) ∧
        (∀ c, (∀ r ∈ missing, c ≠ k.conn r) → t.conn c = s.conn c) ∧
        (t.part p).colls = [{ run with pulled := run.pulled ++ missing.map fun r => (seg, r) }] ∧
        (t.col (collCol run.stream)).colPulls = incBy (s.col (collCol run.stream)).colPulls missing.length ∧
        (∀ q, q ≠ p → t.part q = s.part q) ∧ Keeps [.network, .partitions, .columns, .stewards] s t) ∧
  (∀ (s : State) (p seg : Nat), (∀ x ∈ (s.part p).colls, x.done = true) → Idles (.pullTimeout p seg) s)

/-! The Strainer (chapter 11). -/

/-- TILE_CHECK_DONE (R373, R374, R382 to R384): the oldest check of a cluster's lane ends as checked, as unchecked, or as a failure that is
recorded, logged and charged to its position, or to nobody when the lane itself fails its self-test. -/
def Obligations.LaneChecksComplete : Prop :=
  (∀ (s : State) (cl : Nat) (lane : Bool) (ch : Check) (rest : List Check), s.operational = true → (s.cluster cl).queue = ch :: rest →
    (s.cluster cl).laneFailed = false → ch.skip = false → ch.fail = none →
    Runs (.tileCheckDone cl lane) s fun t =>
      t.cluster cl = { s.cluster cl with
          queue := rest, checked := if ch.conv then (s.cluster cl).checked else inc (s.cluster cl).checked,
          convChecked := if ch.conv then inc (s.cluster cl).convChecked else (s.cluster cl).convChecked } ∧
        (∀ c, c ≠ cl → t.cluster c = s.cluster c) ∧ Keeps [.clusters] s t) ∧
  (∀ (s : State) (cl : Nat) (lane : Bool) (ch : Check) (rest : List Check), s.operational = true → (s.cluster cl).queue = ch :: rest →
    (s.cluster cl).laneFailed = true ∨ ch.skip = true →
    Runs (.tileCheckDone cl lane) s fun t =>
      t.cluster cl = { s.cluster cl with
          queue := rest, unchecked := if ch.conv then (s.cluster cl).unchecked else inc (s.cluster cl).unchecked } ∧ Keeps [.clusters] s t) ∧
  (∀ (s : State) (cl kind out : Nat) (ch : Check) (rest : List Check) (w : W64), s.operational = true → (s.cluster cl).queue = ch :: rest →
    (s.cluster cl).laneFailed = false → ch.skip = false → ch.fail = some (kind, out) →
    w = lastFailWord (ch.entry % 2 ^ 32) ch.step ch.pos (s.physSlot ch.pos) kind out 0 →
    Runs (.tileCheckDone cl true) s fun t =>
      (t.cluster cl).lastFail = w ∧ (t.cluster cl).queue = rest ∧ (t.cluster cl).laneFailed = false ∧
        (t.cluster cl).mismatch = (if kind = 5 then (s.cluster cl).mismatch else inc (s.cluster cl).mismatch) ∧
        (t.cluster cl).residue = (if kind = 5 then inc (s.cluster cl).residue else (s.cluster cl).residue) ∧
        Logged t (ch.pos / 256) 0x70 [w] ∧ (ch.step, ch.pos) ∈ (t.part ch.part).stn.failing ∧
        Keeps [.clusters, .partitions, .stewards, .firmware] s t) ∧
  (∀ (s : State) (cl kind out : Nat) (ch : Check) (rest : List Check) (w : W64), s.operational = true → (s.cluster cl).queue = ch :: rest →
    (s.cluster cl).laneFailed = false → ch.skip = false → ch.fail = some (kind, out) →
    w = lastFailWord (ch.entry % 2 ^ 32) ch.step ch.pos (s.physSlot ch.pos) 6 0 0 →
    Runs (.tileCheckDone cl false) s fun t =>
      (t.cluster cl).lastFail = w ∧ (t.cluster cl).laneFailed = true ∧ (t.cluster cl).mismatch = (s.cluster cl).mismatch ∧
        Logged t (cl / 16) 0x71 [w] ∧ (ch.step, 4096) ∈ (t.part ch.part).stn.failing ∧ t.pos = s.pos) ∧
  (∀ (s : State) (cl : Nat) (lane : Bool), (s.cluster cl).queue = [] → Idles (.tileCheckDone cl lane) s)

/-- VERDICT_READY and CARRIER_COMPLETE (R385, R392, R394, R399): a clean verdict is recorded; a failing one goes to the tree's root as a REQUEST,
or at the root begins a retraction of the step under the next order number; the carrier commits the step before when no vote says FAIL, and
then its held updates' Tokens go out and its slots' retained copies move on. -/
def Obligations.VerdictsCommitOrRetract : Prop :=
  (∀ (s : State) (p n v : Nat), s.operational = true → (s.part p).stn.st = 1 ∨ (s.part p).stn.st = 2 → (s.part p).stn.retracted = none →
    oldestStep (s.part p) = n → n ≤ (s.part p).step → verdictOf (s.part p) n = none → s.stepSettled p n = true → s.checksDone p n = true →
    v = s.verdictFlags p n → v % 2 = 0 → finalStep (s.part p) n = false →
    Runs (.verdictReady p) s fun t =>
      (t.part p).stn = { (s.part p).stn with verdicts := Table.set none (s.part p).stn.verdicts n (some v) } ∧
        t.part p = { s.part p with stn := (t.part p).stn } ∧ (∀ q, q ≠ p → t.part q = s.part q) ∧ Keeps [.partitions, .stewards] s t) ∧
  (∀ (s : State) (p n v c : Nat), s.operational = true → (s.part p).stn.st = 1 ∨ (s.part p).stn.st = 2 → (s.part p).stn.retracted = none →
    oldestStep (s.part p) = n → n ≤ (s.part p).step → verdictOf (s.part p) n = none → s.stepSettled p n = true → s.checksDone p n = true →
    v = s.verdictFlags p n → v % 2 = 1 → finalStep (s.part p) n = false → slipParent (s.part p) = some c → (s.conn c).st = 2 →
    (s.part p).stn.exhausted = false →
    Runs (.verdictReady p) s fun t =>
      (∃ q, Sends s t c [q] ∧ q.op = opVerdict ∧ q.ctl = verdictBytes n 4 (attemptOf (s.part p) n) 1 0 (memberNo (s.part p)) 0 0 0 (failPos (s.part p) n)) ∧
        verdictOf (t.part p) n = some v ∧ (t.part p).stn.fails = inc (s.part p).stn.fails ∧ (t.part p).stn.st = (s.part p).stn.st ∧
        (∀ k, k ≠ c → t.conn k = s.conn k) ∧ (∀ q, q ≠ p → t.part q = s.part q) ∧ Keeps [.partitions, .network, .stewards] s t) ∧
  (∀ (s : State) (p n v : Nat), s.operational = true → (s.part p).stn.st = 1 ∨ (s.part p).stn.st = 2 → (s.part p).stn.retracted = none →
    oldestStep (s.part p) = n → n ≤ (s.part p).step → verdictOf (s.part p) n = none → s.stepSettled p n = true → s.checksDone p n = true →
    v = s.verdictFlags p n → v % 2 = 1 → slipParent (s.part p) = none → (s.part p).stn.exhausted = false →
    (s.part p).stn.handover = false → attemptOf (s.part p) n < 3 →
    Runs (.verdictReady p) s fun t =>
      (t.part p).stn.st = 2 ∧ (t.part p).stn.retracted = some n ∧ (t.part p).stn.rseq = ((s.part p).stn.rseq + 1) % 65536 ∧
        attemptOf (t.part p) n = attemptOf (s.part p) n + 1 ∧ (t.part p).stn.retracts = inc (s.part p).stn.retracts ∧
        (t.part p).stn.committed = (s.part p).stn.committed ∧ (∀ q, q ≠ p → t.part q = s.part q) ∧ Keeps [.partitions, .network, .stewards] s t) ∧
  (∀ (s : State) (p n : Nat), oldestStep (s.part p) = n → n ≤ (s.part p).step → verdictOf (s.part p) n = none →
    s.stepSettled p n = false ∨ s.checksDone p n = false → Idles (.verdictReady p) s) ∧
  (∀ (s : State) (p n own : Nat), s.operational = true → (s.part p).stn.st = 1 → oldestStep (s.part p) = n → (s.part p).step = n + 1 →
    verdictOf (s.part p) n = some own → (∀ x ∈ (s.part p).colls, x.done = true) → (∀ c ∈ partCols (s.part p), s.carrierAhead p (0x1010 + c) = false) →
    (own ||| Table.get 0 (s.part p).stn.votes n) % 2 = 0 → finalStep (s.part p) n = false → finalStep (s.part p) (n + 1) = false → fld (s.part p).stn.cfg 43 12 = 0 →
    bit (s.part p).stn.cfg 60 = false →
    Runs (.carrierComplete p) s fun t =>
      (t.part p).stn.committed = BitVec.ofNat 64 n ∧ (t.part p).stn.st = 1 ∧ (t.part p).step = (s.part p).step ∧
        (t.part p).streams = (release511 (s.part p) (n + 1)).streams ∧
        (∀ k ∈ slotsOf (s.part p), t.slot k = advanceSlot (s.slot k)) ∧ (∀ k, k ∉ slotsOf (s.part p) → t.slot k = s.slot k) ∧
        (∀ q, q ≠ p → t.part q = s.part q) ∧ Keeps [.partitions, .slots, .positions, .stewards] s t) ∧
  (∀ (s : State) (p n own : Nat), oldestStep (s.part p) = n → verdictOf (s.part p) n = some own →
    (own ||| Table.get 0 (s.part p).stn.votes n) % 2 = 1 → Idles (.carrierComplete p) s)

/-- QUIESCED_SEND (R400, R401, R404, R406, R407): a member whose work has come to rest, and whose children have said so, tells its parent and
stands QUIESCED; the root resumes at the retracted step with the shift of R403; a handover enters STATE 4 as a partition fault; a position
charged for the second time gives way to the spare. -/
def Obligations.QuiescenceResumesOrHandsOver : Prop :=
  (∀ (s : State) (p r c : Nat), s.operational = true → (s.part p).stn.retracted = some r → (s.part p).stn.st = 2 → s.mayQuiesce p r = true →
    (∀ k ∈ slipChildren (s.part p), k ∈ (s.part p).stn.quiesced) → (∀ e ∈ (s.part p).stn.failing, e.1 < r ∨ 4096 ≤ e.2) →
    slipParent (s.part p) = some c → (s.conn c).st = 2 → (s.part p).stn.handover = false →
    Runs (.quiescedSend p) s fun t =>
      (∃ q, Sends s t c [q] ∧ q.op = opVerdict ∧
          q.ctl = verdictBytes r 6 (attemptOf (s.part p) r) 0 0 (memberNo (s.part p)) 0 0 (s.part p).stn.rseq 0) ∧
        (t.part p).stn.st = 3 ∧ (t.part p).step = (s.part p).step ∧ (t.part p).streams = (s.part p).streams ∧
        (∀ q, q ≠ p → t.part q = s.part q) ∧ Keeps [.partitions, .network, .stewards] s t) ∧
  (∀ (s : State) (p r : Nat), s.operational = true → (s.part p).stn.retracted = some r → (s.part p).stn.st = 2 → s.mayQuiesce p r = true →
    (∀ k ∈ slipChildren (s.part p), k ∈ (s.part p).stn.quiesced) → (∀ e ∈ (s.part p).stn.failing, e.1 < r ∨ 4096 ≤ e.2) →
    slipParent (s.part p) = none → (s.part p).stn.handover = false →
    Runs (.quiescedSend p) s fun t =>
      (t.part p).stn.st = 1 ∧ (t.part p).stn.retracted = none ∧ (t.part p).step = r ∧
        (t.part p).shift = (s.part p).shift + (2 * ((((s.part p).sched.map (·.period)).getD 0) * (s.part p).stn.count) : Nat) ∧
        (∀ e ∈ (t.part p).streams, e.2.next = 0 ∧ e.2.ended = false) ∧ (t.part p).layers = [] ∧
        (∀ k ∈ slotsOf (s.part p), t.slot k = returnSlot (decide (oldestStep (s.part p) < r)) (s.slot k)) ∧ t.mem = s.mem ∧
        (∀ q, q ≠ p → t.part q = s.part q) ∧ Keeps [.partitions, .network, .slots, .positions, .clusters, .firmware, .stewards] s t) ∧
  (∀ (s : State) (p r : Nat), s.operational = true → (s.part p).stn.retracted = some r → (s.part p).stn.st = 2 → s.mayQuiesce p r = true →
    (∀ k ∈ slipChildren (s.part p), k ∈ (s.part p).stn.quiesced) → (∀ e ∈ (s.part p).stn.failing, e.1 < r ∨ 4096 ≤ e.2) →
    (s.part p).stn.handover = true →
    Runs (.quiescedSend p) s fun t => (t.part p).faultEvent = 0x74 ∧ (t.part p).faults = inc (s.part p).faults ∧ t.mem = s.mem) ∧
  (∀ (s : State) (p r pos : Nat), s.operational = true → (s.part p).stn.retracted = some r → (s.part p).stn.st = 2 → s.mayQuiesce p r = true →
    (∀ k ∈ slipChildren (s.part p), k ∈ (s.part p).stn.quiesced) → (s.part p).stn.failing = [(r, pos)] → pos < 4096 →
    1 ≤ (s.posn pos).fails → s.spareFree (pos / 16) = true → Memory.wf s.mem →
    Runs (.quiescedSend p) s fun t =>
      (t.margin (pos / 16)).spare = some (pos % 16, pos % 16) ∧ t.physSlot pos = 16 ∧ (t.posn pos).fails = 0 ∧
        ∀ o, o < 2 ^ 20 → byteAt t (2 ^ 40 + (pos / 16 * 17 + 16) * 2 ^ 20 + o) = byteAt s (2 ^ 40 + (pos / 16 * 17 + pos % 16) * 2 ^ 20 + o)) ∧
  (∀ (s : State) (p r : Nat), (s.part p).stn.retracted = some r → s.mayQuiesce p r = false → Idles (.quiescedSend p) s)

/-! What members tell each other (chapters 07, 11, 14). -/

/-- SLIP_RECEIVE and ABORT_RECEIVE (R225 to R227, R499, R500): a SLIP for a step to come is kept as the largest of its label, a late one shifts the
rounds at once and is logged, one from elsewhere than the tree is left alone; an ABORT of the job that runs ends it, any other does nothing. -/
def Obligations.SlipsAndAbortsAct : Prop :=
  (∀ (s : State) (rx : Rx) (p : Pkt) (c q m d : Nat), Message s rx p c q opSlip → (s.part q).schSt = 2 ∨ (s.part q).schSt = 3 →
    c ∈ treeConns (s.part q) → m = leAt p.ctl 0 8 → d = leAt p.ctl 8 4 → (s.part q).step < m →
    Runs (.slipReceive rx) s fun t =>
      t.part q = { s.part q with slipBest := Table.set 0 (s.part q).slipBest m (max d (Table.get 0 (s.part q).slipBest m)) } ∧
        (t.conn c).rxNext = (p.psn + 1) % 2 ^ 32 ∧ (∀ x, x ≠ q → t.part x = s.part x) ∧ Keeps [.partitions, .network, .stewards] s t) ∧
  (∀ (s : State) (rx : Rx) (p : Pkt) (c q m d had : Nat), Message s rx p c q opSlip → (s.part q).schSt = 2 ∨ (s.part q).schSt = 3 →
    c ∈ treeConns (s.part q) → m = leAt p.ctl 0 8 → d = leAt p.ctl 8 4 → m ≤ (s.part q).step → had = Table.get 0 (s.part q).slipApplied m →
    Runs (.slipReceive rx) s fun t =>
      (t.part q).shift = (s.part q).shift + (d - had : Nat) ∧ (t.part q).slipsLate = inc (s.part q).slipsLate ∧
        Table.get 0 (t.part q).slipApplied m = max d had ∧ Logged t s.leadNow 0x33 [schLoadStatus (s.part q)] ∧
        Keeps [.partitions, .network, .stewards, .firmware] s t) ∧
  (∀ (s : State) (rx : Rx) (p : Pkt) (c q : Nat), Message s rx p c q opSlip → c ∉ treeConns (s.part q) →
    Runs (.slipReceive rx) s fun t => (t.conn c).rxNext = (p.psn + 1) % 2 ^ 32 ∧ Keeps [.network, .stewards] s t) ∧
  (∀ (s : State) (rx : Rx) (p : Pkt) (c q : Nat) (h : Sched), Message s rx p c q opAbort → (s.part q).sched = some h →
    h.jobId = leAt p.ctl 0 8 → (s.part q).abortedJob ≠ some h.jobId → (s.part q).st = .running → (s.part q).schSt = 2 ∨ (s.part q).schSt = 3 →
    Runs (.abortReceive rx) s fun t =>
      (t.part q).st = .ready ∧ (t.part q).schSt = 5 ∧ (t.part q).aborted = true ∧ (t.part q).abortedJob = some h.jobId ∧
        (t.part q).stn.st = 0 ∧ (∀ e ∈ (t.part q).streams, e.2.stopped = true ∧ e.2.tokens = []) ∧
        Logged t s.leadNow 0x93 (payloadWords p.ctl) ∧ (∀ x, x ≠ q → t.part x = s.part x) ∧ t.mem = s.mem ∧ t.slots = s.slots) ∧
  (∀ (s : State) (rx : Rx) (p : Pkt) (c q : Nat), Message s rx p c q opAbort → (s.part q).sched.map (·.jobId) ≠ some (leAt p.ctl 0 8) →
    Runs (.abortReceive rx) s fun t => (t.conn c).rxNext = (p.psn + 1) % 2 ^ 32 ∧ Keeps [.network, .stewards] s t)

/-- The VERDICT rows that carry votes and decisions (R391 to R394, R398): a vote joins the step's flags, a tree vote waits for the other children,
a DECIDE without FAIL commits the last step, with the slots as a boundary leaves them (log 108: the model's choice), and ends the schedule, a REQUEST goes up the tree once; a VERDICT that finds no job under way is
dropped and counted.
The VERDICT rows that order a retraction (R399 to R401, R403, R407): RETRACT and HANDOVER from the parent under the next order number take the
step back, QUIESCED from a child is noted, and RESUME starts the replay at the retracted step. -/
def Obligations.VotesDecisionsAndOrders : Prop :=
  (∀ (s : State) (rx : Rx) (p : Pkt) (c q n att flags stage member stepno : Nat), Message s rx p c q opVerdict →
    p.ctl = verdictBytes n 1 att flags stage member (carrierCid (s.part q)) stepno 0 0 → flags < 8 → LiveStep (s.part q) n att →
    Runs (.verdictVoteReceive rx) s fun t =>
      t.part q = { s.part q with stn := { (s.part q).stn with
          votes := Table.set 0 (s.part q).stn.votes n (Table.get 0 (s.part q).stn.votes n ||| flags) } } ∧
        (∀ x, x ≠ q → t.part x = s.part x) ∧ Keeps [.partitions, .network, .stewards] s t) ∧
  (∀ (s : State) (rx : Rx) (p : Pkt) (c q n att flags member k : Nat), Message s rx p c q opVerdict →
    p.ctl = verdictBytes n 2 att flags 0 member 0 0 0 0 → flags < 8 → LiveStep (s.part q) n att → finalStep (s.part q) n = true →
    c ∈ slipChildren (s.part q) → k ∈ slipChildren (s.part q) → k ≠ c → (∀ v ∈ (s.part q).stn.treeVotes, v.1 ≠ k) →
    Runs (.verdictTreeVoteReceive rx) s fun t =>
      t.part q = { s.part q with stn := { (s.part q).stn with
          treeVotes := (c, flags) :: (s.part q).stn.treeVotes.filter fun v => v.1 ≠ c } } ∧ Keeps [.partitions, .network, .stewards] s t) ∧
  (∀ (s : State) (rx : Rx) (p : Pkt) (c q n att flags member : Nat), Message s rx p c q opVerdict →
    p.ctl = verdictBytes n 3 att flags 0 member 0 0 0 0 → flags < 8 → flags % 2 = 0 → LiveStep (s.part q) n att →
    finalStep (s.part q) n = true → slipParent (s.part q) = some c → (s.part q).st = .running → fld (s.part q).stn.cfg 43 12 = 0 →
    bit (s.part q).stn.cfg 60 = false →
    Runs (.verdictDecideReceive rx) s fun t =>
      (t.part q).stn.committed = BitVec.ofNat 64 n ∧ (t.part q).schSt = 5 ∧ (t.part q).st = .ready ∧ (t.part q).stn.st = 0 ∧
        (∀ k ∈ slotsOf (s.part q), t.slot k =
          advanceSlot { (slotBoundary (s.slot k)).1 with startState := (slotBoundary (s.slot k)).1.state }) ∧
        (∀ x, x ≠ q → t.part x = s.part x) ∧
        Keeps [.partitions, .slots, .positions, .columns, .stewards, .firmware, .network] s t) ∧
  (∀ (s : State) (rx : Rx) (p : Pkt) (c q n att flags member pos up : Nat), Message s rx p c q opVerdict →
    p.ctl = verdictBytes n 4 att flags 0 member 0 0 0 pos → flags < 16 → n < 2 ^ 64 → att < 256 → (s.part q).stn.st ≠ 0 →
    c ∈ slipChildren (s.part q) → (n, 16 * att + flags / 8) ∉ (s.part q).stn.passed → slipParent (s.part q) = some up → up ≠ c →
    (s.conn up).st = 2 →
    Runs (.verdictRequestReceive rx) s fun t =>
      (∃ y, Sends s t up [y] ∧ y.op = opVerdict ∧ y.ctl = p.ctl) ∧
        t.part q = { s.part q with stn := { (s.part q).stn with passed := (n, 16 * att + flags / 8) :: (s.part q).stn.passed } } ∧
        Keeps [.partitions, .network, .stewards] s t) ∧
  (∀ (s : State) (rx : Rx) (p : Pkt) (c q kind : Nat) (t' : State), Message s rx p c q opVerdict → leAt p.ctl 8 1 = kind →
    (s.part q).stn.st = 0 → t' = (s.updStn q fun x => { x with drops := inc x.drops }) →
    (kind = 1 → Runs (.verdictVoteReceive rx) s fun t => t.part q = t'.part q ∧ Keeps [.partitions, .network, .stewards] s t) ∧
      (kind = 2 → Runs (.verdictTreeVoteReceive rx) s fun t => t.part q = t'.part q ∧ Keeps [.partitions, .network, .stewards] s t) ∧
      (kind = 3 → Runs (.verdictDecideReceive rx) s fun t => t.part q = t'.part q ∧ Keeps [.partitions, .network, .stewards] s t) ∧
      (kind = 4 → Runs (.verdictRequestReceive rx) s fun t => t.part q = t'.part q ∧ Keeps [.partitions, .network, .stewards] s t) ∧
      (kind = 5 → Runs (.verdictRetractReceive rx) s fun t => t.part q = t'.part q ∧ Keeps [.partitions, .network, .stewards] s t) ∧
      (kind = 6 → Runs (.verdictQuiescedReceive rx) s fun t => t.part q = t'.part q ∧ Keeps [.partitions, .network, .stewards] s t) ∧
      (kind = 7 → Runs (.verdictResumeReceive rx) s fun t => t.part q = t'.part q ∧ Keeps [.partitions, .network, .stewards] s t) ∧
      (kind = 8 → Runs (.verdictHandoverReceive rx) s fun t => t.part q = t'.part q ∧ Keeps [.partitions, .network, .stewards] s t)) ∧
  (∀ (s : State) (rx : Rx) (p : Pkt) (c q n att member rseq : Nat), Message s rx p c q opVerdict →
    p.ctl = verdictBytes n 5 att 0 0 member 0 0 rseq 0 → LiveStep (s.part q) n att → slipParent (s.part q) = some c →
    rseq = ((s.part q).stn.rseq + 1) % 65536 → (s.part q).stn.retracted = none →
    Runs (.verdictRetractReceive rx) s fun t =>
      (t.part q).stn.st = 2 ∧ (t.part q).stn.retracted = some n ∧ (t.part q).stn.rseq = rseq ∧
        attemptOf (t.part q) n = attemptOf (s.part q) n + 1 ∧ (t.part q).stn.retracts = inc (s.part q).stn.retracts ∧
        (t.part q).stn.count = (s.part q).stn.count + 1 ∧ (t.part q).stn.committed = (s.part q).stn.committed ∧
        (t.part q).step = (s.part q).step ∧ (∀ x, x ≠ q → t.part x = s.part x) ∧ Keeps [.partitions, .network, .stewards] s t) ∧
  (∀ (s : State) (rx : Rx) (p : Pkt) (c q n att member rseq : Nat), Message s rx p c q opVerdict →
    p.ctl = verdictBytes n 8 att 0 0 member 0 0 rseq 0 → LiveStep (s.part q) n att → slipParent (s.part q) = some c →
    rseq = ((s.part q).stn.rseq + 1) % 65536 → (s.part q).stn.retracted = none →
    Runs (.verdictHandoverReceive rx) s fun t =>
      (t.part q).stn.st = 2 ∧ (t.part q).stn.handover = true ∧ (t.part q).stn.retracted = some n ∧ (t.part q).stn.rseq = rseq ∧
        attemptOf (t.part q) n = attemptOf (s.part q) n ∧ (t.part q).stn.retracts = (s.part q).stn.retracts ∧
        (∀ x, x ≠ q → t.part x = s.part x) ∧ Keeps [.partitions, .network, .stewards] s t) ∧
  (∀ (s : State) (rx : Rx) (p : Pkt) (c q n att member r : Nat), Message s rx p c q opVerdict →
    p.ctl = verdictBytes n 6 att 0 0 member 0 0 (s.part q).stn.rseq 0 → (s.part q).stn.rseq < 65536 → (s.part q).stn.st ≠ 0 →
    c ∈ slipChildren (s.part q) → (s.part q).stn.retracted = some r → c ∉ (s.part q).stn.quiesced →
    Runs (.verdictQuiescedReceive rx) s fun t =>
      t.part q = { s.part q with stn := { (s.part q).stn with quiesced := c :: (s.part q).stn.quiesced } } ∧ Keeps [.partitions, .network, .stewards] s t) ∧
  (∀ (s : State) (rx : Rx) (p : Pkt) (c q n att member r : Nat), Message s rx p c q opVerdict →
    p.ctl = verdictBytes n 7 att 0 0 member 0 0 (s.part q).stn.rseq 0 → (s.part q).stn.rseq < 65536 → (s.part q).stn.st = 3 →
    slipParent (s.part q) = some c → (s.part q).stn.retracted = some r →
    Runs (.verdictResumeReceive rx) s fun t =>
      (t.part q).stn.st = 1 ∧ (t.part q).stn.retracted = none ∧ (t.part q).step = r ∧
        (∀ e ∈ (t.part q).streams, e.2.next = 0 ∧ e.2.ended = false) ∧
        (∀ k ∈ slotsOf (s.part q), t.slot k = returnSlot (decide (oldestStep (s.part q) < r)) (s.slot k)) ∧
        (∀ x, x ≠ q → t.part x = s.part x) ∧ Keeps [.partitions, .network, .slots, .positions, .clusters, .firmware, .stewards] s t) ∧
  (∀ (s : State) (rx : Rx), s.arrives rx = false →
    Idles (.slipReceive rx) s ∧ Idles (.abortReceive rx) s ∧ Idles (.verdictVoteReceive rx) s ∧ Idles (.verdictTreeVoteReceive rx) s ∧
      Idles (.verdictDecideReceive rx) s ∧ Idles (.verdictRequestReceive rx) s ∧ Idles (.verdictRetractReceive rx) s ∧
      Idles (.verdictQuiescedReceive rx) s ∧ Idles (.verdictResumeReceive rx) s ∧ Idles (.verdictHandoverReceive rx) s)

/-! Data from other members and from hosts (chapters 08, 09). -/

/-- WRITE_RECEIVE and TOKEN_RECEIVE (R245, R305, R317, R318, R320, R321): a granule stands where its address leads and no other byte changes, the
operation completes with 0x00 and its Token goes out; an address outside the open regions completes with 0x01, and a role, alignment or
service that does not allow it with its status, and then no byte changes. -/
def Obligations.WritesAndTokensArrive : Prop :=
  (∀ (s : State) (rx : Rx) (p : Pkt) (c q a : Nat) (r : Region) (g : Gran), DataIn s rx p c q opWrite → p.grans = [g] → s.sprayNow c ≠ [] →
    GranAt s c q (pktAddr p) true r a → RegionFits r →
    Runs (.writeReceive rx) s fun t =>
      t.peek (t.phys (rgnDpa r a)) 256 = g.data ∧ OnlyGranule s t r a ∧ DoneSent t c (pktOp p) 0 ∧
        (t.part q).streams = (if nfld p.w3 31 10 = relNone then (s.part q).streams else
          (releaseTok (s.part q) (nfld p.w3 31 10)
            (nearStep (streamStep (s.part q) (streamOf (s.part q) (nfld p.w3 31 10 / 512))) (nfld p.w3 9 0)) p.prov).streams) ∧
        t.mem.regions = s.mem.regions ∧ (∀ x, x ≠ q → t.part x = s.part x) ∧ Keeps [.memory, .network, .partitions, .stewards] s t) ∧
  (∀ (s : State) (rx : Rx) (p : Pkt) (c q : Nat) (g : Gran), DataIn s rx p c q opWrite → p.grans = [g] → s.sprayNow c ≠ [] →
    s.place q (pktAddr p) = none →
    Runs (.writeReceive rx) s fun t => DoneSent t c (pktOp p) 1 ∧ (t.part q).streams = (s.part q).streams ∧ Keeps [.network, .partitions, .stewards] s t) ∧
  (∀ (s : State) (rx : Rx) (p : Pkt) (c st : Nat), InOrder s rx p c → p.op = opWrite ∨ p.op = opToken → s.opGate c p = st → st ≠ 0 →
    s.dmaOf c = Dma.reset → s.sprayNow c ≠ [] →
    (p.op = opWrite → Runs (.writeReceive rx) s fun t => DoneSent t c (pktOp p) st ∧ Keeps [.network, .partitions, .stewards] s t) ∧
      (p.op = opToken → Runs (.tokenReceive rx) s fun t => DoneSent t c (pktOp p) st ∧ t.parts = s.parts ∧ Keeps [.network, .stewards] s t)) ∧
  (∀ (s : State) (rx : Rx) (p : Pkt) (c q : Nat), DataIn s rx p c q opToken → s.sprayNow c ≠ [] → nfld p.w3 31 10 ≠ relNone →
    Runs (.tokenReceive rx) s fun t =>
      DoneSent t c (pktOp p) 0 ∧
        t.part q = releaseTok (s.part q) (nfld p.w3 31 10)
          (nearStep (streamStep (s.part q) (streamOf (s.part q) (nfld p.w3 31 10 / 512))) (nfld p.w3 9 0)) p.prov ∧
        (∀ x, x ≠ q → t.part x = s.part x) ∧ Keeps [.network, .partitions, .stewards] s t)

/-- READ_RECEIVE and READ_RESP_RECEIVE (R250, R272, R275, R306, R320): a READ of one granule is answered with its bytes; an uncorrectable line is
delivered with its mark to a member, and to a session not at all: its channel halts and HOST_DMA_FAULT is logged; a READ_RESP changes no
memory. MEM_DMA_RESUME and MEM_DMA_ABORT free the channel, and the READ that faulted ends with 0x05 or 0x07. -/
def Obligations.ReadsAreServedOrHalted : Prop :=
  (∀ (s : State) (rx : Rx) (p : Pkt) (c q a : Nat) (r : Region), DataIn s rx p c q opRead → nfld p.w2 23 0 = 1 →
    GranAt s c q (pktAddr p) false r a → (∀ k, k < 4 → s.lineNow r (rgnDpa r (a + 64 * k)) = .data) → TagTrue s r a →
    Runs (.readReceive rx) s fun t =>
      (∃ x, Sends s t c [x] ∧ x.op = opReadResp ∧ x.last = true ∧ x.status = 0 ∧ nfld x.w2 15 0 = pktOp p ∧
          x.prov = partProv (s.part q) ∧ x.grans = [⟨s.peek (s.phys (rgnDpa r a)) 256, false⟩]) ∧ t.mem = s.mem ∧ Keeps [.network, .stewards] s t) ∧
  (∀ (s : State) (rx : Rx) (p : Pkt) (c q a : Nat) (r : Region), DataIn s rx p c q opRead → nfld p.w2 23 0 = 1 →
    GranAt s c q (pktAddr p) false r a → s.lineNow r (rgnDpa r a) = .poisoned → connHost (s.conn c) = false →
    Runs (.readReceive rx) s fun t =>
      (∃ x g, Sends s t c [x] ∧ x.op = opReadResp ∧ x.last = true ∧ x.status = 5 ∧ x.grans = [g] ∧ g.poison = true) ∧ t.mem = s.mem) ∧
  (∀ (s : State) (rx : Rx) (p : Pkt) (c q a : Nat) (r : Region), DataIn s rx p c q opRead → nfld p.w2 23 0 = 1 →
    GranAt s c q (pktAddr p) false r a → s.lineNow r (rgnDpa r a) = .poisoned → connHost (s.conn c) = true → (s.part q).st ≠ .tearing →
    s.sprayNow c ≠ [] →
    Runs (.readReceive rx) s fun t =>
      (Table.get Dma.reset (t.part q).dma (s.conn c).session).halted = true ∧
        (Table.get Dma.reset (t.part q).dma (s.conn c).session).addr = pktAddr p ∧ (∃ w, Logged t s.leadNow 0x44 w) ∧
        outList (t.conn c) = outList (s.conn c) ∧ t.mem = s.mem) ∧
  (∀ (s : State) (rx : Rx) (p : Pkt) (c q : Nat), DataIn s rx p c q opRead → nfld p.w2 23 0 = 1 → s.place q (pktAddr p) = none →
    Runs (.readReceive rx) s fun t =>
      (∃ x, Sends s t c [x] ∧ x.op = opReadResp ∧ x.last = true ∧ x.status = 1 ∧ x.grans = []) ∧ Keeps [.network, .stewards] s t) ∧
  (∀ (s : State) (rx : Rx) (p : Pkt) (c q : Nat), DataIn s rx p c q opReadResp → s.sprayNow c ≠ [] →
    Runs (.readRespReceive rx) s fun t =>
      DoneSent t c (pktOp p) 0 ∧ (∀ x, t.part x = { s.part x with roundIn := (t.part x).roundIn }) ∧ Keeps [.network, .partitions, .stewards] s t) ∧
  (∀ (s : State) (v : Via) (p ch : Nat) (d : Dma) (f : Pkt) (o : RxOp), ViaOpen s v 2 → p < 16 → connPart (s.conn v.conn) = p → ch < 4 →
    d = Table.get Dma.reset (s.part p).dma ch → d.halted = true → d.held = [] → d.faulting = some f → f.op = opRead →
    rxOpOf (s.conn d.conn) (pktOp f) = some o →
    (Runs (.memDmaResume v p ch) s fun t => Table.get Dma.reset (t.part p).dma ch = Dma.reset ∧
        (∃ x ∈ outList (t.conn d.conn), x.op = opReadResp ∧ x.status = 5 ∧ nfld x.w2 15 0 = pktOp f) ∧ t.mem = s.mem) ∧
      Runs (.memDmaAbort v p ch) s fun t => Table.get Dma.reset (t.part p).dma ch = Dma.reset ∧
        (∃ x ∈ outList (t.conn d.conn), x.op = opReadResp ∧ x.status = 7 ∧ nfld x.w2 15 0 = pktOp f) ∧ t.mem = s.mem) ∧
  (∀ (s : State) (v : Via) (p ch : Nat), ViaOpen s v 2 → p < 16 → connPart (s.conn v.conn) ≠ p → ch < 4 →
    (Runs (.memDmaResume v p ch) s fun t => Answered v (0x3018 + 0x40 * p) 3 s t) ∧
      Runs (.memDmaAbort v p ch) s fun t => Answered v (0x3018 + 0x40 * p) 3 s t)

/-- SEND_RECEIVE and REDUCE_RECEIVE (R318, R355, R363, R417, R461): a SEND of the claim's holder is appended to its staging buffer, one without a
claim completes with 0x04; a REDUCE packet of an instance waits for the entry that receives it. -/
def Obligations.SendsAndPartsArrive : Prop :=
  (∀ (s : State) (rx : Rx) (p : Pkt) (c q : Nat), DataIn s rx p c q opSend → s.sprayNow c ≠ [] → s.xsi.stage.holder = some c →
    s.levelMay (s.conn c) = true → (∀ g ∈ p.grans, g.poison = false) → s.xsi.stage.buf.length + 256 * p.grans.length ≤ xsiRoom →
    Runs (.sendReceive rx) s fun t =>
      t.xsi = { s.xsi with stage := { s.xsi.stage with buf := s.xsi.stage.buf ++ p.grans.flatMap (·.data), at_ := s.tm.clk } } ∧
        DoneSent t c (pktOp p) 0 ∧ Keeps [.structure_, .network, .stewards] s t) ∧
  (∀ (s : State) (rx : Rx) (p : Pkt) (c q : Nat), DataIn s rx p c q opSend → s.sprayNow c ≠ [] → s.xsi.stage.holder ≠ some c →
    s.fw.stage.holder = some c → (∀ g ∈ p.grans, g.poison = false) → s.fw.stage.buf.length + 256 * p.grans.length ≤ fwRoom →
    Runs (.sendReceive rx) s fun t =>
      t.fw = { s.fw with stage := { s.fw.stage with buf := s.fw.stage.buf ++ p.grans.flatMap (·.data), at_ := s.tm.clk } } ∧
        DoneSent t c (pktOp p) 0 ∧ Keeps [.firmware, .network, .stewards] s t) ∧
  (∀ (s : State) (rx : Rx) (p : Pkt) (c q : Nat), DataIn s rx p c q opSend → s.sprayNow c ≠ [] → s.xsi.stage.holder ≠ some c →
    s.fw.stage.holder ≠ some c → s.levelMay (s.conn c) = true → (∀ g ∈ p.grans, g.poison = false) →
    Runs (.sendReceive rx) s fun t => DoneSent t c (pktOp p) 4 ∧ Keeps [.network, .stewards] s t) ∧
  (∀ (s : State) (rx : Rx) (p : Pkt) (c q st : Nat) (b : Bytes), DataIn s rx p c q opReduce → s.sprayNow c ≠ [] →
    instOf (s.part q) (nfld p.w2 63 48) = some b → stageOfConn b c = some st → p.grans ≠ [] → (s.part q).colls = [] →
    Runs (.reduceReceive rx) s fun t =>
      (t.part q).collIn = (s.part q).collIn ++ [⟨c, nfld p.w2 63 48, st, nfld p.w3 31 16, nearStep (s.part q).step (nfld p.w3 9 0),
          nfld p.w2 47 24, p.grans⟩] ∧
        t.part q = { s.part q with collIn := (t.part q).collIn, roundIn := (t.part q).roundIn } ∧ DoneSent t c (pktOp p) 0 ∧
        (∀ x, x ≠ q → t.part x = s.part x) ∧ Keeps [.network, .partitions, .stewards] s t) ∧
  (∀ (s : State) (rx : Rx), s.arrives rx = false →
    Idles (.writeReceive rx) s ∧ Idles (.readReceive rx) s ∧ Idles (.readRespReceive rx) s ∧ Idles (.sendReceive rx) s ∧
      Idles (.reduceReceive rx) s ∧ Idles (.tokenReceive rx) s)

/-! Control space (chapter 16). -/

/-- REG_READ and REG_WRITE (R11, R303, R434, R538, R539): a read answers the register's value and clears an RC register, but not for an observer; a
write to a read-only register is ignored and FW_TRACE_MASK takes what is written; an access that fails a check is answered with its status and
changes nothing; the first check that fails, in the order of R539, gives the status.
CAD_SLOT_CFG_WRITE and CAD_SLOT_STATE_WRITE (R173, R176, R177): the controlling session writes a slot of its partition while no job runs; a
value that the slot does not allow is answered with 0x0E and one written under a job with 0x04, and the slot stays. -/
def Obligations.RegistersAndSlots : Prop :=
  (∀ (s : State) (rx : Rx) (p : Pkt) (c off : Nat) (b : RegBlock), InOrder s rx p c → p.op = opCtl → ctlOp p = 1 → s.sprayNow c ≠ [] →
    s.ctlCheck c false (nfld p.w2 63 16) = .ok (b, off) → (∀ n, b ≠ .port n ∧ b ≠ .xsiPart n ∧ b ≠ .devPart n) →
    Runs (.regRead rx) s fun t =>
      (∃ x, Sends s t c [x] ∧ x.op = opCtlResp ∧ x.status = 0 ∧ x.w2 = p.w2 ∧ x.w3 = p.w3 ∧
          x.ctl = natLE 8 (s.readReg b off).toNat ++ zeros 8) ∧
        DoneSent t c (pktOp p) 0 ∧ Keeps [.network, .stewards] (if connKind (s.conn c) = 3 then s else s.clearReg b off) t) ∧
  (∀ (s : State) (rx : Rx) (p : Pkt) (c st : Nat), InOrder s rx p c → p.op = opCtl → ctlOp p = 1 → s.sprayNow c ≠ [] →
    s.ctlCheck c false (nfld p.w2 63 16) = .error st →
    Runs (.regRead rx) s fun t =>
      (∃ x, Sends s t c [x] ∧ x.op = opCtlResp ∧ x.status = st ∧ x.ctl = zeros 16) ∧ DoneSent t c (pktOp p) st ∧ Keeps [.network, .stewards] s t) ∧
  (∀ (s : State) (rx : Rx) (p : Pkt) (c st : Nat), InOrder s rx p c → p.op = opCtl → ctlOp p = 2 → s.sprayNow c ≠ [] →
    s.ctlCheck c true (nfld p.w2 63 16) = .error st →
    Runs (.regWrite rx) s fun t =>
      (∃ x, Sends s t c [x] ∧ x.op = opCtlResp ∧ x.status = st ∧ x.ctl = zeros 16) ∧ DoneSent t c (pktOp p) st ∧ Keeps [.network, .stewards] s t) ∧
  (∀ (s : State) (rx : Rx) (p : Pkt) (c off : Nat), InOrder s rx p c → p.op = opCtl → ctlOp p = 2 → s.sprayNow c ≠ [] →
    s.ctlCheck c true (nfld p.w2 63 16) = .ok (.fw, off) → off = 0 ∨ off = 0x78 →
    Runs (.regWrite rx) s fun t =>
      (∃ x, Sends s t c [x] ∧ x.op = opCtlResp ∧ x.status = 0) ∧ DoneSent t c (pktOp p) 0 ∧
        t.fw = { s.fw with trace := if off = 0x78 then at_ 15 0 (fld (BitVec.ofNat 64 (leAt p.ctl 0 8)) 15 0) else s.fw.trace } ∧
        Keeps [.network, .firmware, .stewards] s t) ∧
  (∀ (s : State) (c a : Nat) (w : Bool), s.fw.service = .recovery → connKind (s.conn c) ≠ 4 → s.ctlCheck c w a = .error 0xD) ∧
  (∀ (s : State) (c a off : Nat) (w : Bool) (b : RegBlock), s.recoveryGate (s.conn c) w a = none → connKind (s.conn c) = 1 → a % 8 = 0 →
    locate a = some (b, off) → s.ctlCheck c w a = .error 3) ∧
  (∀ (s : State) (c a : Nat), s.recoveryGate (s.conn c) true a = none → s.levelMay (s.conn c) = false →
    locate a ≠ some (.fw, 0x20) → locate a ≠ some (.fw, 0x30) → s.ctlCheck c true a = .error 0xB) ∧
  (∀ (s : State) (c a : Nat) (w : Bool), s.recoveryGate (s.conn c) w a = none → s.levelGate (s.conn c) w a = true →
    (a % 8 ≠ 0 → s.ctlCheck c w a = .error 2) ∧ (a % 8 = 0 → locate a = none → s.ctlCheck c w a = .error 1) ∧
      (∀ b off, a % 8 = 0 → locate a = some (b, off) → s.roleMay (s.conn c) w b off = false → s.ctlCheck c w a = .error 3) ∧
      (∀ b off, a % 8 = 0 → locate a = some (b, off) → s.roleMay (s.conn c) w b off = true → s.stateMay w b off = false →
        s.ctlCheck c w a = .error 4) ∧
      (∀ b off, a % 8 = 0 → locate a = some (b, off) → s.roleMay (s.conn c) w b off = true → s.stateMay w b off = true →
        s.ctlCheck c w a = .ok (b, off))) ∧
  (∀ (s : State) (rx : Rx) (p : Pkt) (c n : Nat) (v : W64), InOrder s rx p c → p.op = opCtl → ctlOp p = 2 → s.sprayNow c ≠ [] → n ≠ c →
    s.ctlCheck c true (nfld p.w2 63 16) = .ok (.conn n, 0) → v = BitVec.ofNat 64 (leAt p.ctl 0 8) →
    (fld v 63 61 < 5 → 0 < fld v 53 48 → fld v 53 48 ≤ 32 →
      Runs (.regWrite rx) s fun t =>
        (∃ x, Sends s t c [x] ∧ x.op = opCtlResp ∧ x.status = 0) ∧ DoneSent t c (pktOp p) 0 ∧
          t.conn n = { s.conn n with cfg := at_ 63 34 (fld v 63 34) } ∧ (∀ k, k ≠ c → k ≠ n → t.conn k = s.conn k) ∧ Keeps [.network, .stewards] s t) ∧
    (5 ≤ fld v 63 61 → Runs (.regWrite rx) s fun t =>
        (∃ x, Sends s t c [x] ∧ x.op = opCtlResp ∧ x.status = 0xE) ∧ DoneSent t c (pktOp p) 0xE ∧ t.conn n = s.conn n)) ∧
  (∀ (s : State) (rx : Rx), s.arrives rx = false → Idles (.regRead rx) s ∧ Idles (.regWrite rx) s) ∧
  (∀ (s : State) (v : Via) (n : Nat) (w : W64), ViaOpen s v 2 → n < 65536 → s.blockPart (.slot n) = some (connPart (s.conn v.conn)) →
    s.inService (n / 4096) = true →
    (∀ x, jobRuns (s.part (connPart (s.conn v.conn))) = false → slotCfgWrite (s.slot n) w = some x →
      Runs (.cadSlotCfgWrite v n w) s fun t => Answered v (0x10000000 + 0x100 * n) 0 (s.updSlot n fun _ => x) t) ∧
    (jobRuns (s.part (connPart (s.conn v.conn))) = false → slotCfgWrite (s.slot n) w = none →
      Runs (.cadSlotCfgWrite v n w) s fun t => Answered v (0x10000000 + 0x100 * n) 0xE s t) ∧
    (jobRuns (s.part (connPart (s.conn v.conn))) = true →
      (Runs (.cadSlotCfgWrite v n w) s fun t => Answered v (0x10000000 + 0x100 * n) 4 s t) ∧
        Runs (.cadSlotStateWrite v n w) s fun t => Answered v (0x10000008 + 0x100 * n) 4 s t) ∧
    (jobRuns (s.part (connPart (s.conn v.conn))) = false → stScale w ≠ 255 → cfgFloor (s.slot n).cfg ≤ stLevel w → stLevel w ≤ cfgCeil (s.slot n).cfg →
      cfgFloor (s.slot n).cfg ≤ stBase w → stBase w ≤ cfgCeil (s.slot n).cfg → stBias w ≤ cfgBiasMax (s.slot n).cfg → stValid w ≤ 16 →
      fld w 23 0 = 0 →
      Runs (.cadSlotStateWrite v n w) s fun t =>
        Answered v (0x10000008 + 0x100 * n) 0 (s.updSlot n fun q => { q with state := w }) t) ∧
    (jobRuns (s.part (connPart (s.conn v.conn))) = false → stScale w = 255 ∨ 16 < stValid w ∨ fld w 23 0 ≠ 0 →
      Runs (.cadSlotStateWrite v n w) s fun t => Answered v (0x10000008 + 0x100 * n) 0xE s t))

/-! Connections and transport (chapter 09). -/

/-- Opening and closing (R306, R309 to R312, R340): OPEN to a closed member entry sends OPEN with the partition's generation and waits; the peer's OPEN and
OPEN_ACK open the entry at the generation and the PSN they carry; a refusal returns it to closed; CLOSE from either side ends its operations and
the entry, and CLOSE_ACK closes the one that waits. -/
def Obligations.ConnectionsOpenAndClose : Prop :=
  (∀ (s : State) (v : Via) (n : Nat), ViaOpen s v 2 → n < 16384 → s.blockPart (.conn n) = some (connPart (s.conn v.conn)) → n ≠ v.conn →
    connKind (s.conn n) = 1 → (s.conn n).st = 0 → (s.part (connPart (s.conn n))).tgen < 256 →
    Runs (.netConnOpen v n) s fun t => ∃ x, Answered v (0x8000040 + 0x80 * n) 0 (s.opConnOpen n).2 t ∧ (t.conn n).st = 1 ∧
      outList (t.conn n) = [x] ∧ x.op = opCtl ∧ ctlOp x = 0x10 ∧ ctlTgen x = (s.part (connPart (s.conn n))).tgen ∧ x.tgen = 0 ∧
        x.ctl = natLE 8 (s.conn n).job.toNat ++ natLE 4 s.fw.iface ++ zeros 4 ∧ Keeps [.network, .stewards] s t) ∧
  (∀ (s : State) (v : Via) (n : Nat), ViaOpen s v 2 → n < 16384 → s.blockPart (.conn n) = some (connPart (s.conn v.conn)) →
    connKind (s.conn n) = 1 → (s.conn n).st ≠ 0 → Runs (.netConnOpen v n) s fun t => Answered v (0x8000040 + 0x80 * n) 4 s t) ∧
  (∀ (s : State) (v : Via) (n : Nat), ViaOpen s v 2 → n < 16384 → s.blockPart (.conn n) = some (connPart (s.conn v.conn)) → n ≠ v.conn →
    connKind (s.conn n) = 1 → (s.conn n).st = 2 →
    Runs (.netConnClose v n) s fun t => (t.conn n).st = 4 ∧ (t.conn n).rxOps = [] ∧
      (∃ x, outList (t.conn n) = [x] ∧ x.op = opCtl ∧ ctlOp x = 0x12) ∧ Keeps [.network, .structure_, .firmware, .stewards] s t) ∧
  (∀ (s : State) (rx : Rx) (p : Pkt), Arrives s rx p → p.op = opCtl → ctlOp p = 0x10 → s.fw.service ≠ .recovery → connKind (s.conn p.dconn) = 1 →
    (s.conn p.dconn).st = 0 → connPeer (s.conn p.dconn) = p.sconn → connV4 (s.conn p.dconn) = rx.v4 →
    connPeerAddr (s.conn p.dconn) (planeOfPort rx.port) = rx.src → (s.conn p.dconn).job.toNat = leAt p.ctl 0 8 →
    Runs (.memberOpenReceive rx) s fun t =>
      (t.conn p.dconn).st = 2 ∧ (t.conn p.dconn).peerTgen = ctlTgen p ∧ (t.conn p.dconn).rxNext = (p.psn + 1) % 2 ^ 32 ∧
        (∃ x, outList (t.conn p.dconn) = [x] ∧ x.op = opCtlResp ∧ ctlOp x = 0x11 ∧ x.status = 0 ∧
          ctlTgen x = (s.part (connPart (s.conn p.dconn))).tgen % 256) ∧
        (∀ k, k ≠ p.dconn → t.conn k = s.conn k) ∧ Keeps [.network, .stewards] s t) ∧
  (∀ (s : State) (rx : Rx) (p : Pkt), Arrives s rx p → p.op = opCtl → ctlOp p = 0x10 → s.fw.service ≠ .recovery →
    connKind (s.conn p.dconn) ≠ 1 ∨ (s.conn p.dconn).st = 3 ∨ (s.conn p.dconn).job.toNat ≠ leAt p.ctl 0 8 →
    Runs (.memberOpenReceive rx) s fun t => t.net.conns = s.net.conns ∧ Keeps [.network, .stewards] s t) ∧
  (∀ (s : State) (rx : Rx) (p : Pkt) (c : Nat), Arrives s rx p → p.dconn = c → p.op = opCtlResp → ctlOp p = 0x11 →
    (s.conn c).st = 1 → connKind (s.conn c) = 1 → p.tgen = (s.part (connPart (s.conn c))).tgen → p.status = 0 →
    Runs (.openAckReceive rx) s fun t =>
      (t.conn c).st = 2 ∧ (t.conn c).peerTgen = ctlTgen p ∧ (t.conn c).rxNext = (p.psn + 1) % 2 ^ 32 ∧
        (∀ k, k ≠ c → t.conn k = s.conn k) ∧ Keeps [.network, .stewards] s t) ∧
  (∀ (s : State) (rx : Rx) (p : Pkt) (c : Nat), Arrives s rx p → p.dconn = c → p.op = opCtlResp → ctlOp p = 0x11 → (s.conn c).st = 1 →
    connKind (s.conn c) = 1 → p.tgen = (s.part (connPart (s.conn c))).tgen → p.status ≠ 0 →
    Runs (.openAckReceive rx) s fun t => (t.conn c).st = 0 ∧ (t.conn c).cfg = (s.conn c).cfg) ∧
  (∀ (s : State) (rx : Rx) (p : Pkt) (c : Nat), InOrder s rx p c → p.op = opCtl → ctlOp p = 0x12 → s.fw.service ≠ .recovery →
    connKind (s.conn c) = 1 → (∀ q, (s.part q).tear = none) → s.sprayNow c ≠ [] →
    Runs (.closeReceive rx) s fun t =>
      (t.conn c).st = 0 ∧ (t.conn c).cfg = (s.conn c).cfg ∧ DoneSent t c (pktOp p) 0 ∧
        (∃ d, Waits t clsControl d ∧ d.pkt.op = opCtlResp ∧ ctlOp d.pkt = 0x13 ∧ d.pkt.sconn = c) ∧
        (∀ k, k ≠ c → t.conn k = s.conn k) ∧ t.parts = s.parts) ∧
  (∀ (s : State) (rx : Rx) (p : Pkt) (c : Nat), Arrives s rx p → p.dconn = c → p.op = opCtlResp → ctlOp p = 0x13 → (s.conn c).st = 4 →
    connKind (s.conn c) = 1 → p.tgen = (s.part (connPart (s.conn c))).tgen → (∀ q, (s.part q).tear = none) →
    Runs (.closeAckReceive rx) s fun t => (t.conn c).st = 0 ∧ (t.conn c).cfg = (s.conn c).cfg ∧ (∀ k, k ≠ c → t.conn k = s.conn k))

/-- SESSION_OPEN (R32, R292, R307, R311, R432, R444, R505, R506): a controlling session that the policy admits is granted the lowest free entry of its
partition's range and reclaims an orphaned partition; a second one and one that no record admits are refused; a fabric manager on MGMT is
granted one of four entries before an owner image stands. -/
def Obligations.SessionsAreAdmitted : Prop :=
  (∀ (s : State) (rx : Rx) (p : Pkt) (q c : Nat), s.arrives rx = true → rx.port < 16 → s.isOwn (planeOfPort rx.port) rx.v4 rx.dst = true →
    rx.fcsBad = false → s.vlanOk rx = true → rx.fragment = false → rx.sumBad = false → rx.dport = s.eltPort rx.port → rxHdrOk rx = true →
    p = rxPkt rx → p.dconn = 0x3FFF → p.op = opCtl → ctlOp p = 0x10 → ctlRole p = 1 → ctlPart p = q → s.operational = true →
    (s.part q).st = .ready ∨ (s.part q).st = .running ∨ (s.part q).st = .parked ∨ (s.part q).st = .orphaned →
    testBit (s.sessionMask q) 0 = false → s.grantedTo rx p 2 q = none →
    (∃ r ∈ s.xsi.poly, leAt r 0 1 = 3 ∧ leAt r 1 1 = q ∧ testBit (leAt r 2 1) 0 = true ∧ polyHas r rx.v4 rx.src = true) →
    s.freeIndex (s.part q).connFirst (s.part q).connCount = some c →
    Runs (.sessionOpen rx) s fun t =>
      (t.conn c).st = 2 ∧ connKind (t.conn c) = 2 ∧ connPart (t.conn c) = q ∧ connPeer (t.conn c) = p.sconn ∧
        (t.conn c).rxNext = (p.psn + 1) % 2 ^ 32 ∧
        (∃ x, outList (t.conn c) = [x] ∧ ctlOp x = 0x11 ∧ x.status = 0 ∧ ctlTgen x = (s.part q).tgen % 256) ∧
        ((s.part q).st = .orphaned → (t.part q).holdAt = none ∧
          (t.part q).st = (if (s.part q).schSt = 2 ∨ (s.part q).schSt = 3 then .parked else .ready)) ∧
        ((s.part q).st ≠ .orphaned → t.parts = s.parts) ∧ (∀ k, k ≠ c → t.conn k = s.conn k) ∧
        Keeps [.network, .partitions, .stewards, .firmware] s t) ∧
  (∀ (s : State) (rx : Rx) (p : Pkt) (q : Nat), s.arrives rx = true → s.isOwn (planeOfPort rx.port) rx.v4 rx.dst = true →
    rx.fcsBad = false → s.vlanOk rx = true → rx.fragment = false → rx.sumBad = false → rx.dport = s.eltPort rx.port → rxHdrOk rx = true →
    p = rxPkt rx → p.dconn = 0x3FFF → p.op = opCtl → ctlOp p = 0x10 → ctlRole p = 1 → ctlPart p = q → s.grantedTo rx p 2 q = none →
    testBit (s.sessionMask q) 0 = true ∨ s.xsi.poly = [] ∨ s.operational = false →
    Runs (.sessionOpen rx) s fun t => t.net.conns = s.net.conns ∧ Keeps [.network, .stewards] s t) ∧
  (∀ (s : State) (rx : Rx) (p : Pkt) (c : Nat), s.arrives rx = true → rx.port = 16 → s.isOwn 2 rx.v4 rx.dst = true →
    rx.fcsBad = false → s.vlanOk rx = true → rx.fragment = false → rx.sumBad = false → rx.dport = 47320 → rxHdrOk rx = true →
    p = rxPkt rx → p.dconn = 0x3FFF → p.op = opCtl → ctlOp p = 0x10 → ctlRole p = 3 → s.xsi.ownerImage = false → s.fw.romRecovery = false →
    (∀ e ∈ s.net.conns, connKind e.2 ≠ 4) → s.freeIndex 0x3FFB 4 = some c →
    Runs (.sessionOpen rx) s fun t =>
      (t.conn c).st = 2 ∧ connKind (t.conn c) = 4 ∧ (t.conn c).viaMgmt = true ∧ (∀ k, k ≠ c → t.conn k = s.conn k) ∧ Keeps [.network, .stewards] s t)

/-- ACK_RECEIVE and ACK_SEND (R319, R323, R325, R331): an ACK frees what it covers, shows the holes, ends the operation of its DONE and cuts a host's
rate by a quarter at most once in 8 µs; an ACK goes out when one is owed or 2 µs after the oldest packet it has to cover. -/
def Obligations.AcksFreeCopiesAndGoOut : Prop :=
  (∀ (s : State) (rx : Rx) (p : Pkt) (c : Nat), OnOpen s rx p c → p.op = opAck → p.cee = false →
    (∀ e ∈ s.net.conns, e.2.txWait = []) → leNat p.ctl = 0 →
    Runs (.ackReceive rx) s fun t =>
      (t.conn c).copies = ((s.conn c).copies.filter fun y => !psnLt y.pkt.psn p.ackpsn) ∧
        (t.conn c).ops = (if p.done then (s.conn c).ops.filter fun o => o.opid ≠ pktOp p else (s.conn c).ops) ∧ (t.conn c).holes = [] ∧
        (t.conn c).rate = (s.conn c).rate ∧ (t.conn c).rxNext = (s.conn c).rxNext ∧ (∀ k, k ≠ c → t.conn k = s.conn k) ∧ Keeps [.network, .stewards] s t) ∧
  (∀ (s : State) (rx : Rx) (p : Pkt) (c : Nat), OnOpen s rx p c → p.op = opAck → p.cee = true → connHost (s.conn c) = true →
    (s.conn c).txWait = [] →
    Runs (.ackReceive rx) s fun t =>
      (t.conn c).rate = (if 8000 ≤ s.since (s.conn c).cutAt then max ((s.conn c).rate - (s.conn c).rate / 4) 1000000000 else (s.conn c).rate) ∧
        (t.conn c).cutAt = (if 8000 ≤ s.since (s.conn c).cutAt then s.tm.clk else (s.conn c).cutAt) ∧ Keeps [.network, .stewards] s t) ∧
  (∀ (s : State) (rx : Rx) (p : Pkt) (c : Nat) (y : Copy) (i : Nat), OnOpen s rx p c → p.op = opAck → (s.conn c).txWait = [] →
    y ∈ (s.conn c).copies → psnLt y.pkt.psn p.ackpsn = false → 512 ≤ (y.pkt.psn + 2 ^ 32 - (p.ackpsn + 1)) % 2 ^ 32 → i < 512 →
    testBit (leNat p.ctl) i = true → psnLt y.pkt.psn ((p.ackpsn + 1 + i) % 2 ^ 32) = true →
    Runs (.ackReceive rx) s fun t => y.pkt.psn ∈ (t.conn c).holes ∧ y ∈ (t.conn c).copies) ∧
  (∀ (s : State) (c : Nat), s.listens = true → (s.conn c).st = 2 → s.sprayNow c ≠ [] →
    (s.conn c).ackNow = true ∨ (0 < (s.conn c).rxDebt ∧ 2000 ≤ s.since (s.conn c).rxDebtAt) →
    Runs (.ackSend c) s fun t =>
      (t.conn c).ackNow = false ∧ (t.conn c).rxDebt = 0 ∧ (t.conn c).copies = (s.conn c).copies ∧
        (∃ q d, t.net.egress = s.net.egress ++ [q] ∧ q.frame = .elt d ∧ q.cls = clsControl ∧ d.pkt.op = opAck ∧ d.pkt.sconn = c ∧
          d.pkt.ackpsn = (s.conn c).rxNext ∧ d.pkt.done = false ∧ d.pkt.cee = (s.conn c).rxCe) ∧
        (∀ k, k ≠ c → t.conn k = s.conn k) ∧ Keeps [.network, .stewards] s t) ∧
  (∀ (s : State) (c : Nat), (s.conn c).ackNow = false → (s.conn c).rxDebt = 0 ∨ s.since (s.conn c).rxDebtAt < 2000 → Idles (.ackSend c) s)

/-- HOLE_RETRANSMIT, RTO_TIMEOUT, OP_TIMEOUT and RATE_INCREASE (R323 to R325, R330, R331): a packet shown missing, or the oldest after RTO_US, goes out
again with RETX and its try counted; past RETRY_MAX with no other plane the connection fails; an operation past OP_TIMEOUT_MS is logged,
counted and fails the connection; a host's rate rises by rmax/64 after 8 µs without a cut, up to rmax. -/
def Obligations.TimersRetransmitAndFail : Prop :=
  (∀ (s : State) (c : Nat) (y : Copy) (at' : Nat × Nat), s.listens = true → (s.conn c).copies.find? (fun x => x.pkt.psn = y.pkt.psn) = some y →
    y.pkt.psn ∈ (s.conn c).holes → connHoleUs (s.conn c) * 1000 ≤ s.since y.sentAt → y.tries < connRetryMax (s.conn c) →
    nextSub (s.sprayNow c) y.port = some at' →
    Runs (.holeRetransmit c y.pkt.psn) s fun t =>
      (∃ q d, t.net.egress = s.net.egress ++ [q] ∧ q.frame = .elt d ∧ d.pkt = { y.pkt with retx := true } ∧ d.link.port = at'.1 ∧
          d.link.sub = at'.2) ∧ (t.port (s.serving c)).retx = inc (s.port (s.serving c)).retx ∧
        (∀ x ∈ (t.conn c).copies, x.pkt.psn = y.pkt.psn → x.sentAt = s.tm.clk ∧ x.port = at'.1) ∧
        (t.conn c).copies.map (·.pkt) = (s.conn c).copies.map (·.pkt) ∧ (∀ k, k ≠ c → t.conn k = s.conn k) ∧ Keeps [.network, .stewards] s t) ∧
  (∀ (s : State) (c psn : Nat), psn ∉ (s.conn c).holes → Idles (.holeRetransmit c psn) s) ∧
  (∀ (s : State) (c : Nat) (y : Copy) (rest : List Copy) (at' : Nat × Nat), s.listens = true → (s.conn c).copies = y :: rest →
    (s.conn c).st = 2 → connRtoUs (s.conn c) * 1000 ≤ s.since (max (s.conn c).ackAt y.sentAt) → y.tries < connRetryMax (s.conn c) →
    nextSub (s.sprayNow c) y.port = some at' →
    Runs (.rtoTimeout c) s fun t =>
      (∃ q d, t.net.egress = s.net.egress ++ [q] ∧ q.frame = .elt d ∧ d.pkt = { y.pkt with retx := true } ∧ d.link.port = at'.1 ∧
          d.link.sub = at'.2) ∧ (t.port (s.serving c)).retx = inc (s.port (s.serving c)).retx ∧
        (t.conn c).rate = (if connHost (s.conn c) then max ((s.conn c).rate / 2) 1000000000 else (s.conn c).rate) ∧
        (t.conn c).copies.map (·.pkt) = (s.conn c).copies.map (·.pkt) ∧ (∀ k, k ≠ c → t.conn k = s.conn k) ∧ Keeps [.network, .stewards] s t) ∧
  (∀ (s : State) (c : Nat) (y : Copy) (rest : List Copy), s.listens = true → (s.conn c).copies = y :: rest → (s.conn c).st = 2 →
    connRtoUs (s.conn c) * 1000 ≤ s.since (max (s.conn c).ackAt y.sentAt) → connRetryMax (s.conn c) ≤ y.tries → mayMove (s.conn c) = false →
    Runs (.rtoTimeout c) s fun t => (t.conn c).st = 3 ∧ (t.conn c).copies = [] ∧ (t.conn c).ops = [] ∧ (t.conn c).txWait = []) ∧
  (∀ (s : State) (c : Nat) (y : Copy) (rest : List Copy), s.listens = true → (s.conn c).copies = y :: rest → (s.conn c).st = 2 →
    connRtoUs (s.conn c) * 1000 ≤ s.since (max (s.conn c).ackAt y.sentAt) → connRetryMax (s.conn c) ≤ y.tries → mayMove (s.conn c) = true →
    Runs (.rtoTimeout c) s fun t =>
      (t.conn c).planeNow = !(s.conn c).planeNow ∧ (t.conn c).moved = true ∧ (t.conn c).st = 2 ∧
        (t.conn c).copies.map (·.pkt) = (s.conn c).copies.map (·.pkt) ∧ (∀ k, k ≠ c → t.conn k = s.conn k) ∧ Keeps [.network, .stewards] s t) ∧
  (∀ (s : State) (c : Nat), (s.conn c).copies = [] ∨ s.since (s.conn c).ackAt < connRtoUs (s.conn c) * 1000 → Idles (.rtoTimeout c) s) ∧
  (∀ (s : State) (c a : Nat) (o : TxOp), s.listens = true → o ∈ (s.conn c).ops → o.startAt = some a →
    connOptimeMs (s.conn c) * 1000000 ≤ s.since a → (s.conn c).st = 2 →
    Runs (.opTimeout c o.opid) s fun t => (t.conn c).st = 3 ∧ (t.conn c).ops = [] ∧ (t.conn c).copies = [] ∧
      (s.serving c < 16 → (t.port (s.serving c)).opTimeout = inc (s.port (s.serving c)).opTimeout)) ∧
  (∀ (s : State) (c id : Nat), (∀ o ∈ (s.conn c).ops, o.opid ≠ id ∨ o.startAt = none) → Idles (.opTimeout c id) s) ∧
  (∀ (s : State) (c : Nat), s.listens = true → connHost (s.conn c) = true → (s.conn c).st = 2 →
    8000 ≤ s.since (max (s.conn c).cutAt (s.conn c).raiseAt) →
    Runs (.rateIncrease c) s fun t =>
      t.conn c = { s.conn c with rate := min ((s.conn c).rate + s.rateMax c / 64) (s.rateMax c), raiseAt := s.tm.clk } ∧
        (∀ k, k ≠ c → t.conn k = s.conn k) ∧ Keeps [.network, .stewards] s t) ∧
  (∀ (s : State) (c : Nat), connHost (s.conn c) = false ∨ s.since (max (s.conn c).cutAt (s.conn c).raiseAt) < 8000 → Idles (.rateIncrease c) s)

/-- LINK_DOWN, LINK_UP, PFC and neighbour requests (R288 to R291, R296, R298): a sub-port that goes down leaves its port's state and is logged, one
that comes up joins it; a pause takes the enabled priorities and counts any other; the module's own pause goes out above 1.5 MiB; only a
request for an address of its own is answered.
FORWARD_PACKET (R332 to R335): a transit packet of a ring port goes on by the route's spray set, but not back where it came from, with HOPS one
higher and the hop limit one lower, and is counted; without a route, with a bad header check or an exhausted hop limit it is dropped and
counted. Which sub-port it takes is a free value. -/
def Obligations.LinksNeighboursAndTransit : Prop :=
  (∀ (s : State) (n b : Nat), s.up = true → n < 16 → s.subUp n b = true → s.net.egress = [] →
    (∀ e ∈ s.net.conns, e.2.txWait = [] ∧ canMove e.2 = false) →
    Runs (.linkDown n b) s fun t =>
      (t.port n).subs = clearBit (s.port n).subs b ∧ s.roleNow n = t.roleNow n ∧ t.subUp n b = false ∧
        Logged t n 0x50 [portStatus (t.port n)] ∧ t.net.conns = s.net.conns ∧ (∀ k, k ≠ n → t.port k = s.port k) ∧
        Keeps [.network, .stewards, .firmware] s t) ∧
  (∀ (s : State) (n b c : Nat), s.up = true → n < 16 → s.subUp n b = true → s.net.egress = [] → (∀ e ∈ s.net.conns, e.2.txWait = []) →
    (s.conn c).st = 2 → canMove (s.conn c) = true → (s.updPort n fun p => { p with subs := clearBit p.subs b }).sprayNow c = [] →
    Runs (.linkDown n b) s fun t => t.conn c = { s.conn c with planeNow := !(s.conn c).planeNow, moved := true }) ∧
  (∀ (s : State) (n b : Nat) (q : Queued) (d : Datagram) (c : Nat), s.up = true → n < 16 → s.subUp n b = true → s.net.egress = [q] →
    q.frame = .elt d → q.conn = some c → d.link.port = n → d.link.sub = b → (∀ e ∈ s.net.conns, e.2.txWait = [] ∧ canMove e.2 = false) →
    (s.updPort n fun p => { p with subs := clearBit p.subs b }).sprayNow c ≠ [] →
    Runs (.linkDown n b) s fun t => ∃ q' d', t.net.egress = [q'] ∧ q'.frame = .elt d' ∧ d'.pkt = d.pkt ∧ (d'.link.port, d'.link.sub) ≠ (n, b)) ∧
  (∀ (s : State) (n b : Nat), s.subUp n b = false → Idles (.linkDown n b) s) ∧
  (∀ (s : State) (n b : Nat), s.based = true → n < 16 → s.roleNow n ≠ 0 → b < modeSubs (portMode (s.port n)) →
    testBit (s.port n).subs b = false → s.net.egress = [] → (∀ e ∈ s.net.conns, e.2.txWait = []) →
    Runs (.linkUp n b) s fun t =>
      (t.port n).subs = setBit (s.port n).subs b ∧ t.subUp n b = true ∧ Logged t n 0x51 [portStatus (t.port n)] ∧
        t.net.conns = s.net.conns ∧ (∀ k, k ≠ n → t.port k = s.port k) ∧ Keeps [.network, .stewards, .firmware] s t) ∧
  (∀ (s : State) (n b : Nat), s.roleNow n = 0 ∨ testBit (s.port n).subs b = true → Idles (.linkUp n b) s) ∧
  (∀ (s : State) (n mask : Nat), s.based = true → n < 16 → s.roleNow n ≠ 0 → mask < 256 →
    Runs (.pfcFrameReceive n mask) s fun t =>
      t.port n = { s.port n with
          rx := inc (s.port n).rx,
          paused := mask &&& portPfcEn (s.port n),
          pfcIgnored := if mask = mask &&& portPfcEn (s.port n) then (s.port n).pfcIgnored else inc (s.port n).pfcIgnored } ∧
        (∀ k, k ≠ n → t.port k = s.port k) ∧ Keeps [.network, .stewards] s t) ∧
  (∀ (s : State) (n prio fill : Nat), s.based = true → n < 16 → prio < 8 → s.roleNow n ≠ 0 → testBit (portPfcEn (s.port n)) prio = true →
    s.upSubs n ≠ [] → 3 * 2 ^ 19 < fill → Table.get 0 (s.port n).pfcAt prio = 0 ∨ 50000 ≤ s.since (Table.get 0 (s.port n).pfcAt prio - 1) →
    Runs (.pfcPauseSend n prio fill) s fun t =>
      t.net.egress = s.net.egress ++ (s.upSubs n).map (fun b =>
          ⟨.pfc (s.linkOf (n, b) 0x0180C2000001 (portPcp (s.port n) clsControl)) prio, clsControl, 0, 0, none⟩) ∧ (t.port n).pfcSent = inc (s.port n).pfcSent ∧
        Table.get 0 (t.port n).pfcAt prio = s.tm.clk + 1 ∧ Keeps [.network, .stewards] s t) ∧
  (∀ (s : State) (n prio fill : Nat), testBit (portPfcEn (s.port n)) prio = false → Idles (.pfcPauseSend n prio fill) s) ∧
  (∀ (s : State) (n b target asker mac : Nat) (vid : Option Nat) (v6 : Bool), s.listens = true → n < 16 → s.lineUp n b = true →
    s.tagOk n vid false = true → s.isOwn (planeOfPort n) (!v6) target = true →
    Runs (.neighbourReceive ⟨n, b, vid⟩ v6 target ⟨asker, mac⟩) s fun t =>
      t.net.egress = s.net.egress ++ [⟨.neighbour (s.linkOf (n, b) mac (portPcp (s.port n) clsControl)) v6 target asker (fld (s.port n).mac 47 0),
          clsControl, 0, 0, none⟩] ∧ (t.port n).rx = inc (s.port n).rx ∧ t.net.conns = s.net.conns ∧ Keeps [.network] s t) ∧
  (∀ (s : State) (n b target asker mac : Nat) (vid : Option Nat) (v6 : Bool), s.listens = true → n < 16 → s.lineUp n b = true →
    s.tagOk n vid false = false ∨ s.isOwn (planeOfPort n) (!v6) target = false →
    Runs (.neighbourReceive ⟨n, b, vid⟩ v6 target ⟨asker, mac⟩) s fun t =>
      t.net.egress = s.net.egress ∧ (t.port n).rx = inc (s.port n).rx ∧ t.net.conns = s.net.conns ∧ Keeps [.network] s t) ∧
  (∀ (s : State) (rx : Rx) (i : Nat) (r : Route), s.arrives rx = true → rx.port < 16 → s.isMine rx.v4 rx.dst = false →
    s.vlanOk rx = true → rx.fragment = false → portRole (s.port rx.port) = 2 → hchkOk rx = true → 1 < rx.ttl →
    s.lookup (planeOfPort rx.port) rx.v4 rx.dst = some (i, r) → rtInpath r = false →
    ((s.sprayOf (planeOfPort rx.port) r).filter fun e => e ≠ (rx.port, rx.sub)) ≠ [] →
    Runs (.forwardPacket (.packet rx)) s fun t =>
      (∃ e, e ∈ s.sprayOf (planeOfPort rx.port) r ∧ e ≠ (rx.port, rx.sub) ∧
          t.net.egress = s.net.egress ++ [⟨.forward (s.linkOf e (s.nextHop e.1 rx.v4 rx.dst) rx.pcp)
            { rx with w0 := rx.w0 - nfld rx.w0 11 8 * 2 ^ 8 + min 15 (nfld rx.w0 11 8 + 1) * 2 ^ 8, ttl := rx.ttl - 1 } rx.fcsBad,
            clsTransit, 0, 0, none⟩]) ∧
        (t.port rx.port).rx = inc (s.port rx.port).rx ∧
        (t.port rx.port).fwd = (if rx.fcsBad then (s.port rx.port).fwd else inc (s.port rx.port).fwd) ∧
        (t.port rx.port).fwdDrop = (if rx.fcsBad then inc (s.port rx.port).fwdDrop else (s.port rx.port).fwdDrop) ∧ t.free = s.free + 1 ∧
        t.net.conns = s.net.conns ∧ Keeps [.network, .freeCount, .stewards] s t) ∧
  (∀ (s : State) (rx : Rx), s.arrives rx = true → rx.port < 16 → s.isMine rx.v4 rx.dst = false →
    s.vlanOk rx = true → rx.fragment = false →
    portRole (s.port rx.port) ≠ 2 ∨ hchkOk rx = false ∨ rx.ttl ≤ 1 ∨ s.lookup (planeOfPort rx.port) rx.v4 rx.dst = none →
    Runs (.forwardPacket (.packet rx)) s fun t =>
      (t.port rx.port).fwdDrop = inc (s.port rx.port).fwdDrop ∧ t.net.egress = s.net.egress ∧ t.net.conns = s.net.conns ∧
        Keeps [.network, .stewards] s t) ∧
  (∀ (s : State) (rx : Rx), s.isMine rx.v4 rx.dst = true → Idles (.forwardPacket (.packet rx)) s) ∧
  (∀ (s : State) (x : PtpRx) (v4 : Bool) (i : Nat) (r : Route), s.based = true → x.port < 16 → s.subUp x.port x.sub = true →
    s.roleNow x.port = 2 → x.fcsBad = false → x.sumBad = false → s.tagOk x.port x.vid x.stacked = true → x.frame.map ≠ .ethernet →
    v4 = decide (x.frame.map = .udp4) → s.isMine v4 x.frame.dst = false → s.ptpMine (x.port / 8) x.frame = false → 1 < x.frame.ttl →
    x.frame.msg.kind < 4 → s.lookup (x.port / 8) v4 x.frame.dst = some (i, r) →
    ((s.sprayOf (x.port / 8) r).filter fun e => e ≠ (x.port, x.sub) ∧ s.roleNow e.1 = 2) ≠ [] →
    Runs (.forwardPacket (.ptp x)) s fun t =>
      (∃ e l, e ∈ s.sprayOf (x.port / 8) r ∧ e ≠ (x.port, x.sub) ∧ l.port = e.1 ∧ l.sub = e.2 ∧
          t.net.egress = s.net.egress ++ [⟨.ptp l { x.frame with
            ttl := x.frame.ttl - 1, sum := moveSum x.frame.sum x.frame.msg.corr (x.frame.msg.corr + 65536 * x.residence),
            msg := { x.frame.msg with corr := x.frame.msg.corr + 65536 * x.residence } }, clsControl, 0, 0, none⟩]) ∧
        (t.port x.port).fwd = inc (s.port x.port).fwd ∧ t.tm = s.tm ∧ t.net.conns = s.net.conns ∧ Keeps [.network, .freeCount] s t)

/-! Time, and the partitions of a job (chapters 07 and 14). -/

/-- Sync, Follow_Up and Delay_Resp of a plane's source, a lost source, and the drift in HOLDOVER (R197 to R200): a Sync makes its plane usable,
gives the frequency of the plane in force and is answered by a Delay_Req; with its path delay known the plane in force gives the offset, by
which the state moves as the time state table gives: sixteen errors of at most 100 ns in a row lock, an error above 1,000 ns unlocks and is
logged and counted, and module time steps only while no schedule runs. A two-step Sync waits for its Follow_Up; a Delay_Resp gives the path
delay; a message of another domain, or a Sync interval outside 2^-7 s to 1 s, is not accepted. -/
def Obligations.TimeFollowsItsSource : Prop :=
  (∀ (s : State) (x : PtpRx) (plane good : Nat) (path offset : Int), SyncIn s x plane → x.frame.msg.twoStep = false →
    (s.side plane).path = some path → GivesTime s plane plane → s.tm.st ≠ .locked ∨ offset.natAbs ≤ 1000 →
    offset = x.frame.msg.stamp + corrNs x.frame.msg.corr + path - (s.tm.now.toNat : Int) →
    good = (if s.tm.st = .neverLocked ∨ s.tm.st = .holdover ∨ s.tm.source ≠ plane + 1 then 0 else s.tm.good) →
    Runs (.ptpSyncReceive x.toPtpLink x.frame x.rate x.synce) s fun t =>
      t.tm.errNs = offset.natAbs ∧ t.tm.source = plane + 1 ∧ t.tm.synce = x.synce.isSome ∧ t.tm.usable = setBit s.tm.usable plane ∧
        t.tm.freq = (x.synce.map fun f => max (-4) (min 4 f)).getD s.tm.freq ∧ t.tm.unlocks = s.tm.unlocks ∧
        t.tm.good = (if offset.natAbs ≤ 100 then good + 1 else 0) ∧
        (s.tm.st = .neverLocked ∨ s.tm.st = .holdover → t.tm.st = .acquiring) ∧
        (s.tm.st = .acquiring ∨ s.tm.st = .unlocked → t.tm.st = if offset.natAbs ≤ 100 ∧ 15 ≤ good then .locked else s.tm.st) ∧
        (s.tm.st = .locked → t.tm.st = .locked) ∧
        t.tm.now = (if s.anySchedule = false ∧ 1000 < offset.natAbs then s.tm.now + BitVec.ofInt 64 offset else s.tm.now) ∧
        t.tm.clk = s.tm.clk ∧ (t.side plane).path = some path ∧ DelayAsked s t x plane ∧ (t.port x.port).rx = inc (s.port x.port).rx ∧
        t.net.conns = s.net.conns ∧ Keeps [.time, .network] s t) ∧
  (∀ (s : State) (x : PtpRx) (plane : Nat) (path offset : Int), SyncIn s x plane → x.frame.msg.twoStep = false →
    (s.side plane).path = some path → GivesTime s plane plane → s.tm.st = .locked → 1000 < offset.natAbs →
    offset = x.frame.msg.stamp + corrNs x.frame.msg.corr + path - (s.tm.now.toNat : Int) →
    Runs (.ptpSyncReceive x.toPtpLink x.frame x.rate x.synce) s fun t =>
      t.tm.st = .unlocked ∧ t.tm.unlocks = inc s.tm.unlocks ∧ t.tm.errNs = offset.natAbs ∧
        (s.anySchedule = true → t.tm.now = s.tm.now) ∧ Logged t s.leadNow 0x30 [t.timeStatus] ∧
        Keeps [.time, .network, .stewards, .firmware] s t) ∧
  (∀ (s : State) (x : PtpRx) (plane i : Nat), SyncIn s x plane → x.frame.msg.twoStep = false → GivesTime s plane i →
    i ≠ plane ∨ (s.side plane).path = none →
    Runs (.ptpSyncReceive x.toPtpLink x.frame x.rate x.synce) s fun t =>
      t.tm.source = i + 1 ∧ t.tm.usable = setBit s.tm.usable plane ∧ t.tm.errNs = s.tm.errNs ∧ t.tm.now = s.tm.now ∧
        (s.tm.st = .neverLocked ∨ s.tm.st = .holdover → t.tm.st = .acquiring) ∧
        (s.tm.st ≠ .neverLocked → s.tm.st ≠ .holdover → t.tm.st = s.tm.st) ∧ DelayAsked s t x plane ∧ Keeps [.time, .network] s t) ∧
  (∀ (s : State) (x : PtpRx) (plane : Nat), SyncIn s x plane → x.frame.msg.twoStep = true →
    Runs (.ptpSyncReceive x.toPtpLink x.frame x.rate x.synce) s fun t =>
      (t.side plane).wait = some (x.frame.msg.source, x.frame.msg.seq, s.tm.now.toNat, x.frame.msg.corr) ∧ t.tm.now = s.tm.now ∧
        t.tm.errNs = s.tm.errNs ∧ t.tm.usable = setBit s.tm.usable plane ∧ t.net.egress = s.net.egress ∧ Keeps [.time, .network] s t) ∧
  (∀ (s : State) (x : PtpRx) (plane seq at' : Nat) (src : Nat) (corr path offset : Int), PtpIn s x plane → x.frame.msg.kind = ptpFollowUp →
    (s.side plane).wait = some (src, seq, at', corr) → x.frame.msg.source = src → x.frame.msg.seq = seq → (s.side plane).path = some path →
    s.timePlane = some plane → s.tm.st ≠ .locked ∨ offset.natAbs ≤ 1000 →
    offset = x.frame.msg.stamp + corrNs (corr + x.frame.msg.corr) + path - (at' : Int) →
    Runs (.ptpSyncReceive x.toPtpLink x.frame x.rate x.synce) s fun t =>
      t.tm.errNs = offset.natAbs ∧ (t.side plane).wait = none ∧ t.tm.unlocks = s.tm.unlocks ∧ DelayAsked s t x plane ∧
        t.tm.now = (if s.anySchedule = false ∧ 1000 < offset.natAbs then s.tm.now + BitVec.ofInt 64 offset else s.tm.now) ∧
        Keeps [.time, .network] s t) ∧
  (∀ (s : State) (x : PtpRx) (plane seq left : Nat) (sent arrived : Int), PtpIn s x plane → x.frame.msg.kind = ptpDelayResp →
    (s.side plane).req = some (seq, left) → (s.side plane).sync = some (sent, arrived) → x.frame.msg.seq = seq →
    x.frame.msg.target = s.clockId x.port →
    Runs (.ptpSyncReceive x.toPtpLink x.frame x.rate x.synce) s fun t =>
      (t.side plane).path = some (((arrived - sent) + (x.frame.msg.stamp - corrNs x.frame.msg.corr - left)) / 2) ∧ (t.side plane).req = none ∧
        t.tm.now = s.tm.now ∧ t.tm.st = s.tm.st ∧ t.net.egress = s.net.egress ∧ Keeps [.time, .network] s t) ∧
  (∀ (s : State) (x : PtpRx), s.based = true → x.port < 16 → s.subUp x.port x.sub = true → s.roleNow x.port ≠ 2 →
    x.frame.msg.domain ≠ fld (s.plane (x.port / 8)).cfg 23 16 ∨ x.fcsBad = true ∨ x.sumBad = true ∨ s.tagOk x.port x.vid x.stacked = false ∨
      (x.frame.msg.kind = ptpSync ∧ (x.frame.msg.interval < -7 ∨ 0 < x.frame.msg.interval)) →
    Runs (.ptpSyncReceive x.toPtpLink x.frame x.rate x.synce) s fun t => t.tm = s.tm ∧ (t.port x.port).rx = inc (s.port x.port).rx ∧ t.net.egress = s.net.egress ∧ Keeps [.network] s t) ∧
  (∀ (s : State) (plane i : Nat), s.based = true → plane < 2 → testBit s.tm.usable plane = true →
    ({ s with tm := { s.tm with usable := clearBit s.tm.usable plane } } : State).timePlane = some i →
    Runs (.ptpSourceLost plane) s fun t =>
      t.tm.source = i + 1 ∧ t.tm.st = s.tm.st ∧ t.tm.usable = clearBit s.tm.usable plane ∧ t.tm.now = s.tm.now ∧
        t.tm.synce = (s.side i).freq.isSome ∧ t.tm.freq = (s.side i).freq.getD s.tm.freq ∧ t.side plane = .reset ∧ Keeps [.time] s t) ∧
  (∀ (s : State) (plane : Nat), s.based = true → plane < 2 → testBit s.tm.usable plane = true →
    ({ s with tm := { s.tm with usable := clearBit s.tm.usable plane } } : State).timePlane = none →
    Runs (.ptpSourceLost plane) s fun t =>
      t.tm.source = 0 ∧ t.tm.synce = false ∧ t.tm.freq = s.tm.freq ∧ t.tm.usable = clearBit s.tm.usable plane ∧
        t.tm.st = (if s.tm.st = .locked ∨ (s.tm.st = .acquiring ∧ s.tm.everLocked = true) then .holdover
                   else if s.tm.st = .acquiring then .neverLocked else s.tm.st) ∧
        t.tm.now = s.tm.now ∧ t.tm.everLocked = s.tm.everLocked ∧ Keeps [.time] s t) ∧
  (∀ (s : State) (plane : Nat), testBit s.tm.usable plane = false → Idles (.ptpSourceLost plane) s) ∧
  (∀ (s : State) (err : Nat), s.based = true → s.tm.st = .holdover → err ≤ 1000 →
    Runs (.holdoverErrorLimit err) s fun t => t = { s with tm := { s.tm with errNs := err } }) ∧
  (∀ (s : State) (err : Nat), s.based = true → s.tm.st = .holdover → 1000 < err →
    Runs (.holdoverErrorLimit err) s fun t =>
      t.tm.st = .unlocked ∧ t.tm.unlocks = inc s.tm.unlocks ∧ t.tm.errNs = err ∧ t.tm.now = s.tm.now ∧
        t.tm.source = (if s.tm.source = 3 then 0 else s.tm.source) ∧ Logged t s.leadNow 0x30 [t.timeStatus] ∧ Keeps [.time, .stewards, .firmware] s t) ∧
  (∀ (s : State) (err : Nat), s.tm.st ≠ .holdover → Idles (.holdoverErrorLimit err) s)

/-- The partition commands of a controlling session (R500, R502, R504, R505): PARK asks for a park after the current step, and without a running schedule parks at once, RESUME lets a
parked partition's streams issue again, END ends its schedule and makes it ready, ABORT ends the job and closes its member connections, and
VACATE begins the teardown, which closes the session itself; a command that the state does not allow is answered 0x04 and changes nothing. -/
def Obligations.PartitionCommandsAct : Prop :=
  (∀ (s : State) (v : Via) (p : Nat), ViaOpen s v 2 → p < 16 → connPart (s.conn v.conn) = p → (s.part p).st = .running →
    schRuns (s.part p) = true →
    Runs (.devPartPark v p) s fun t =>
      Answered v (0x9000 + 0x40 * p) 0 (s.updPart p fun q =>
        { q with parking := true, parkStep := if q.parking then q.parkStep else q.step, parkHost := true }) t) ∧
  (∀ (s : State) (v : Via) (p : Nat), ViaOpen s v 2 → p < 16 → connPart (s.conn v.conn) = p → (s.part p).st = .running →
    schRuns (s.part p) = false →
    Runs (.devPartPark v p) s fun t => ∃ u, Answered v (0x9000 + 0x40 * p) 0 u t ∧
      (u.part p).st = .parked ∧ (u.part p).isParked = true ∧ (u.part p).parking = false ∧ Logged u s.leadNow 0x95 [partFaultWord (u.part p)] ∧
        (∀ q, q ≠ p → u.part q = s.part q) ∧ Keeps [.partitions, .stewards, .firmware] s u) ∧
  (∀ (s : State) (v : Via) (p : Nat), ViaOpen s v 2 → p < 16 → connPart (s.conn v.conn) = p → (s.part p).st = .parked →
    (s.controlling p).isSome = true → s.pwr.remove = 0 →
    Runs (.devPartResume v p) s fun t => ∃ u, Answered v (0x9000 + 0x40 * p) 0 u t ∧
      (u.part p).st = .running ∧ (u.part p).isParked = false ∧ (u.part p).sched = (s.part p).sched ∧
        (∀ e ∈ (u.part p).streams, e.2.stopped = false) ∧ (∀ q, q ≠ p → u.part q = s.part q) ∧ Keeps [.partitions] s u) ∧
  (∀ (s : State) (v : Via) (p : Nat), ViaOpen s v 2 → p < 16 → connPart (s.conn v.conn) = p →
    (s.part p).st = .parked ∨ (s.part p).st = .orphaned →
    Runs (.devPartEnd v p) s fun t => ∃ u, Answered v (0x9000 + 0x40 * p) 0 u t ∧
      (u.part p).st = .ready ∧ (u.part p).isParked = false ∧ (u.part p).schSt ≠ 2 ∧ (u.part p).schSt ≠ 3 ∧ (u.part p).stn.st = 0 ∧
        (u.part p).tgen = (s.part p).tgen ∧ (∀ e ∈ (u.part p).streams, e.2.stopped = true) ∧ (∀ q, q ≠ p → u.part q = s.part q) ∧
        Keeps [.partitions] s u) ∧
  (∀ (s : State) (v : Via) (p : Nat), ViaOpen s v 2 → p < 16 → connPart (s.conn v.conn) = p →
    (s.part p).st = .running ∨ (s.part p).st = .parked ∨ (s.part p).st = .orphaned →
    Runs (.devPartAbort v p) s fun t => ∃ u, Answered v (0x9000 + 0x40 * p) 0 u t ∧
      (u.part p).st = (if (s.part p).st = .orphaned then .orphaned else .ready) ∧ (u.part p).schSt ≠ 2 ∧ (u.part p).schSt ≠ 3 ∧
        (u.part p).aborted = true ∧ (u.part p).colls = [] ∧ (u.part p).layers = [] ∧
        (∀ e ∈ (u.part p).streams, e.2.stopped = true ∧ e.2.tokens = []) ∧ (∀ c ∈ s.memberConns p, (u.conn c).st = 4) ∧
        (u.conn v.conn).st = 2 ∧ Logged u s.leadNow 0x93 (payloadWords (s.abortPayload p 0)) ∧
        (∀ q, q ≠ p → u.part q = s.part q) ∧ u.mem = s.mem ∧ Keeps [.partitions, .network, .structure_, .stewards, .firmware] s u) ∧
  (∀ (s : State) (v : Via) (p : Nat), ViaOpen s v 2 → p < 16 → connPart (s.conn v.conn) = p →
    (s.part p).st = .ready ∨ (s.part p).st = .parked ∨ (s.part p).st = .orphaned →
    Runs (.devPartVacate v p) s fun t =>
      (t.part p).st = .tearing ∧ (∃ x, (t.part p).tear = some x ∧ x.remove = false ∧ x.stage = 2 ∧ v.conn ∈ x.closing) ∧
        (t.part p).tgen = (s.part p).tgen ∧ (t.conn v.conn).st = 4 ∧ (∀ q, q ≠ p → t.part q = s.part q) ∧ t.mem = s.mem) ∧
  (∀ (s : State) (v : Via) (p : Nat), ViaOpen s v 2 → p < 16 → connPart (s.conn v.conn) = p →
    ((s.part p).st ≠ .running → Runs (.devPartPark v p) s fun t => Answered v (0x9000 + 0x40 * p) 4 s t) ∧
    ((s.part p).st ≠ .parked ∨ s.pwr.remove ≠ 0 → Runs (.devPartResume v p) s fun t => Answered v (0x9000 + 0x40 * p) 4 s t) ∧
    ((s.part p).st ≠ .parked → (s.part p).st ≠ .orphaned →
      Runs (.devPartEnd v p) s fun t => Answered v (0x9000 + 0x40 * p) 4 s t) ∧
    ((s.part p).st = .ready ∨ (s.part p).st = .tearing → Runs (.devPartAbort v p) s fun t => Answered v (0x9000 + 0x40 * p) 4 s t) ∧
    ((s.part p).st = .running ∨ (s.part p).st = .tearing →
      Runs (.devPartVacate v p) s fun t => Answered v (0x9000 + 0x40 * p) 4 s t)) ∧
  (∀ (s : State) (v : Via) (p : Nat), ViaOpen s v 2 → p < 16 → connPart (s.conn v.conn) ≠ p →
    Runs (.devPartAbort v p) s fun t => Answered v (0x9000 + 0x40 * p) 3 s t)

/-- PARTITION_PARKED, LEASE_EXPIRED and FAULT_NOTICE_FLUSH (R497, R503, R504): a parking partition stops once its step is committed; the
controlling session's lease, left to run out, closes the session, orphans the partition and is a partition fault that aborts no job; an
observer's closes only the session; held notices go out in order on the lowest open manager connection. -/
def Obligations.ParksLeasesAndNotices : Prop :=
  (∀ (s : State) (p : Nat), s.operational = true → (s.part p).parking = true → (s.part p).stn.st = 1 →
    (s.part p).stn.committed ≠ BitVec.allOnes 64 → (s.part p).parkStep ≤ (s.part p).stn.committed.toNat →
    Runs (.partitionParked p) s fun t =>
      (t.part p).isParked = true ∧ (t.part p).parking = false ∧ (∀ e ∈ (t.part p).streams, e.2.stopped = true) ∧
        (t.part p).st = (if (s.part p).st = .running then .parked else (s.part p).st) ∧ (t.part p).sched = (s.part p).sched ∧
        (∃ w, Logged t s.leadNow 0x95 [w]) ∧ (∀ q, q ≠ p → t.part q = s.part q) ∧ Keeps [.partitions, .stewards, .firmware] s t) ∧
  (∀ (s : State) (p : Nat), (s.part p).parking = false → Idles (.partitionParked p) s) ∧
  (∀ (s : State) (c p : Nat), s.operational = true → connKind (s.conn c) = 2 → connPart (s.conn c) = p → (s.conn c).st = 2 →
    (s.part p).leaseMs * 1000000 ≤ s.since (s.conn c).leaseAt →
    (s.part p).st = .running ∨ (s.part p).st = .ready ∨ (s.part p).st = .parked →
    Runs (.leaseExpired c) s fun t =>
      t.conn c = .reset ∧ (t.part p).st = .orphaned ∧ (t.part p).faults = inc (s.part p).faults ∧ (t.part p).faultEvent = 0x94 ∧
        (t.part p).aborted = (s.part p).aborted ∧ (t.part p).sched = (s.part p).sched ∧
        ((s.part p).isParked = false → (s.part p).schSt = 2 ∨ (s.part p).schSt = 3 →
          (t.part p).parking = true ∧ (t.part p).parkStep = (if (s.part p).parking then (s.part p).parkStep else (s.part p).step)) ∧
        ((s.part p).schSt ≠ 2 → (s.part p).schSt ≠ 3 → (t.part p).isParked = true ∧ (t.part p).holdAt.isSome = true) ∧
        (∀ q, q ≠ p → t.part q = s.part q) ∧ t.mem = s.mem) ∧
  (∀ (s : State) (c p : Nat), s.operational = true → connKind (s.conn c) = 3 → connPart (s.conn c) = p → (s.conn c).st = 2 →
    (s.part p).leaseMs * 1000000 ≤ s.since (s.conn c).leaseAt →
    Runs (.leaseExpired c) s fun t => t.conn c = .reset ∧ (t.part p).st = (s.part p).st ∧ (t.part p).faults = (s.part p).faults ∧
      (∀ q, q ≠ p → t.part q = s.part q) ∧ t.mem = s.mem) ∧
  (∀ (s : State) (c : Nat), s.since (s.conn c).leaseAt < (s.part (connPart (s.conn c))).leaseMs * 1000000 → Idles (.leaseExpired c) s) ∧
  (∀ (s : State) (c : Nat), s.based = true → s.fmConn = some c →
    Runs .faultNoticeFlush s fun t =>
      t.dev = { s.dev with notices := [] } ∧ (t.conn c).ops.length = (s.conn c).ops.length + s.dev.notices.length ∧
        (∃ ps, Sends s t c ps ∧ ps.map (·.grans) = s.dev.notices.map (fun e => [⟨logBytes e ++ zeros 192, false⟩]) ∧
          ∀ q ∈ ps, q.op = opSend ∧ q.first = true ∧ q.last = true) ∧
        (∀ k, k ≠ c → t.conn k = s.conn k) ∧ Keeps [.faults, .network, .stewards] s t) ∧
  (∀ s : State, s.fmConn = none → Idles .faultNoticeFlush s)

/-! Rules stated word for word (chapters 00, 03 and 07). -/

/-- R12: an event counter counts up to all ones of its 64 bits, and stays there. -/
def Obligations.EventCountersSaturate : Prop :=
  (∀ c : W64, (inc c).toNat = min (c.toNat + 1) (2 ^ 64 - 1)) ∧
  (∀ (c : W64) (n : Nat), (incBy c n).toNat = min (c.toNat + n) (2 ^ 64 - 1)) ∧ (inc (BitVec.allOnes 64) = BitVec.allOnes 64)

/-- R63: the accumulator state after the terms of an accumulation is the same in whatever order they are added and however they are
grouped into partial sums that are merged. -/
def Obligations.AccumulationIsOrderIndependent : Prop :=
  (∀ (st : Acc) (a b : List Elem), List.Perm a b → addTerms st a = addTerms st b) ∧
  (∀ (st : Acc) (a b : List Elem), st.terms ≤ 2 ^ 40 ∨ st = accLimit → addTerms st (a ++ b) = merge (addTerms st a) (addTerms accClear b)) ∧
  (∀ x y z : Acc, x.terms ≤ 2 ^ 40 ∨ x = accLimit → y.terms ≤ 2 ^ 40 ∨ y = accLimit → z.terms ≤ 2 ^ 40 ∨ z = accLimit →
    merge (merge x y) z = merge x (merge y z) ∧ merge x y = merge y x)

/-- R199: while a schedule runs, a step never takes module time backward and changes it only by the passing of time at a rate corrected by
at most 100 parts per million (`drift`, gathered in `acc`); while none runs, a command may step it. -/
def Obligations.TimeNeverMovesBackUnderASchedule : Prop :=
  (∀ s t : State, TimeInv s.tm → Sys2Proof.Machine.step s = .next t → s.anySchedule = true → t.anySchedule = true →
    ∃ k : Nat, k ≤ 2 ∧ t.tm.now = s.tm.now + BitVec.ofNat 64 k ∧ (-100 ≤ t.tm.drift ∧ t.tm.drift ≤ 100) ∧
      (((k : Int) * 1000000 + t.tm.acc = s.tm.acc) ∨ ((k : Int) * 1000000 + t.tm.acc = s.tm.acc + 1000000 + s.tm.freq + s.tm.drift))) ∧
  (∃ (i : Instr) (s t : State), s.anySchedule = false ∧ Sys2Proof.Machine.exec i s = .next t ∧ t.tm.now.toNat < s.tm.now.toNat)
end

