-- ==== Sys2Proof/Laws/Table.lean ====
section
/-! SUPPORT. What the sparse tables do: a read after a write, and that every operation keeps the canonical form. -/
namespace Sys2Proof.Table

variable {α : Type}

@[simp] theorem get_nil (d : α) (i : Nat) : get d [] i = d := rfl

theorem get_erase_same (d : α) (t : Table α) (i : Nat) : get d (erase t i) i = d := by
  induction t with
  | nil => rfl
  | cons e t ih => obtain ⟨j, v⟩ := e; by_cases h : j = i <;> simp [erase, get, h, ih]

theorem get_erase_ne (d : α) (t : Table α) {i j : Nat} (h : j ≠ i) : get d (erase t i) j = get d t j := by
  induction t with
  | nil => rfl
  | cons e t ih =>
    obtain ⟨k, v⟩ := e
    by_cases hk : k = i
    · subst hk; simp [erase, get, ih, h.symm]
    · simp [erase, hk, get, ih]

theorem get_insert_same (d : α) (t : Table α) (i : Nat) (v : α) (h : ∀ e ∈ t, e.1 ≠ i) : get d (insert i v t) i = v := by
  induction t with
  | nil => simp [insert, get]
  | cons e t ih =>
    obtain ⟨j, w⟩ := e
    have hj : j ≠ i := h (j, w) (by simp)
    by_cases hl : i < j
    · simp [insert, hl, get]
    · simp [insert, hl, get, hj, ih fun e he => h e (by simp [he])]

theorem get_insert_ne (d : α) (t : Table α) {i j : Nat} (v : α) (h : j ≠ i) : get d (insert i v t) j = get d t j := by
  induction t with
  | nil => simp [insert, get, h.symm]
  | cons e t ih =>
    obtain ⟨k, w⟩ := e
    by_cases hl : i < k <;> simp [insert, hl, get, ih, h.symm]

theorem erase_no_key (t : Table α) (i : Nat) : ∀ e ∈ erase t i, e.1 ≠ i := by
  induction t with
  | nil => simp [erase]
  | cons e t ih =>
    obtain ⟨j, v⟩ := e
    by_cases h : j = i
    · simpa [erase, h] using ih
    · intro e he
      simp only [erase, h, if_false, List.mem_cons] at he
      obtain rfl | he := he
      · exact h
      · exact ih e he

/-- A read of the entry just written gives the value written. -/
@[simp] theorem get_set_same [DecidableEq α] (d : α) (t : Table α) (i : Nat) (v : α) : get d (set d t i v) i = v := by
  unfold set
  split
  · next h => rw [get_erase_same, h]
  · exact get_insert_same d _ i v (erase_no_key t i)

/-- A write leaves every other entry alone. -/
theorem get_set_ne [DecidableEq α] (d : α) (t : Table α) {i j : Nat} (v : α) (h : j ≠ i) :
    get d (set d t i v) j = get d t j := by
  unfold set
  split
  · exact get_erase_ne d t h
  · rw [get_insert_ne d _ v h, get_erase_ne d t h]

/-- Both at once. -/
theorem get_set [DecidableEq α] (d : α) (t : Table α) (i j : Nat) (v : α) :
    get d (set d t i v) j = if j = i then v else get d t j := by
  split
  · next h => rw [h, get_set_same]
  · next h => exact get_set_ne d t v h

/-! The canonical form. -/

theorem rising_weaken (t : Table α) {a b : Nat} (h : a ≤ b) (hr : rising (some b) t = true) : rising (some a) t = true := by
  cases t with
  | nil => rfl
  | cons e t =>
    obtain ⟨j, v⟩ := e
    simp only [rising, Bool.and_eq_true, decide_eq_true_eq] at hr ⊢
    exact ⟨by omega, hr.2⟩

theorem rising_none (t : Table α) {a : Nat} (hr : rising (some a) t = true) : rising none t = true := by
  cases t with
  | nil => rfl
  | cons e t =>
    obtain ⟨j, v⟩ := e
    simp only [rising, Bool.and_eq_true, decide_eq_true_eq] at hr ⊢
    exact hr.2

theorem rising_filter (p : Nat × α → Bool) (t : Table α) (o : Option Nat) (h : rising o t = true) :
    rising o (t.filter p) = true := by
  induction t generalizing o with
  | nil => cases o <;> rfl
  | cons e t ih =>
    obtain ⟨j, v⟩ := e
    have hj : rising (some j) t = true := by
      cases o <;> simp only [rising, Bool.and_eq_true] at h
      · exact h
      · exact h.2
    by_cases hp : p (j, v) = true
    · cases o with
      | none => simpa [List.filter, hp, rising] using ih (some j) hj
      | some a =>
        simp only [rising, Bool.and_eq_true, decide_eq_true_eq] at h
        simpa [List.filter, hp, rising, h.1] using ih (some j) hj
    · have hp : p (j, v) = false := by simpa using hp
      simp only [List.filter, hp]
      cases o with
      | none => exact rising_none _ (ih (some j) hj)
      | some a =>
        simp only [rising, Bool.and_eq_true, decide_eq_true_eq] at h
        exact rising_weaken _ (Nat.le_of_lt h.1) (ih (some j) hj)

theorem erase_eq_filter (t : Table α) (i : Nat) : erase t i = t.filter fun e => decide (e.1 ≠ i) := by
  induction t with
  | nil => rfl
  | cons e t ih => obtain ⟨j, v⟩ := e; by_cases h : j = i <;> simp [erase, h, ih]

theorem wf_filter [DecidableEq α] (d : α) (p : Nat × α → Bool) (t : Table α) (h : wf d t = true) :
    wf d (t.filter p) = true := by
  simp only [wf, Bool.and_eq_true, List.all_eq_true, decide_eq_true_eq] at h ⊢
  exact ⟨rising_filter p t none h.1, fun e he => h.2 e (List.mem_filter.1 he).1⟩

theorem wf_erase [DecidableEq α] (d : α) (t : Table α) (i : Nat) (h : wf d t = true) : wf d (erase t i) = true := by
  rw [erase_eq_filter]; exact wf_filter d _ t h

theorem rising_insert (i : Nat) (v : α) (t : Table α) (o : Option Nat) (h : rising o t = true)
    (ho : ∀ a, o = some a → a < i) (hn : ∀ e ∈ t, e.1 ≠ i) : rising o (insert i v t) = true := by
  induction t generalizing o with
  | nil => cases o with
    | none => rfl
    | some a => simp [insert, rising, ho a rfl]
  | cons e t ih =>
    obtain ⟨j, w⟩ := e
    have hji : j ≠ i := hn (j, w) (by simp)
    have hj : rising (some j) t = true := by
      cases o <;> simp only [rising, Bool.and_eq_true] at h
      · exact h
      · exact h.2
    by_cases hl : i < j
    · cases o with
      | none => simp [insert, hl, rising, hj]
      | some a => simp [insert, hl, rising, hj, ho a rfl]
    · have := ih (some j) hj (fun a ha => by cases ha; omega) fun e he => hn e (by simp [he])
      cases o with
      | none => simpa [insert, hl, rising] using this
      | some a =>
        simp only [rising, Bool.and_eq_true, decide_eq_true_eq] at h
        simpa [insert, hl, rising, h.1] using this

theorem mem_insert (i : Nat) (v : α) (t : Table α) (e : Nat × α) (h : e ∈ insert i v t) : e = (i, v) ∨ e ∈ t := by
  induction t with
  | nil => simpa [insert] using h
  | cons x t ih =>
    obtain ⟨j, w⟩ := x
    by_cases hl : i < j
    · simpa [insert, hl] using h
    · simp only [insert, hl, if_false, List.mem_cons] at h
      obtain rfl | h := h
      · simp
      · obtain h | h := ih h
        · exact .inl h
        · exact .inr (by simp [h])

/-- A write keeps the canonical form. -/
theorem wf_set [DecidableEq α] (d : α) (t : Table α) (i : Nat) (v : α) (h : wf d t = true) : wf d (set d t i v) = true := by
  unfold set
  split
  · exact wf_erase d t i h
  · next hv =>
    have he := wf_erase d t i h
    simp only [wf, Bool.and_eq_true, List.all_eq_true, decide_eq_true_eq] at he ⊢
    refine ⟨rising_insert i v _ none he.1 (fun a ha => by cases ha) (erase_no_key t i), fun e hm => ?_⟩
    obtain rfl | hm := mem_insert i v _ e hm
    · exact hv
    · exact he.2 e hm

/-- Entries dropped keep the canonical form. -/
theorem wf_drop [DecidableEq α] (d : α) (p : Nat → Bool) (t : Table α) (h : wf d t = true) : wf d (drop p t) = true :=
  wf_filter d _ t h

theorem rising_map (f : Nat → α → α) (t : Table α) (o : Option Nat) (h : rising o t = true) :
    rising o (t.map fun e => (e.1, f e.1 e.2)) = true := by
  induction t generalizing o with
  | nil => exact h
  | cons e t ih =>
    obtain ⟨j, v⟩ := e
    cases o with
    | none => exact ih (some j) h
    | some a =>
      simp only [rising, Bool.and_eq_true] at h
      simp only [List.map_cons, rising, Bool.and_eq_true]
      exact ⟨h.1, ih (some j) h.2⟩

theorem wf_mapAll [DecidableEq α] (d : α) (f : Nat → α → α) (t : Table α) (h : wf d t = true) : wf d (mapAll d f t) = true := by
  simp only [wf, mapAll, Bool.and_eq_true] at h ⊢
  exact ⟨rising_filter _ _ none (rising_map f t none h.1), by simp [List.all_filter]⟩

end Sys2Proof.Table
end

