-- ==== Sys2Proof/Laws/State.lean ====
section
/-! SUPPORT. Each named update of the state: the fields it leaves alone, and what a named read gives after it. -/
namespace Sys2Proof.Machine

/-! updPart -/

@[simp ↓] theorem updPart_tm (s : State) (p : Nat) (f : Part → Part) : (s.updPart p f).tm = s.tm := rfl
@[simp ↓] theorem updPart_pwr (s : State) (p : Nat) (f : Part → Part) : (s.updPart p f).pwr = s.pwr := rfl
@[simp ↓] theorem updPart_dev (s : State) (p : Nat) (f : Part → Part) : (s.updPart p f).dev = s.dev := rfl
@[simp ↓] theorem updPart_stew (s : State) (p : Nat) (f : Part → Part) : (s.updPart p f).stew = s.stew := rfl
@[simp ↓] theorem updPart_cols (s : State) (p : Nat) (f : Part → Part) : (s.updPart p f).cols = s.cols := rfl
@[simp ↓] theorem updPart_flash (s : State) (p : Nat) (f : Part → Part) : (s.updPart p f).flash = s.flash := rfl
@[simp ↓] theorem updPart_fw (s : State) (p : Nat) (f : Part → Part) : (s.updPart p f).fw = s.fw := rfl
@[simp ↓] theorem updPart_xsi (s : State) (p : Nat) (f : Part → Part) : (s.updPart p f).xsi = s.xsi := rfl
@[simp ↓] theorem updPart_mem (s : State) (p : Nat) (f : Part → Part) : (s.updPart p f).mem = s.mem := rfl
@[simp ↓] theorem updPart_net (s : State) (p : Nat) (f : Part → Part) : (s.updPart p f).net = s.net := rfl
@[simp ↓] theorem updPart_slots (s : State) (p : Nat) (f : Part → Part) : (s.updPart p f).slots = s.slots := rfl
@[simp ↓] theorem updPart_pos (s : State) (p : Nat) (f : Part → Part) : (s.updPart p f).pos = s.pos := rfl
@[simp ↓] theorem updPart_cls (s : State) (p : Nat) (f : Part → Part) : (s.updPart p f).cls = s.cls := rfl
@[simp ↓] theorem updPart_free (s : State) (p : Nat) (f : Part → Part) : (s.updPart p f).free = s.free := rfl
@[simp ↓] theorem updPart_pending (s : State) (p : Nat) (f : Part → Part) : (s.updPart p f).pending = s.pending := rfl
@[simp ↓] theorem updPart_part_same (s : State) (p : Nat) (f : Part → Part) : (s.updPart p f).part p = f (s.part p) := Table.get_set_same _ _ _ _
theorem updPart_part_ne (s : State) (p : Nat) (f : Part → Part) {i : Nat} (h : i ≠ p) : (s.updPart p f).part i = s.part i := Table.get_set_ne _ _ _ h
@[simp ↓] theorem updPart_conn (s : State) (p : Nat) (f : Part → Part) (i : Nat) : (s.updPart p f).conn i = s.conn i := rfl
@[simp ↓] theorem updPart_port (s : State) (p : Nat) (f : Part → Part) (i : Nat) : (s.updPart p f).port i = s.port i := rfl
@[simp ↓] theorem updPart_region (s : State) (p : Nat) (f : Part → Part) (i : Nat) : (s.updPart p f).region i = s.region i := rfl
@[simp ↓] theorem updPart_col (s : State) (p : Nat) (f : Part → Part) (i : Nat) : (s.updPart p f).col i = s.col i := rfl
@[simp ↓] theorem updPart_steward (s : State) (p : Nat) (f : Part → Part) (i : Nat) : (s.updPart p f).steward i = s.steward i := rfl
@[simp ↓] theorem updPart_colPwr (s : State) (p : Nat) (f : Part → Part) (i : Nat) : (s.updPart p f).colPwr i = s.colPwr i := rfl
@[simp ↓] theorem updPart_slot (s : State) (p : Nat) (f : Part → Part) (i : Nat) : (s.updPart p f).slot i = s.slot i := rfl
@[simp ↓] theorem updPart_posn (s : State) (p : Nat) (f : Part → Part) (i : Nat) : (s.updPart p f).posn i = s.posn i := rfl
@[simp ↓] theorem updPart_cluster (s : State) (p : Nat) (f : Part → Part) (i : Nat) : (s.updPart p f).cluster i = s.cluster i := rfl
@[simp ↓] theorem updPart_margin (s : State) (p : Nat) (f : Part → Part) (i : Nat) : (s.updPart p f).margin i = s.margin i := rfl
@[simp ↓] theorem updPart_line (s : State) (p : Nat) (f : Part → Part) (i : Nat) : (s.updPart p f).line i = s.line i := rfl

/-! updConn -/

@[simp ↓] theorem updConn_tm (s : State) (c : Nat) (f : Conn → Conn) : (s.updConn c f).tm = s.tm := rfl
@[simp ↓] theorem updConn_pwr (s : State) (c : Nat) (f : Conn → Conn) : (s.updConn c f).pwr = s.pwr := rfl
@[simp ↓] theorem updConn_dev (s : State) (c : Nat) (f : Conn → Conn) : (s.updConn c f).dev = s.dev := rfl
@[simp ↓] theorem updConn_stew (s : State) (c : Nat) (f : Conn → Conn) : (s.updConn c f).stew = s.stew := rfl
@[simp ↓] theorem updConn_cols (s : State) (c : Nat) (f : Conn → Conn) : (s.updConn c f).cols = s.cols := rfl
@[simp ↓] theorem updConn_flash (s : State) (c : Nat) (f : Conn → Conn) : (s.updConn c f).flash = s.flash := rfl
@[simp ↓] theorem updConn_fw (s : State) (c : Nat) (f : Conn → Conn) : (s.updConn c f).fw = s.fw := rfl
@[simp ↓] theorem updConn_xsi (s : State) (c : Nat) (f : Conn → Conn) : (s.updConn c f).xsi = s.xsi := rfl
@[simp ↓] theorem updConn_mem (s : State) (c : Nat) (f : Conn → Conn) : (s.updConn c f).mem = s.mem := rfl
@[simp ↓] theorem updConn_parts (s : State) (c : Nat) (f : Conn → Conn) : (s.updConn c f).parts = s.parts := rfl
@[simp ↓] theorem updConn_slots (s : State) (c : Nat) (f : Conn → Conn) : (s.updConn c f).slots = s.slots := rfl
@[simp ↓] theorem updConn_pos (s : State) (c : Nat) (f : Conn → Conn) : (s.updConn c f).pos = s.pos := rfl
@[simp ↓] theorem updConn_cls (s : State) (c : Nat) (f : Conn → Conn) : (s.updConn c f).cls = s.cls := rfl
@[simp ↓] theorem updConn_free (s : State) (c : Nat) (f : Conn → Conn) : (s.updConn c f).free = s.free := rfl
@[simp ↓] theorem updConn_pending (s : State) (c : Nat) (f : Conn → Conn) : (s.updConn c f).pending = s.pending := rfl
@[simp ↓] theorem updConn_part (s : State) (c : Nat) (f : Conn → Conn) (i : Nat) : (s.updConn c f).part i = s.part i := rfl
@[simp ↓] theorem updConn_conn_same (s : State) (c : Nat) (f : Conn → Conn) : (s.updConn c f).conn c = f (s.conn c) := Table.get_set_same _ _ _ _
theorem updConn_conn_ne (s : State) (c : Nat) (f : Conn → Conn) {i : Nat} (h : i ≠ c) : (s.updConn c f).conn i = s.conn i := Table.get_set_ne _ _ _ h
@[simp ↓] theorem updConn_port (s : State) (c : Nat) (f : Conn → Conn) (i : Nat) : (s.updConn c f).port i = s.port i := rfl
@[simp ↓] theorem updConn_region (s : State) (c : Nat) (f : Conn → Conn) (i : Nat) : (s.updConn c f).region i = s.region i := rfl
@[simp ↓] theorem updConn_col (s : State) (c : Nat) (f : Conn → Conn) (i : Nat) : (s.updConn c f).col i = s.col i := rfl
@[simp ↓] theorem updConn_steward (s : State) (c : Nat) (f : Conn → Conn) (i : Nat) : (s.updConn c f).steward i = s.steward i := rfl
@[simp ↓] theorem updConn_colPwr (s : State) (c : Nat) (f : Conn → Conn) (i : Nat) : (s.updConn c f).colPwr i = s.colPwr i := rfl
@[simp ↓] theorem updConn_slot (s : State) (c : Nat) (f : Conn → Conn) (i : Nat) : (s.updConn c f).slot i = s.slot i := rfl
@[simp ↓] theorem updConn_posn (s : State) (c : Nat) (f : Conn → Conn) (i : Nat) : (s.updConn c f).posn i = s.posn i := rfl
@[simp ↓] theorem updConn_cluster (s : State) (c : Nat) (f : Conn → Conn) (i : Nat) : (s.updConn c f).cluster i = s.cluster i := rfl
@[simp ↓] theorem updConn_margin (s : State) (c : Nat) (f : Conn → Conn) (i : Nat) : (s.updConn c f).margin i = s.margin i := rfl
@[simp ↓] theorem updConn_line (s : State) (c : Nat) (f : Conn → Conn) (i : Nat) : (s.updConn c f).line i = s.line i := rfl

/-! updPort -/

@[simp ↓] theorem updPort_tm (s : State) (n : Nat) (f : Port → Port) : (s.updPort n f).tm = s.tm := rfl
@[simp ↓] theorem updPort_pwr (s : State) (n : Nat) (f : Port → Port) : (s.updPort n f).pwr = s.pwr := rfl
@[simp ↓] theorem updPort_dev (s : State) (n : Nat) (f : Port → Port) : (s.updPort n f).dev = s.dev := rfl
@[simp ↓] theorem updPort_stew (s : State) (n : Nat) (f : Port → Port) : (s.updPort n f).stew = s.stew := rfl
@[simp ↓] theorem updPort_cols (s : State) (n : Nat) (f : Port → Port) : (s.updPort n f).cols = s.cols := rfl
@[simp ↓] theorem updPort_flash (s : State) (n : Nat) (f : Port → Port) : (s.updPort n f).flash = s.flash := rfl
@[simp ↓] theorem updPort_fw (s : State) (n : Nat) (f : Port → Port) : (s.updPort n f).fw = s.fw := rfl
@[simp ↓] theorem updPort_xsi (s : State) (n : Nat) (f : Port → Port) : (s.updPort n f).xsi = s.xsi := rfl
@[simp ↓] theorem updPort_mem (s : State) (n : Nat) (f : Port → Port) : (s.updPort n f).mem = s.mem := rfl
@[simp ↓] theorem updPort_parts (s : State) (n : Nat) (f : Port → Port) : (s.updPort n f).parts = s.parts := rfl
@[simp ↓] theorem updPort_slots (s : State) (n : Nat) (f : Port → Port) : (s.updPort n f).slots = s.slots := rfl
@[simp ↓] theorem updPort_pos (s : State) (n : Nat) (f : Port → Port) : (s.updPort n f).pos = s.pos := rfl
@[simp ↓] theorem updPort_cls (s : State) (n : Nat) (f : Port → Port) : (s.updPort n f).cls = s.cls := rfl
@[simp ↓] theorem updPort_free (s : State) (n : Nat) (f : Port → Port) : (s.updPort n f).free = s.free := rfl
@[simp ↓] theorem updPort_pending (s : State) (n : Nat) (f : Port → Port) : (s.updPort n f).pending = s.pending := rfl
@[simp ↓] theorem updPort_part (s : State) (n : Nat) (f : Port → Port) (i : Nat) : (s.updPort n f).part i = s.part i := rfl
@[simp ↓] theorem updPort_conn (s : State) (n : Nat) (f : Port → Port) (i : Nat) : (s.updPort n f).conn i = s.conn i := rfl
@[simp ↓] theorem updPort_port_same (s : State) (n : Nat) (f : Port → Port) : (s.updPort n f).port n = f (s.port n) := Table.get_set_same _ _ _ _
theorem updPort_port_ne (s : State) (n : Nat) (f : Port → Port) {i : Nat} (h : i ≠ n) : (s.updPort n f).port i = s.port i := Table.get_set_ne _ _ _ h
@[simp ↓] theorem updPort_region (s : State) (n : Nat) (f : Port → Port) (i : Nat) : (s.updPort n f).region i = s.region i := rfl
@[simp ↓] theorem updPort_col (s : State) (n : Nat) (f : Port → Port) (i : Nat) : (s.updPort n f).col i = s.col i := rfl
@[simp ↓] theorem updPort_steward (s : State) (n : Nat) (f : Port → Port) (i : Nat) : (s.updPort n f).steward i = s.steward i := rfl
@[simp ↓] theorem updPort_colPwr (s : State) (n : Nat) (f : Port → Port) (i : Nat) : (s.updPort n f).colPwr i = s.colPwr i := rfl
@[simp ↓] theorem updPort_slot (s : State) (n : Nat) (f : Port → Port) (i : Nat) : (s.updPort n f).slot i = s.slot i := rfl
@[simp ↓] theorem updPort_posn (s : State) (n : Nat) (f : Port → Port) (i : Nat) : (s.updPort n f).posn i = s.posn i := rfl
@[simp ↓] theorem updPort_cluster (s : State) (n : Nat) (f : Port → Port) (i : Nat) : (s.updPort n f).cluster i = s.cluster i := rfl
@[simp ↓] theorem updPort_margin (s : State) (n : Nat) (f : Port → Port) (i : Nat) : (s.updPort n f).margin i = s.margin i := rfl
@[simp ↓] theorem updPort_line (s : State) (n : Nat) (f : Port → Port) (i : Nat) : (s.updPort n f).line i = s.line i := rfl

/-! updRegion -/

@[simp ↓] theorem updRegion_tm (s : State) (r : Nat) (f : Region → Region) : (s.updRegion r f).tm = s.tm := rfl
@[simp ↓] theorem updRegion_pwr (s : State) (r : Nat) (f : Region → Region) : (s.updRegion r f).pwr = s.pwr := rfl
@[simp ↓] theorem updRegion_dev (s : State) (r : Nat) (f : Region → Region) : (s.updRegion r f).dev = s.dev := rfl
@[simp ↓] theorem updRegion_stew (s : State) (r : Nat) (f : Region → Region) : (s.updRegion r f).stew = s.stew := rfl
@[simp ↓] theorem updRegion_cols (s : State) (r : Nat) (f : Region → Region) : (s.updRegion r f).cols = s.cols := rfl
@[simp ↓] theorem updRegion_flash (s : State) (r : Nat) (f : Region → Region) : (s.updRegion r f).flash = s.flash := rfl
@[simp ↓] theorem updRegion_fw (s : State) (r : Nat) (f : Region → Region) : (s.updRegion r f).fw = s.fw := rfl
@[simp ↓] theorem updRegion_xsi (s : State) (r : Nat) (f : Region → Region) : (s.updRegion r f).xsi = s.xsi := rfl
@[simp ↓] theorem updRegion_net (s : State) (r : Nat) (f : Region → Region) : (s.updRegion r f).net = s.net := rfl
@[simp ↓] theorem updRegion_parts (s : State) (r : Nat) (f : Region → Region) : (s.updRegion r f).parts = s.parts := rfl
@[simp ↓] theorem updRegion_slots (s : State) (r : Nat) (f : Region → Region) : (s.updRegion r f).slots = s.slots := rfl
@[simp ↓] theorem updRegion_pos (s : State) (r : Nat) (f : Region → Region) : (s.updRegion r f).pos = s.pos := rfl
@[simp ↓] theorem updRegion_cls (s : State) (r : Nat) (f : Region → Region) : (s.updRegion r f).cls = s.cls := rfl
@[simp ↓] theorem updRegion_free (s : State) (r : Nat) (f : Region → Region) : (s.updRegion r f).free = s.free := rfl
@[simp ↓] theorem updRegion_pending (s : State) (r : Nat) (f : Region → Region) : (s.updRegion r f).pending = s.pending := rfl
@[simp ↓] theorem updRegion_part (s : State) (r : Nat) (f : Region → Region) (i : Nat) : (s.updRegion r f).part i = s.part i := rfl
@[simp ↓] theorem updRegion_conn (s : State) (r : Nat) (f : Region → Region) (i : Nat) : (s.updRegion r f).conn i = s.conn i := rfl
@[simp ↓] theorem updRegion_port (s : State) (r : Nat) (f : Region → Region) (i : Nat) : (s.updRegion r f).port i = s.port i := rfl
@[simp ↓] theorem updRegion_region_same (s : State) (r : Nat) (f : Region → Region) : (s.updRegion r f).region r = f (s.region r) := Table.get_set_same _ _ _ _
theorem updRegion_region_ne (s : State) (r : Nat) (f : Region → Region) {i : Nat} (h : i ≠ r) : (s.updRegion r f).region i = s.region i := Table.get_set_ne _ _ _ h
@[simp ↓] theorem updRegion_col (s : State) (r : Nat) (f : Region → Region) (i : Nat) : (s.updRegion r f).col i = s.col i := rfl
@[simp ↓] theorem updRegion_steward (s : State) (r : Nat) (f : Region → Region) (i : Nat) : (s.updRegion r f).steward i = s.steward i := rfl
@[simp ↓] theorem updRegion_colPwr (s : State) (r : Nat) (f : Region → Region) (i : Nat) : (s.updRegion r f).colPwr i = s.colPwr i := rfl
@[simp ↓] theorem updRegion_slot (s : State) (r : Nat) (f : Region → Region) (i : Nat) : (s.updRegion r f).slot i = s.slot i := rfl
@[simp ↓] theorem updRegion_posn (s : State) (r : Nat) (f : Region → Region) (i : Nat) : (s.updRegion r f).posn i = s.posn i := rfl
@[simp ↓] theorem updRegion_cluster (s : State) (r : Nat) (f : Region → Region) (i : Nat) : (s.updRegion r f).cluster i = s.cluster i := rfl
@[simp ↓] theorem updRegion_margin (s : State) (r : Nat) (f : Region → Region) (i : Nat) : (s.updRegion r f).margin i = s.margin i := rfl
@[simp ↓] theorem updRegion_line (s : State) (r : Nat) (f : Region → Region) (i : Nat) : (s.updRegion r f).line i = s.line i := rfl

/-! updCol -/

@[simp ↓] theorem updCol_tm (s : State) (c : Nat) (f : ColRegs → ColRegs) : (s.updCol c f).tm = s.tm := rfl
@[simp ↓] theorem updCol_pwr (s : State) (c : Nat) (f : ColRegs → ColRegs) : (s.updCol c f).pwr = s.pwr := rfl
@[simp ↓] theorem updCol_dev (s : State) (c : Nat) (f : ColRegs → ColRegs) : (s.updCol c f).dev = s.dev := rfl
@[simp ↓] theorem updCol_stew (s : State) (c : Nat) (f : ColRegs → ColRegs) : (s.updCol c f).stew = s.stew := rfl
@[simp ↓] theorem updCol_flash (s : State) (c : Nat) (f : ColRegs → ColRegs) : (s.updCol c f).flash = s.flash := rfl
@[simp ↓] theorem updCol_fw (s : State) (c : Nat) (f : ColRegs → ColRegs) : (s.updCol c f).fw = s.fw := rfl
@[simp ↓] theorem updCol_xsi (s : State) (c : Nat) (f : ColRegs → ColRegs) : (s.updCol c f).xsi = s.xsi := rfl
@[simp ↓] theorem updCol_mem (s : State) (c : Nat) (f : ColRegs → ColRegs) : (s.updCol c f).mem = s.mem := rfl
@[simp ↓] theorem updCol_net (s : State) (c : Nat) (f : ColRegs → ColRegs) : (s.updCol c f).net = s.net := rfl
@[simp ↓] theorem updCol_parts (s : State) (c : Nat) (f : ColRegs → ColRegs) : (s.updCol c f).parts = s.parts := rfl
@[simp ↓] theorem updCol_slots (s : State) (c : Nat) (f : ColRegs → ColRegs) : (s.updCol c f).slots = s.slots := rfl
@[simp ↓] theorem updCol_pos (s : State) (c : Nat) (f : ColRegs → ColRegs) : (s.updCol c f).pos = s.pos := rfl
@[simp ↓] theorem updCol_cls (s : State) (c : Nat) (f : ColRegs → ColRegs) : (s.updCol c f).cls = s.cls := rfl
@[simp ↓] theorem updCol_free (s : State) (c : Nat) (f : ColRegs → ColRegs) : (s.updCol c f).free = s.free := rfl
@[simp ↓] theorem updCol_pending (s : State) (c : Nat) (f : ColRegs → ColRegs) : (s.updCol c f).pending = s.pending := rfl
@[simp ↓] theorem updCol_part (s : State) (c : Nat) (f : ColRegs → ColRegs) (i : Nat) : (s.updCol c f).part i = s.part i := rfl
@[simp ↓] theorem updCol_conn (s : State) (c : Nat) (f : ColRegs → ColRegs) (i : Nat) : (s.updCol c f).conn i = s.conn i := rfl
@[simp ↓] theorem updCol_port (s : State) (c : Nat) (f : ColRegs → ColRegs) (i : Nat) : (s.updCol c f).port i = s.port i := rfl
@[simp ↓] theorem updCol_region (s : State) (c : Nat) (f : ColRegs → ColRegs) (i : Nat) : (s.updCol c f).region i = s.region i := rfl
@[simp ↓] theorem updCol_col_same (s : State) (c : Nat) (f : ColRegs → ColRegs) : (s.updCol c f).col c = f (s.col c) := Table.get_set_same _ _ _ _
theorem updCol_col_ne (s : State) (c : Nat) (f : ColRegs → ColRegs) {i : Nat} (h : i ≠ c) : (s.updCol c f).col i = s.col i := Table.get_set_ne _ _ _ h
@[simp ↓] theorem updCol_steward (s : State) (c : Nat) (f : ColRegs → ColRegs) (i : Nat) : (s.updCol c f).steward i = s.steward i := rfl
@[simp ↓] theorem updCol_colPwr (s : State) (c : Nat) (f : ColRegs → ColRegs) (i : Nat) : (s.updCol c f).colPwr i = s.colPwr i := rfl
@[simp ↓] theorem updCol_slot (s : State) (c : Nat) (f : ColRegs → ColRegs) (i : Nat) : (s.updCol c f).slot i = s.slot i := rfl
@[simp ↓] theorem updCol_posn (s : State) (c : Nat) (f : ColRegs → ColRegs) (i : Nat) : (s.updCol c f).posn i = s.posn i := rfl
@[simp ↓] theorem updCol_cluster (s : State) (c : Nat) (f : ColRegs → ColRegs) (i : Nat) : (s.updCol c f).cluster i = s.cluster i := rfl
@[simp ↓] theorem updCol_margin (s : State) (c : Nat) (f : ColRegs → ColRegs) (i : Nat) : (s.updCol c f).margin i = s.margin i := rfl
@[simp ↓] theorem updCol_line (s : State) (c : Nat) (f : ColRegs → ColRegs) (i : Nat) : (s.updCol c f).line i = s.line i := rfl

/-! updSteward -/

@[simp ↓] theorem updSteward_tm (s : State) (c : Nat) (f : Steward → Steward) : (s.updSteward c f).tm = s.tm := rfl
@[simp ↓] theorem updSteward_pwr (s : State) (c : Nat) (f : Steward → Steward) : (s.updSteward c f).pwr = s.pwr := rfl
@[simp ↓] theorem updSteward_dev (s : State) (c : Nat) (f : Steward → Steward) : (s.updSteward c f).dev = s.dev := rfl
@[simp ↓] theorem updSteward_cols (s : State) (c : Nat) (f : Steward → Steward) : (s.updSteward c f).cols = s.cols := rfl
@[simp ↓] theorem updSteward_flash (s : State) (c : Nat) (f : Steward → Steward) : (s.updSteward c f).flash = s.flash := rfl
@[simp ↓] theorem updSteward_fw (s : State) (c : Nat) (f : Steward → Steward) : (s.updSteward c f).fw = s.fw := rfl
@[simp ↓] theorem updSteward_xsi (s : State) (c : Nat) (f : Steward → Steward) : (s.updSteward c f).xsi = s.xsi := rfl
@[simp ↓] theorem updSteward_mem (s : State) (c : Nat) (f : Steward → Steward) : (s.updSteward c f).mem = s.mem := rfl
@[simp ↓] theorem updSteward_net (s : State) (c : Nat) (f : Steward → Steward) : (s.updSteward c f).net = s.net := rfl
@[simp ↓] theorem updSteward_parts (s : State) (c : Nat) (f : Steward → Steward) : (s.updSteward c f).parts = s.parts := rfl
@[simp ↓] theorem updSteward_slots (s : State) (c : Nat) (f : Steward → Steward) : (s.updSteward c f).slots = s.slots := rfl
@[simp ↓] theorem updSteward_pos (s : State) (c : Nat) (f : Steward → Steward) : (s.updSteward c f).pos = s.pos := rfl
@[simp ↓] theorem updSteward_cls (s : State) (c : Nat) (f : Steward → Steward) : (s.updSteward c f).cls = s.cls := rfl
@[simp ↓] theorem updSteward_free (s : State) (c : Nat) (f : Steward → Steward) : (s.updSteward c f).free = s.free := rfl
@[simp ↓] theorem updSteward_pending (s : State) (c : Nat) (f : Steward → Steward) : (s.updSteward c f).pending = s.pending := rfl
@[simp ↓] theorem updSteward_part (s : State) (c : Nat) (f : Steward → Steward) (i : Nat) : (s.updSteward c f).part i = s.part i := rfl
@[simp ↓] theorem updSteward_conn (s : State) (c : Nat) (f : Steward → Steward) (i : Nat) : (s.updSteward c f).conn i = s.conn i := rfl
@[simp ↓] theorem updSteward_port (s : State) (c : Nat) (f : Steward → Steward) (i : Nat) : (s.updSteward c f).port i = s.port i := rfl
@[simp ↓] theorem updSteward_region (s : State) (c : Nat) (f : Steward → Steward) (i : Nat) : (s.updSteward c f).region i = s.region i := rfl
@[simp ↓] theorem updSteward_col (s : State) (c : Nat) (f : Steward → Steward) (i : Nat) : (s.updSteward c f).col i = s.col i := rfl
@[simp ↓] theorem updSteward_steward_same (s : State) (c : Nat) (f : Steward → Steward) : (s.updSteward c f).steward c = f (s.steward c) := Table.get_set_same _ _ _ _
theorem updSteward_steward_ne (s : State) (c : Nat) (f : Steward → Steward) {i : Nat} (h : i ≠ c) : (s.updSteward c f).steward i = s.steward i := Table.get_set_ne _ _ _ h
@[simp ↓] theorem updSteward_colPwr (s : State) (c : Nat) (f : Steward → Steward) (i : Nat) : (s.updSteward c f).colPwr i = s.colPwr i := rfl
@[simp ↓] theorem updSteward_slot (s : State) (c : Nat) (f : Steward → Steward) (i : Nat) : (s.updSteward c f).slot i = s.slot i := rfl
@[simp ↓] theorem updSteward_posn (s : State) (c : Nat) (f : Steward → Steward) (i : Nat) : (s.updSteward c f).posn i = s.posn i := rfl
@[simp ↓] theorem updSteward_cluster (s : State) (c : Nat) (f : Steward → Steward) (i : Nat) : (s.updSteward c f).cluster i = s.cluster i := rfl
@[simp ↓] theorem updSteward_margin (s : State) (c : Nat) (f : Steward → Steward) (i : Nat) : (s.updSteward c f).margin i = s.margin i := rfl
@[simp ↓] theorem updSteward_line (s : State) (c : Nat) (f : Steward → Steward) (i : Nat) : (s.updSteward c f).line i = s.line i := rfl

/-! updColPwr -/

@[simp ↓] theorem updColPwr_tm (s : State) (c : Nat) (f : ColPwr → ColPwr) : (s.updColPwr c f).tm = s.tm := rfl
@[simp ↓] theorem updColPwr_dev (s : State) (c : Nat) (f : ColPwr → ColPwr) : (s.updColPwr c f).dev = s.dev := rfl
@[simp ↓] theorem updColPwr_stew (s : State) (c : Nat) (f : ColPwr → ColPwr) : (s.updColPwr c f).stew = s.stew := rfl
@[simp ↓] theorem updColPwr_cols (s : State) (c : Nat) (f : ColPwr → ColPwr) : (s.updColPwr c f).cols = s.cols := rfl
@[simp ↓] theorem updColPwr_flash (s : State) (c : Nat) (f : ColPwr → ColPwr) : (s.updColPwr c f).flash = s.flash := rfl
@[simp ↓] theorem updColPwr_fw (s : State) (c : Nat) (f : ColPwr → ColPwr) : (s.updColPwr c f).fw = s.fw := rfl
@[simp ↓] theorem updColPwr_xsi (s : State) (c : Nat) (f : ColPwr → ColPwr) : (s.updColPwr c f).xsi = s.xsi := rfl
@[simp ↓] theorem updColPwr_mem (s : State) (c : Nat) (f : ColPwr → ColPwr) : (s.updColPwr c f).mem = s.mem := rfl
@[simp ↓] theorem updColPwr_net (s : State) (c : Nat) (f : ColPwr → ColPwr) : (s.updColPwr c f).net = s.net := rfl
@[simp ↓] theorem updColPwr_parts (s : State) (c : Nat) (f : ColPwr → ColPwr) : (s.updColPwr c f).parts = s.parts := rfl
@[simp ↓] theorem updColPwr_slots (s : State) (c : Nat) (f : ColPwr → ColPwr) : (s.updColPwr c f).slots = s.slots := rfl
@[simp ↓] theorem updColPwr_pos (s : State) (c : Nat) (f : ColPwr → ColPwr) : (s.updColPwr c f).pos = s.pos := rfl
@[simp ↓] theorem updColPwr_cls (s : State) (c : Nat) (f : ColPwr → ColPwr) : (s.updColPwr c f).cls = s.cls := rfl
@[simp ↓] theorem updColPwr_free (s : State) (c : Nat) (f : ColPwr → ColPwr) : (s.updColPwr c f).free = s.free := rfl
@[simp ↓] theorem updColPwr_pending (s : State) (c : Nat) (f : ColPwr → ColPwr) : (s.updColPwr c f).pending = s.pending := rfl
@[simp ↓] theorem updColPwr_part (s : State) (c : Nat) (f : ColPwr → ColPwr) (i : Nat) : (s.updColPwr c f).part i = s.part i := rfl
@[simp ↓] theorem updColPwr_conn (s : State) (c : Nat) (f : ColPwr → ColPwr) (i : Nat) : (s.updColPwr c f).conn i = s.conn i := rfl
@[simp ↓] theorem updColPwr_port (s : State) (c : Nat) (f : ColPwr → ColPwr) (i : Nat) : (s.updColPwr c f).port i = s.port i := rfl
@[simp ↓] theorem updColPwr_region (s : State) (c : Nat) (f : ColPwr → ColPwr) (i : Nat) : (s.updColPwr c f).region i = s.region i := rfl
@[simp ↓] theorem updColPwr_col (s : State) (c : Nat) (f : ColPwr → ColPwr) (i : Nat) : (s.updColPwr c f).col i = s.col i := rfl
@[simp ↓] theorem updColPwr_steward (s : State) (c : Nat) (f : ColPwr → ColPwr) (i : Nat) : (s.updColPwr c f).steward i = s.steward i := rfl
@[simp ↓] theorem updColPwr_colPwr_same (s : State) (c : Nat) (f : ColPwr → ColPwr) : (s.updColPwr c f).colPwr c = f (s.colPwr c) := Table.get_set_same _ _ _ _
theorem updColPwr_colPwr_ne (s : State) (c : Nat) (f : ColPwr → ColPwr) {i : Nat} (h : i ≠ c) : (s.updColPwr c f).colPwr i = s.colPwr i := Table.get_set_ne _ _ _ h
@[simp ↓] theorem updColPwr_slot (s : State) (c : Nat) (f : ColPwr → ColPwr) (i : Nat) : (s.updColPwr c f).slot i = s.slot i := rfl
@[simp ↓] theorem updColPwr_posn (s : State) (c : Nat) (f : ColPwr → ColPwr) (i : Nat) : (s.updColPwr c f).posn i = s.posn i := rfl
@[simp ↓] theorem updColPwr_cluster (s : State) (c : Nat) (f : ColPwr → ColPwr) (i : Nat) : (s.updColPwr c f).cluster i = s.cluster i := rfl
@[simp ↓] theorem updColPwr_margin (s : State) (c : Nat) (f : ColPwr → ColPwr) (i : Nat) : (s.updColPwr c f).margin i = s.margin i := rfl
@[simp ↓] theorem updColPwr_line (s : State) (c : Nat) (f : ColPwr → ColPwr) (i : Nat) : (s.updColPwr c f).line i = s.line i := rfl

/-! updSlot -/

@[simp ↓] theorem updSlot_tm (s : State) (n : Nat) (f : Slot → Slot) : (s.updSlot n f).tm = s.tm := rfl
@[simp ↓] theorem updSlot_pwr (s : State) (n : Nat) (f : Slot → Slot) : (s.updSlot n f).pwr = s.pwr := rfl
@[simp ↓] theorem updSlot_dev (s : State) (n : Nat) (f : Slot → Slot) : (s.updSlot n f).dev = s.dev := rfl
@[simp ↓] theorem updSlot_stew (s : State) (n : Nat) (f : Slot → Slot) : (s.updSlot n f).stew = s.stew := rfl
@[simp ↓] theorem updSlot_cols (s : State) (n : Nat) (f : Slot → Slot) : (s.updSlot n f).cols = s.cols := rfl
@[simp ↓] theorem updSlot_flash (s : State) (n : Nat) (f : Slot → Slot) : (s.updSlot n f).flash = s.flash := rfl
@[simp ↓] theorem updSlot_fw (s : State) (n : Nat) (f : Slot → Slot) : (s.updSlot n f).fw = s.fw := rfl
@[simp ↓] theorem updSlot_xsi (s : State) (n : Nat) (f : Slot → Slot) : (s.updSlot n f).xsi = s.xsi := rfl
@[simp ↓] theorem updSlot_mem (s : State) (n : Nat) (f : Slot → Slot) : (s.updSlot n f).mem = s.mem := rfl
@[simp ↓] theorem updSlot_net (s : State) (n : Nat) (f : Slot → Slot) : (s.updSlot n f).net = s.net := rfl
@[simp ↓] theorem updSlot_parts (s : State) (n : Nat) (f : Slot → Slot) : (s.updSlot n f).parts = s.parts := rfl
@[simp ↓] theorem updSlot_pos (s : State) (n : Nat) (f : Slot → Slot) : (s.updSlot n f).pos = s.pos := rfl
@[simp ↓] theorem updSlot_cls (s : State) (n : Nat) (f : Slot → Slot) : (s.updSlot n f).cls = s.cls := rfl
@[simp ↓] theorem updSlot_free (s : State) (n : Nat) (f : Slot → Slot) : (s.updSlot n f).free = s.free := rfl
@[simp ↓] theorem updSlot_pending (s : State) (n : Nat) (f : Slot → Slot) : (s.updSlot n f).pending = s.pending := rfl
@[simp ↓] theorem updSlot_part (s : State) (n : Nat) (f : Slot → Slot) (i : Nat) : (s.updSlot n f).part i = s.part i := rfl
@[simp ↓] theorem updSlot_conn (s : State) (n : Nat) (f : Slot → Slot) (i : Nat) : (s.updSlot n f).conn i = s.conn i := rfl
@[simp ↓] theorem updSlot_port (s : State) (n : Nat) (f : Slot → Slot) (i : Nat) : (s.updSlot n f).port i = s.port i := rfl
@[simp ↓] theorem updSlot_region (s : State) (n : Nat) (f : Slot → Slot) (i : Nat) : (s.updSlot n f).region i = s.region i := rfl
@[simp ↓] theorem updSlot_col (s : State) (n : Nat) (f : Slot → Slot) (i : Nat) : (s.updSlot n f).col i = s.col i := rfl
@[simp ↓] theorem updSlot_steward (s : State) (n : Nat) (f : Slot → Slot) (i : Nat) : (s.updSlot n f).steward i = s.steward i := rfl
@[simp ↓] theorem updSlot_colPwr (s : State) (n : Nat) (f : Slot → Slot) (i : Nat) : (s.updSlot n f).colPwr i = s.colPwr i := rfl
@[simp ↓] theorem updSlot_slot_same (s : State) (n : Nat) (f : Slot → Slot) : (s.updSlot n f).slot n = f (s.slot n) := Table.get_set_same _ _ _ _
theorem updSlot_slot_ne (s : State) (n : Nat) (f : Slot → Slot) {i : Nat} (h : i ≠ n) : (s.updSlot n f).slot i = s.slot i := Table.get_set_ne _ _ _ h
@[simp ↓] theorem updSlot_posn (s : State) (n : Nat) (f : Slot → Slot) (i : Nat) : (s.updSlot n f).posn i = s.posn i := rfl
@[simp ↓] theorem updSlot_cluster (s : State) (n : Nat) (f : Slot → Slot) (i : Nat) : (s.updSlot n f).cluster i = s.cluster i := rfl
@[simp ↓] theorem updSlot_margin (s : State) (n : Nat) (f : Slot → Slot) (i : Nat) : (s.updSlot n f).margin i = s.margin i := rfl
@[simp ↓] theorem updSlot_line (s : State) (n : Nat) (f : Slot → Slot) (i : Nat) : (s.updSlot n f).line i = s.line i := rfl

/-! updPos -/

@[simp ↓] theorem updPos_tm (s : State) (n : Nat) (f : Pos → Pos) : (s.updPos n f).tm = s.tm := rfl
@[simp ↓] theorem updPos_pwr (s : State) (n : Nat) (f : Pos → Pos) : (s.updPos n f).pwr = s.pwr := rfl
@[simp ↓] theorem updPos_dev (s : State) (n : Nat) (f : Pos → Pos) : (s.updPos n f).dev = s.dev := rfl
@[simp ↓] theorem updPos_stew (s : State) (n : Nat) (f : Pos → Pos) : (s.updPos n f).stew = s.stew := rfl
@[simp ↓] theorem updPos_cols (s : State) (n : Nat) (f : Pos → Pos) : (s.updPos n f).cols = s.cols := rfl
@[simp ↓] theorem updPos_flash (s : State) (n : Nat) (f : Pos → Pos) : (s.updPos n f).flash = s.flash := rfl
@[simp ↓] theorem updPos_fw (s : State) (n : Nat) (f : Pos → Pos) : (s.updPos n f).fw = s.fw := rfl
@[simp ↓] theorem updPos_xsi (s : State) (n : Nat) (f : Pos → Pos) : (s.updPos n f).xsi = s.xsi := rfl
@[simp ↓] theorem updPos_mem (s : State) (n : Nat) (f : Pos → Pos) : (s.updPos n f).mem = s.mem := rfl
@[simp ↓] theorem updPos_net (s : State) (n : Nat) (f : Pos → Pos) : (s.updPos n f).net = s.net := rfl
@[simp ↓] theorem updPos_parts (s : State) (n : Nat) (f : Pos → Pos) : (s.updPos n f).parts = s.parts := rfl
@[simp ↓] theorem updPos_slots (s : State) (n : Nat) (f : Pos → Pos) : (s.updPos n f).slots = s.slots := rfl
@[simp ↓] theorem updPos_cls (s : State) (n : Nat) (f : Pos → Pos) : (s.updPos n f).cls = s.cls := rfl
@[simp ↓] theorem updPos_free (s : State) (n : Nat) (f : Pos → Pos) : (s.updPos n f).free = s.free := rfl
@[simp ↓] theorem updPos_pending (s : State) (n : Nat) (f : Pos → Pos) : (s.updPos n f).pending = s.pending := rfl
@[simp ↓] theorem updPos_part (s : State) (n : Nat) (f : Pos → Pos) (i : Nat) : (s.updPos n f).part i = s.part i := rfl
@[simp ↓] theorem updPos_conn (s : State) (n : Nat) (f : Pos → Pos) (i : Nat) : (s.updPos n f).conn i = s.conn i := rfl
@[simp ↓] theorem updPos_port (s : State) (n : Nat) (f : Pos → Pos) (i : Nat) : (s.updPos n f).port i = s.port i := rfl
@[simp ↓] theorem updPos_region (s : State) (n : Nat) (f : Pos → Pos) (i : Nat) : (s.updPos n f).region i = s.region i := rfl
@[simp ↓] theorem updPos_col (s : State) (n : Nat) (f : Pos → Pos) (i : Nat) : (s.updPos n f).col i = s.col i := rfl
@[simp ↓] theorem updPos_steward (s : State) (n : Nat) (f : Pos → Pos) (i : Nat) : (s.updPos n f).steward i = s.steward i := rfl
@[simp ↓] theorem updPos_colPwr (s : State) (n : Nat) (f : Pos → Pos) (i : Nat) : (s.updPos n f).colPwr i = s.colPwr i := rfl
@[simp ↓] theorem updPos_slot (s : State) (n : Nat) (f : Pos → Pos) (i : Nat) : (s.updPos n f).slot i = s.slot i := rfl
@[simp ↓] theorem updPos_posn_same (s : State) (n : Nat) (f : Pos → Pos) : (s.updPos n f).posn n = f (s.posn n) := Table.get_set_same _ _ _ _
theorem updPos_posn_ne (s : State) (n : Nat) (f : Pos → Pos) {i : Nat} (h : i ≠ n) : (s.updPos n f).posn i = s.posn i := Table.get_set_ne _ _ _ h
@[simp ↓] theorem updPos_cluster (s : State) (n : Nat) (f : Pos → Pos) (i : Nat) : (s.updPos n f).cluster i = s.cluster i := rfl
@[simp ↓] theorem updPos_margin (s : State) (n : Nat) (f : Pos → Pos) (i : Nat) : (s.updPos n f).margin i = s.margin i := rfl
@[simp ↓] theorem updPos_line (s : State) (n : Nat) (f : Pos → Pos) (i : Nat) : (s.updPos n f).line i = s.line i := rfl

/-! updCluster -/

@[simp ↓] theorem updCluster_tm (s : State) (n : Nat) (f : Cluster → Cluster) : (s.updCluster n f).tm = s.tm := rfl
@[simp ↓] theorem updCluster_pwr (s : State) (n : Nat) (f : Cluster → Cluster) : (s.updCluster n f).pwr = s.pwr := rfl
@[simp ↓] theorem updCluster_dev (s : State) (n : Nat) (f : Cluster → Cluster) : (s.updCluster n f).dev = s.dev := rfl
@[simp ↓] theorem updCluster_stew (s : State) (n : Nat) (f : Cluster → Cluster) : (s.updCluster n f).stew = s.stew := rfl
@[simp ↓] theorem updCluster_cols (s : State) (n : Nat) (f : Cluster → Cluster) : (s.updCluster n f).cols = s.cols := rfl
@[simp ↓] theorem updCluster_flash (s : State) (n : Nat) (f : Cluster → Cluster) : (s.updCluster n f).flash = s.flash := rfl
@[simp ↓] theorem updCluster_fw (s : State) (n : Nat) (f : Cluster → Cluster) : (s.updCluster n f).fw = s.fw := rfl
@[simp ↓] theorem updCluster_xsi (s : State) (n : Nat) (f : Cluster → Cluster) : (s.updCluster n f).xsi = s.xsi := rfl
@[simp ↓] theorem updCluster_mem (s : State) (n : Nat) (f : Cluster → Cluster) : (s.updCluster n f).mem = s.mem := rfl
@[simp ↓] theorem updCluster_net (s : State) (n : Nat) (f : Cluster → Cluster) : (s.updCluster n f).net = s.net := rfl
@[simp ↓] theorem updCluster_parts (s : State) (n : Nat) (f : Cluster → Cluster) : (s.updCluster n f).parts = s.parts := rfl
@[simp ↓] theorem updCluster_slots (s : State) (n : Nat) (f : Cluster → Cluster) : (s.updCluster n f).slots = s.slots := rfl
@[simp ↓] theorem updCluster_pos (s : State) (n : Nat) (f : Cluster → Cluster) : (s.updCluster n f).pos = s.pos := rfl
@[simp ↓] theorem updCluster_free (s : State) (n : Nat) (f : Cluster → Cluster) : (s.updCluster n f).free = s.free := rfl
@[simp ↓] theorem updCluster_pending (s : State) (n : Nat) (f : Cluster → Cluster) : (s.updCluster n f).pending = s.pending := rfl
@[simp ↓] theorem updCluster_part (s : State) (n : Nat) (f : Cluster → Cluster) (i : Nat) : (s.updCluster n f).part i = s.part i := rfl
@[simp ↓] theorem updCluster_conn (s : State) (n : Nat) (f : Cluster → Cluster) (i : Nat) : (s.updCluster n f).conn i = s.conn i := rfl
@[simp ↓] theorem updCluster_port (s : State) (n : Nat) (f : Cluster → Cluster) (i : Nat) : (s.updCluster n f).port i = s.port i := rfl
@[simp ↓] theorem updCluster_region (s : State) (n : Nat) (f : Cluster → Cluster) (i : Nat) : (s.updCluster n f).region i = s.region i := rfl
@[simp ↓] theorem updCluster_col (s : State) (n : Nat) (f : Cluster → Cluster) (i : Nat) : (s.updCluster n f).col i = s.col i := rfl
@[simp ↓] theorem updCluster_steward (s : State) (n : Nat) (f : Cluster → Cluster) (i : Nat) : (s.updCluster n f).steward i = s.steward i := rfl
@[simp ↓] theorem updCluster_colPwr (s : State) (n : Nat) (f : Cluster → Cluster) (i : Nat) : (s.updCluster n f).colPwr i = s.colPwr i := rfl
@[simp ↓] theorem updCluster_slot (s : State) (n : Nat) (f : Cluster → Cluster) (i : Nat) : (s.updCluster n f).slot i = s.slot i := rfl
@[simp ↓] theorem updCluster_posn (s : State) (n : Nat) (f : Cluster → Cluster) (i : Nat) : (s.updCluster n f).posn i = s.posn i := rfl
@[simp ↓] theorem updCluster_cluster_same (s : State) (n : Nat) (f : Cluster → Cluster) : (s.updCluster n f).cluster n = f (s.cluster n) := Table.get_set_same _ _ _ _
theorem updCluster_cluster_ne (s : State) (n : Nat) (f : Cluster → Cluster) {i : Nat} (h : i ≠ n) : (s.updCluster n f).cluster i = s.cluster i := Table.get_set_ne _ _ _ h
@[simp ↓] theorem updCluster_margin (s : State) (n : Nat) (f : Cluster → Cluster) (i : Nat) : (s.updCluster n f).margin i = s.margin i := rfl
@[simp ↓] theorem updCluster_line (s : State) (n : Nat) (f : Cluster → Cluster) (i : Nat) : (s.updCluster n f).line i = s.line i := rfl

/-! updMargin -/

@[simp ↓] theorem updMargin_tm (s : State) (n : Nat) (f : Margin → Margin) : (s.updMargin n f).tm = s.tm := rfl
@[simp ↓] theorem updMargin_pwr (s : State) (n : Nat) (f : Margin → Margin) : (s.updMargin n f).pwr = s.pwr := rfl
@[simp ↓] theorem updMargin_stew (s : State) (n : Nat) (f : Margin → Margin) : (s.updMargin n f).stew = s.stew := rfl
@[simp ↓] theorem updMargin_cols (s : State) (n : Nat) (f : Margin → Margin) : (s.updMargin n f).cols = s.cols := rfl
@[simp ↓] theorem updMargin_flash (s : State) (n : Nat) (f : Margin → Margin) : (s.updMargin n f).flash = s.flash := rfl
@[simp ↓] theorem updMargin_fw (s : State) (n : Nat) (f : Margin → Margin) : (s.updMargin n f).fw = s.fw := rfl
@[simp ↓] theorem updMargin_xsi (s : State) (n : Nat) (f : Margin → Margin) : (s.updMargin n f).xsi = s.xsi := rfl
@[simp ↓] theorem updMargin_mem (s : State) (n : Nat) (f : Margin → Margin) : (s.updMargin n f).mem = s.mem := rfl
@[simp ↓] theorem updMargin_net (s : State) (n : Nat) (f : Margin → Margin) : (s.updMargin n f).net = s.net := rfl
@[simp ↓] theorem updMargin_parts (s : State) (n : Nat) (f : Margin → Margin) : (s.updMargin n f).parts = s.parts := rfl
@[simp ↓] theorem updMargin_slots (s : State) (n : Nat) (f : Margin → Margin) : (s.updMargin n f).slots = s.slots := rfl
@[simp ↓] theorem updMargin_pos (s : State) (n : Nat) (f : Margin → Margin) : (s.updMargin n f).pos = s.pos := rfl
@[simp ↓] theorem updMargin_cls (s : State) (n : Nat) (f : Margin → Margin) : (s.updMargin n f).cls = s.cls := rfl
@[simp ↓] theorem updMargin_free (s : State) (n : Nat) (f : Margin → Margin) : (s.updMargin n f).free = s.free := rfl
@[simp ↓] theorem updMargin_pending (s : State) (n : Nat) (f : Margin → Margin) : (s.updMargin n f).pending = s.pending := rfl
@[simp ↓] theorem updMargin_part (s : State) (n : Nat) (f : Margin → Margin) (i : Nat) : (s.updMargin n f).part i = s.part i := rfl
@[simp ↓] theorem updMargin_conn (s : State) (n : Nat) (f : Margin → Margin) (i : Nat) : (s.updMargin n f).conn i = s.conn i := rfl
@[simp ↓] theorem updMargin_port (s : State) (n : Nat) (f : Margin → Margin) (i : Nat) : (s.updMargin n f).port i = s.port i := rfl
@[simp ↓] theorem updMargin_region (s : State) (n : Nat) (f : Margin → Margin) (i : Nat) : (s.updMargin n f).region i = s.region i := rfl
@[simp ↓] theorem updMargin_col (s : State) (n : Nat) (f : Margin → Margin) (i : Nat) : (s.updMargin n f).col i = s.col i := rfl
@[simp ↓] theorem updMargin_steward (s : State) (n : Nat) (f : Margin → Margin) (i : Nat) : (s.updMargin n f).steward i = s.steward i := rfl
@[simp ↓] theorem updMargin_colPwr (s : State) (n : Nat) (f : Margin → Margin) (i : Nat) : (s.updMargin n f).colPwr i = s.colPwr i := rfl
@[simp ↓] theorem updMargin_slot (s : State) (n : Nat) (f : Margin → Margin) (i : Nat) : (s.updMargin n f).slot i = s.slot i := rfl
@[simp ↓] theorem updMargin_posn (s : State) (n : Nat) (f : Margin → Margin) (i : Nat) : (s.updMargin n f).posn i = s.posn i := rfl
@[simp ↓] theorem updMargin_cluster (s : State) (n : Nat) (f : Margin → Margin) (i : Nat) : (s.updMargin n f).cluster i = s.cluster i := rfl
@[simp ↓] theorem updMargin_margin_same (s : State) (n : Nat) (f : Margin → Margin) : (s.updMargin n f).margin n = f (s.margin n) := Table.get_set_same _ _ _ _
theorem updMargin_margin_ne (s : State) (n : Nat) (f : Margin → Margin) {i : Nat} (h : i ≠ n) : (s.updMargin n f).margin i = s.margin i := Table.get_set_ne _ _ _ h
@[simp ↓] theorem updMargin_line (s : State) (n : Nat) (f : Margin → Margin) (i : Nat) : (s.updMargin n f).line i = s.line i := rfl

/-! updStn -/

@[simp ↓] theorem updStn_tm (s : State) (p : Nat) (f : Stn → Stn) : (s.updStn p f).tm = s.tm := rfl
@[simp ↓] theorem updStn_pwr (s : State) (p : Nat) (f : Stn → Stn) : (s.updStn p f).pwr = s.pwr := rfl
@[simp ↓] theorem updStn_dev (s : State) (p : Nat) (f : Stn → Stn) : (s.updStn p f).dev = s.dev := rfl
@[simp ↓] theorem updStn_stew (s : State) (p : Nat) (f : Stn → Stn) : (s.updStn p f).stew = s.stew := rfl
@[simp ↓] theorem updStn_cols (s : State) (p : Nat) (f : Stn → Stn) : (s.updStn p f).cols = s.cols := rfl
@[simp ↓] theorem updStn_flash (s : State) (p : Nat) (f : Stn → Stn) : (s.updStn p f).flash = s.flash := rfl
@[simp ↓] theorem updStn_fw (s : State) (p : Nat) (f : Stn → Stn) : (s.updStn p f).fw = s.fw := rfl
@[simp ↓] theorem updStn_xsi (s : State) (p : Nat) (f : Stn → Stn) : (s.updStn p f).xsi = s.xsi := rfl
@[simp ↓] theorem updStn_mem (s : State) (p : Nat) (f : Stn → Stn) : (s.updStn p f).mem = s.mem := rfl
@[simp ↓] theorem updStn_net (s : State) (p : Nat) (f : Stn → Stn) : (s.updStn p f).net = s.net := rfl
@[simp ↓] theorem updStn_slots (s : State) (p : Nat) (f : Stn → Stn) : (s.updStn p f).slots = s.slots := rfl
@[simp ↓] theorem updStn_pos (s : State) (p : Nat) (f : Stn → Stn) : (s.updStn p f).pos = s.pos := rfl
@[simp ↓] theorem updStn_cls (s : State) (p : Nat) (f : Stn → Stn) : (s.updStn p f).cls = s.cls := rfl
@[simp ↓] theorem updStn_free (s : State) (p : Nat) (f : Stn → Stn) : (s.updStn p f).free = s.free := rfl
@[simp ↓] theorem updStn_pending (s : State) (p : Nat) (f : Stn → Stn) : (s.updStn p f).pending = s.pending := rfl
@[simp ↓] theorem updStn_conn (s : State) (p : Nat) (f : Stn → Stn) (i : Nat) : (s.updStn p f).conn i = s.conn i := rfl
@[simp ↓] theorem updStn_port (s : State) (p : Nat) (f : Stn → Stn) (i : Nat) : (s.updStn p f).port i = s.port i := rfl
@[simp ↓] theorem updStn_region (s : State) (p : Nat) (f : Stn → Stn) (i : Nat) : (s.updStn p f).region i = s.region i := rfl
@[simp ↓] theorem updStn_col (s : State) (p : Nat) (f : Stn → Stn) (i : Nat) : (s.updStn p f).col i = s.col i := rfl
@[simp ↓] theorem updStn_steward (s : State) (p : Nat) (f : Stn → Stn) (i : Nat) : (s.updStn p f).steward i = s.steward i := rfl
@[simp ↓] theorem updStn_colPwr (s : State) (p : Nat) (f : Stn → Stn) (i : Nat) : (s.updStn p f).colPwr i = s.colPwr i := rfl
@[simp ↓] theorem updStn_slot (s : State) (p : Nat) (f : Stn → Stn) (i : Nat) : (s.updStn p f).slot i = s.slot i := rfl
@[simp ↓] theorem updStn_posn (s : State) (p : Nat) (f : Stn → Stn) (i : Nat) : (s.updStn p f).posn i = s.posn i := rfl
@[simp ↓] theorem updStn_cluster (s : State) (p : Nat) (f : Stn → Stn) (i : Nat) : (s.updStn p f).cluster i = s.cluster i := rfl
@[simp ↓] theorem updStn_margin (s : State) (p : Nat) (f : Stn → Stn) (i : Nat) : (s.updStn p f).margin i = s.margin i := rfl
@[simp ↓] theorem updStn_line (s : State) (p : Nat) (f : Stn → Stn) (i : Nat) : (s.updStn p f).line i = s.line i := rfl

/-! updFw -/

@[simp ↓] theorem updFw_tm (s : State) (f : Fw → Fw) : (s.updFw f).tm = s.tm := rfl
@[simp ↓] theorem updFw_pwr (s : State) (f : Fw → Fw) : (s.updFw f).pwr = s.pwr := rfl
@[simp ↓] theorem updFw_dev (s : State) (f : Fw → Fw) : (s.updFw f).dev = s.dev := rfl
@[simp ↓] theorem updFw_stew (s : State) (f : Fw → Fw) : (s.updFw f).stew = s.stew := rfl
@[simp ↓] theorem updFw_cols (s : State) (f : Fw → Fw) : (s.updFw f).cols = s.cols := rfl
@[simp ↓] theorem updFw_flash (s : State) (f : Fw → Fw) : (s.updFw f).flash = s.flash := rfl
@[simp ↓] theorem updFw_xsi (s : State) (f : Fw → Fw) : (s.updFw f).xsi = s.xsi := rfl
@[simp ↓] theorem updFw_mem (s : State) (f : Fw → Fw) : (s.updFw f).mem = s.mem := rfl
@[simp ↓] theorem updFw_net (s : State) (f : Fw → Fw) : (s.updFw f).net = s.net := rfl
@[simp ↓] theorem updFw_parts (s : State) (f : Fw → Fw) : (s.updFw f).parts = s.parts := rfl
@[simp ↓] theorem updFw_slots (s : State) (f : Fw → Fw) : (s.updFw f).slots = s.slots := rfl
@[simp ↓] theorem updFw_pos (s : State) (f : Fw → Fw) : (s.updFw f).pos = s.pos := rfl
@[simp ↓] theorem updFw_cls (s : State) (f : Fw → Fw) : (s.updFw f).cls = s.cls := rfl
@[simp ↓] theorem updFw_free (s : State) (f : Fw → Fw) : (s.updFw f).free = s.free := rfl
@[simp ↓] theorem updFw_pending (s : State) (f : Fw → Fw) : (s.updFw f).pending = s.pending := rfl
@[simp ↓] theorem updFw_part (s : State) (f : Fw → Fw) (i : Nat) : (s.updFw f).part i = s.part i := rfl
@[simp ↓] theorem updFw_conn (s : State) (f : Fw → Fw) (i : Nat) : (s.updFw f).conn i = s.conn i := rfl
@[simp ↓] theorem updFw_port (s : State) (f : Fw → Fw) (i : Nat) : (s.updFw f).port i = s.port i := rfl
@[simp ↓] theorem updFw_region (s : State) (f : Fw → Fw) (i : Nat) : (s.updFw f).region i = s.region i := rfl
@[simp ↓] theorem updFw_col (s : State) (f : Fw → Fw) (i : Nat) : (s.updFw f).col i = s.col i := rfl
@[simp ↓] theorem updFw_steward (s : State) (f : Fw → Fw) (i : Nat) : (s.updFw f).steward i = s.steward i := rfl
@[simp ↓] theorem updFw_colPwr (s : State) (f : Fw → Fw) (i : Nat) : (s.updFw f).colPwr i = s.colPwr i := rfl
@[simp ↓] theorem updFw_slot (s : State) (f : Fw → Fw) (i : Nat) : (s.updFw f).slot i = s.slot i := rfl
@[simp ↓] theorem updFw_posn (s : State) (f : Fw → Fw) (i : Nat) : (s.updFw f).posn i = s.posn i := rfl
@[simp ↓] theorem updFw_cluster (s : State) (f : Fw → Fw) (i : Nat) : (s.updFw f).cluster i = s.cluster i := rfl
@[simp ↓] theorem updFw_margin (s : State) (f : Fw → Fw) (i : Nat) : (s.updFw f).margin i = s.margin i := rfl
@[simp ↓] theorem updFw_line (s : State) (f : Fw → Fw) (i : Nat) : (s.updFw f).line i = s.line i := rfl

/-! updPwr -/

@[simp ↓] theorem updPwr_tm (s : State) (f : Pwr → Pwr) : (s.updPwr f).tm = s.tm := rfl
@[simp ↓] theorem updPwr_dev (s : State) (f : Pwr → Pwr) : (s.updPwr f).dev = s.dev := rfl
@[simp ↓] theorem updPwr_stew (s : State) (f : Pwr → Pwr) : (s.updPwr f).stew = s.stew := rfl
@[simp ↓] theorem updPwr_cols (s : State) (f : Pwr → Pwr) : (s.updPwr f).cols = s.cols := rfl
@[simp ↓] theorem updPwr_flash (s : State) (f : Pwr → Pwr) : (s.updPwr f).flash = s.flash := rfl
@[simp ↓] theorem updPwr_fw (s : State) (f : Pwr → Pwr) : (s.updPwr f).fw = s.fw := rfl
@[simp ↓] theorem updPwr_xsi (s : State) (f : Pwr → Pwr) : (s.updPwr f).xsi = s.xsi := rfl
@[simp ↓] theorem updPwr_mem (s : State) (f : Pwr → Pwr) : (s.updPwr f).mem = s.mem := rfl
@[simp ↓] theorem updPwr_net (s : State) (f : Pwr → Pwr) : (s.updPwr f).net = s.net := rfl
@[simp ↓] theorem updPwr_parts (s : State) (f : Pwr → Pwr) : (s.updPwr f).parts = s.parts := rfl
@[simp ↓] theorem updPwr_slots (s : State) (f : Pwr → Pwr) : (s.updPwr f).slots = s.slots := rfl
@[simp ↓] theorem updPwr_pos (s : State) (f : Pwr → Pwr) : (s.updPwr f).pos = s.pos := rfl
@[simp ↓] theorem updPwr_cls (s : State) (f : Pwr → Pwr) : (s.updPwr f).cls = s.cls := rfl
@[simp ↓] theorem updPwr_free (s : State) (f : Pwr → Pwr) : (s.updPwr f).free = s.free := rfl
@[simp ↓] theorem updPwr_pending (s : State) (f : Pwr → Pwr) : (s.updPwr f).pending = s.pending := rfl
@[simp ↓] theorem updPwr_part (s : State) (f : Pwr → Pwr) (i : Nat) : (s.updPwr f).part i = s.part i := rfl
@[simp ↓] theorem updPwr_conn (s : State) (f : Pwr → Pwr) (i : Nat) : (s.updPwr f).conn i = s.conn i := rfl
@[simp ↓] theorem updPwr_port (s : State) (f : Pwr → Pwr) (i : Nat) : (s.updPwr f).port i = s.port i := rfl
@[simp ↓] theorem updPwr_region (s : State) (f : Pwr → Pwr) (i : Nat) : (s.updPwr f).region i = s.region i := rfl
@[simp ↓] theorem updPwr_col (s : State) (f : Pwr → Pwr) (i : Nat) : (s.updPwr f).col i = s.col i := rfl
@[simp ↓] theorem updPwr_steward (s : State) (f : Pwr → Pwr) (i : Nat) : (s.updPwr f).steward i = s.steward i := rfl
@[simp ↓] theorem updPwr_slot (s : State) (f : Pwr → Pwr) (i : Nat) : (s.updPwr f).slot i = s.slot i := rfl
@[simp ↓] theorem updPwr_posn (s : State) (f : Pwr → Pwr) (i : Nat) : (s.updPwr f).posn i = s.posn i := rfl
@[simp ↓] theorem updPwr_cluster (s : State) (f : Pwr → Pwr) (i : Nat) : (s.updPwr f).cluster i = s.cluster i := rfl
@[simp ↓] theorem updPwr_margin (s : State) (f : Pwr → Pwr) (i : Nat) : (s.updPwr f).margin i = s.margin i := rfl
@[simp ↓] theorem updPwr_line (s : State) (f : Pwr → Pwr) (i : Nat) : (s.updPwr f).line i = s.line i := rfl

/-! updDev -/

@[simp ↓] theorem updDev_tm (s : State) (f : Dev → Dev) : (s.updDev f).tm = s.tm := rfl
@[simp ↓] theorem updDev_pwr (s : State) (f : Dev → Dev) : (s.updDev f).pwr = s.pwr := rfl
@[simp ↓] theorem updDev_stew (s : State) (f : Dev → Dev) : (s.updDev f).stew = s.stew := rfl
@[simp ↓] theorem updDev_cols (s : State) (f : Dev → Dev) : (s.updDev f).cols = s.cols := rfl
@[simp ↓] theorem updDev_flash (s : State) (f : Dev → Dev) : (s.updDev f).flash = s.flash := rfl
@[simp ↓] theorem updDev_fw (s : State) (f : Dev → Dev) : (s.updDev f).fw = s.fw := rfl
@[simp ↓] theorem updDev_xsi (s : State) (f : Dev → Dev) : (s.updDev f).xsi = s.xsi := rfl
@[simp ↓] theorem updDev_mem (s : State) (f : Dev → Dev) : (s.updDev f).mem = s.mem := rfl
@[simp ↓] theorem updDev_net (s : State) (f : Dev → Dev) : (s.updDev f).net = s.net := rfl
@[simp ↓] theorem updDev_parts (s : State) (f : Dev → Dev) : (s.updDev f).parts = s.parts := rfl
@[simp ↓] theorem updDev_slots (s : State) (f : Dev → Dev) : (s.updDev f).slots = s.slots := rfl
@[simp ↓] theorem updDev_pos (s : State) (f : Dev → Dev) : (s.updDev f).pos = s.pos := rfl
@[simp ↓] theorem updDev_cls (s : State) (f : Dev → Dev) : (s.updDev f).cls = s.cls := rfl
@[simp ↓] theorem updDev_free (s : State) (f : Dev → Dev) : (s.updDev f).free = s.free := rfl
@[simp ↓] theorem updDev_pending (s : State) (f : Dev → Dev) : (s.updDev f).pending = s.pending := rfl
@[simp ↓] theorem updDev_part (s : State) (f : Dev → Dev) (i : Nat) : (s.updDev f).part i = s.part i := rfl
@[simp ↓] theorem updDev_conn (s : State) (f : Dev → Dev) (i : Nat) : (s.updDev f).conn i = s.conn i := rfl
@[simp ↓] theorem updDev_port (s : State) (f : Dev → Dev) (i : Nat) : (s.updDev f).port i = s.port i := rfl
@[simp ↓] theorem updDev_region (s : State) (f : Dev → Dev) (i : Nat) : (s.updDev f).region i = s.region i := rfl
@[simp ↓] theorem updDev_col (s : State) (f : Dev → Dev) (i : Nat) : (s.updDev f).col i = s.col i := rfl
@[simp ↓] theorem updDev_steward (s : State) (f : Dev → Dev) (i : Nat) : (s.updDev f).steward i = s.steward i := rfl
@[simp ↓] theorem updDev_colPwr (s : State) (f : Dev → Dev) (i : Nat) : (s.updDev f).colPwr i = s.colPwr i := rfl
@[simp ↓] theorem updDev_slot (s : State) (f : Dev → Dev) (i : Nat) : (s.updDev f).slot i = s.slot i := rfl
@[simp ↓] theorem updDev_posn (s : State) (f : Dev → Dev) (i : Nat) : (s.updDev f).posn i = s.posn i := rfl
@[simp ↓] theorem updDev_cluster (s : State) (f : Dev → Dev) (i : Nat) : (s.updDev f).cluster i = s.cluster i := rfl
@[simp ↓] theorem updDev_line (s : State) (f : Dev → Dev) (i : Nat) : (s.updDev f).line i = s.line i := rfl

/-! updXsi -/

@[simp ↓] theorem updXsi_tm (s : State) (f : Xsi → Xsi) : (s.updXsi f).tm = s.tm := rfl
@[simp ↓] theorem updXsi_pwr (s : State) (f : Xsi → Xsi) : (s.updXsi f).pwr = s.pwr := rfl
@[simp ↓] theorem updXsi_dev (s : State) (f : Xsi → Xsi) : (s.updXsi f).dev = s.dev := rfl
@[simp ↓] theorem updXsi_stew (s : State) (f : Xsi → Xsi) : (s.updXsi f).stew = s.stew := rfl
@[simp ↓] theorem updXsi_cols (s : State) (f : Xsi → Xsi) : (s.updXsi f).cols = s.cols := rfl
@[simp ↓] theorem updXsi_flash (s : State) (f : Xsi → Xsi) : (s.updXsi f).flash = s.flash := rfl
@[simp ↓] theorem updXsi_fw (s : State) (f : Xsi → Xsi) : (s.updXsi f).fw = s.fw := rfl
@[simp ↓] theorem updXsi_mem (s : State) (f : Xsi → Xsi) : (s.updXsi f).mem = s.mem := rfl
@[simp ↓] theorem updXsi_net (s : State) (f : Xsi → Xsi) : (s.updXsi f).net = s.net := rfl
@[simp ↓] theorem updXsi_parts (s : State) (f : Xsi → Xsi) : (s.updXsi f).parts = s.parts := rfl
@[simp ↓] theorem updXsi_slots (s : State) (f : Xsi → Xsi) : (s.updXsi f).slots = s.slots := rfl
@[simp ↓] theorem updXsi_pos (s : State) (f : Xsi → Xsi) : (s.updXsi f).pos = s.pos := rfl
@[simp ↓] theorem updXsi_cls (s : State) (f : Xsi → Xsi) : (s.updXsi f).cls = s.cls := rfl
@[simp ↓] theorem updXsi_free (s : State) (f : Xsi → Xsi) : (s.updXsi f).free = s.free := rfl
@[simp ↓] theorem updXsi_pending (s : State) (f : Xsi → Xsi) : (s.updXsi f).pending = s.pending := rfl
@[simp ↓] theorem updXsi_part (s : State) (f : Xsi → Xsi) (i : Nat) : (s.updXsi f).part i = s.part i := rfl
@[simp ↓] theorem updXsi_conn (s : State) (f : Xsi → Xsi) (i : Nat) : (s.updXsi f).conn i = s.conn i := rfl
@[simp ↓] theorem updXsi_port (s : State) (f : Xsi → Xsi) (i : Nat) : (s.updXsi f).port i = s.port i := rfl
@[simp ↓] theorem updXsi_region (s : State) (f : Xsi → Xsi) (i : Nat) : (s.updXsi f).region i = s.region i := rfl
@[simp ↓] theorem updXsi_col (s : State) (f : Xsi → Xsi) (i : Nat) : (s.updXsi f).col i = s.col i := rfl
@[simp ↓] theorem updXsi_steward (s : State) (f : Xsi → Xsi) (i : Nat) : (s.updXsi f).steward i = s.steward i := rfl
@[simp ↓] theorem updXsi_colPwr (s : State) (f : Xsi → Xsi) (i : Nat) : (s.updXsi f).colPwr i = s.colPwr i := rfl
@[simp ↓] theorem updXsi_slot (s : State) (f : Xsi → Xsi) (i : Nat) : (s.updXsi f).slot i = s.slot i := rfl
@[simp ↓] theorem updXsi_posn (s : State) (f : Xsi → Xsi) (i : Nat) : (s.updXsi f).posn i = s.posn i := rfl
@[simp ↓] theorem updXsi_cluster (s : State) (f : Xsi → Xsi) (i : Nat) : (s.updXsi f).cluster i = s.cluster i := rfl
@[simp ↓] theorem updXsi_margin (s : State) (f : Xsi → Xsi) (i : Nat) : (s.updXsi f).margin i = s.margin i := rfl
@[simp ↓] theorem updXsi_line (s : State) (f : Xsi → Xsi) (i : Nat) : (s.updXsi f).line i = s.line i := rfl

/-! poke -/

@[simp ↓] theorem poke_tm (s : State) (a : Nat) (bs : Bytes) : (s.poke a bs).tm = s.tm := rfl
@[simp ↓] theorem poke_pwr (s : State) (a : Nat) (bs : Bytes) : (s.poke a bs).pwr = s.pwr := rfl
@[simp ↓] theorem poke_dev (s : State) (a : Nat) (bs : Bytes) : (s.poke a bs).dev = s.dev := rfl
@[simp ↓] theorem poke_stew (s : State) (a : Nat) (bs : Bytes) : (s.poke a bs).stew = s.stew := rfl
@[simp ↓] theorem poke_cols (s : State) (a : Nat) (bs : Bytes) : (s.poke a bs).cols = s.cols := rfl
@[simp ↓] theorem poke_flash (s : State) (a : Nat) (bs : Bytes) : (s.poke a bs).flash = s.flash := rfl
@[simp ↓] theorem poke_fw (s : State) (a : Nat) (bs : Bytes) : (s.poke a bs).fw = s.fw := rfl
@[simp ↓] theorem poke_xsi (s : State) (a : Nat) (bs : Bytes) : (s.poke a bs).xsi = s.xsi := rfl
@[simp ↓] theorem poke_net (s : State) (a : Nat) (bs : Bytes) : (s.poke a bs).net = s.net := rfl
@[simp ↓] theorem poke_parts (s : State) (a : Nat) (bs : Bytes) : (s.poke a bs).parts = s.parts := rfl
@[simp ↓] theorem poke_slots (s : State) (a : Nat) (bs : Bytes) : (s.poke a bs).slots = s.slots := rfl
@[simp ↓] theorem poke_pos (s : State) (a : Nat) (bs : Bytes) : (s.poke a bs).pos = s.pos := rfl
@[simp ↓] theorem poke_cls (s : State) (a : Nat) (bs : Bytes) : (s.poke a bs).cls = s.cls := rfl
@[simp ↓] theorem poke_free (s : State) (a : Nat) (bs : Bytes) : (s.poke a bs).free = s.free := rfl
@[simp ↓] theorem poke_pending (s : State) (a : Nat) (bs : Bytes) : (s.poke a bs).pending = s.pending := rfl
@[simp ↓] theorem poke_part (s : State) (a : Nat) (bs : Bytes) (i : Nat) : (s.poke a bs).part i = s.part i := rfl
@[simp ↓] theorem poke_conn (s : State) (a : Nat) (bs : Bytes) (i : Nat) : (s.poke a bs).conn i = s.conn i := rfl
@[simp ↓] theorem poke_port (s : State) (a : Nat) (bs : Bytes) (i : Nat) : (s.poke a bs).port i = s.port i := rfl
@[simp ↓] theorem poke_region (s : State) (a : Nat) (bs : Bytes) (i : Nat) : (s.poke a bs).region i = s.region i := rfl
@[simp ↓] theorem poke_col (s : State) (a : Nat) (bs : Bytes) (i : Nat) : (s.poke a bs).col i = s.col i := rfl
@[simp ↓] theorem poke_steward (s : State) (a : Nat) (bs : Bytes) (i : Nat) : (s.poke a bs).steward i = s.steward i := rfl
@[simp ↓] theorem poke_colPwr (s : State) (a : Nat) (bs : Bytes) (i : Nat) : (s.poke a bs).colPwr i = s.colPwr i := rfl
@[simp ↓] theorem poke_slot (s : State) (a : Nat) (bs : Bytes) (i : Nat) : (s.poke a bs).slot i = s.slot i := rfl
@[simp ↓] theorem poke_posn (s : State) (a : Nat) (bs : Bytes) (i : Nat) : (s.poke a bs).posn i = s.posn i := rfl
@[simp ↓] theorem poke_cluster (s : State) (a : Nat) (bs : Bytes) (i : Nat) : (s.poke a bs).cluster i = s.cluster i := rfl
@[simp ↓] theorem poke_margin (s : State) (a : Nat) (bs : Bytes) (i : Nat) : (s.poke a bs).margin i = s.margin i := rfl
@[simp ↓] theorem poke_line (s : State) (a : Nat) (bs : Bytes) (i : Nat) : (s.poke a bs).line i = s.line i := rfl

/-! setLine -/

@[simp ↓] theorem setLine_tm (s : State) (l : Nat) (m : Option LineMeta) : (s.setLine l m).tm = s.tm := rfl
@[simp ↓] theorem setLine_pwr (s : State) (l : Nat) (m : Option LineMeta) : (s.setLine l m).pwr = s.pwr := rfl
@[simp ↓] theorem setLine_dev (s : State) (l : Nat) (m : Option LineMeta) : (s.setLine l m).dev = s.dev := rfl
@[simp ↓] theorem setLine_stew (s : State) (l : Nat) (m : Option LineMeta) : (s.setLine l m).stew = s.stew := rfl
@[simp ↓] theorem setLine_cols (s : State) (l : Nat) (m : Option LineMeta) : (s.setLine l m).cols = s.cols := rfl
@[simp ↓] theorem setLine_flash (s : State) (l : Nat) (m : Option LineMeta) : (s.setLine l m).flash = s.flash := rfl
@[simp ↓] theorem setLine_fw (s : State) (l : Nat) (m : Option LineMeta) : (s.setLine l m).fw = s.fw := rfl
@[simp ↓] theorem setLine_xsi (s : State) (l : Nat) (m : Option LineMeta) : (s.setLine l m).xsi = s.xsi := rfl
@[simp ↓] theorem setLine_net (s : State) (l : Nat) (m : Option LineMeta) : (s.setLine l m).net = s.net := rfl
@[simp ↓] theorem setLine_parts (s : State) (l : Nat) (m : Option LineMeta) : (s.setLine l m).parts = s.parts := rfl
@[simp ↓] theorem setLine_slots (s : State) (l : Nat) (m : Option LineMeta) : (s.setLine l m).slots = s.slots := rfl
@[simp ↓] theorem setLine_pos (s : State) (l : Nat) (m : Option LineMeta) : (s.setLine l m).pos = s.pos := rfl
@[simp ↓] theorem setLine_cls (s : State) (l : Nat) (m : Option LineMeta) : (s.setLine l m).cls = s.cls := rfl
@[simp ↓] theorem setLine_free (s : State) (l : Nat) (m : Option LineMeta) : (s.setLine l m).free = s.free := rfl
@[simp ↓] theorem setLine_pending (s : State) (l : Nat) (m : Option LineMeta) : (s.setLine l m).pending = s.pending := rfl
@[simp ↓] theorem setLine_part (s : State) (l : Nat) (m : Option LineMeta) (i : Nat) : (s.setLine l m).part i = s.part i := rfl
@[simp ↓] theorem setLine_conn (s : State) (l : Nat) (m : Option LineMeta) (i : Nat) : (s.setLine l m).conn i = s.conn i := rfl
@[simp ↓] theorem setLine_port (s : State) (l : Nat) (m : Option LineMeta) (i : Nat) : (s.setLine l m).port i = s.port i := rfl
@[simp ↓] theorem setLine_region (s : State) (l : Nat) (m : Option LineMeta) (i : Nat) : (s.setLine l m).region i = s.region i := rfl
@[simp ↓] theorem setLine_col (s : State) (l : Nat) (m : Option LineMeta) (i : Nat) : (s.setLine l m).col i = s.col i := rfl
@[simp ↓] theorem setLine_steward (s : State) (l : Nat) (m : Option LineMeta) (i : Nat) : (s.setLine l m).steward i = s.steward i := rfl
@[simp ↓] theorem setLine_colPwr (s : State) (l : Nat) (m : Option LineMeta) (i : Nat) : (s.setLine l m).colPwr i = s.colPwr i := rfl
@[simp ↓] theorem setLine_slot (s : State) (l : Nat) (m : Option LineMeta) (i : Nat) : (s.setLine l m).slot i = s.slot i := rfl
@[simp ↓] theorem setLine_posn (s : State) (l : Nat) (m : Option LineMeta) (i : Nat) : (s.setLine l m).posn i = s.posn i := rfl
@[simp ↓] theorem setLine_cluster (s : State) (l : Nat) (m : Option LineMeta) (i : Nat) : (s.setLine l m).cluster i = s.cluster i := rfl
@[simp ↓] theorem setLine_margin (s : State) (l : Nat) (m : Option LineMeta) (i : Nat) : (s.setLine l m).margin i = s.margin i := rfl
@[simp ↓] theorem setLine_line (s : State) (l : Nat) (m : Option LineMeta) (i : Nat) : (s.setLine l m).line i = s.line i := rfl

/-! setTag -/

@[simp ↓] theorem setTag_tm (s : State) (g : Nat) (v : BitVec 32) : (s.setTag g v).tm = s.tm := rfl
@[simp ↓] theorem setTag_pwr (s : State) (g : Nat) (v : BitVec 32) : (s.setTag g v).pwr = s.pwr := rfl
@[simp ↓] theorem setTag_dev (s : State) (g : Nat) (v : BitVec 32) : (s.setTag g v).dev = s.dev := rfl
@[simp ↓] theorem setTag_stew (s : State) (g : Nat) (v : BitVec 32) : (s.setTag g v).stew = s.stew := rfl
@[simp ↓] theorem setTag_cols (s : State) (g : Nat) (v : BitVec 32) : (s.setTag g v).cols = s.cols := rfl
@[simp ↓] theorem setTag_flash (s : State) (g : Nat) (v : BitVec 32) : (s.setTag g v).flash = s.flash := rfl
@[simp ↓] theorem setTag_fw (s : State) (g : Nat) (v : BitVec 32) : (s.setTag g v).fw = s.fw := rfl
@[simp ↓] theorem setTag_xsi (s : State) (g : Nat) (v : BitVec 32) : (s.setTag g v).xsi = s.xsi := rfl
@[simp ↓] theorem setTag_net (s : State) (g : Nat) (v : BitVec 32) : (s.setTag g v).net = s.net := rfl
@[simp ↓] theorem setTag_parts (s : State) (g : Nat) (v : BitVec 32) : (s.setTag g v).parts = s.parts := rfl
@[simp ↓] theorem setTag_slots (s : State) (g : Nat) (v : BitVec 32) : (s.setTag g v).slots = s.slots := rfl
@[simp ↓] theorem setTag_pos (s : State) (g : Nat) (v : BitVec 32) : (s.setTag g v).pos = s.pos := rfl
@[simp ↓] theorem setTag_cls (s : State) (g : Nat) (v : BitVec 32) : (s.setTag g v).cls = s.cls := rfl
@[simp ↓] theorem setTag_free (s : State) (g : Nat) (v : BitVec 32) : (s.setTag g v).free = s.free := rfl
@[simp ↓] theorem setTag_pending (s : State) (g : Nat) (v : BitVec 32) : (s.setTag g v).pending = s.pending := rfl
@[simp ↓] theorem setTag_part (s : State) (g : Nat) (v : BitVec 32) (i : Nat) : (s.setTag g v).part i = s.part i := rfl
@[simp ↓] theorem setTag_conn (s : State) (g : Nat) (v : BitVec 32) (i : Nat) : (s.setTag g v).conn i = s.conn i := rfl
@[simp ↓] theorem setTag_port (s : State) (g : Nat) (v : BitVec 32) (i : Nat) : (s.setTag g v).port i = s.port i := rfl
@[simp ↓] theorem setTag_region (s : State) (g : Nat) (v : BitVec 32) (i : Nat) : (s.setTag g v).region i = s.region i := rfl
@[simp ↓] theorem setTag_col (s : State) (g : Nat) (v : BitVec 32) (i : Nat) : (s.setTag g v).col i = s.col i := rfl
@[simp ↓] theorem setTag_steward (s : State) (g : Nat) (v : BitVec 32) (i : Nat) : (s.setTag g v).steward i = s.steward i := rfl
@[simp ↓] theorem setTag_colPwr (s : State) (g : Nat) (v : BitVec 32) (i : Nat) : (s.setTag g v).colPwr i = s.colPwr i := rfl
@[simp ↓] theorem setTag_slot (s : State) (g : Nat) (v : BitVec 32) (i : Nat) : (s.setTag g v).slot i = s.slot i := rfl
@[simp ↓] theorem setTag_posn (s : State) (g : Nat) (v : BitVec 32) (i : Nat) : (s.setTag g v).posn i = s.posn i := rfl
@[simp ↓] theorem setTag_cluster (s : State) (g : Nat) (v : BitVec 32) (i : Nat) : (s.setTag g v).cluster i = s.cluster i := rfl
@[simp ↓] theorem setTag_margin (s : State) (g : Nat) (v : BitVec 32) (i : Nat) : (s.setTag g v).margin i = s.margin i := rfl
@[simp ↓] theorem setTag_line (s : State) (g : Nat) (v : BitVec 32) (i : Nat) : (s.setTag g v).line i = s.line i := rfl

/-! updLine -/

@[simp ↓] theorem updLine_tm (s : State) (n : Nat) (f : Line → Line) : (s.updLine n f).tm = s.tm := rfl
@[simp ↓] theorem updLine_pwr (s : State) (n : Nat) (f : Line → Line) : (s.updLine n f).pwr = s.pwr := rfl
@[simp ↓] theorem updLine_dev (s : State) (n : Nat) (f : Line → Line) : (s.updLine n f).dev = s.dev := rfl
@[simp ↓] theorem updLine_stew (s : State) (n : Nat) (f : Line → Line) : (s.updLine n f).stew = s.stew := rfl
@[simp ↓] theorem updLine_cols (s : State) (n : Nat) (f : Line → Line) : (s.updLine n f).cols = s.cols := rfl
@[simp ↓] theorem updLine_flash (s : State) (n : Nat) (f : Line → Line) : (s.updLine n f).flash = s.flash := rfl
@[simp ↓] theorem updLine_fw (s : State) (n : Nat) (f : Line → Line) : (s.updLine n f).fw = s.fw := rfl
@[simp ↓] theorem updLine_xsi (s : State) (n : Nat) (f : Line → Line) : (s.updLine n f).xsi = s.xsi := rfl
@[simp ↓] theorem updLine_mem (s : State) (n : Nat) (f : Line → Line) : (s.updLine n f).mem = s.mem := rfl
@[simp ↓] theorem updLine_parts (s : State) (n : Nat) (f : Line → Line) : (s.updLine n f).parts = s.parts := rfl
@[simp ↓] theorem updLine_slots (s : State) (n : Nat) (f : Line → Line) : (s.updLine n f).slots = s.slots := rfl
@[simp ↓] theorem updLine_pos (s : State) (n : Nat) (f : Line → Line) : (s.updLine n f).pos = s.pos := rfl
@[simp ↓] theorem updLine_cls (s : State) (n : Nat) (f : Line → Line) : (s.updLine n f).cls = s.cls := rfl
@[simp ↓] theorem updLine_free (s : State) (n : Nat) (f : Line → Line) : (s.updLine n f).free = s.free := rfl
@[simp ↓] theorem updLine_pending (s : State) (n : Nat) (f : Line → Line) : (s.updLine n f).pending = s.pending := rfl
@[simp ↓] theorem updLine_part (s : State) (n : Nat) (f : Line → Line) (i : Nat) : (s.updLine n f).part i = s.part i := rfl
@[simp ↓] theorem updLine_conn (s : State) (n : Nat) (f : Line → Line) (i : Nat) : (s.updLine n f).conn i = s.conn i := rfl
@[simp ↓] theorem updLine_port (s : State) (n : Nat) (f : Line → Line) (i : Nat) : (s.updLine n f).port i = s.port i := rfl
@[simp ↓] theorem updLine_region (s : State) (n : Nat) (f : Line → Line) (i : Nat) : (s.updLine n f).region i = s.region i := rfl
@[simp ↓] theorem updLine_col (s : State) (n : Nat) (f : Line → Line) (i : Nat) : (s.updLine n f).col i = s.col i := rfl
@[simp ↓] theorem updLine_steward (s : State) (n : Nat) (f : Line → Line) (i : Nat) : (s.updLine n f).steward i = s.steward i := rfl
@[simp ↓] theorem updLine_colPwr (s : State) (n : Nat) (f : Line → Line) (i : Nat) : (s.updLine n f).colPwr i = s.colPwr i := rfl
@[simp ↓] theorem updLine_slot (s : State) (n : Nat) (f : Line → Line) (i : Nat) : (s.updLine n f).slot i = s.slot i := rfl
@[simp ↓] theorem updLine_posn (s : State) (n : Nat) (f : Line → Line) (i : Nat) : (s.updLine n f).posn i = s.posn i := rfl
@[simp ↓] theorem updLine_cluster (s : State) (n : Nat) (f : Line → Line) (i : Nat) : (s.updLine n f).cluster i = s.cluster i := rfl
@[simp ↓] theorem updLine_margin (s : State) (n : Nat) (f : Line → Line) (i : Nat) : (s.updLine n f).margin i = s.margin i := rfl
@[simp ↓] theorem updLine_line_same (s : State) (n : Nat) (f : Line → Line) : (s.updLine n f).line n = f (s.line n) := Table.get_set_same _ _ _ _
theorem updLine_line_ne (s : State) (n : Nat) (f : Line → Line) {i : Nat} (h : i ≠ n) : (s.updLine n f).line i = s.line i := Table.get_set_ne _ _ _ h

/-! enqueue -/

@[simp ↓] theorem enqueue_tm (s : State) (q : Queued) : (s.enqueue q).tm = s.tm := rfl
@[simp ↓] theorem enqueue_pwr (s : State) (q : Queued) : (s.enqueue q).pwr = s.pwr := rfl
@[simp ↓] theorem enqueue_dev (s : State) (q : Queued) : (s.enqueue q).dev = s.dev := rfl
@[simp ↓] theorem enqueue_stew (s : State) (q : Queued) : (s.enqueue q).stew = s.stew := rfl
@[simp ↓] theorem enqueue_cols (s : State) (q : Queued) : (s.enqueue q).cols = s.cols := rfl
@[simp ↓] theorem enqueue_flash (s : State) (q : Queued) : (s.enqueue q).flash = s.flash := rfl
@[simp ↓] theorem enqueue_fw (s : State) (q : Queued) : (s.enqueue q).fw = s.fw := rfl
@[simp ↓] theorem enqueue_xsi (s : State) (q : Queued) : (s.enqueue q).xsi = s.xsi := rfl
@[simp ↓] theorem enqueue_mem (s : State) (q : Queued) : (s.enqueue q).mem = s.mem := rfl
@[simp ↓] theorem enqueue_parts (s : State) (q : Queued) : (s.enqueue q).parts = s.parts := rfl
@[simp ↓] theorem enqueue_slots (s : State) (q : Queued) : (s.enqueue q).slots = s.slots := rfl
@[simp ↓] theorem enqueue_pos (s : State) (q : Queued) : (s.enqueue q).pos = s.pos := rfl
@[simp ↓] theorem enqueue_cls (s : State) (q : Queued) : (s.enqueue q).cls = s.cls := rfl
@[simp ↓] theorem enqueue_free (s : State) (q : Queued) : (s.enqueue q).free = s.free := rfl
@[simp ↓] theorem enqueue_pending (s : State) (q : Queued) : (s.enqueue q).pending = s.pending := rfl
@[simp ↓] theorem enqueue_part (s : State) (q : Queued) (i : Nat) : (s.enqueue q).part i = s.part i := rfl
@[simp ↓] theorem enqueue_conn (s : State) (q : Queued) (i : Nat) : (s.enqueue q).conn i = s.conn i := rfl
@[simp ↓] theorem enqueue_port (s : State) (q : Queued) (i : Nat) : (s.enqueue q).port i = s.port i := rfl
@[simp ↓] theorem enqueue_region (s : State) (q : Queued) (i : Nat) : (s.enqueue q).region i = s.region i := rfl
@[simp ↓] theorem enqueue_col (s : State) (q : Queued) (i : Nat) : (s.enqueue q).col i = s.col i := rfl
@[simp ↓] theorem enqueue_steward (s : State) (q : Queued) (i : Nat) : (s.enqueue q).steward i = s.steward i := rfl
@[simp ↓] theorem enqueue_colPwr (s : State) (q : Queued) (i : Nat) : (s.enqueue q).colPwr i = s.colPwr i := rfl
@[simp ↓] theorem enqueue_slot (s : State) (q : Queued) (i : Nat) : (s.enqueue q).slot i = s.slot i := rfl
@[simp ↓] theorem enqueue_posn (s : State) (q : Queued) (i : Nat) : (s.enqueue q).posn i = s.posn i := rfl
@[simp ↓] theorem enqueue_cluster (s : State) (q : Queued) (i : Nat) : (s.enqueue q).cluster i = s.cluster i := rfl
@[simp ↓] theorem enqueue_margin (s : State) (q : Queued) (i : Nat) : (s.enqueue q).margin i = s.margin i := rfl
@[simp ↓] theorem enqueue_line (s : State) (q : Queued) (i : Nat) : (s.enqueue q).line i = s.line i := rfl

@[simp ↓] theorem updStn_part_same (s : State) (p : Nat) (f : Stn → Stn) :
    (s.updStn p f).part p = { s.part p with stn := f (s.part p).stn } := Table.get_set_same _ _ _ _
theorem updStn_part_ne (s : State) (p : Nat) (f : Stn → Stn) {i : Nat} (h : i ≠ p) : (s.updStn p f).part i = s.part i :=
  Table.get_set_ne _ _ _ h

@[simp ↓] theorem updPart_plane (s : State) (p : Nat) (f : Part → Part) (n : Nat) : (s.updPart p f).plane n = s.plane n := rfl
@[simp ↓] theorem updConn_plane (s : State) (c : Nat) (f : Conn → Conn) (n : Nat) : (s.updConn c f).plane n = s.plane n := rfl
@[simp ↓] theorem updConn_planes (s : State) (c : Nat) (f : Conn → Conn) : (s.updConn c f).net.planes = s.net.planes := rfl
@[simp ↓] theorem updConn_out (s : State) (c : Nat) (f : Conn → Conn) : (s.updConn c f).net.out = s.net.out := rfl
@[simp ↓] theorem updConn_ports (s : State) (c : Nat) (f : Conn → Conn) : (s.updConn c f).net.ports = s.net.ports := rfl
@[simp ↓] theorem updConn_routes (s : State) (c : Nat) (f : Conn → Conn) : (s.updConn c f).net.routes = s.net.routes := rfl
@[simp ↓] theorem updPort_conns (s : State) (n : Nat) (f : Port → Port) : (s.updPort n f).net.conns = s.net.conns := rfl
@[simp ↓] theorem updPort_out (s : State) (n : Nat) (f : Port → Port) : (s.updPort n f).net.out = s.net.out := rfl
@[simp ↓] theorem updConn_egress (s : State) (c : Nat) (f : Conn → Conn) : (s.updConn c f).net.egress = s.net.egress := rfl
@[simp ↓] theorem updPort_egress (s : State) (n : Nat) (f : Port → Port) : (s.updPort n f).net.egress = s.net.egress := rfl
@[simp ↓] theorem updLine_egress (s : State) (n : Nat) (f : Line → Line) : (s.updLine n f).net.egress = s.net.egress := rfl
@[simp ↓] theorem updLine_out (s : State) (n : Nat) (f : Line → Line) : (s.updLine n f).net.out = s.net.out := rfl
@[simp ↓] theorem updLine_conns (s : State) (n : Nat) (f : Line → Line) : (s.updLine n f).net.conns = s.net.conns := rfl
@[simp ↓] theorem updLine_ports (s : State) (n : Nat) (f : Line → Line) : (s.updLine n f).net.ports = s.net.ports := rfl
@[simp ↓] theorem enqueue_egress (s : State) (q : Queued) : (s.enqueue q).net.egress = s.net.egress ++ [q] := rfl
@[simp ↓] theorem enqueue_out (s : State) (q : Queued) : (s.enqueue q).net.out = s.net.out := rfl
@[simp ↓] theorem enqueue_conns (s : State) (q : Queued) : (s.enqueue q).net.conns = s.net.conns := rfl
@[simp ↓] theorem enqueue_ports (s : State) (q : Queued) : (s.enqueue q).net.ports = s.net.ports := rfl
@[simp ↓] theorem enqueue_planes (s : State) (q : Queued) : (s.enqueue q).net.planes = s.net.planes := rfl
@[simp ↓] theorem enqueue_routes (s : State) (q : Queued) : (s.enqueue q).net.routes = s.net.routes := rfl
@[simp ↓] theorem enqueue_plane (s : State) (q : Queued) (n : Nat) : (s.enqueue q).plane n = s.plane n := rfl
@[simp ↓] theorem poke_tags (s : State) (a : Nat) (bs : Bytes) : (s.poke a bs).mem.tags = s.mem.tags := rfl
@[simp ↓] theorem setLine_tags (s : State) (l : Nat) (m : Option LineMeta) : (s.setLine l m).mem.tags = s.mem.tags := rfl
@[simp ↓] theorem setTag_cells (s : State) (g : Nat) (v : BitVec 32) : (s.setTag g v).mem.cells = s.mem.cells := rfl
@[simp ↓] theorem setTag_lines (s : State) (g : Nat) (v : BitVec 32) : (s.setTag g v).mem.lines = s.mem.lines := rfl
@[simp ↓] theorem setTag_regions (s : State) (g : Nat) (v : BitVec 32) : (s.setTag g v).mem.regions = s.mem.regions := rfl
@[simp ↓] theorem setTag_tagOf_same (s : State) (g : Nat) (v : BitVec 32) : (s.setTag g v).tagOf g = v := Table.get_set_same _ _ _ _
theorem setTag_tagOf_ne (s : State) (g : Nat) (v : BitVec 32) {i : Nat} (h : i ≠ g) : (s.setTag g v).tagOf i = s.tagOf i :=
  Table.get_set_ne _ _ _ h
@[simp ↓] theorem poke_lines (s : State) (a : Nat) (bs : Bytes) : (s.poke a bs).mem.lines = s.mem.lines := rfl
@[simp ↓] theorem poke_regions (s : State) (a : Nat) (bs : Bytes) : (s.poke a bs).mem.regions = s.mem.regions := rfl
@[simp ↓] theorem setLine_cells (s : State) (l : Nat) (m : Option LineMeta) : (s.setLine l m).mem.cells = s.mem.cells := rfl
@[simp ↓] theorem setLine_regions (s : State) (l : Nat) (m : Option LineMeta) : (s.setLine l m).mem.regions = s.mem.regions := rfl
@[simp ↓] theorem setLine_lineMeta_same (s : State) (l : Nat) (m : Option LineMeta) : (s.setLine l m).lineMeta l = m :=
  Table.get_set_same _ _ _ _

end Sys2Proof.Machine
end

