-- ==== Sys2Proof/Laws/FrameMem.lean ====
section
/-! SUPPORT. Frames of the log, sending, memory, wipes and teardown: which operations leave module time and the queue of commands alone. -/
namespace Sys2Proof.Machine

/-! Ops -/

theorem foldl_tm {α : Type} (l : List α) (g : State → α → State) (s : State) (h : ∀ s a, (g s a).tm = s.tm) : (l.foldl g s).tm = s.tm := by
  induction l generalizing s with
  | nil => rfl
  | cons a l ih => rw [List.foldl_cons, ih, h]

theorem foldr_tm {α β : Type} (l : List α) (g : β × State → α → β × State) (x : β × State) (h : ∀ x a, (g x a).2.tm = x.2.tm) : (l.foldl g x).2.tm = x.2.tm := by
  induction l generalizing x with
  | nil => rfl
  | cons a l ih => rw [List.foldl_cons, ih, h]

theorem foldq_tm {α β γ : Type} (l : List α) (g : β × γ × State → α → β × γ × State) (x : β × γ × State) (h : ∀ x a, (g x a).2.2.tm = x.2.2.tm) : (l.foldl g x).2.2.tm = x.2.2.tm := by
  induction l generalizing x with
  | nil => rfl
  | cons a l ih => rw [List.foldl_cons, ih, h]

theorem foldl_pending {α : Type} (l : List α) (g : State → α → State) (s : State) (h : ∀ s a, (g s a).pending = s.pending) : (l.foldl g s).pending = s.pending := by
  induction l generalizing s with
  | nil => rfl
  | cons a l ih => rw [List.foldl_cons, ih, h]

theorem foldr_pending {α β : Type} (l : List α) (g : β × State → α → β × State) (x : β × State) (h : ∀ x a, (g x a).2.pending = x.2.pending) : (l.foldl g x).2.pending = x.2.pending := by
  induction l generalizing x with
  | nil => rfl
  | cons a l ih => rw [List.foldl_cons, ih, h]

theorem foldq_pending {α β γ : Type} (l : List α) (g : β × γ × State → α → β × γ × State) (x : β × γ × State) (h : ∀ x a, (g x a).2.2.pending = x.2.2.pending) : (l.foldl g x).2.2.pending = x.2.2.pending := by
  induction l generalizing x with
  | nil => rfl
  | cons a l ih => rw [List.foldl_cons, ih, h]

theorem whenUp_tm (s : State) (f : State → State) (h : ∀ s, (f s).tm = s.tm) : (s.whenUp f).tm = s.tm := by
  unfold State.whenUp; split <;> simp [h]

theorem whenBased_tm (s : State) (f : State → State) (h : ∀ s, (f s).tm = s.tm) : (s.whenBased f).tm = s.tm := by
  unfold State.whenBased; split <;> simp [h]

theorem whenOp_tm (s : State) (f : State → State) (h : ∀ s, (f s).tm = s.tm) : (s.whenOp f).tm = s.tm := by
  unfold State.whenOp; split <;> simp [h]

theorem whenUp_pending (s : State) (f : State → State) (h : ∀ s, (f s).pending = s.pending) : (s.whenUp f).pending = s.pending := by
  unfold State.whenUp; split <;> simp [h]

theorem whenBased_pending (s : State) (f : State → State) (h : ∀ s, (f s).pending = s.pending) : (s.whenBased f).pending = s.pending := by
  unfold State.whenBased; split <;> simp [h]

theorem whenOp_pending (s : State) (f : State → State) (h : ∀ s, (f s).pending = s.pending) : (s.whenOp f).pending = s.pending := by
  unfold State.whenOp; split <;> simp [h]

@[simp ↓] theorem fresh_frame (s : State) :
    s.fresh.2.tm = s.tm ∧ s.fresh.2.pending = s.pending := by
  constructor <;> simp [State.fresh]

@[simp ↓] theorem logP_frame (s : State) (col event unit part : Nat) (payload : List W64) :
    (s.logP col event unit part payload).tm = s.tm ∧ (s.logP col event unit part payload).pending = s.pending := by
  constructor <;> (simp only [State.logP]; (repeat' split) <;> simp)

@[simp ↓] theorem logEv_frame (s : State) (col event : Nat) (payload : W64) :
    (s.logEv col event payload).tm = s.tm ∧ (s.logEv col event payload).pending = s.pending := by
  constructor <;> simp [State.logEv]

@[simp ↓] theorem logLead_tm (s : State) (event : Nat) (payload : W64) : (s.logLead event payload).tm = s.tm := by
  simp [State.logLead]

@[simp ↓] theorem logLead_pending (s : State) (event : Nat) (payload : W64) : (s.logLead event payload).pending = s.pending := by
  simp [State.logLead]

@[simp ↓] theorem trace_frame (s : State) (col part k point : Nat) (args : List Nat) :
    (s.trace col part k point args).tm = s.tm ∧ (s.trace col part k point args).pending = s.pending := by
  constructor <;> (simp only [State.trace]; (repeat' split) <;> simp)

@[simp ↓] theorem traceLead_frame (s : State) (part k point : Nat) (args : List Nat) :
    (s.traceLead part k point args).tm = s.tm ∧ (s.traceLead part k point args).pending = s.pending := by
  constructor <;> simp [State.traceLead]

/-! Flags -/

@[simp ↓] theorem reclock_frame (s t : State) :
    (s.reclock t).tm = t.tm ∧ (s.reclock t).pending = t.pending := by
  constructor <;> simp [State.reclock]

@[simp ↓] theorem bookFill_frame (s : State) (pos : Nat) :
    (s.bookFill pos).tm = s.tm ∧ (s.bookFill pos).pending = s.pending := by
  constructor <;> simp [State.bookFill]

/-! Transport -/

@[simp ↓] theorem emit_frame (s : State) (c : Nat) (p : Pkt) (at' : Nat × Nat) :
    ((State.emit s c p at')).tm = s.tm ∧ ((State.emit s c p at')).pending = s.pending := by
  constructor <;> simp [State.emit]

@[simp ↓] theorem traceConn_frame (s : State) (c k point : Nat) (args : List Nat) :
    (s.traceConn c k point args).tm = s.tm ∧ (s.traceConn c k point args).pending = s.pending := by
  constructor <;> simp [State.traceConn]

@[simp ↓] theorem movePlane_frame (s : State) (c : Nat) :
    (s.movePlane c).tm = s.tm ∧ (s.movePlane c).pending = s.pending := by
  constructor <;> simp [State.movePlane]

@[simp ↓] theorem moveIfEmpty_frame (s : State) (c : Nat) :
    (s.moveIfEmpty c).tm = s.tm ∧ (s.moveIfEmpty c).pending = s.pending := by
  constructor <;> (simp only [State.moveIfEmpty]; (repeat' split) <;> simp)

@[simp ↓] theorem sendNow_frame (s : State) (c : Nat) (p : Pkt) :
    (s.sendNow c p).tm = s.tm ∧ (s.sendNow c p).pending = s.pending := by
  constructor <;> (simp only [State.sendNow]; (repeat' split) <;> simp)

@[simp ↓] theorem send_frame (s : State) (c : Nat) (p : Pkt) :
    (s.send c p).tm = s.tm ∧ (s.send c p).pending = s.pending := by
  constructor <;> (simp only [State.send]; (repeat' split) <;> simp)

@[simp ↓] theorem flushTx_tm (n : Nat) (s : State) (c : Nat) : (State.flushTx n s c).tm = s.tm := by
  induction n generalizing s with
  | zero => rfl
  | succ n ih =>
    unfold State.flushTx
    dsimp only
    split
    · split
      · simp
      · rw [ih]; simp
    · simp

@[simp ↓] theorem flushTx_pending (n : Nat) (s : State) (c : Nat) : (State.flushTx n s c).pending = s.pending := by
  induction n generalizing s with
  | zero => rfl
  | succ n ih =>
    unfold State.flushTx
    dsimp only
    split
    · split
      · simp
      · rw [ih]; simp
    · simp

@[simp ↓] theorem flush_frame (s : State) (c : Nat) :
    (s.flush c).tm = s.tm ∧ (s.flush c).pending = s.pending := by
  constructor <;> simp [State.flush]

@[simp ↓] theorem sendAck_frame (s : State) (c : Nat) (done : Option (Nat × Nat)) :
    (s.sendAck c done).tm = s.tm ∧ (s.sendAck c done).pending = s.pending := by
  constructor <;> (simp only [State.sendAck]; (repeat' split) <;> simp)

@[simp ↓] theorem startOp_frame (s : State) (c : Nat) (kind : OpKind) :
    (s.startOp c kind).2.tm = s.tm ∧ (s.startOp c kind).2.pending = s.pending := by
  constructor <;> simp [State.startOp]

@[simp ↓] theorem sendCtl_frame (s : State) (c ctlop part role tgen : Nat) (payload : Bytes) :
    (s.sendCtl c ctlop part role tgen payload).tm = s.tm ∧ (s.sendCtl c ctlop part role tgen payload).pending = s.pending := by
  constructor <;> simp [State.sendCtl]

@[simp ↓] theorem sendResp_frame (s : State) (c : Nat) (req : Pkt) (status : Nat) (payload : Bytes) :
    (s.sendResp c req status payload).tm = s.tm ∧ (s.sendResp c req status payload).pending = s.pending := by
  constructor <;> simp [State.sendResp]

@[simp ↓] theorem sendMsg_frame (s : State) (c op : Nat) (payload : Bytes) :
    (s.sendMsg c op payload).tm = s.tm ∧ (s.sendMsg c op payload).pending = s.pending := by
  constructor <;> simp [State.sendMsg]

@[simp ↓] theorem lapseClaims_frame (s : State) (c : Nat) :
    (s.lapseClaims c).tm = s.tm ∧ (s.lapseClaims c).pending = s.pending := by
  constructor <;> simp [State.lapseClaims]

@[simp ↓] theorem endRx_frame (s : State) (c status : Nat) (o : RxOp) :
    (s.endRx c status o).tm = s.tm ∧ (s.endRx c status o).pending = s.pending := by
  constructor <;> (simp only [State.endRx]; (repeat' split) <;> simp)

@[simp ↓] theorem finishRx_frame (s : State) (c status : Nat) :
    (s.finishRx c status).tm = s.tm ∧ (s.finishRx c status).pending = s.pending := by
  constructor <;> (simp -implicitDefEqProofs only [State.finishRx]; repeat' (first | with_reducible rfl | (with_reducible intro _) | split | with_reducible refine (foldl_tm _ _ _ ?_).trans ?_ | with_reducible refine (foldl_pending _ _ _ ?_).trans ?_ | simp -implicitDefEqProofs))

@[simp ↓] theorem clearDma_frame (s : State) (c : Nat) :
    (s.clearDma c).tm = s.tm ∧ (s.clearDma c).pending = s.pending := by
  constructor <;> (simp only [State.clearDma]; (repeat' split) <;> simp)

@[simp ↓] theorem closeLocal_frame (s : State) (c : Nat) :
    (s.closeLocal c).tm = s.tm ∧ (s.closeLocal c).pending = s.pending := by
  constructor <;> simp [State.closeLocal]

@[simp ↓] theorem closeConn_frame (s : State) (c : Nat) :
    (s.closeConn c).tm = s.tm ∧ (s.closeConn c).pending = s.pending := by
  constructor <;> simp [State.closeConn]

@[simp ↓] theorem sendNotice_frame (s : State) (c : Nat) (e : LogEntry) :
    (s.sendNotice c e).tm = s.tm ∧ (s.sendNotice c e).pending = s.pending := by
  constructor <;> simp [State.sendNotice]

@[simp ↓] theorem notice_frame (s : State) (e : LogEntry) :
    (s.notice e).tm = s.tm ∧ (s.notice e).pending = s.pending := by
  constructor <;> (simp only [State.notice]; (repeat' split) <;> simp)

@[simp ↓] theorem jobAbort_frame (s : State) (p : Nat) (payload : Bytes) :
    (s.jobAbort p payload).tm = s.tm ∧ (s.jobAbort p payload).pending = s.pending := by
  constructor <;> (simp -implicitDefEqProofs only [State.jobAbort]; repeat' (first | with_reducible rfl | (with_reducible intro _) | split | with_reducible refine (foldl_tm _ _ _ ?_).trans ?_ | with_reducible refine (foldl_pending _ _ _ ?_).trans ?_ | with_reducible refine (foldr_tm _ _ _ ?_).trans ?_ | with_reducible refine (foldr_pending _ _ _ ?_).trans ?_ | simp -implicitDefEqProofs))

@[simp ↓] theorem sendAborts_frame (s : State) (p : Nat) (but : Option Nat) (payload : Bytes) :
    (s.sendAborts p but payload).tm = s.tm ∧ (s.sendAborts p but payload).pending = s.pending := by
  constructor <;> (simp -implicitDefEqProofs only [State.sendAborts]; repeat' (first | with_reducible rfl | (with_reducible intro _) | split | with_reducible refine (foldl_tm _ _ _ ?_).trans ?_ | with_reducible refine (foldl_pending _ _ _ ?_).trans ?_ | simp -implicitDefEqProofs))

@[simp ↓] theorem partFault_frame (s : State) (p event : Nat) (abort : Bool) :
    (s.partFault p event abort).tm = s.tm ∧ (s.partFault p event abort).pending = s.pending := by
  constructor <;> (simp only [State.partFault]; (repeat' split) <;> simp)

@[simp ↓] theorem leave_frame (s : State) (q : Queued) :
    (s.leave q).tm = s.tm ∧ (s.leave q).pending = s.pending := by
  constructor <;> (simp only [State.leave]; (repeat' split) <;> simp)

@[simp ↓] theorem drain_frame (s : State) :
    s.drain.tm = s.tm ∧ s.drain.pending = s.pending := by
  constructor <;> (simp -implicitDefEqProofs only [State.drain]; repeat' (first | with_reducible rfl | (with_reducible intro _) | split | with_reducible refine (foldl_tm _ _ _ ?_).trans ?_ | with_reducible refine (foldl_pending _ _ _ ?_).trans ?_ | with_reducible refine (foldr_tm _ _ _ ?_).trans ?_ | with_reducible refine (foldr_pending _ _ _ ?_).trans ?_ | simp -implicitDefEqProofs))

@[simp ↓] theorem countPort_frame (s : State) (n : Nat) (f : Port → Port) :
    (s.countPort n f).tm = s.tm ∧ (s.countPort n f).pending = s.pending := by
  constructor <;> (simp only [State.countPort]; (repeat' split) <;> simp)

@[simp ↓] theorem fwdDrop_frame (s : State) (n : Nat) :
    (s.fwdDrop n).tm = s.tm ∧ (s.fwdDrop n).pending = s.pending := by
  constructor <;> simp [State.fwdDrop]

@[simp ↓] theorem flushAll_frame (s : State) :
    s.flushAll.tm = s.tm ∧ s.flushAll.pending = s.pending := by
  constructor <;> (simp -implicitDefEqProofs only [State.flushAll]; repeat' (first | with_reducible rfl | (with_reducible intro _) | split | with_reducible refine (foldl_tm _ _ _ ?_).trans ?_ | with_reducible refine (foldl_pending _ _ _ ?_).trans ?_ | with_reducible refine (foldr_tm _ _ _ ?_).trans ?_ | with_reducible refine (foldr_pending _ _ _ ?_).trans ?_ | simp -implicitDefEqProofs))

@[simp ↓] theorem respray_frame (s : State) (q : Queued) :
    (s.respray q).tm = s.tm ∧ (s.respray q).pending = s.pending := by
  constructor <;> (simp only [State.respray]; (repeat' split) <;> simp)

@[simp ↓] theorem resprayAll_frame (s : State) :
    s.resprayAll.tm = s.tm ∧ s.resprayAll.pending = s.pending := by
  constructor <;> (simp -implicitDefEqProofs only [State.resprayAll]; repeat' (first | with_reducible rfl | (with_reducible intro _) | split | with_reducible refine (foldl_tm _ _ _ ?_).trans ?_ | with_reducible refine (foldl_pending _ _ _ ?_).trans ?_ | simp -implicitDefEqProofs))

@[simp ↓] theorem moveAll_frame (s : State) :
    s.moveAll.tm = s.tm ∧ s.moveAll.pending = s.pending := by
  constructor <;> (simp -implicitDefEqProofs only [State.moveAll]; repeat' (first | with_reducible rfl | (with_reducible intro _) | split | with_reducible refine (foldl_tm _ _ _ ?_).trans ?_ | with_reducible refine (foldl_pending _ _ _ ?_).trans ?_ | with_reducible refine (foldr_tm _ _ _ ?_).trans ?_ | with_reducible refine (foldr_pending _ _ _ ?_).trans ?_ | simp -implicitDefEqProofs))

@[simp ↓] theorem portDown_frame (s : State) (n : Nat) :
    (s.portDown n).tm = s.tm ∧ (s.portDown n).pending = s.pending := by
  constructor <;> (simp -implicitDefEqProofs only [State.portDown]; repeat' (first | with_reducible rfl | (with_reducible intro _) | split | with_reducible refine (foldl_tm _ _ _ ?_).trans ?_ | with_reducible refine (foldl_pending _ _ _ ?_).trans ?_ | simp -implicitDefEqProofs))

@[simp ↓] theorem portGone_frame (s : State) (n : Nat) :
    (s.portGone n).tm = s.tm ∧ (s.portGone n).pending = s.pending := by
  constructor <;> (simp -implicitDefEqProofs only [State.portGone]; repeat' (first | with_reducible rfl | (with_reducible intro _) | split | with_reducible refine (foldl_tm _ _ _ ?_).trans ?_ | with_reducible refine (foldl_pending _ _ _ ?_).trans ?_ | simp -implicitDefEqProofs))

/-! Memory -/

@[simp ↓] theorem memCe_frame (s : State) (access part rgn d kind : Nat) :
    (s.memCe access part rgn d kind).tm = s.tm ∧ (s.memCe access part rgn d kind).pending = s.pending := by
  constructor <;> (simp only [State.memCe]; (repeat' split) <;> simp)

@[simp ↓] theorem memUe_frame (s : State) (access part rgn d kind : Nat) :
    (s.memUe access part rgn d kind).tm = s.tm ∧ (s.memUe access part rgn d kind).pending = s.pending := by
  constructor <;> simp [State.memUe]

@[simp ↓] theorem pcFail_frame (s : State) (c pc : Nat) :
    (s.pcFail c pc).tm = s.tm ∧ (s.pcFail c pc).pending = s.pending := by
  constructor <;> (simp -implicitDefEqProofs only [State.pcFail]; repeat' (first | with_reducible rfl | (with_reducible intro _) | split | with_reducible refine (foldl_tm _ _ _ ?_).trans ?_ | with_reducible refine (foldl_pending _ _ _ ?_).trans ?_ | with_reducible refine (foldr_tm _ _ _ ?_).trans ?_ | with_reducible refine (foldr_pending _ _ _ ?_).trans ?_ | simp -implicitDefEqProofs))

@[simp ↓] theorem memRebuild_frame (s : State) (access part rgn : Nat) (r : Region) (a : Nat) :
    (s.memRebuild access part rgn r a).tm = s.tm ∧ (s.memRebuild access part rgn r a).pending = s.pending := by
  constructor <;> (simp only [State.memRebuild]; (repeat' split) <;> simp)

@[simp ↓] theorem meetCe_frame (s : State) (access part rgn : Nat) (r : Region) (errs : List MemErr) (x : Nat) :
    (s.meetCe access part rgn r errs x).tm = s.tm ∧ (s.meetCe access part rgn r errs x).pending = s.pending := by
  constructor <;> (simp only [State.meetCe]; (repeat' split) <;> simp)

@[simp ↓] theorem rebuild_tm (s : State) (access part rgn : Nat) (r : Region) (a : Nat) (errs : List MemErr) : (s.rebuild access part rgn r a errs).2.tm = s.tm := by
  (simp -implicitDefEqProofs only [State.rebuild]; repeat' (first | with_reducible rfl | (with_reducible intro _) | split | with_reducible refine (foldl_tm _ _ _ ?_).trans ?_ | simp -implicitDefEqProofs))

@[simp ↓] theorem rebuild_pending (s : State) (access part rgn : Nat) (r : Region) (a : Nat) (errs : List MemErr) : (s.rebuild access part rgn r a errs).2.pending = s.pending := by
  (simp -implicitDefEqProofs only [State.rebuild]; repeat' (first | with_reducible rfl | (with_reducible intro _) | split | with_reducible refine (foldl_pending _ _ _ ?_).trans ?_ | simp -implicitDefEqProofs))

@[simp ↓] theorem readLine_tm (s : State) (rmw : Bool) (access part rgn : Nat) (r : Region) (a : Nat) (errs : List MemErr) : (s.readLine rmw access part rgn r a errs).2.2.tm = s.tm := by
  have hr := rebuild_tm s access part rgn r a errs
  unfold State.readLine
  dsimp only
  generalize s.rebuild access part rgn r a errs = x at hr ⊢
  obtain ⟨_ | v, t⟩ := x <;> (repeat' split) <;> simp_all

@[simp ↓] theorem readLine_pending (s : State) (rmw : Bool) (access part rgn : Nat) (r : Region) (a : Nat) (errs : List MemErr) : (s.readLine rmw access part rgn r a errs).2.2.pending = s.pending := by
  have hr := rebuild_pending s access part rgn r a errs
  unfold State.readLine
  dsimp only
  generalize s.rebuild access part rgn r a errs = x at hr ⊢
  obtain ⟨_ | v, t⟩ := x <;> (repeat' split) <;> simp_all

@[simp ↓] theorem readTag_frame (s : State) (access part rgn : Nat) (r : Region) (g : Nat) (errs : List MemErr) :
    (s.readTag access part rgn r g errs).2.2.tm = s.tm ∧ (s.readTag access part rgn r g errs).2.2.pending = s.pending := by
  constructor <;> (simp only [State.readTag]; (repeat' split) <;> simp)

@[simp ↓] theorem granLines_frame (s : State) (rmw : Bool) (access part rgn : Nat) (r : Region) (g : Nat) (errs : List MemErr) :
    (s.granLines rmw access part rgn r g errs).2.2.tm = s.tm ∧ (s.granLines rmw access part rgn r g errs).2.2.pending = s.pending := by
  constructor <;> (simp -implicitDefEqProofs only [State.granLines]; repeat' (first | with_reducible rfl | (with_reducible intro _) | split | with_reducible refine (foldl_tm _ _ _ ?_).trans ?_ | with_reducible refine (foldl_pending _ _ _ ?_).trans ?_ | with_reducible refine (foldr_tm _ _ _ ?_).trans ?_ | with_reducible refine (foldr_pending _ _ _ ?_).trans ?_ | with_reducible refine (foldq_tm _ _ _ ?_).trans ?_ | with_reducible refine (foldq_pending _ _ _ ?_).trans ?_ | simp -implicitDefEqProofs))

@[simp ↓] theorem granIn_tm (s : State) (rmw : Bool) (access part rgn : Nat) (r : Region) (a : Nat) (errs : List MemErr) : (s.granIn rmw access part rgn r a errs).2.tm = s.tm := by
  simp only [State.granIn]; (repeat' split) <;> simp

@[simp ↓] theorem granIn_pending (s : State) (rmw : Bool) (access part rgn : Nat) (r : Region) (a : Nat) (errs : List MemErr) : (s.granIn rmw access part rgn r a errs).2.pending = s.pending := by
  simp only [State.granIn]; (repeat' split) <;> simp

@[simp ↓] theorem readGranAt_frame (s : State) (access part rgn : Nat) (r : Region) (a : Nat) (errs : List MemErr) :
    (s.readGranAt access part rgn r a errs).2.tm = s.tm ∧ (s.readGranAt access part rgn r a errs).2.pending = s.pending := by
  constructor <;> simp [State.readGranAt]

@[simp ↓] theorem readGran_frame (s : State) (access p addr : Nat) (errs : List MemErr) :
    (s.readGran access p addr errs).2.tm = s.tm ∧ (s.readGran access p addr errs).2.pending = s.pending := by
  constructor <;> (simp only [State.readGran]; (repeat' split) <;> simp)

@[simp ↓] theorem storeParity_tm (s : State) (r : Region) (a : Nat) (new : Bytes) (v : Cover) : (s.storeParity r a new v).tm = s.tm := by
  unfold State.storeParity
  extract_lets
  split
  · rfl
  · rw [setLine_tm, poke_tm]

@[simp ↓] theorem storeParity_pending (s : State) (r : Region) (a : Nat) (new : Bytes) (v : Cover) : (s.storeParity r a new v).pending = s.pending := by
  unfold State.storeParity
  extract_lets
  split
  · rfl
  · rw [setLine_pending, poke_pending]

@[simp ↓] theorem storeLine_frame (s : State) (r : Region) (a : Nat) (new : Bytes) (poison : Bool) (v : Cover) :
    (s.storeLine r a new poison v).tm = s.tm ∧ (s.storeLine r a new poison v).pending = s.pending := by
  constructor <;> (simp only [State.storeLine]; (repeat' split) <;> simp)

@[simp ↓] theorem storeTag_frame (s : State) (r : Region) (g : Nat) (data : Bytes) (v : Cover) :
    (s.storeTag r g data v).tm = s.tm ∧ (s.storeTag r g data v).pending = s.pending := by
  constructor <;> (simp only [State.storeTag]; (repeat' split) <;> simp)

@[simp ↓] theorem storeGran_tm (s : State) (r : Region) (g : Nat) (x : Gran) (v : Cover) : (s.storeGran r g x v).tm = s.tm := by
  (simp -implicitDefEqProofs only [State.storeGran]; repeat' (first | with_reducible rfl | (with_reducible intro _) | split | with_reducible refine (foldl_tm _ _ _ ?_).trans ?_ | simp -implicitDefEqProofs))

@[simp ↓] theorem storeGran_pending (s : State) (r : Region) (g : Nat) (x : Gran) (v : Cover) : (s.storeGran r g x v).pending = s.pending := by
  (simp -implicitDefEqProofs only [State.storeGran]; repeat' (first | with_reducible rfl | (with_reducible intro _) | split | with_reducible refine (foldl_pending _ _ _ ?_).trans ?_ | simp -implicitDefEqProofs))

@[simp ↓] theorem meetOld_tm (s : State) (access part rgn : Nat) (r : Region) (errs : List MemErr) (x : Nat) : (s.meetOld access part rgn r errs x).2.tm = s.tm := by
  have hr := rebuild_tm s access part rgn r x errs
  unfold State.meetOld
  generalize s.rebuild access part rgn r x errs = y at hr ⊢
  obtain ⟨_ | v, t⟩ := y <;> (repeat' split) <;> simp_all

@[simp ↓] theorem meetOld_pending (s : State) (access part rgn : Nat) (r : Region) (errs : List MemErr) (x : Nat) : (s.meetOld access part rgn r errs x).2.pending = s.pending := by
  have hr := rebuild_pending s access part rgn r x errs
  unfold State.meetOld
  generalize s.rebuild access part rgn r x errs = y at hr ⊢
  obtain ⟨_ | v, t⟩ := y <;> (repeat' split) <;> simp_all

@[simp ↓] theorem mergeGran_frame (s : State) (access part rgn : Nat) (r : Region) (a : Nat) (bs : Bytes) (poison : Bool) (v : Cover) :
    (s.mergeGran access part rgn r a bs poison v).2.2.tm = s.tm ∧ (s.mergeGran access part rgn r a bs poison v).2.2.pending = s.pending := by
  constructor <;> (simp -implicitDefEqProofs only [State.mergeGran]; repeat' (first | with_reducible rfl | (with_reducible intro _) | split | with_reducible refine (foldl_tm _ _ _ ?_).trans ?_ | with_reducible refine (foldl_pending _ _ _ ?_).trans ?_ | with_reducible refine (foldr_tm _ _ _ ?_).trans ?_ | with_reducible refine (foldr_pending _ _ _ ?_).trans ?_ | with_reducible refine (foldq_tm _ _ _ ?_).trans ?_ | with_reducible refine (foldq_pending _ _ _ ?_).trans ?_ | simp -implicitDefEqProofs))

@[simp ↓] theorem writeIn_frame (s : State) (access part rgn : Nat) (r : Region) (a : Nat) (bs : Bytes) (poison : Bool) (v : Cover) :
    (s.writeIn access part rgn r a bs poison v).tm = s.tm ∧ (s.writeIn access part rgn r a bs poison v).pending = s.pending := by
  constructor <;> simp [State.writeIn]

@[simp ↓] theorem writeAlloc_frame (s : State) (part rgn : Nat) (r : Region) (a : Nat) (bs : Bytes) (poison : Nat → Bool) (errs : List MemErr) :
    (s.writeAlloc part rgn r a bs poison errs).tm = s.tm ∧ (s.writeAlloc part rgn r a bs poison errs).pending = s.pending := by
  constructor <;> (simp -implicitDefEqProofs only [State.writeAlloc]; repeat' (first | with_reducible rfl | (with_reducible intro _) | split | with_reducible refine (foldl_tm _ _ _ ?_).trans ?_ | with_reducible refine (foldl_pending _ _ _ ?_).trans ?_ | with_reducible refine (foldr_tm _ _ _ ?_).trans ?_ | with_reducible refine (foldr_pending _ _ _ ?_).trans ?_ | simp -implicitDefEqProofs))

theorem writePart_tm (s : State) (p addr : Nat) (bs : Bytes) (poison : Nat → Bool) (errs : List MemErr) : ∀ t, s.writePart p addr bs poison errs = some t → t.tm = s.tm := by intro t h; simp only [State.writePart] at h; (repeat' split at h) <;> (simp at h <;> (try (subst h; simp)))

theorem writePart_pending (s : State) (p addr : Nat) (bs : Bytes) (poison : Nat → Bool) (errs : List MemErr) : ∀ t, s.writePart p addr bs poison errs = some t → t.pending = s.pending := by intro t h; simp only [State.writePart] at h; (repeat' split at h) <;> (simp at h <;> (try (subst h; simp)))

@[simp ↓] theorem writePart_getD_tm (s : State) (q addr : Nat) (bs : Bytes) (b : Nat → Bool) (e : List MemErr) :
    ((s.writePart q addr bs b e).getD s).tm = s.tm := by
  cases h : s.writePart q addr bs b e with
  | none => rfl
  | some t => exact writePart_tm s q addr bs b e t h

@[simp ↓] theorem writePart_getD_pending (s : State) (q addr : Nat) (bs : Bytes) (b : Nat → Bool) (e : List MemErr) :
    ((s.writePart q addr bs b e).getD s).pending = s.pending := by
  cases h : s.writePart q addr bs b e with
  | none => rfl
  | some t => exact writePart_pending s q addr bs b e t h

@[simp ↓] theorem dropStale_tm (s : State) (r : Region) (a : Nat) : (s.dropStale r a).tm = s.tm := by
  simp [State.dropStale]

@[simp ↓] theorem dropStale_pending (s : State) (r : Region) (a : Nat) : (s.dropStale r a).pending = s.pending := by
  simp [State.dropStale]

@[simp ↓] theorem poisonPkt_frame (s : State) (p : Nat) (host : Bool) (gens : List (Nat × Nat)) (e : Nat × Nat × List Bytes) :
    (s.poisonPkt p host gens e).tm = s.tm ∧ (s.poisonPkt p host gens e).pending = s.pending := by
  constructor <;> (simp -implicitDefEqProofs only [State.poisonPkt]; repeat' (first | with_reducible rfl | (with_reducible intro _) | split | with_reducible refine (foldl_tm _ _ _ ?_).trans ?_ | with_reducible refine (foldl_pending _ _ _ ?_).trans ?_ | with_reducible refine (foldr_tm _ _ _ ?_).trans ?_ | with_reducible refine (foldr_pending _ _ _ ?_).trans ?_ | with_reducible refine (foldq_tm _ _ _ ?_).trans ?_ | with_reducible refine (foldq_pending _ _ _ ?_).trans ?_ | simp -implicitDefEqProofs))

@[simp ↓] theorem failRx_frame (s : State) (c : Nat) :
    (s.failRx c).tm = s.tm ∧ (s.failRx c).pending = s.pending := by
  constructor <;> (simp -implicitDefEqProofs only [State.failRx]; repeat' (first | with_reducible rfl | (with_reducible intro _) | split | with_reducible refine (foldl_tm _ _ _ ?_).trans ?_ | with_reducible refine (foldl_pending _ _ _ ?_).trans ?_ | simp -implicitDefEqProofs))

@[simp ↓] theorem noteFail_frame (s : State) (c : Nat) :
    (s.noteFail c).tm = s.tm ∧ (s.noteFail c).pending = s.pending := by
  constructor <;> (simp only [State.noteFail]; (repeat' split) <;> simp)

@[simp ↓] theorem connFail_frame (s : State) (c : Nat) :
    (s.connFail c).tm = s.tm ∧ (s.connFail c).pending = s.pending := by
  constructor <;> (simp only [State.connFail]; (repeat' split) <;> simp)

theorem granFold_tm (rd : State → Nat → Gran × State) (s : State) (n : Nat) (h : ∀ s i, (rd s i).2.tm = s.tm) : (granFold rd s n).2.2.tm = s.tm :=
  foldq_tm _ _ _ fun x a => h x.2.2 a

theorem granFold_pending (rd : State → Nat → Gran × State) (s : State) (n : Nat) (h : ∀ s i, (rd s i).2.pending = s.pending) : (granFold rd s n).2.2.pending = s.pending :=
  foldq_pending _ _ _ fun x a => h x.2.2 a

@[simp ↓] theorem coreGran_tm (p pos first : Nat) (errs : List MemErr) (s : State) (i : Nat) : ((State.coreGran p pos first errs s i).2).tm = s.tm := by
  simp [State.coreGran]

@[simp ↓] theorem coreGran_pending (p pos first : Nat) (errs : List MemErr) (s : State) (i : Nat) : ((State.coreGran p pos first errs s i).2).pending = s.pending := by
  simp [State.coreGran]

@[simp ↓] theorem coreRead_tm (s : State) (p pos off n : Nat) (errs : List MemErr) : (s.coreRead p pos off n errs).2.2.tm = s.tm :=
  by
  unfold State.coreRead
  exact granFold_tm _ _ _ fun s i => coreGran_tm p pos (off / 256) errs s i

@[simp ↓] theorem coreRead_pending (s : State) (p pos off n : Nat) (errs : List MemErr) : (s.coreRead p pos off n errs).2.2.pending = s.pending :=
  by
  unfold State.coreRead
  exact granFold_pending _ _ _ fun s i => coreGran_pending p pos (off / 256) errs s i

@[simp ↓] theorem coreWrite_frame (s : State) (p pos off : Nat) (bs : Bytes) (poison : Bool) (errs : List MemErr) :
    (s.coreWrite p pos off bs poison errs).tm = s.tm ∧ (s.coreWrite p pos off bs poison errs).pending = s.pending := by
  constructor <;> simp [State.coreWrite]

@[simp ↓] theorem trap_frame (s : State) (p event : Nat) (w : W64) :
    (s.trap p event w).tm = s.tm ∧ (s.trap p event w).pending = s.pending := by
  constructor <;> (simp only [State.trap]; (repeat' split) <;> simp)

@[simp ↓] theorem clearAlloc_frame (s : State) (r : Region) :
    (s.clearAlloc r).tm = s.tm ∧ (s.clearAlloc r).pending = s.pending := by
  constructor <;> simp [State.clearAlloc]

@[simp ↓] theorem zeroStores_frame (s : State) (c : Nat) :
    (s.zeroStores c).tm = s.tm ∧ (s.zeroStores c).pending = s.pending := by
  constructor <;> simp [State.zeroStores]

/-! Wipes -/

@[simp ↓] theorem startInit_frame (s : State) (r : Nat) :
    (s.startInit r).tm = s.tm ∧ (s.startInit r).pending = s.pending := by
  constructor <;> simp [State.startInit]

@[simp ↓] theorem traceRegion_frame (s : State) (r point : Nat) :
    (s.traceRegion r point).tm = s.tm ∧ (s.traceRegion r point).pending = s.pending := by
  constructor <;> simp [State.traceRegion]

@[simp ↓] theorem nextGen_frame (s : State) (r : Nat) :
    (s.nextGen r).tm = s.tm ∧ (s.nextGen r).pending = s.pending := by
  constructor <;> simp [State.nextGen]

@[simp ↓] theorem wipeRegion_frame (s : State) (r : Nat) :
    (s.wipeRegion r).2.tm = s.tm ∧ (s.wipeRegion r).2.pending = s.pending := by
  constructor <;> (simp only [State.wipeRegion]; (repeat' split) <;> simp)

@[simp ↓] theorem opWipe_frame (s : State) (p r : Nat) :
    (s.opWipe p r).2.tm = s.tm ∧ (s.opWipe p r).2.pending = s.pending := by
  constructor <;> (simp only [State.opWipe]; (repeat' split) <;> simp)

@[simp ↓] theorem patrolLost_tm (s : State) (access i : Nat) (r : Region) (a : Nat) (errs : List MemErr) : (s.patrolLost access i r a errs).tm = s.tm := by
  simp -implicitDefEqProofs only [State.patrolLost]; (repeat' split) <;> first | (simp; done) | (rename_i h; have h2 := congrArg (fun x => x.2.tm) h; simp at h2; simp [h2]; done) | (rename_i h; have h2 := congrArg (fun x => x.2.tm) h; simp at h2; simp [← h2]; done) | (simp_all; done)

@[simp ↓] theorem patrolLost_pending (s : State) (access i : Nat) (r : Region) (a : Nat) (errs : List MemErr) : (s.patrolLost access i r a errs).pending = s.pending := by
  simp -implicitDefEqProofs only [State.patrolLost]; (repeat' split) <;> first | (simp; done) | (rename_i h; have h2 := congrArg (fun x => x.2.pending) h; simp at h2; simp [h2]; done) | (rename_i h; have h2 := congrArg (fun x => x.2.pending) h; simp at h2; simp [← h2]; done) | (simp_all; done)

@[simp ↓] theorem patrolLine_frame (s : State) (access i : Nat) (r : Region) (errs : List MemErr) (l : Nat) :
    (s.patrolLine access i r errs l).tm = s.tm ∧ (s.patrolLine access i r errs l).pending = s.pending := by
  constructor <;> (simp only [State.patrolLine]; (repeat' split) <;> simp)

@[simp ↓] theorem patrol_frame (s : State) (access i : Nat) (r : Region) (errs : List MemErr) :
    (s.patrol access i r errs).tm = s.tm ∧ (s.patrol access i r errs).pending = s.pending := by
  constructor <;> (simp -implicitDefEqProofs only [State.patrol]; repeat' (first | with_reducible rfl | (with_reducible intro _) | split | with_reducible refine (foldl_tm _ _ _ ?_).trans ?_ | with_reducible refine (foldl_pending _ _ _ ?_).trans ?_ | simp -implicitDefEqProofs))

@[simp ↓] theorem sweepLines_frame (s : State) (q : Region) :
    (s.sweepLines q).tm = s.tm ∧ (s.sweepLines q).pending = s.pending := by
  constructor <;> (simp -implicitDefEqProofs only [State.sweepLines]; repeat' (first | with_reducible rfl | (with_reducible intro _) | split | with_reducible refine (foldl_tm _ _ _ ?_).trans ?_ | with_reducible refine (foldl_pending _ _ _ ?_).trans ?_ | with_reducible refine (foldr_tm _ _ _ ?_).trans ?_ | with_reducible refine (foldr_pending _ _ _ ?_).trans ?_ | simp -implicitDefEqProofs))

@[simp ↓] theorem opSweepDone_frame (s : State) (r : Nat) (errs : List MemErr) :
    (s.opSweepDone r errs).tm = s.tm ∧ (s.opSweepDone r errs).pending = s.pending := by
  constructor <;> (simp -implicitDefEqProofs only [State.opSweepDone]; repeat' (first | with_reducible rfl | (with_reducible intro _) | split | with_reducible refine (whenUp_tm _ _ ?_).trans ?_ | with_reducible refine (whenUp_pending _ _ ?_).trans ?_ | with_reducible refine (foldl_tm _ _ _ ?_).trans ?_ | with_reducible refine (foldl_pending _ _ _ ?_).trans ?_ | simp -implicitDefEqProofs))

@[simp ↓] theorem opInitDone_frame (s : State) (r : Nat) :
    (s.opInitDone r).tm = s.tm ∧ (s.opInitDone r).pending = s.pending := by
  constructor <;> (simp -implicitDefEqProofs only [State.opInitDone]; repeat' (first | with_reducible rfl | (with_reducible intro _) | split | with_reducible refine (whenUp_tm _ _ ?_).trans ?_ | with_reducible refine (whenUp_pending _ _ ?_).trans ?_ | simp -implicitDefEqProofs))

@[simp ↓] theorem opScrub_frame (s : State) (i : Nat) (errs : List MemErr) :
    (s.opScrub i errs).tm = s.tm ∧ (s.opScrub i errs).pending = s.pending := by
  constructor <;> (simp -implicitDefEqProofs only [State.opScrub]; repeat' (first | with_reducible rfl | (with_reducible intro _) | split | with_reducible refine (whenUp_tm _ _ ?_).trans ?_ | with_reducible refine (whenUp_pending _ _ ?_).trans ?_ | with_reducible refine (foldl_tm _ _ _ ?_).trans ?_ | with_reducible refine (foldl_pending _ _ _ ?_).trans ?_ | simp -implicitDefEqProofs))

/-! Teardown -/

@[simp ↓] theorem resetSlot_frame (s : State) (cl slot : Nat) :
    (s.resetSlot cl slot).tm = s.tm ∧ (s.resetSlot cl slot).pending = s.pending := by
  constructor <;> (simp only [State.resetSlot]; (repeat' split) <;> simp)

@[simp ↓] theorem resetCluster_frame (s : State) (cl : Nat) :
    (s.resetCluster cl).tm = s.tm ∧ (s.resetCluster cl).pending = s.pending := by
  constructor <;> (simp -implicitDefEqProofs only [State.resetCluster]; repeat' (first | with_reducible rfl | (with_reducible intro _) | split | with_reducible refine (foldl_tm _ _ _ ?_).trans ?_ | with_reducible refine (foldl_pending _ _ _ ?_).trans ?_ | simp -implicitDefEqProofs))

@[simp ↓] theorem dumpTrigger_frame (s : State) (event unit : Nat) (reset : List Nat) :
    (s.dumpTrigger event unit reset).tm = s.tm ∧ (s.dumpTrigger event unit reset).pending = s.pending := by
  constructor <;> (simp only [State.dumpTrigger]; (repeat' split) <;> simp)

@[simp ↓] theorem columnFault_frame (s : State) (c : Nat) :
    (s.columnFault c).tm = s.tm ∧ (s.columnFault c).pending = s.pending := by
  constructor <;> (simp -implicitDefEqProofs only [State.columnFault]; repeat' (first | with_reducible rfl | (with_reducible intro _) | split | with_reducible refine (foldl_tm _ _ _ ?_).trans ?_ | with_reducible refine (foldl_pending _ _ _ ?_).trans ?_ | simp -implicitDefEqProofs))

@[simp ↓] theorem takeover_frame (s : State) (c : Nat) :
    (s.takeover c).tm = s.tm ∧ (s.takeover c).pending = s.pending := by
  constructor <;> (simp only [State.takeover]; (repeat' split) <;> simp)

@[simp ↓] theorem resetPositions_frame (s : State) (c : Nat) :
    (s.resetPositions c).tm = s.tm ∧ (s.resetPositions c).pending = s.pending := by
  constructor <;> (simp -implicitDefEqProofs only [State.resetPositions]; repeat' (first | with_reducible rfl | (with_reducible intro _) | split | with_reducible refine (foldl_tm _ _ _ ?_).trans ?_ | with_reducible refine (foldl_pending _ _ _ ?_).trans ?_ | simp -implicitDefEqProofs))

@[simp ↓] theorem resetClusters_frame (s : State) (c : Nat) :
    (s.resetClusters c).tm = s.tm ∧ (s.resetClusters c).pending = s.pending := by
  constructor <;> (simp -implicitDefEqProofs only [State.resetClusters]; repeat' (first | with_reducible rfl | (with_reducible intro _) | split | with_reducible refine (foldl_tm _ _ _ ?_).trans ?_ | with_reducible refine (foldl_pending _ _ _ ?_).trans ?_ | simp -implicitDefEqProofs))

@[simp ↓] theorem dropRuns_frame (s : State) (c : Nat) :
    (s.dropRuns c).tm = s.tm ∧ (s.dropRuns c).pending = s.pending := by
  constructor <;> (simp -implicitDefEqProofs only [State.dropRuns]; repeat' (first | with_reducible rfl | (with_reducible intro _) | split | with_reducible refine (foldl_tm _ _ _ ?_).trans ?_ | with_reducible refine (foldl_pending _ _ _ ?_).trans ?_ | simp -implicitDefEqProofs))

@[simp ↓] theorem resetBase_frame (s : State) (c : Nat) :
    (s.resetBase c).tm = s.tm ∧ (s.resetBase c).pending = s.pending := by
  constructor <;> (simp -implicitDefEqProofs only [State.resetBase]; repeat' (first | with_reducible rfl | (with_reducible intro _) | split | with_reducible refine (foldl_tm _ _ _ ?_).trans ?_ | with_reducible refine (foldl_pending _ _ _ ?_).trans ?_ | simp -implicitDefEqProofs))

@[simp ↓] theorem resetDies_frame (s : State) (c : Nat) :
    (s.resetDies c).tm = s.tm ∧ (s.resetDies c).pending = s.pending := by
  constructor <;> simp [State.resetDies]

@[simp ↓] theorem columnReset_frame (s : State) (c : Nat) (pass : Bool) :
    (s.columnReset c pass).tm = s.tm ∧ (s.columnReset c pass).pending = s.pending := by
  constructor <;> (simp -implicitDefEqProofs only [State.columnReset]; repeat' (first | with_reducible rfl | (with_reducible intro _) | split | with_reducible refine (foldl_tm _ _ _ ?_).trans ?_ | with_reducible refine (foldl_pending _ _ _ ?_).trans ?_ | with_reducible refine (foldr_tm _ _ _ ?_).trans ?_ | with_reducible refine (foldr_pending _ _ _ ?_).trans ?_ | simp -implicitDefEqProofs))

@[simp ↓] theorem traceTear_frame (s : State) (p step : Nat) :
    (s.traceTear p step).tm = s.tm ∧ (s.traceTear p step).pending = s.pending := by
  constructor <;> simp [State.traceTear]

@[simp ↓] theorem startTear_frame (s : State) (p : Nat) (remove : Bool) :
    (s.startTear p remove).tm = s.tm ∧ (s.startTear p remove).pending = s.pending := by
  constructor <;> (simp -implicitDefEqProofs only [State.startTear]; repeat' (first | with_reducible rfl | (with_reducible intro _) | split | with_reducible refine (foldl_tm _ _ _ ?_).trans ?_ | with_reducible refine (foldl_pending _ _ _ ?_).trans ?_ | with_reducible refine (foldr_tm _ _ _ ?_).trans ?_ | with_reducible refine (foldr_pending _ _ _ ?_).trans ?_ | simp -implicitDefEqProofs))

@[simp ↓] theorem tearOn_frame (s : State) (p : Nat) :
    (s.tearOn p).tm = s.tm ∧ (s.tearOn p).pending = s.pending := by
  constructor <;> (simp -implicitDefEqProofs only [State.tearOn]; repeat' (first | with_reducible rfl | (with_reducible intro _) | split | with_reducible refine (foldl_tm _ _ _ ?_).trans ?_ | with_reducible refine (foldl_pending _ _ _ ?_).trans ?_ | with_reducible refine (foldr_tm _ _ _ ?_).trans ?_ | with_reducible refine (foldr_pending _ _ _ ?_).trans ?_ | simp -implicitDefEqProofs))

@[simp ↓] theorem teardown_frame (s : State) (p : Nat) (remove : Bool) :
    (s.teardown p remove).tm = s.tm ∧ (s.teardown p remove).pending = s.pending := by
  constructor <;> simp [State.teardown]

@[simp ↓] theorem tearClosed_frame (s : State) (c : Nat) :
    (s.tearClosed c).tm = s.tm ∧ (s.tearClosed c).pending = s.pending := by
  constructor <;> (simp -implicitDefEqProofs only [State.tearClosed]; repeat' (first | with_reducible rfl | (with_reducible intro _) | split | with_reducible refine (foldl_tm _ _ _ ?_).trans ?_ | with_reducible refine (foldl_pending _ _ _ ?_).trans ?_ | simp -implicitDefEqProofs))

@[simp ↓] theorem opPeerTimeout_frame (s : State) (p : Nat) :
    (s.opPeerTimeout p).tm = s.tm ∧ (s.opPeerTimeout p).pending = s.pending := by
  constructor <;> (simp -implicitDefEqProofs only [State.opPeerTimeout]; repeat' (first | with_reducible rfl | (with_reducible intro _) | split | with_reducible refine (whenUp_tm _ _ ?_).trans ?_ | with_reducible refine (whenUp_pending _ _ ?_).trans ?_ | with_reducible refine (foldl_tm _ _ _ ?_).trans ?_ | with_reducible refine (foldl_pending _ _ _ ?_).trans ?_ | simp -implicitDefEqProofs))

@[simp ↓] theorem tearClear_frame (s : State) (p : Nat) :
    (s.tearClear p).tm = s.tm ∧ (s.tearClear p).pending = s.pending := by
  constructor <;> (simp -implicitDefEqProofs only [State.tearClear]; repeat' (first | with_reducible rfl | (with_reducible intro _) | split | with_reducible refine (foldl_tm _ _ _ ?_).trans ?_ | with_reducible refine (foldl_pending _ _ _ ?_).trans ?_ | with_reducible refine (foldr_tm _ _ _ ?_).trans ?_ | with_reducible refine (foldr_pending _ _ _ ?_).trans ?_ | simp -implicitDefEqProofs))

@[simp ↓] theorem tearFree_frame (s : State) (p : Nat) :
    (s.tearFree p).tm = s.tm ∧ (s.tearFree p).pending = s.pending := by
  constructor <;> (simp -implicitDefEqProofs only [State.tearFree]; repeat' (first | with_reducible rfl | (with_reducible intro _) | split | with_reducible refine (foldl_tm _ _ _ ?_).trans ?_ | with_reducible refine (foldl_pending _ _ _ ?_).trans ?_ | simp -implicitDefEqProofs))

@[simp ↓] theorem tearDone_frame (s : State) (p : Nat) :
    (s.tearDone p).tm = s.tm ∧ (s.tearDone p).pending = s.pending := by
  constructor <;> (simp only [State.tearDone]; (repeat' split) <;> simp)

@[simp ↓] theorem opDrainStuck_frame (s : State) (p : Nat) :
    (s.opDrainStuck p).tm = s.tm ∧ (s.opDrainStuck p).pending = s.pending := by
  constructor <;> (simp -implicitDefEqProofs only [State.opDrainStuck]; repeat' (first | with_reducible rfl | (with_reducible intro _) | split | with_reducible refine (whenUp_tm _ _ ?_).trans ?_ | with_reducible refine (whenUp_pending _ _ ?_).trans ?_ | with_reducible refine (foldl_tm _ _ _ ?_).trans ?_ | with_reducible refine (foldl_pending _ _ _ ?_).trans ?_ | simp -implicitDefEqProofs))

@[simp ↓] theorem opDrainColumn_frame (s : State) (p c : Nat) :
    (s.opDrainColumn p c).tm = s.tm ∧ (s.opDrainColumn p c).pending = s.pending := by
  constructor <;> (simp -implicitDefEqProofs only [State.opDrainColumn]; repeat' (first | with_reducible rfl | (with_reducible intro _) | split | with_reducible refine (whenUp_tm _ _ ?_).trans ?_ | with_reducible refine (whenUp_pending _ _ ?_).trans ?_ | simp -implicitDefEqProofs))

@[simp ↓] theorem opColumnReset_frame (s : State) (c : Nat) (pass : Bool) :
    (s.opColumnReset c pass).tm = s.tm ∧ (s.opColumnReset c pass).pending = s.pending := by
  constructor <;> (simp -implicitDefEqProofs only [State.opColumnReset]; repeat' (first | with_reducible rfl | (with_reducible intro _) | split | with_reducible refine (whenUp_tm _ _ ?_).trans ?_ | with_reducible refine (whenUp_pending _ _ ?_).trans ?_ | simp -implicitDefEqProofs))

end Sys2Proof.Machine
end

