-- ==== Sys2Proof/Laws/FrameModule.lean ====
section
/-! SUPPORT. Frames of power, security, firmware and faults: which operations leave module time and the queue of commands alone. -/
namespace Sys2Proof.Machine

/-! Power -/

@[simp ↓] theorem powerRemoved_pending (s : State) (ph : Phase) : (s.powerRemoved ph).pending = s.pending := by
  simp [State.powerRemoved]

@[simp ↓] theorem pinFiltered_frame (s : State) (pin : Nat) :
    (s.pinFiltered pin).tm = s.tm ∧ (s.pinFiltered pin).pending = s.pending := by
  constructor <;> (simp only [State.pinFiltered]; (repeat' split) <;> simp)

@[simp ↓] theorem pinSet_frame (s : State) (pin : Nat) (active : Bool) :
    (s.pinSet pin active).tm = s.tm ∧ (s.pinSet pin active).pending = s.pending := by
  constructor <;> simp [State.pinSet]

@[simp ↓] theorem tracePower_frame (s t : State) :
    (s.tracePower t).tm = t.tm ∧ (s.tracePower t).pending = t.pending := by
  constructor <;> (simp -implicitDefEqProofs only [State.tracePower]; repeat' (first | with_reducible rfl | (with_reducible intro _) | split | with_reducible refine (foldl_tm _ _ _ ?_).trans ?_ | with_reducible refine (foldl_pending _ _ _ ?_).trans ?_ | simp -implicitDefEqProofs))

@[simp ↓] theorem applyFloor_frame (s : State) (cause : Nat) :
    (s.applyFloor cause).tm = s.tm ∧ (s.applyFloor cause).pending = s.pending := by
  constructor <;> (simp -implicitDefEqProofs only [State.applyFloor]; repeat' (first | with_reducible rfl | (with_reducible intro _) | split | with_reducible refine (foldl_tm _ _ _ ?_).trans ?_ | with_reducible refine (foldl_pending _ _ _ ?_).trans ?_ | simp -implicitDefEqProofs))

@[simp ↓] theorem opModEn_frame (s : State) (us : Nat) :
    (s.opModEn us).tm = s.tm ∧ (s.opModEn us).pending = s.pending := by
  constructor <;> (simp only [State.opModEn]; (repeat' split) <;> simp)

@[simp ↓] theorem opModDis_frame (s : State) (us : Nat) :
    (s.opModDis us).tm = s.tm ∧ (s.opModDis us).pending = s.pending := by
  constructor <;> (simp only [State.opModDis]; (repeat' split) <;> simp)

@[simp ↓] theorem opRegOff_pending (s : State) : s.opRegOff.pending = s.pending := by
  simp only [State.opRegOff]; (repeat' split) <;> simp

@[simp ↓] theorem opThrot_frame (s : State) (ns : Nat) :
    (s.opThrot ns).tm = s.tm ∧ (s.opThrot ns).pending = s.pending := by
  constructor <;> (simp -implicitDefEqProofs only [State.opThrot]; repeat' (first | with_reducible rfl | (with_reducible intro _) | split | with_reducible refine (whenUp_tm _ _ ?_).trans ?_ | with_reducible refine (whenUp_pending _ _ ?_).trans ?_ | simp -implicitDefEqProofs))

@[simp ↓] theorem opUnthrot_frame (s : State) (ns : Nat) :
    (s.opUnthrot ns).tm = s.tm ∧ (s.opUnthrot ns).pending = s.pending := by
  constructor <;> (simp -implicitDefEqProofs only [State.opUnthrot]; repeat' (first | with_reducible rfl | (with_reducible intro _) | split | with_reducible refine (whenUp_tm _ _ ?_).trans ?_ | with_reducible refine (whenUp_pending _ _ ?_).trans ?_ | simp -implicitDefEqProofs))

@[simp ↓] theorem throtDue_frame (s : State) :
    s.throtDue.tm = s.tm ∧ s.throtDue.pending = s.pending := by
  constructor <;> (simp only [State.throtDue]; (repeat' split) <;> simp)

@[simp ↓] theorem tick_pending (s : State) : s.tick.pending = s.pending := by
  simp [State.tick]

@[simp ↓] theorem opPinHeld_pending (s : State) (pin : Nat) : (s.opPinHeld pin).pending = s.pending := by
  (simp -implicitDefEqProofs only [State.opPinHeld]; repeat' (first | with_reducible rfl | (with_reducible intro _) | split | with_reducible refine (whenBased_pending _ _ ?_).trans ?_ | simp -implicitDefEqProofs))

@[simp ↓] theorem freeDrift_frame (s : State) :
    s.freeDrift.2.tm = s.tm ∧ s.freeDrift.2.pending = s.pending := by
  constructor <;> simp [State.freeDrift]

@[simp ↓] theorem opPps_pending (s : State) (ns : Nat) : (s.opPps ns).pending = s.pending := by
  (simp -implicitDefEqProofs only [State.opPps]; repeat' (first | with_reducible rfl | (with_reducible intro _) | split | with_reducible refine (whenUp_pending _ _ ?_).trans ?_ | simp -implicitDefEqProofs))

@[simp ↓] theorem sensed_frame (s : State) (m : PowerIn) :
    (s.sensed m).tm = s.tm ∧ (s.sensed m).pending = s.pending := by
  constructor <;> simp [State.sensed]

@[simp ↓] theorem traceAct_tm (s : State) (build : W64) : (s.traceAct build).tm = s.tm := by
  simp [State.traceAct]

@[simp ↓] theorem traceAct_pending (s : State) (build : W64) : (s.traceAct build).pending = s.pending := by
  simp [State.traceAct]

@[simp ↓] theorem actDefer_frame (s : State) :
    s.actDefer.tm = s.tm ∧ s.actDefer.pending = s.pending := by
  constructor <;> (simp only [State.actDefer]; (repeat' split) <;> simp)

@[simp ↓] theorem actAwaits_frame (s : State) (p : Nat) :
    (s.actAwaits p).tm = s.tm ∧ (s.actAwaits p).pending = s.pending := by
  constructor <;> (simp only [State.actAwaits]; (repeat' split) <;> simp)

@[simp ↓] theorem actResume_frame (s : State) :
    s.actResume.tm = s.tm ∧ s.actResume.pending = s.pending := by
  constructor <;> (simp only [State.actResume]; (repeat' split) <;> simp)

@[simp ↓] theorem opPowerEmergency_frame (s : State) (m : PowerIn) (us : Nat) :
    (s.opPowerEmergency m us).tm = s.tm ∧ (s.opPowerEmergency m us).pending = s.pending := by
  constructor <;> (simp -implicitDefEqProofs only [State.opPowerEmergency]; repeat' (first | with_reducible rfl | (with_reducible intro _) | split | with_reducible refine (whenBased_tm _ _ ?_).trans ?_ | with_reducible refine (whenBased_pending _ _ ?_).trans ?_ | simp -implicitDefEqProofs))

@[simp ↓] theorem opPowerClear_frame (s : State) (m : PowerIn) (ms : Nat) :
    (s.opPowerClear m ms).tm = s.tm ∧ (s.opPowerClear m ms).pending = s.pending := by
  constructor <;> (simp -implicitDefEqProofs only [State.opPowerClear]; repeat' (first | with_reducible rfl | (with_reducible intro _) | split | with_reducible refine (whenBased_tm _ _ ?_).trans ?_ | with_reducible refine (whenBased_pending _ _ ?_).trans ?_ | simp -implicitDefEqProofs))

@[simp ↓] theorem opSag_frame (s : State) (low : Nat) (m : PowerIn) (us : Nat) :
    (s.opSag low m us).tm = s.tm ∧ (s.opSag low m us).pending = s.pending := by
  constructor <;> (simp -implicitDefEqProofs only [State.opSag]; repeat' (first | with_reducible rfl | (with_reducible intro _) | split | with_reducible refine (whenBased_tm _ _ ?_).trans ?_ | with_reducible refine (whenBased_pending _ _ ?_).trans ?_ | simp -implicitDefEqProofs))

@[simp ↓] theorem opBrownOut_pending (s : State) (volts us : Nat) : (s.opBrownOut volts us).pending = s.pending := by
  simp only [State.opBrownOut]; (repeat' split) <;> simp

@[simp ↓] theorem opOverVoltage_pending (s : State) (volts us : Nat) : (s.opOverVoltage volts us).pending = s.pending := by
  simp only [State.opOverVoltage]; (repeat' split) <;> simp

@[simp ↓] theorem opPhaseFail_frame (s : State) (conv : Bool) (unit volts : Nat) :
    (s.opPhaseFail conv unit volts).tm = s.tm ∧ (s.opPhaseFail conv unit volts).pending = s.pending := by
  constructor <;> (simp -implicitDefEqProofs only [State.opPhaseFail]; repeat' (first | with_reducible rfl | (with_reducible intro _) | split | with_reducible refine (whenBased_tm _ _ ?_).trans ?_ | with_reducible refine (whenBased_pending _ _ ?_).trans ?_ | simp -implicitDefEqProofs))

@[simp ↓] theorem tickCol_frame (s : State) (c : Nat) (m : ColMeasure) :
    (s.tickCol c m).tm = s.tm ∧ (s.tickCol c m).pending = s.pending := by
  constructor <;> (simp only [State.tickCol]; (repeat' split) <;> simp)

@[simp ↓] theorem contractCol_frame (s : State) (c : Nat) :
    (s.contractCol c).tm = s.tm ∧ (s.contractCol c).pending = s.pending := by
  constructor <;> (simp only [State.contractCol]; (repeat' split) <;> simp)

@[simp ↓] theorem opTick_frame (s : State) (cols : List ColMeasure) :
    (s.opTick cols).tm = s.tm ∧ (s.opTick cols).pending = s.pending := by
  constructor <;> (simp -implicitDefEqProofs only [State.opTick]; repeat' (first | with_reducible rfl | (with_reducible intro _) | split | with_reducible refine (whenBased_tm _ _ ?_).trans ?_ | with_reducible refine (whenBased_pending _ _ ?_).trans ?_ | with_reducible refine (foldl_tm _ _ _ ?_).trans ?_ | with_reducible refine (foldl_pending _ _ _ ?_).trans ?_ | with_reducible refine (foldr_tm _ _ _ ?_).trans ?_ | with_reducible refine (foldr_pending _ _ _ ?_).trans ?_ | simp -implicitDefEqProofs))

@[simp ↓] theorem opFast_frame (s : State) (m : PowerIn) :
    (s.opFast m).tm = s.tm ∧ (s.opFast m).pending = s.pending := by
  constructor <;> (simp -implicitDefEqProofs only [State.opFast]; repeat' (first | with_reducible rfl | (with_reducible intro _) | split | with_reducible refine (whenBased_tm _ _ ?_).trans ?_ | with_reducible refine (whenBased_pending _ _ ?_).trans ?_ | with_reducible refine (foldl_tm _ _ _ ?_).trans ?_ | with_reducible refine (foldl_pending _ _ _ ?_).trans ?_ | simp -implicitDefEqProofs))

@[simp ↓] theorem opThermal_frame (s : State) (tj : List Nat) :
    (s.opThermal tj).tm = s.tm ∧ (s.opThermal tj).pending = s.pending := by
  constructor <;> (simp -implicitDefEqProofs only [State.opThermal]; repeat' (first | with_reducible rfl | (with_reducible intro _) | split | with_reducible refine (whenBased_tm _ _ ?_).trans ?_ | with_reducible refine (whenBased_pending _ _ ?_).trans ?_ | with_reducible refine (foldl_tm _ _ _ ?_).trans ?_ | with_reducible refine (foldl_pending _ _ _ ?_).trans ?_ | with_reducible refine (foldr_tm _ _ _ ?_).trans ?_ | with_reducible refine (foldr_pending _ _ _ ?_).trans ?_ | simp -implicitDefEqProofs))

@[simp ↓] theorem opThermalClear_frame (s : State) :
    s.opThermalClear.tm = s.tm ∧ s.opThermalClear.pending = s.pending := by
  constructor <;> (simp -implicitDefEqProofs only [State.opThermalClear]; repeat' (first | with_reducible rfl | (with_reducible intro _) | split | with_reducible refine (whenBased_tm _ _ ?_).trans ?_ | with_reducible refine (whenBased_pending _ _ ?_).trans ?_ | simp -implicitDefEqProofs))

@[simp ↓] theorem opTrip_pending (s : State) (ms regTemp : Nat) : (s.opTrip ms regTemp).pending = s.pending := by
  (simp -implicitDefEqProofs only [State.opTrip]; repeat' (first | with_reducible rfl | (with_reducible intro _) | split | with_reducible refine (whenUp_pending _ _ ?_).trans ?_ | simp -implicitDefEqProofs))

@[simp ↓] theorem opCoolant_frame (s : State) (inlet outlet watts : Nat) :
    (s.opCoolant inlet outlet watts).tm = s.tm ∧ (s.opCoolant inlet outlet watts).pending = s.pending := by
  constructor <;> (simp -implicitDefEqProofs only [State.opCoolant]; repeat' (first | with_reducible rfl | (with_reducible intro _) | split | with_reducible refine (whenBased_tm _ _ ?_).trans ?_ | with_reducible refine (whenBased_pending _ _ ?_).trans ?_ | simp -implicitDefEqProofs))

@[simp ↓] theorem opCoolantWarn_frame (s : State) :
    s.opCoolantWarn.tm = s.tm ∧ s.opCoolantWarn.pending = s.pending := by
  constructor <;> (simp -implicitDefEqProofs only [State.opCoolantWarn]; repeat' (first | with_reducible rfl | (with_reducible intro _) | split | with_reducible refine (whenBased_tm _ _ ?_).trans ?_ | with_reducible refine (whenBased_pending _ _ ?_).trans ?_ | simp -implicitDefEqProofs))

@[simp ↓] theorem opLife_frame (s : State) (recs : List LifeRec) :
    (s.opLife recs).tm = s.tm ∧ (s.opLife recs).pending = s.pending := by
  constructor <;> (simp -implicitDefEqProofs only [State.opLife]; repeat' (first | with_reducible rfl | (with_reducible intro _) | split | with_reducible refine (whenBased_tm _ _ ?_).trans ?_ | with_reducible refine (whenBased_pending _ _ ?_).trans ?_ | with_reducible refine (foldl_tm _ _ _ ?_).trans ?_ | with_reducible refine (foldl_pending _ _ _ ?_).trans ?_ | simp -implicitDefEqProofs))

@[simp ↓] theorem opRemoveRequest_frame (s : State) :
    s.opRemoveRequest.tm = s.tm ∧ s.opRemoveRequest.pending = s.pending := by
  constructor <;> (simp only [State.opRemoveRequest]; (repeat' split) <;> simp)

@[simp ↓] theorem opRemoveCancel_frame (s : State) :
    s.opRemoveCancel.tm = s.tm ∧ s.opRemoveCancel.pending = s.pending := by
  constructor <;> (simp only [State.opRemoveCancel]; (repeat' split) <;> simp)

@[simp ↓] theorem opRemoveReady_frame (s : State) :
    s.opRemoveReady.tm = s.tm ∧ s.opRemoveReady.pending = s.pending := by
  constructor <;> (simp -implicitDefEqProofs only [State.opRemoveReady]; repeat' (first | with_reducible rfl | (with_reducible intro _) | split | with_reducible refine (whenBased_tm _ _ ?_).trans ?_ | with_reducible refine (whenBased_pending _ _ ?_).trans ?_ | simp -implicitDefEqProofs))

/-! Security -/

@[simp ↓] theorem measure_tm (s : State) (kind part seq id : Nat) (digest : Bytes) : (s.measure kind part seq id digest).tm = s.tm := by
  simp [State.measure]

@[simp ↓] theorem measure_pending (s : State) (kind part seq id : Nat) (digest : Bytes) : (s.measure kind part seq id digest).pending = s.pending := by
  simp [State.measure]

@[simp ↓] theorem writeSec_tm (s : State) (f : SecRec → SecRec) : (s.writeSec f).tm = s.tm := by
  simp only [State.writeSec]; (repeat' split) <;> simp

@[simp ↓] theorem writeSec_pending (s : State) (f : SecRec → SecRec) : (s.writeSec f).pending = s.pending := by
  simp only [State.writeSec]; (repeat' split) <;> simp

@[simp ↓] theorem writeSeq_frame (s : State) :
    s.writeSeq.tm = s.tm ∧ s.writeSeq.pending = s.pending := by
  constructor <;> (simp only [State.writeSeq]; (repeat' split) <;> simp)

@[simp ↓] theorem rollback_frame (s : State) :
    s.rollback.tm = s.tm ∧ s.rollback.pending = s.pending := by
  constructor <;> (simp -implicitDefEqProofs only [State.rollback]; repeat' (first | with_reducible rfl | (with_reducible intro _) | split | with_reducible refine (foldl_tm _ _ _ ?_).trans ?_ | with_reducible refine (foldl_pending _ _ _ ?_).trans ?_ | simp -implicitDefEqProofs))

@[simp ↓] theorem zeroise_frame (s : State) :
    s.zeroise.tm = s.tm ∧ s.zeroise.pending = s.pending := by
  constructor <;> (simp -implicitDefEqProofs only [State.zeroise]; repeat' (first | with_reducible rfl | (with_reducible intro _) | split | with_reducible refine (foldl_tm _ _ _ ?_).trans ?_ | with_reducible refine (foldl_pending _ _ _ ?_).trans ?_ | with_reducible refine (foldr_tm _ _ _ ?_).trans ?_ | with_reducible refine (foldr_pending _ _ _ ?_).trans ?_ | simp -implicitDefEqProofs))

@[simp ↓] theorem alarm_tm (s : State) (source : Nat) : (s.alarm source).tm = s.tm := by
  simp only [State.alarm]; (repeat' split) <;> simp

@[simp ↓] theorem alarm_pending (s : State) (source : Nat) : (s.alarm source).pending = s.pending := by
  simp only [State.alarm]; (repeat' split) <;> simp

@[simp ↓] theorem opDigest_frame (s : State) (upset : Nat) :
    (s.opDigest upset).tm = s.tm ∧ (s.opDigest upset).pending = s.pending := by
  constructor <;> (simp -implicitDefEqProofs only [State.opDigest]; repeat' (first | with_reducible rfl | (with_reducible intro _) | split | with_reducible refine (whenBased_tm _ _ ?_).trans ?_ | with_reducible refine (whenBased_pending _ _ ?_).trans ?_ | simp -implicitDefEqProofs))

/-! Firmware -/

@[simp ↓] theorem raiseMgmt_tm (s : State) : s.raiseMgmt.tm = s.tm := by unfold State.raiseMgmt; rfl

@[simp ↓] theorem raiseMgmt_pending (s : State) : s.raiseMgmt.pending = s.pending := by unfold State.raiseMgmt; rfl

@[simp ↓] theorem raiseMgmt_pwr (s : State) : s.raiseMgmt.pwr = s.pwr := by unfold State.raiseMgmt; rfl

@[simp ↓] theorem raiseMgmt_dev (s : State) : s.raiseMgmt.dev = s.dev := by unfold State.raiseMgmt; rfl

@[simp ↓] theorem raiseMgmt_stew (s : State) : s.raiseMgmt.stew = s.stew := by unfold State.raiseMgmt; rfl

@[simp ↓] theorem raiseMgmt_cols (s : State) : s.raiseMgmt.cols = s.cols := by unfold State.raiseMgmt; rfl

@[simp ↓] theorem raiseMgmt_flash (s : State) : s.raiseMgmt.flash = s.flash := by unfold State.raiseMgmt; rfl

@[simp ↓] theorem raiseMgmt_fw (s : State) : s.raiseMgmt.fw = s.fw := by unfold State.raiseMgmt; rfl

@[simp ↓] theorem raiseMgmt_xsi (s : State) : s.raiseMgmt.xsi = s.xsi := by unfold State.raiseMgmt; rfl

@[simp ↓] theorem raiseMgmt_mem (s : State) : s.raiseMgmt.mem = s.mem := by unfold State.raiseMgmt; rfl

@[simp ↓] theorem raiseMgmt_parts (s : State) : s.raiseMgmt.parts = s.parts := by unfold State.raiseMgmt; rfl

@[simp ↓] theorem raiseMgmt_slots (s : State) : s.raiseMgmt.slots = s.slots := by unfold State.raiseMgmt; rfl

@[simp ↓] theorem raiseMgmt_pos (s : State) : s.raiseMgmt.pos = s.pos := by unfold State.raiseMgmt; rfl

@[simp ↓] theorem raiseMgmt_cls (s : State) : s.raiseMgmt.cls = s.cls := by unfold State.raiseMgmt; rfl

@[simp ↓] theorem raiseMgmt_free (s : State) : s.raiseMgmt.free = s.free := by unfold State.raiseMgmt; rfl

@[simp ↓] theorem raiseMgmt_net (s : State) : s.raiseMgmt.net = { s.net with mgmtUp := true, mgmt := mgmtPlane } := by unfold State.raiseMgmt; rfl

@[simp ↓] theorem romSequence_frame (s : State) :
    s.romSequence.tm = s.tm ∧ s.romSequence.pending = s.pending := by
  constructor <;> (simp only [State.romSequence]; (repeat' split) <;> simp)

@[simp ↓] theorem romAlarms_frame (s : State) :
    s.romAlarms.tm = s.tm ∧ s.romAlarms.pending = s.pending := by
  constructor <;> (simp only [State.romAlarms]; (repeat' split) <;> simp)

@[simp ↓] theorem pinsSampled_frame (s : State) :
    s.pinsSampled.tm = s.tm ∧ s.pinsSampled.pending = s.pending := by
  constructor <;> (simp only [State.pinsSampled]; (repeat' split) <;> simp)

@[simp ↓] theorem opPowerUp_frame (s : State) (rom shares : Nat) :
    (s.opPowerUp rom shares).tm = s.tm ∧ (s.opPowerUp rom shares).pending = s.pending := by
  constructor <;> (simp -implicitDefEqProofs only [State.opPowerUp]; repeat' (first | with_reducible rfl | (with_reducible intro _) | split | with_reducible refine (foldl_tm _ _ _ ?_).trans ?_ | with_reducible refine (foldl_pending _ _ _ ?_).trans ?_ | simp -implicitDefEqProofs))

@[simp ↓] theorem opBaseStart_frame (s : State) :
    s.opBaseStart.tm = s.tm ∧ s.opBaseStart.pending = s.pending := by
  constructor <;> (simp -implicitDefEqProofs only [State.opBaseStart]; repeat' (first | with_reducible rfl | (with_reducible intro _) | split | with_reducible refine (whenUp_tm _ _ ?_).trans ?_ | with_reducible refine (whenUp_pending _ _ ?_).trans ?_ | with_reducible refine (foldl_tm _ _ _ ?_).trans ?_ | with_reducible refine (foldl_pending _ _ _ ?_).trans ?_ | simp -implicitDefEqProofs))

@[simp ↓] theorem startPassed_frame (s : State) :
    s.startPassed.tm = s.tm ∧ s.startPassed.pending = s.pending := by
  constructor <;> (simp only [State.startPassed]; (repeat' split) <;> simp)

@[simp ↓] theorem noteSelftest_frame (s : State) (c : Nat) (ok : Bool) :
    (s.noteSelftest c ok).tm = s.tm ∧ (s.noteSelftest c ok).pending = s.pending := by
  constructor <;> simp [State.noteSelftest]

@[simp ↓] theorem opSelftest_frame (s : State) (c : Nat) (pass : Bool) :
    (s.opSelftest c pass).tm = s.tm ∧ (s.opSelftest c pass).pending = s.pending := by
  constructor <;> (simp -implicitDefEqProofs only [State.opSelftest]; repeat' (first | with_reducible rfl | (with_reducible intro _) | split | with_reducible refine (whenUp_tm _ _ ?_).trans ?_ | with_reducible refine (whenUp_pending _ _ ?_).trans ?_ | simp -implicitDefEqProofs))

@[simp ↓] theorem warmReset_pending (s : State) (source : Nat) : (s.warmReset source).pending = s.pending := by
  (simp -implicitDefEqProofs only [State.warmReset]; repeat' (first | with_reducible rfl | (with_reducible intro _) | split | with_reducible refine (foldl_pending _ _ _ ?_).trans ?_ | simp -implicitDefEqProofs))

@[simp ↓] theorem startWarm_pending (s : State) (source : Nat) : (s.startWarm source).pending = s.pending := by
  simp only [State.startWarm]; (repeat' split) <;> simp

@[simp ↓] theorem opResetReq_pending (s : State) (us : Nat) : (s.opResetReq us).pending = s.pending := by
  (simp -implicitDefEqProofs only [State.opResetReq]; repeat' (first | with_reducible rfl | (with_reducible intro _) | split | with_reducible refine (whenUp_pending _ _ ?_).trans ?_ | simp -implicitDefEqProofs))

@[simp ↓] theorem opResetRelease_frame (s : State) :
    s.opResetRelease.tm = s.tm ∧ s.opResetRelease.pending = s.pending := by
  constructor <;> (simp only [State.opResetRelease]; (repeat' split) <;> simp)

@[simp ↓] theorem coldReset_pending (s : State) : s.coldReset.pending = s.pending := by
  simp [State.coldReset]

@[simp ↓] theorem actFail_tm (s : State) (cause : Nat) : (s.actFail cause).tm = s.tm := by
  simp only [State.actFail]; (repeat' split) <;> simp

@[simp ↓] theorem actFail_pending (s : State) (cause : Nat) : (s.actFail cause).pending = s.pending := by
  simp only [State.actFail]; (repeat' split) <;> simp

@[simp ↓] theorem writeRecovery_frame (s : State) (i : FwInfo) :
    (s.writeRecovery i).tm = s.tm ∧ (s.writeRecovery i).pending = s.pending := by
  constructor <;> (simp only [State.writeRecovery]; (repeat' split) <;> simp)

@[simp ↓] theorem moveLeases_frame (s : State) (ns : Nat) :
    (s.moveLeases ns).tm = s.tm ∧ (s.moveLeases ns).pending = s.pending := by
  constructor <;> simp [State.moveLeases]

@[simp ↓] theorem opHandover_frame (s : State) (us : Nat) :
    (s.opHandover us).tm = s.tm ∧ (s.opHandover us).pending = s.pending := by
  constructor <;> (simp -implicitDefEqProofs only [State.opHandover]; repeat' (first | with_reducible rfl | (with_reducible intro _) | split | with_reducible refine (whenBased_tm _ _ ?_).trans ?_ | with_reducible refine (whenBased_pending _ _ ?_).trans ?_ | with_reducible refine (foldl_tm _ _ _ ?_).trans ?_ | with_reducible refine (foldl_pending _ _ _ ?_).trans ?_ | simp -implicitDefEqProofs))

@[simp ↓] theorem opHandoverTimeout_frame (s : State) :
    s.opHandoverTimeout.tm = s.tm ∧ s.opHandoverTimeout.pending = s.pending := by
  constructor <;> (simp -implicitDefEqProofs only [State.opHandoverTimeout]; repeat' (first | with_reducible rfl | (with_reducible intro _) | split | with_reducible refine (whenBased_tm _ _ ?_).trans ?_ | with_reducible refine (whenBased_pending _ _ ?_).trans ?_ | simp -implicitDefEqProofs))

@[simp ↓] theorem opPointTimeout_frame (s : State) :
    s.opPointTimeout.tm = s.tm ∧ s.opPointTimeout.pending = s.pending := by
  constructor <;> (simp -implicitDefEqProofs only [State.opPointTimeout]; repeat' (first | with_reducible rfl | (with_reducible intro _) | split | with_reducible refine (whenBased_tm _ _ ?_).trans ?_ | with_reducible refine (whenBased_pending _ _ ?_).trans ?_ | simp -implicitDefEqProofs))

@[simp ↓] theorem opProbationEnd_frame (s : State) :
    s.opProbationEnd.tm = s.tm ∧ s.opProbationEnd.pending = s.pending := by
  constructor <;> (simp -implicitDefEqProofs only [State.opProbationEnd]; repeat' (first | with_reducible rfl | (with_reducible intro _) | split | with_reducible refine (whenBased_tm _ _ ?_).trans ?_ | with_reducible refine (whenBased_pending _ _ ?_).trans ?_ | simp -implicitDefEqProofs))

@[simp ↓] theorem opAttest_frame (s : State) :
    s.opAttest.tm = s.tm ∧ s.opAttest.pending = s.pending := by
  constructor <;> (simp only [State.opAttest]; (repeat' split) <;> simp)

@[simp ↓] theorem opPlog_frame (s : State) :
    s.opPlog.tm = s.tm ∧ s.opPlog.pending = s.pending := by
  constructor <;> (simp -implicitDefEqProofs only [State.opPlog]; repeat' (first | with_reducible rfl | (with_reducible intro _) | split | with_reducible refine (whenBased_tm _ _ ?_).trans ?_ | with_reducible refine (whenBased_pending _ _ ?_).trans ?_ | simp -implicitDefEqProofs))

@[simp ↓] theorem opProbationFail_frame (s : State) :
    s.opProbationFail.tm = s.tm ∧ s.opProbationFail.pending = s.pending := by
  constructor <;> (simp -implicitDefEqProofs only [State.opProbationFail]; repeat' (first | with_reducible rfl | (with_reducible intro _) | split | with_reducible refine (whenBased_tm _ _ ?_).trans ?_ | with_reducible refine (whenBased_pending _ _ ?_).trans ?_ | simp -implicitDefEqProofs))

/-! Faults -/

@[simp ↓] theorem opWdFire_frame (s : State) (c : Nat) :
    (s.opWdFire c).tm = s.tm ∧ (s.opWdFire c).pending = s.pending := by
  constructor <;> (simp -implicitDefEqProofs only [State.opWdFire]; repeat' (first | with_reducible rfl | (with_reducible intro _) | split | with_reducible refine (whenBased_tm _ _ ?_).trans ?_ | with_reducible refine (whenBased_pending _ _ ?_).trans ?_ | simp -implicitDefEqProofs))

@[simp ↓] theorem opTakeover_frame (s : State) (c : Nat) :
    (s.opTakeover c).tm = s.tm ∧ (s.opTakeover c).pending = s.pending := by
  constructor <;> (simp -implicitDefEqProofs only [State.opTakeover]; repeat' (first | with_reducible rfl | (with_reducible intro _) | split | with_reducible refine (whenBased_tm _ _ ?_).trans ?_ | with_reducible refine (whenBased_pending _ _ ?_).trans ?_ | simp -implicitDefEqProofs))

@[simp ↓] theorem laneFail_frame (s : State) (cl : Nat) :
    (s.laneFail cl).tm = s.tm ∧ (s.laneFail cl).pending = s.pending := by
  constructor <;> (simp only [State.laneFail]; (repeat' split) <;> simp)

@[simp ↓] theorem unitHang_frame (s : State) (c u : Nat) :
    (s.unitHang c u).tm = s.tm ∧ (s.unitHang c u).pending = s.pending := by
  constructor <;> (simp only [State.unitHang]; (repeat' split) <;> simp)

@[simp ↓] theorem beat_frame (s : State) (c u v : Nat) :
    (s.beat c u v).tm = s.tm ∧ (s.beat c u v).pending = s.pending := by
  constructor <;> (simp only [State.beat]; (repeat' split) <;> simp)

@[simp ↓] theorem opHeartbeat_frame (s : State) (c : Nat) (beats : List (Nat × Nat)) :
    (s.opHeartbeat c beats).tm = s.tm ∧ (s.opHeartbeat c beats).pending = s.pending := by
  constructor <;> (simp -implicitDefEqProofs only [State.opHeartbeat]; repeat' (first | with_reducible rfl | (with_reducible intro _) | split | with_reducible refine (whenBased_tm _ _ ?_).trans ?_ | with_reducible refine (whenBased_pending _ _ ?_).trans ?_ | with_reducible refine (foldl_tm _ _ _ ?_).trans ?_ | with_reducible refine (foldl_pending _ _ _ ?_).trans ?_ | with_reducible refine (foldr_tm _ _ _ ?_).trans ?_ | with_reducible refine (foldr_pending _ _ _ ?_).trans ?_ | simp -implicitDefEqProofs))

@[simp ↓] theorem opLaneTest_frame (s : State) (cl : Nat) (pass : Bool) :
    (s.opLaneTest cl pass).tm = s.tm ∧ (s.opLaneTest cl pass).pending = s.pending := by
  constructor <;> (simp -implicitDefEqProofs only [State.opLaneTest]; repeat' (first | with_reducible rfl | (with_reducible intro _) | split | with_reducible refine (whenUp_tm _ _ ?_).trans ?_ | with_reducible refine (whenUp_pending _ _ ?_).trans ?_ | simp -implicitDefEqProofs))

@[simp ↓] theorem opDumpDone_pending (s : State) (unreachable : List Nat) : (s.opDumpDone unreachable).pending = s.pending := by
  (simp -implicitDefEqProofs only [State.opDumpDone]; repeat' (first | with_reducible rfl | (with_reducible intro _) | split | with_reducible refine (whenUp_pending _ _ ?_).trans ?_ | with_reducible refine (foldl_pending _ _ _ ?_).trans ?_ | simp -implicitDefEqProofs))

@[simp ↓] theorem opDumpCopy_frame (s : State) :
    s.opDumpCopy.tm = s.tm ∧ s.opDumpCopy.pending = s.pending := by
  constructor <;> (simp -implicitDefEqProofs only [State.opDumpCopy]; repeat' (first | with_reducible rfl | (with_reducible intro _) | split | with_reducible refine (whenUp_tm _ _ ?_).trans ?_ | with_reducible refine (whenUp_pending _ _ ?_).trans ?_ | simp -implicitDefEqProofs))

@[simp ↓] theorem opDumpTake_frame (s : State) :
    s.opDumpTake.tm = s.tm ∧ s.opDumpTake.pending = s.pending := by
  constructor <;> simp [State.opDumpTake]

@[simp ↓] theorem opDumpAck_frame (s : State) :
    s.opDumpAck.tm = s.tm ∧ s.opDumpAck.pending = s.pending := by
  constructor <;> (simp only [State.opDumpAck]; (repeat' split) <;> simp)

@[simp ↓] theorem resetPort_frame (s : State) (n : Nat) :
    (s.resetPort n).tm = s.tm ∧ (s.resetPort n).pending = s.pending := by
  constructor <;> simp [State.resetPort]

@[simp ↓] theorem opDevReset_pending (s : State) (domain target : Nat) : (s.opDevReset domain target).2.pending = s.pending := by
  simp only [State.opDevReset]; (repeat' split) <;> simp

@[simp ↓] theorem startPark_frame (s : State) (p : Nat) :
    (s.startPark p).tm = s.tm ∧ (s.startPark p).pending = s.pending := by
  constructor <;> simp [State.startPark]

@[simp ↓] theorem parkNow_frame (s : State) (p : Nat) :
    (s.parkNow p).tm = s.tm ∧ (s.parkNow p).pending = s.pending := by
  constructor <;> simp [State.parkNow]

@[simp ↓] theorem opPartCmd_frame (s : State) (p cmd : Nat) :
    (s.opPartCmd p cmd).2.tm = s.tm ∧ (s.opPartCmd p cmd).2.pending = s.pending := by
  constructor <;> (simp only [State.opPartCmd]; (repeat' split) <;> simp)

@[simp ↓] theorem opParked_frame (s : State) (p : Nat) :
    (s.opParked p).tm = s.tm ∧ (s.opParked p).pending = s.pending := by
  constructor <;> (simp -implicitDefEqProofs only [State.opParked]; repeat' (first | with_reducible rfl | (with_reducible intro _) | split | with_reducible refine (whenOp_tm _ _ ?_).trans ?_ | with_reducible refine (whenOp_pending _ _ ?_).trans ?_ | simp -implicitDefEqProofs))

@[simp ↓] theorem opLease_frame (s : State) (c : Nat) :
    (s.opLease c).tm = s.tm ∧ (s.opLease c).pending = s.pending := by
  constructor <;> (simp -implicitDefEqProofs only [State.opLease]; repeat' (first | with_reducible rfl | (with_reducible intro _) | split | with_reducible refine (whenOp_tm _ _ ?_).trans ?_ | with_reducible refine (whenOp_pending _ _ ?_).trans ?_ | simp -implicitDefEqProofs))

@[simp ↓] theorem opOrphan_frame (s : State) (p : Nat) :
    (s.opOrphan p).tm = s.tm ∧ (s.opOrphan p).pending = s.pending := by
  constructor <;> (simp -implicitDefEqProofs only [State.opOrphan]; repeat' (first | with_reducible rfl | (with_reducible intro _) | split | with_reducible refine (whenOp_tm _ _ ?_).trans ?_ | with_reducible refine (whenOp_pending _ _ ?_).trans ?_ | simp -implicitDefEqProofs))

@[simp ↓] theorem opNoticeFlush_frame (s : State) :
    s.opNoticeFlush.tm = s.tm ∧ s.opNoticeFlush.pending = s.pending := by
  constructor <;> (simp -implicitDefEqProofs only [State.opNoticeFlush]; repeat' (first | with_reducible rfl | (with_reducible intro _) | split | with_reducible refine (whenBased_tm _ _ ?_).trans ?_ | with_reducible refine (whenBased_pending _ _ ?_).trans ?_ | with_reducible refine (foldl_tm _ _ _ ?_).trans ?_ | with_reducible refine (foldl_pending _ _ _ ?_).trans ?_ | simp -implicitDefEqProofs))

@[simp ↓] theorem abortIn_frame (s : State) (c : Nat) (payload : Bytes) :
    (s.abortIn c payload).tm = s.tm ∧ (s.abortIn c payload).pending = s.pending := by
  constructor <;> (simp only [State.abortIn]; (repeat' split) <;> simp)

end Sys2Proof.Machine
end

