-- ==== Sys2Proof/Laws/FrameStream.lean ====
section
/-! SUPPORT. Frames of streams, tiles and the Strainer: which operations leave module time and the queue of commands alone. -/
namespace Sys2Proof.Machine

/-! Operands -/

theorem granLoad_tm (rd : State → Nat → Gran × State) (gs : List Nat) (s : State) (h : ∀ s i, (rd s i).2.tm = s.tm) : (granLoad rd gs s).2.tm = s.tm := by
  unfold granLoad
  refine foldr_tm _ _ _ fun x a => ?_
  split
  · exact h x.2 a
  · rfl

theorem granLoad_pending (rd : State → Nat → Gran × State) (gs : List Nat) (s : State) (h : ∀ s i, (rd s i).2.pending = s.pending) : (granLoad rd gs s).2.pending = s.pending := by
  unfold granLoad
  refine foldr_pending _ _ _ fun x a => ?_
  split
  · exact h x.2 a
  · rfl

@[simp ↓] theorem loadGrans_tm (s : State) (p pos : Nat) (gs : List Nat) (errs : List MemErr) : (s.loadGrans p pos gs errs).2.tm = s.tm := by
  unfold State.loadGrans
  exact granLoad_tm _ _ _ fun s i => coreGran_tm p pos 0 errs s i

@[simp ↓] theorem loadGrans_pending (s : State) (p pos : Nat) (gs : List Nat) (errs : List MemErr) : (s.loadGrans p pos gs errs).2.pending = s.pending := by
  unfold State.loadGrans
  exact granLoad_pending _ _ _ fun s i => coreGran_pending p pos 0 errs s i

@[simp ↓] theorem coreStore_frame (s : State) (p pos a : Nat) (bs : Bytes) (poison : Bool) (errs : List MemErr) :
    (s.coreStore p pos a bs poison errs).tm = s.tm ∧ (s.coreStore p pos a bs poison errs).pending = s.pending := by
  constructor <;> (simp only [State.coreStore]; (repeat' split) <;> simp)

@[simp ↓] theorem patchGran_tm (p pos : Nat) (xs : List Wr) (errs : List MemErr) (s : State) (g : Nat) : (State.patchGran p pos xs errs s g).tm = s.tm := by
  unfold State.patchGran
  extract_lets r m old n
  rw [storeGran_tm]
  simp only [old]
  split
  · rfl
  · rw [granIn_tm]

@[simp ↓] theorem patchGran_pending (p pos : Nat) (xs : List Wr) (errs : List MemErr) (s : State) (g : Nat) : (State.patchGran p pos xs errs s g).pending = s.pending := by
  unfold State.patchGran
  extract_lets r m old n
  rw [storeGran_pending]
  simp only [old]
  split
  · rfl
  · rw [granIn_pending]

@[simp ↓] theorem storeWrs_tm (s : State) (p pos : Nat) (xs : List Wr) (errs : List MemErr) : (s.storeWrs p pos xs errs).tm = s.tm := by
  unfold State.storeWrs
  exact foldl_tm _ _ _ (patchGran_tm p pos xs errs)

@[simp ↓] theorem storeWrs_pending (s : State) (p pos : Nat) (xs : List Wr) (errs : List MemErr) : (s.storeWrs p pos xs errs).pending = s.pending := by
  unfold State.storeWrs
  exact foldl_pending _ _ _ (patchGran_pending p pos xs errs)

/-! Caddy -/

@[simp ↓] theorem slotStep_frame (s : State) (p n : Nat) :
    (s.slotStep p n).tm = s.tm ∧ (s.slotStep p n).pending = s.pending := by
  constructor <;> (simp only [State.slotStep]; (repeat' split) <;> simp)

@[simp ↓] theorem slotsStep_frame (s : State) (p : Nat) :
    (s.slotsStep p).tm = s.tm ∧ (s.slotsStep p).pending = s.pending := by
  constructor <;> (simp -implicitDefEqProofs only [State.slotsStep]; repeat' (first | with_reducible rfl | (with_reducible intro _) | split | with_reducible refine (foldl_tm _ _ _ ?_).trans ?_ | with_reducible refine (foldl_pending _ _ _ ?_).trans ?_ | simp -implicitDefEqProofs))

@[simp ↓] theorem report_frame (s : State) (n amax top low : Nat) (ovf : Bool) :
    (s.report n amax top low ovf).tm = s.tm ∧ (s.report n amax top low ovf).pending = s.pending := by
  constructor <;> simp [State.report]

@[simp ↓] theorem reportLost_frame (s : State) (n : Nat) :
    (s.reportLost n).tm = s.tm ∧ (s.reportLost n).pending = s.pending := by
  constructor <;> simp [State.reportLost]

/-! Output -/

theorem foldw_tm {α : Type} (l : List α) (g : OutRun → α → OutRun) (s : OutRun) (h : ∀ s a, (g s a).s.tm = s.s.tm) : (l.foldl g s).s.tm = s.s.tm := by
  induction l generalizing s with
  | nil => rfl
  | cons a l ih => rw [List.foldl_cons, ih, h]

theorem foldo_tm {α : Type} (l : List α) (g : Block × OutRun → α → Block × OutRun) (s : Block × OutRun) (h : ∀ s a, (g s a).2.s.tm = s.2.s.tm) : (l.foldl g s).2.s.tm = s.2.s.tm := by
  induction l generalizing s with
  | nil => rfl
  | cons a l ih => rw [List.foldl_cons, ih, h]

theorem foldw_pending {α : Type} (l : List α) (g : OutRun → α → OutRun) (s : OutRun) (h : ∀ s a, (g s a).s.pending = s.s.pending) : (l.foldl g s).s.pending = s.s.pending := by
  induction l generalizing s with
  | nil => rfl
  | cons a l ih => rw [List.foldl_cons, ih, h]

theorem foldo_pending {α : Type} (l : List α) (g : Block × OutRun → α → Block × OutRun) (s : Block × OutRun) (h : ∀ s a, (g s a).2.s.pending = s.2.s.pending) : (l.foldl g s).2.s.pending = s.2.s.pending := by
  induction l generalizing s with
  | nil => rfl
  | cons a l ih => rw [List.foldl_cons, ih, h]

@[simp ↓] theorem logPos_frame (s : State) (p pos event : Nat) (payload : W64) :
    (s.logPos p pos event payload).tm = s.tm ∧ (s.logPos p pos event payload).pending = s.pending := by
  constructor <;> simp [State.logPos]

@[simp ↓] theorem outRun_start_frame (s : State) :
    ((OutRun.start s).s).tm = s.tm ∧ ((OutRun.start s).s).pending = s.pending := by
  constructor <;> simp [OutRun.start]

@[simp ↓] theorem outRun_raise_frame (r : OutRun) (c : OutCtx) (v : Ovf) :
    (r.raise c v).s.tm = r.s.tm ∧ (r.raise c v).s.pending = r.s.pending := by
  constructor <;> simp [OutRun.raise]

@[simp ↓] theorem outRun_put_frame (r : OutRun) (x : Wr) :
    (r.put x).s.tm = r.s.tm ∧ (r.put x).s.pending = r.s.pending := by
  constructor <;> simp [OutRun.put]

@[simp ↓] theorem outRun_see_frame (r : OutRun) (y : Elem) :
    (r.see y).s.tm = r.s.tm ∧ (r.see y).s.pending = r.s.pending := by
  constructor <;> (simp only [OutRun.see]; (repeat' split) <;> simp)

@[simp ↓] theorem outRun_closeBlock_frame (r : OutRun) (c : OutCtx) (b : Block) (x : Int) :
    (r.closeBlock c b x).s.tm = r.s.tm ∧ (r.closeBlock c b x).s.pending = r.s.pending := by
  constructor <;> simp [OutRun.closeBlock]

@[simp ↓] theorem outRun_blockCode_frame (r : OutRun) (c : OutCtx) (b : Block) (h : Held) (n : Narrowed) (x : Int) :
    (r.blockCode c b h n x).2.s.tm = r.s.tm ∧ (r.blockCode c b h n x).2.s.pending = r.s.pending := by
  constructor <;> (simp only [OutRun.blockCode]; (repeat' split) <;> simp)

@[simp ↓] theorem outRun_ownBlock_frame (r : OutRun) (c : OutCtx) (b : Block) :
    (r.ownBlock c b).s.tm = r.s.tm ∧ (r.ownBlock c b).s.pending = r.s.pending := by
  constructor <;> (simp -implicitDefEqProofs only [OutRun.ownBlock]; repeat' (first | with_reducible rfl | (with_reducible intro _) | split | with_reducible refine (foldl_tm _ _ _ ?_).trans ?_ | with_reducible refine (foldl_pending _ _ _ ?_).trans ?_ | with_reducible refine (foldr_tm _ _ _ ?_).trans ?_ | with_reducible refine (foldr_pending _ _ _ ?_).trans ?_ | with_reducible refine (foldw_tm _ _ _ ?_).trans ?_ | with_reducible refine (foldw_pending _ _ _ ?_).trans ?_ | with_reducible refine (foldo_tm _ _ _ ?_).trans ?_ | with_reducible refine (foldo_pending _ _ _ ?_).trans ?_ | simp -implicitDefEqProofs))

@[simp ↓] theorem outRun_write_frame (r : OutRun) (c : OutCtx) (vec e : Nat) (h : Held) :
    (r.write c vec e h).s.tm = r.s.tm ∧ (r.write c vec e h).s.pending = r.s.pending := by
  constructor <;> (simp only [OutRun.write]; (repeat' split) <;> simp)

@[simp ↓] theorem outRun_elem_frame (r : OutRun) (c : OutCtx) (seq vec e row col idx : Nat) (val : Elem) :
    (r.elem c seq vec e row col idx val).s.tm = r.s.tm ∧ (r.elem c seq vec e row col idx val).s.pending = r.s.pending := by
  constructor <;> (simp only [OutRun.elem]; (repeat' split) <;> simp)

@[simp ↓] theorem outRun_topClose_frame (r : OutRun) (c : OutCtx) (rows : Nat) :
    (r.topClose c rows).s.tm = r.s.tm ∧ (r.topClose c rows).s.pending = r.s.pending := by
  constructor <;> (simp -implicitDefEqProofs only [OutRun.topClose]; repeat' (first | with_reducible rfl | (with_reducible intro _) | split | with_reducible refine (foldl_tm _ _ _ ?_).trans ?_ | with_reducible refine (foldl_pending _ _ _ ?_).trans ?_ | with_reducible refine (foldw_tm _ _ _ ?_).trans ?_ | with_reducible refine (foldw_pending _ _ _ ?_).trans ?_ | with_reducible refine (foldo_tm _ _ _ ?_).trans ?_ | with_reducible refine (foldo_pending _ _ _ ?_).trans ?_ | simp -implicitDefEqProofs))

@[simp ↓] theorem outRun_upset_frame (r : OutRun) (a : Nat) :
    (r.upset a).s.tm = r.s.tm ∧ (r.upset a).s.pending = r.s.pending := by
  constructor <;> (simp only [OutRun.upset]; (repeat' split) <;> simp)

@[simp ↓] theorem rangeOvf_frame (s : State) (p pos : Nat) (w : W64) :
    (s.rangeOvf p pos w).tm = s.tm ∧ (s.rangeOvf p pos w).pending = s.pending := by
  constructor <;> simp [State.rangeOvf]

@[simp ↓] theorem outRun_done_frame (r : OutRun) (c : OutCtx) (errs : List MemErr) :
    (r.done c errs).tm = r.s.tm ∧ (r.done c errs).pending = r.s.pending := by
  constructor <;> (simp only [OutRun.done]; (repeat' split) <;> simp)

/-! Streams -/

@[simp ↓] theorem fetchTrap_frame (s : State) (p addr : Nat) :
    (s.fetchTrap p addr).tm = s.tm ∧ (s.fetchTrap p addr).pending = s.pending := by
  constructor <;> simp [State.fetchTrap]

@[simp ↓] theorem accessFault_frame (s : State) (p addr : Nat) :
    (s.accessFault p addr).tm = s.tm ∧ (s.accessFault p addr).pending = s.pending := by
  constructor <;> simp [State.accessFault]

@[simp ↓] theorem fetchEntry_frame (s : State) (p sid i : Nat) (errs : List MemErr) :
    (s.fetchEntry p sid i errs).2.tm = s.tm ∧ (s.fetchEntry p sid i errs).2.pending = s.pending := by
  constructor <;> (simp only [State.fetchEntry]; (repeat' split) <;> simp)

@[simp ↓] theorem seekEntry_tm (s : State) (p sid n : Nat) (lidx : Option Nat) (errs : List MemErr) (k i : Nat) :
    (State.seekEntry s p sid n lidx errs k i).2.tm = s.tm := by
  induction k generalizing i with
  | zero => rfl
  | succ k ih =>
    unfold State.seekEntry
    dsimp only
    split
    · simp
    · split
      · simp
      · exact ih _

@[simp ↓] theorem seekEntry_pending (s : State) (p sid n : Nat) (lidx : Option Nat) (errs : List MemErr) (k i : Nat) :
    (State.seekEntry s p sid n lidx errs k i).2.pending = s.pending := by
  induction k generalizing i with
  | zero => rfl
  | succ k ih =>
    unfold State.seekEntry
    dsimp only
    split
    · simp
    · split
      · simp
      · exact ih _

@[simp ↓] theorem nextEntry_frame (s : State) (p sid : Nat) (errs : List MemErr) :
    (s.nextEntry p sid errs).2.tm = s.tm ∧ (s.nextEntry p sid errs).2.pending = s.pending := by
  constructor <;> (simp only [State.nextEntry]; (repeat' split) <;> simp)

theorem issue_tm (s : State) (p sid : Nat) (kind : Nat → Bool) (errs : List MemErr) (also : State → Nat → List W64 → Bool)
    (f : State → Nat → List W64 → State) (h : ∀ s i ws, (f s i ws).tm = s.tm) : (s.issue p sid kind errs also f).tm = s.tm := by
  unfold State.issue
  split
  · rfl
  · dsimp only
    split
    · simp
    · split
      · rw [h]; simp
      · rfl

theorem issue_pending (s : State) (p sid : Nat) (kind : Nat → Bool) (errs : List MemErr) (also : State → Nat → List W64 → Bool)
    (f : State → Nat → List W64 → State) (h : ∀ s i ws, (f s i ws).pending = s.pending) : (s.issue p sid kind errs also f).pending = s.pending := by
  unfold State.issue
  split
  · rfl
  · dsimp only
    split
    · simp
    · split
      · rw [h]; simp
      · rfl

@[simp ↓] theorem complete_frame (s : State) (p sid step : Nat) (ws : List W64) :
    (s.complete p sid step ws).tm = s.tm ∧ (s.complete p sid step ws).pending = s.pending := by
  constructor <;> simp [State.complete]

@[simp ↓] theorem opWait_frame (s : State) (p sid : Nat) (errs : List MemErr) :
    (s.opWait p sid errs).tm = s.tm ∧ (s.opWait p sid errs).pending = s.pending := by
  constructor <;> (simp -implicitDefEqProofs only [State.opWait]; repeat' (first | with_reducible rfl | (with_reducible intro _) | split | with_reducible refine (issue_tm _ _ _ _ _ _ _ ?_).trans ?_ | with_reducible refine (issue_pending _ _ _ _ _ _ _ ?_).trans ?_ | simp -implicitDefEqProofs))

@[simp ↓] theorem opLayer_frame (s : State) (p sid : Nat) (errs : List MemErr) :
    (s.opLayer p sid errs).tm = s.tm ∧ (s.opLayer p sid errs).pending = s.pending := by
  constructor <;> (simp -implicitDefEqProofs only [State.opLayer]; repeat' (first | with_reducible rfl | (with_reducible intro _) | split | with_reducible refine (issue_tm _ _ _ _ _ _ _ ?_).trans ?_ | with_reducible refine (issue_pending _ _ _ _ _ _ _ ?_).trans ?_ | simp -implicitDefEqProofs))

@[simp ↓] theorem opReserve_frame (s : State) (p sid : Nat) (errs : List MemErr) :
    (s.opReserve p sid errs).tm = s.tm ∧ (s.opReserve p sid errs).pending = s.pending := by
  constructor <;> (simp -implicitDefEqProofs only [State.opReserve]; repeat' (first | with_reducible rfl | (with_reducible intro _) | split | with_reducible refine (issue_tm _ _ _ _ _ _ _ ?_).trans ?_ | with_reducible refine (issue_pending _ _ _ _ _ _ _ ?_).trans ?_ | simp -implicitDefEqProofs))

@[simp ↓] theorem opStepEnd_frame (s : State) (p sid : Nat) (errs : List MemErr) :
    (s.opStepEnd p sid errs).tm = s.tm ∧ (s.opStepEnd p sid errs).pending = s.pending := by
  constructor <;> (simp -implicitDefEqProofs only [State.opStepEnd]; repeat' (first | with_reducible rfl | (with_reducible intro _) | split | with_reducible refine (issue_tm _ _ _ _ _ _ _ ?_).trans ?_ | with_reducible refine (issue_pending _ _ _ _ _ _ _ ?_).trans ?_ | simp -implicitDefEqProofs))

@[simp ↓] theorem noteTimeout_frame (s : State) (p sid : Nat) :
    (s.noteTimeout p sid).tm = s.tm ∧ (s.noteTimeout p sid).pending = s.pending := by
  constructor <;> simp [State.noteTimeout]

@[simp ↓] theorem opTokenTimeout_frame (s : State) (p sid : Nat) (held : State → Nat → List W64 → Bool) (errs : List MemErr) :
    (s.opTokenTimeout p sid held errs).tm = s.tm ∧ (s.opTokenTimeout p sid held errs).pending = s.pending := by
  constructor <;> (simp -implicitDefEqProofs only [State.opTokenTimeout]; repeat' (first | with_reducible rfl | (with_reducible intro _) | split | with_reducible refine (whenOp_tm _ _ ?_).trans ?_ | with_reducible refine (whenOp_pending _ _ ?_).trans ?_ | simp -implicitDefEqProofs))

@[simp ↓] theorem layerReport_frame (s : State) (p pos : Nat) (c : Ctl) (lidx amax : Nat) (ovf : Bool) :
    (s.layerReport p pos c lidx amax ovf).tm = s.tm ∧ (s.layerReport p pos c lidx amax ovf).pending = s.pending := by
  constructor <;> (simp only [State.layerReport]; (repeat' split) <;> simp)

@[simp ↓] theorem layerAccept_frame (s : State) (p : Nat) (l : Layer) :
    (s.layerAccept p l).tm = s.tm ∧ (s.layerAccept p l).pending = s.pending := by
  constructor <;> (simp -implicitDefEqProofs only [State.layerAccept]; repeat' (first | with_reducible rfl | (with_reducible intro _) | split | with_reducible refine (foldl_tm _ _ _ ?_).trans ?_ | with_reducible refine (foldl_pending _ _ _ ?_).trans ?_ | simp -implicitDefEqProofs))

@[simp ↓] theorem layerReplay_frame (s : State) (p : Nat) (l : Layer) (up : Bool) :
    (s.layerReplay p l up).tm = s.tm ∧ (s.layerReplay p l up).pending = s.pending := by
  constructor <;> (simp -implicitDefEqProofs only [State.layerReplay]; repeat' (first | with_reducible rfl | (with_reducible intro _) | split | with_reducible refine (foldl_tm _ _ _ ?_).trans ?_ | with_reducible refine (foldl_pending _ _ _ ?_).trans ?_ | simp -implicitDefEqProofs))

@[simp ↓] theorem opLayerClose_frame (s : State) (p lidx : Nat) :
    (s.opLayerClose p lidx).tm = s.tm ∧ (s.opLayerClose p lidx).pending = s.pending := by
  constructor <;> (simp -implicitDefEqProofs only [State.opLayerClose]; repeat' (first | with_reducible rfl | (with_reducible intro _) | split | with_reducible refine (whenOp_tm _ _ ?_).trans ?_ | with_reducible refine (whenOp_pending _ _ ?_).trans ?_ | simp -implicitDefEqProofs))

@[simp ↓] theorem opLayerReplay_frame (s : State) (p lidx : Nat) :
    (s.opLayerReplay p lidx).tm = s.tm ∧ (s.opLayerReplay p lidx).pending = s.pending := by
  constructor <;> (simp -implicitDefEqProofs only [State.opLayerReplay]; repeat' (first | with_reducible rfl | (with_reducible intro _) | split | with_reducible refine (whenOp_tm _ _ ?_).trans ?_ | with_reducible refine (whenOp_pending _ _ ?_).trans ?_ | simp -implicitDefEqProofs))

/-! Tiles -/

@[simp ↓] theorem tileLoad_frame (s : State) (p pos : Nat) (ws : List W64) (errs : List MemErr) :
    (s.tileLoad p pos ws errs).2.2.tm = s.tm ∧ (s.tileLoad p pos ws errs).2.2.pending = s.pending := by
  constructor <;> simp [State.tileLoad]

@[simp ↓] theorem logTimes_frame (s : State) (p pos event n : Nat) :
    (s.logTimes p pos event n).tm = s.tm ∧ (s.logTimes p pos event n).pending = s.pending := by
  constructor <;> (simp -implicitDefEqProofs only [State.logTimes]; repeat' (first | with_reducible rfl | (with_reducible intro _) | split | with_reducible refine (foldl_tm _ _ _ ?_).trans ?_ | with_reducible refine (foldl_pending _ _ _ ?_).trans ?_ | simp -implicitDefEqProofs))

@[simp ↓] theorem tileLost_frame (s : State) (p pos i : Nat) (ws : List W64) (anchor : Int) (l : Loss) (tile : Tile) :
    (s.tileLost p pos i ws anchor l tile).tm = s.tm ∧ (s.tileLost p pos i ws anchor l tile).pending = s.pending := by
  constructor <;> (simp only [State.tileLost]; (repeat' split) <;> simp)

@[simp ↓] theorem tileRan_frame (s : State) (p pos : Nat) (ws : List W64) (sa : Bool) (t : TileIn) (tile : Tile) (c ready now : Nat) (regs : Pos → Pos) (upset : List Nat) :
    (s.tileRan p pos ws sa t tile c ready now regs upset).tm = s.tm ∧ (s.tileRan p pos ws sa t tile c ready now regs upset).pending = s.pending := by
  constructor <;> (simp only [State.tileRan]; (repeat' split) <;> simp)

@[simp ↓] theorem tileSaLost_frame (s : State) (p pos i : Nat) (ws : List W64) (a : Int) (loss : Loss) (tile : Tile) (c ready now : Nat) (regs : Pos → Pos) :
    (s.tileSaLost p pos i ws a loss tile c ready now regs).tm = s.tm ∧ (s.tileSaLost p pos i ws a loss tile c ready now regs).pending = s.pending := by
  constructor <;> simp [State.tileSaLost]

@[simp ↓] theorem runTile_frame (s : State) (p pos i step : Nat) (ws : List W64) (anchor : Option Int) (ready : Nat) (errs : List MemErr) (upset : List Nat) :
    (s.runTile p pos i step ws anchor ready errs upset).tm = s.tm ∧ (s.runTile p pos i step ws anchor ready errs upset).pending = s.pending := by
  constructor <;> (simp only [State.runTile]; (repeat' split) <;> simp)

@[simp ↓] theorem opTile_frame (s : State) (p pos : Nat) (errs : List MemErr) (upset : List Nat) :
    (s.opTile p pos errs upset).tm = s.tm ∧ (s.opTile p pos errs upset).pending = s.pending := by
  constructor <;> (simp -implicitDefEqProofs only [State.opTile]; repeat' (first | with_reducible rfl | (with_reducible intro _) | split | with_reducible refine (issue_tm _ _ _ _ _ _ _ ?_).trans ?_ | with_reducible refine (issue_pending _ _ _ _ _ _ _ ?_).trans ?_ | simp -implicitDefEqProofs))

@[simp ↓] theorem opLaReplay_frame (s : State) (p pos : Nat) (errs : List MemErr) (upset : List Nat) :
    (s.opLaReplay p pos errs upset).tm = s.tm ∧ (s.opLaReplay p pos errs upset).pending = s.pending := by
  constructor <;> (simp -implicitDefEqProofs only [State.opLaReplay]; repeat' (first | with_reducible rfl | (with_reducible intro _) | split | with_reducible refine (whenOp_tm _ _ ?_).trans ?_ | with_reducible refine (whenOp_pending _ _ ?_).trans ?_ | simp -implicitDefEqProofs))

@[simp ↓] theorem loadPrm_frame (s : State) (p pos : Nat) (ws : List W64) (c : Ctl) (errs : List MemErr) :
    (s.loadPrm p pos ws c errs).2.2.2.tm = s.tm ∧ (s.loadPrm p pos ws c errs).2.2.2.pending = s.pending := by
  constructor <;> simp [State.loadPrm]

@[simp ↓] theorem outRun_upsets_frame (r : OutRun) (q : Pos) (c : OutCtx) (us : List ((Nat × Nat) × Nat)) :
    (r.upsets q c us).s.tm = r.s.tm ∧ (r.upsets q c us).s.pending = r.s.pending := by
  constructor <;> (simp -implicitDefEqProofs only [OutRun.upsets]; repeat' (first | with_reducible rfl | (with_reducible intro _) | split | with_reducible refine (foldl_tm _ _ _ ?_).trans ?_ | with_reducible refine (foldl_pending _ _ _ ?_).trans ?_ | with_reducible refine (foldr_tm _ _ _ ?_).trans ?_ | with_reducible refine (foldr_pending _ _ _ ?_).trans ?_ | with_reducible refine (foldw_tm _ _ _ ?_).trans ?_ | with_reducible refine (foldw_pending _ _ _ ?_).trans ?_ | with_reducible refine (foldo_tm _ _ _ ?_).trans ?_ | with_reducible refine (foldo_pending _ _ _ ?_).trans ?_ | simp -implicitDefEqProofs))

@[simp ↓] theorem tellSlot_frame (s : State) (p pos : Nat) (c : Ctl) (lidx amax top low : Nat) (ovf : Bool) :
    (s.tellSlot p pos c lidx amax top low ovf).tm = s.tm ∧ (s.tellSlot p pos c lidx amax top low ovf).pending = s.pending := by
  constructor <;> (simp only [State.tellSlot]; (repeat' split) <;> simp)

@[simp ↓] theorem settleOwed_frame (s : State) (cx : OutCtx) (run : OutRun) (o : Owed) :
    (s.settleOwed cx run o).tm = s.tm ∧ (s.settleOwed cx run o).pending = s.pending := by
  constructor <;> (simp only [State.settleOwed]; (repeat' split) <;> simp)

@[simp ↓] theorem entryEnd_frame (s : State) (cx : OutCtx) (run : OutRun) (amax top low : Nat) (ws : List W64) :
    (s.entryEnd cx run amax top low ws).tm = s.tm ∧ (s.entryEnd cx run amax top low ws).pending = s.pending := by
  constructor <;> (simp -implicitDefEqProofs only [State.entryEnd]; repeat' (first | with_reducible rfl | (with_reducible intro _) | split | with_reducible refine (foldl_tm _ _ _ ?_).trans ?_ | with_reducible refine (foldl_pending _ _ _ ?_).trans ?_ | simp -implicitDefEqProofs))

@[simp ↓] theorem outRun_tileElem_frame (cx : OutCtx) (ws : List W64) (sts : List Acc) (r : OutRun) (o : Nat) :
    ((OutRun.tileElem cx ws sts r o).s).tm = r.s.tm ∧ ((OutRun.tileElem cx ws sts r o).s).pending = r.s.pending := by
  constructor <;> (simp only [OutRun.tileElem]; (repeat' split) <;> simp)

@[simp ↓] theorem drainTile_frame (s : State) (p pos : Nat) (t : Tile) (errs : List MemErr) (upset : List Nat) :
    (s.drainTile p pos t errs upset).tm = s.tm ∧ (s.drainTile p pos t errs upset).pending = s.pending := by
  constructor <;> (simp -implicitDefEqProofs only [State.drainTile]; repeat' (first | with_reducible rfl | (with_reducible intro _) | split | with_reducible refine (foldl_tm _ _ _ ?_).trans ?_ | with_reducible refine (foldl_pending _ _ _ ?_).trans ?_ | with_reducible refine (foldw_tm _ _ _ ?_).trans ?_ | with_reducible refine (foldw_pending _ _ _ ?_).trans ?_ | with_reducible refine (foldo_tm _ _ _ ?_).trans ?_ | with_reducible refine (foldo_pending _ _ _ ?_).trans ?_ | simp -implicitDefEqProofs))

@[simp ↓] theorem opDrain_frame (s : State) (p pos : Nat) (errs : List MemErr) (upset : List Nat) :
    (s.opDrain p pos errs upset).tm = s.tm ∧ (s.opDrain p pos errs upset).pending = s.pending := by
  constructor <;> (simp -implicitDefEqProofs only [State.opDrain]; repeat' (first | with_reducible rfl | (with_reducible intro _) | split | with_reducible refine (whenOp_tm _ _ ?_).trans ?_ | with_reducible refine (whenOp_pending _ _ ?_).trans ?_ | simp -implicitDefEqProofs))

@[simp ↓] theorem opConv_frame (s : State) (p pos : Nat) (errs : List MemErr) (upset : List Nat) :
    (s.opConv p pos errs upset).tm = s.tm ∧ (s.opConv p pos errs upset).pending = s.pending := by
  constructor <;> (simp -implicitDefEqProofs only [State.opConv]; repeat' (first | with_reducible rfl | (with_reducible intro _) | split | with_reducible refine (issue_tm _ _ _ _ _ _ _ ?_).trans ?_ | with_reducible refine (issue_pending _ _ _ _ _ _ _ ?_).trans ?_ | with_reducible refine (foldl_tm _ _ _ ?_).trans ?_ | with_reducible refine (foldl_pending _ _ _ ?_).trans ?_ | with_reducible refine (foldw_tm _ _ _ ?_).trans ?_ | with_reducible refine (foldw_pending _ _ _ ?_).trans ?_ | with_reducible refine (foldo_tm _ _ _ ?_).trans ?_ | with_reducible refine (foldo_pending _ _ _ ?_).trans ?_ | simp -implicitDefEqProofs))

@[simp ↓] theorem vecLoad_frame (s : State) (p pos : Nat) (ws : List W64) (op : VecOp) (errs : List MemErr) :
    (s.vecLoad p pos ws op errs).2.tm = s.tm ∧ (s.vecLoad p pos ws op errs).2.pending = s.pending := by
  constructor <;> simp [State.vecLoad]

@[simp ↓] theorem runVec_frame (s : State) (p pos : Nat) (ws : List W64) (op : VecOp) (errs : List MemErr) :
    (s.runVec p pos ws op errs).tm = s.tm ∧ (s.runVec p pos ws op errs).pending = s.pending := by
  constructor <;> (simp only [State.runVec]; (repeat' split) <;> simp)

@[simp ↓] theorem noteHeld_frame (s : State) (p pos : Nat) :
    (s.noteHeld p pos).tm = s.tm ∧ (s.noteHeld p pos).pending = s.pending := by
  constructor <;> (simp only [State.noteHeld]; (repeat' split) <;> simp)

@[simp ↓] theorem opVec_frame (s : State) (p pos : Nat) (errs : List MemErr) :
    (s.opVec p pos errs).tm = s.tm ∧ (s.opVec p pos errs).pending = s.pending := by
  constructor <;> (simp -implicitDefEqProofs only [State.opVec]; repeat' (first | with_reducible rfl | (with_reducible intro _) | split | with_reducible refine (issue_tm _ _ _ _ _ _ _ ?_).trans ?_ | with_reducible refine (issue_pending _ _ _ _ _ _ _ ?_).trans ?_ | simp -implicitDefEqProofs))

@[simp ↓] theorem opMerge_frame (s : State) (p pos : Nat) (errs : List MemErr) :
    (s.opMerge p pos errs).tm = s.tm ∧ (s.opMerge p pos errs).pending = s.pending := by
  constructor <;> (simp -implicitDefEqProofs only [State.opMerge]; repeat' (first | with_reducible rfl | (with_reducible intro _) | split | with_reducible refine (issue_tm _ _ _ _ _ _ _ ?_).trans ?_ | with_reducible refine (issue_pending _ _ _ _ _ _ _ ?_).trans ?_ | simp -implicitDefEqProofs))

/-! Strainer -/

@[simp ↓] theorem sendVerdict_frame (s : State) (c : Nat) (payload : Bytes) :
    (s.sendVerdict c payload).tm = s.tm ∧ (s.sendVerdict c payload).pending = s.pending := by
  constructor <;> (simp only [State.sendVerdict]; (repeat' split) <;> simp)

@[simp ↓] theorem sendOrder_frame (s : State) (p : Nat) (cs : List Nat) (kind step att flags rseq : Nat) :
    (s.sendOrder p cs kind step att flags rseq).tm = s.tm ∧ (s.sendOrder p cs kind step att flags rseq).pending = s.pending := by
  constructor <;> (simp -implicitDefEqProofs only [State.sendOrder]; repeat' (first | with_reducible rfl | (with_reducible intro _) | split | with_reducible refine (foldl_tm _ _ _ ?_).trans ?_ | with_reducible refine (foldl_pending _ _ _ ?_).trans ?_ | simp -implicitDefEqProofs))

@[simp ↓] theorem opCheckDone_frame (s : State) (cl : Nat) (lane : Bool) :
    (s.opCheckDone cl lane).tm = s.tm ∧ (s.opCheckDone cl lane).pending = s.pending := by
  constructor <;> (simp -implicitDefEqProofs only [State.opCheckDone]; repeat' (first | with_reducible rfl | (with_reducible intro _) | split | with_reducible refine (whenOp_tm _ _ ?_).trans ?_ | with_reducible refine (whenOp_pending _ _ ?_).trans ?_ | simp -implicitDefEqProofs))

@[simp ↓] theorem applyOrder_frame (s : State) (p rseq n att : Nat) (handover : Bool) :
    (s.applyOrder p rseq n att handover).tm = s.tm ∧ (s.applyOrder p rseq n att handover).pending = s.pending := by
  constructor <;> simp [State.applyOrder]

@[simp ↓] theorem dropVerdict_frame (s : State) (p : Nat) :
    (s.dropVerdict p).tm = s.tm ∧ (s.dropVerdict p).pending = s.pending := by
  constructor <;> simp [State.dropVerdict]

@[simp ↓] theorem rootRequest_frame (s : State) (p n att : Nat) (exhausted : Bool) :
    (s.rootRequest p n att exhausted).tm = s.tm ∧ (s.rootRequest p n att exhausted).pending = s.pending := by
  constructor <;> (simp only [State.rootRequest]; (repeat' split) <;> simp)

@[simp ↓] theorem request_frame (s : State) (p n pos : Nat) (exhausted : Bool) :
    (s.request p n pos exhausted).tm = s.tm ∧ (s.request p n pos exhausted).pending = s.pending := by
  constructor <;> (simp only [State.request]; (repeat' split) <;> simp)

@[simp ↓] theorem snapSlots_frame (s : State) (p : Nat) :
    (s.snapSlots p).tm = s.tm ∧ (s.snapSlots p).pending = s.pending := by
  constructor <;> (simp -implicitDefEqProofs only [State.snapSlots]; repeat' (first | with_reducible rfl | (with_reducible intro _) | split | with_reducible refine (foldl_tm _ _ _ ?_).trans ?_ | with_reducible refine (foldl_pending _ _ _ ?_).trans ?_ | with_reducible refine (foldr_tm _ _ _ ?_).trans ?_ | with_reducible refine (foldr_pending _ _ _ ?_).trans ?_ | simp -implicitDefEqProofs))

@[simp ↓] theorem enterHandover_frame (s : State) (p event : Nat) :
    (s.enterHandover p event).tm = s.tm ∧ (s.enterHandover p event).pending = s.pending := by
  constructor <;> simp [State.enterHandover]

@[simp ↓] theorem boundaryParts_frame (s : State) (p : Nat) :
    (s.boundaryParts p).tm = s.tm ∧ (s.boundaryParts p).pending = s.pending := by
  constructor <;> (simp -implicitDefEqProofs only [State.boundaryParts]; repeat' (first | with_reducible rfl | (with_reducible intro _) | split | with_reducible refine (foldl_tm _ _ _ ?_).trans ?_ | with_reducible refine (foldl_pending _ _ _ ?_).trans ?_ | simp -implicitDefEqProofs))

@[simp ↓] theorem commitStep_frame (s : State) (p n flags : Nat) :
    (s.commitStep p n flags).tm = s.tm ∧ (s.commitStep p n flags).pending = s.pending := by
  constructor <;> (simp -implicitDefEqProofs only [State.commitStep]; repeat' (first | with_reducible rfl | (with_reducible intro _) | split | with_reducible refine (foldl_tm _ _ _ ?_).trans ?_ | with_reducible refine (foldl_pending _ _ _ ?_).trans ?_ | simp -implicitDefEqProofs))

@[simp ↓] theorem treeVote_frame (s : State) (p n : Nat) :
    (s.treeVote p n).tm = s.tm ∧ (s.treeVote p n).pending = s.pending := by
  constructor <;> (simp only [State.treeVote]; (repeat' split) <;> simp)

@[simp ↓] theorem opVerdict_frame (s : State) (p : Nat) :
    (s.opVerdict p).tm = s.tm ∧ (s.opVerdict p).pending = s.pending := by
  constructor <;> (simp -implicitDefEqProofs only [State.opVerdict]; repeat' (first | with_reducible rfl | (with_reducible intro _) | split | with_reducible refine (whenOp_tm _ _ ?_).trans ?_ | with_reducible refine (whenOp_pending _ _ ?_).trans ?_ | simp -implicitDefEqProofs))

@[simp ↓] theorem opCarrier_frame (s : State) (p : Nat) :
    (s.opCarrier p).tm = s.tm ∧ (s.opCarrier p).pending = s.pending := by
  constructor <;> (simp -implicitDefEqProofs only [State.opCarrier]; repeat' (first | with_reducible rfl | (with_reducible intro _) | split | with_reducible refine (whenOp_tm _ _ ?_).trans ?_ | with_reducible refine (whenOp_pending _ _ ?_).trans ?_ | simp -implicitDefEqProofs))

@[simp ↓] theorem copyGran_frame (s : State) (p pos b g : Nat) :
    (s.copyGran p pos b g).tm = s.tm ∧ (s.copyGran p pos b g).pending = s.pending := by
  constructor <;> (simp -implicitDefEqProofs only [State.copyGran]; repeat' (first | with_reducible rfl | (with_reducible intro _) | split | with_reducible refine (foldl_tm _ _ _ ?_).trans ?_ | with_reducible refine (foldl_pending _ _ _ ?_).trans ?_ | with_reducible refine (foldr_tm _ _ _ ?_).trans ?_ | with_reducible refine (foldr_pending _ _ _ ?_).trans ?_ | simp -implicitDefEqProofs))

@[simp ↓] theorem copySlot_frame (s : State) (p pos b : Nat) :
    (s.copySlot p pos b).tm = s.tm ∧ (s.copySlot p pos b).pending = s.pending := by
  constructor <;> (simp -implicitDefEqProofs only [State.copySlot]; repeat' (first | with_reducible rfl | (with_reducible intro _) | split | with_reducible refine (foldl_tm _ _ _ ?_).trans ?_ | with_reducible refine (foldl_pending _ _ _ ?_).trans ?_ | simp -implicitDefEqProofs))

@[simp ↓] theorem noteAction_frame (s : State) (pos action : Nat) :
    (s.noteAction pos action).tm = s.tm ∧ (s.noteAction pos action).pending = s.pending := by
  constructor <;> simp [State.noteAction]

@[simp ↓] theorem remap_frame (s : State) (p pos : Nat) :
    (s.remap p pos).2.tm = s.tm ∧ (s.remap p pos).2.pending = s.pending := by
  constructor <;> (simp only [State.remap]; (repeat' split) <;> simp)

@[simp ↓] theorem marginStep_frame (s : State) (p pos : Nat) :
    (s.marginStep p pos).tm = s.tm ∧ (s.marginStep p pos).pending = s.pending := by
  constructor <;> simp [State.marginStep]

@[simp ↓] theorem charge_frame (s : State) (p : Nat) (stepped : List Nat) (pos : Nat) :
    (s.charge p stepped pos).2.2.tm = s.tm ∧ (s.charge p stepped pos).2.2.pending = s.pending := by
  constructor <;> (simp only [State.charge]; (repeat' split) <;> simp)

@[simp ↓] theorem escalate_frame (s : State) (p r : Nat) :
    (s.escalate p r).2.tm = s.tm ∧ (s.escalate p r).2.pending = s.pending := by
  constructor <;> (simp -implicitDefEqProofs only [State.escalate]; repeat' (first | with_reducible rfl | (with_reducible intro _) | split | with_reducible refine (foldl_tm _ _ _ ?_).trans ?_ | with_reducible refine (foldl_pending _ _ _ ?_).trans ?_ | with_reducible refine (foldr_tm _ _ _ ?_).trans ?_ | with_reducible refine (foldr_pending _ _ _ ?_).trans ?_ | with_reducible refine (foldq_tm _ _ _ ?_).trans ?_ | with_reducible refine (foldq_pending _ _ _ ?_).trans ?_ | simp -implicitDefEqProofs))

@[simp ↓] theorem applyResume_frame (s : State) (p : Nat) :
    (s.applyResume p).tm = s.tm ∧ (s.applyResume p).pending = s.pending := by
  constructor <;> (simp -implicitDefEqProofs only [State.applyResume]; repeat' (first | with_reducible rfl | (with_reducible intro _) | split | with_reducible refine (foldl_tm _ _ _ ?_).trans ?_ | with_reducible refine (foldl_pending _ _ _ ?_).trans ?_ | with_reducible refine (foldr_tm _ _ _ ?_).trans ?_ | with_reducible refine (foldr_pending _ _ _ ?_).trans ?_ | simp -implicitDefEqProofs))

@[simp ↓] theorem opQuiesced_frame (s : State) (p : Nat) :
    (s.opQuiesced p).tm = s.tm ∧ (s.opQuiesced p).pending = s.pending := by
  constructor <;> (simp -implicitDefEqProofs only [State.opQuiesced]; repeat' (first | with_reducible rfl | (with_reducible intro _) | split | with_reducible refine (whenOp_tm _ _ ?_).trans ?_ | with_reducible refine (whenOp_pending _ _ ?_).trans ?_ | simp -implicitDefEqProofs))

@[simp ↓] theorem verdictIn_frame (s : State) (c : Nat) (b : Bytes) :
    (s.verdictIn c b).tm = s.tm ∧ (s.verdictIn c b).pending = s.pending := by
  constructor <;> (simp only [State.verdictIn]; (repeat' split) <;> simp)

@[simp ↓] theorem opBoundary_frame (s : State) (p : Nat) :
    (s.opBoundary p).tm = s.tm ∧ (s.opBoundary p).pending = s.pending := by
  constructor <;> (simp -implicitDefEqProofs only [State.opBoundary]; repeat' (first | with_reducible rfl | (with_reducible intro _) | split | with_reducible refine (whenOp_tm _ _ ?_).trans ?_ | with_reducible refine (whenOp_pending _ _ ?_).trans ?_ | simp -implicitDefEqProofs))

end Sys2Proof.Machine
end

