-- ==== Sys2Proof/Laws/FrameJob.lean ====
section
/-! SUPPORT. Frames of loads, collectives, transfers, structure images and connections: which operations leave module time and the queue of commands alone. -/
namespace Sys2Proof.Machine

/-! Load -/

@[simp ↓] theorem fetchBytes_frame (s : State) (p : Nat) (errs : List MemErr) (addr n : Nat) :
    (s.fetchBytes p errs addr n).2.tm = s.tm ∧ (s.fetchBytes p errs addr n).2.pending = s.pending := by
  constructor <;> (simp -implicitDefEqProofs only [State.fetchBytes]; repeat' (first | with_reducible rfl | (with_reducible intro _) | split | with_reducible refine (foldl_tm _ _ _ ?_).trans ?_ | with_reducible refine (foldl_pending _ _ _ ?_).trans ?_ | with_reducible refine (foldr_tm _ _ _ ?_).trans ?_ | with_reducible refine (foldr_pending _ _ _ ?_).trans ?_ | with_reducible refine (foldq_tm _ _ _ ?_).trans ?_ | with_reducible refine (foldq_pending _ _ _ ?_).trans ?_ | simp -implicitDefEqProofs))

@[simp ↓] theorem chargePools_frame (s : State) (p sid : Nat) (ws : List W64) :
    (s.chargePools p sid ws).tm = s.tm ∧ (s.chargePools p sid ws).pending = s.pending := by
  constructor <;> (simp only [State.chargePools]; (repeat' split) <;> simp)

@[simp ↓] theorem traceChecks_frame (s : State) (p cause sid : Nat) :
    (s.traceChecks p cause sid).tm = s.tm ∧ (s.traceChecks p cause sid).pending = s.pending := by
  constructor <;> (simp -implicitDefEqProofs only [State.traceChecks]; repeat' (first | with_reducible rfl | (with_reducible intro _) | split | with_reducible refine (foldl_tm _ _ _ ?_).trans ?_ | with_reducible refine (foldl_pending _ _ _ ?_).trans ?_ | simp -implicitDefEqProofs))

@[simp ↓] theorem rejectLoad_frame (s : State) (p : Nat) (r : Reject) :
    (s.rejectLoad p r).tm = s.tm ∧ (s.rejectLoad p r).pending = s.pending := by
  constructor <;> simp [State.rejectLoad]

@[simp ↓] theorem admitImage_frame (s : State) (p addr : Nat) (im : Image) :
    (s.admitImage p addr im).tm = s.tm ∧ (s.admitImage p addr im).pending = s.pending := by
  constructor <;> (simp -implicitDefEqProofs only [State.admitImage]; repeat' (first | with_reducible rfl | (with_reducible intro _) | split | with_reducible refine (foldl_tm _ _ _ ?_).trans ?_ | with_reducible refine (foldl_pending _ _ _ ?_).trans ?_ | simp -implicitDefEqProofs))

@[simp ↓] theorem opLoad_frame (s : State) (p addr : Nat) (errs : List MemErr) :
    (s.opLoad p addr errs).2.tm = s.tm ∧ (s.opLoad p addr errs).2.pending = s.pending := by
  constructor <;> (simp -implicitDefEqProofs only [State.opLoad]; repeat' (first | with_reducible rfl | (with_reducible intro _) | split | with_reducible refine (foldl_tm _ _ _ ?_).trans ?_ | with_reducible refine (foldl_pending _ _ _ ?_).trans ?_ | with_reducible refine (foldr_tm _ _ _ ?_).trans ?_ | with_reducible refine (foldr_pending _ _ _ ?_).trans ?_ | with_reducible refine (foldq_tm _ _ _ ?_).trans ?_ | with_reducible refine (foldq_pending _ _ _ ?_).trans ?_ | simp -implicitDefEqProofs))

@[simp ↓] theorem passSlip_frame (s : State) (p : Nat) (but : Option Nat) (payload : Bytes) :
    (s.passSlip p but payload).tm = s.tm ∧ (s.passSlip p but payload).pending = s.pending := by
  constructor <;> (simp -implicitDefEqProofs only [State.passSlip]; repeat' (first | with_reducible rfl | (with_reducible intro _) | split | with_reducible refine (foldl_tm _ _ _ ?_).trans ?_ | with_reducible refine (foldl_pending _ _ _ ?_).trans ?_ | simp -implicitDefEqProofs))

@[simp ↓] theorem sendSlip_frame (s : State) (p late : Nat) (h : Sched) :
    (s.sendSlip p late h).tm = s.tm ∧ (s.sendSlip p late h).pending = s.pending := by
  constructor <;> simp [State.sendSlip]

@[simp ↓] theorem overrun_frame (s : State) (p : Nat) (h : Sched) :
    (s.overrun p h).tm = s.tm ∧ (s.overrun p h).pending = s.pending := by
  constructor <;> simp [State.overrun]

@[simp ↓] theorem servePools_frame (s : State) (p : Nat) (h : Sched) :
    (s.servePools p h).tm = s.tm ∧ (s.servePools p h).pending = s.pending := by
  constructor <;> simp [State.servePools]

@[simp ↓] theorem opRound_frame (s : State) (p : Nat) :
    (s.opRound p).tm = s.tm ∧ (s.opRound p).pending = s.pending := by
  constructor <;> (simp -implicitDefEqProofs only [State.opRound]; repeat' (first | with_reducible rfl | (with_reducible intro _) | split | with_reducible refine (whenOp_tm _ _ ?_).trans ?_ | with_reducible refine (whenOp_pending _ _ ?_).trans ?_ | simp -implicitDefEqProofs))

@[simp ↓] theorem slipIn_frame (s : State) (c : Nat) (b : Bytes) :
    (s.slipIn c b).tm = s.tm ∧ (s.slipIn c b).pending = s.pending := by
  constructor <;> (simp only [State.slipIn]; (repeat' split) <;> simp)

/-! Compact -/

/-! Coll -/

@[simp ↓] theorem collNote_frame (s : State) (c : Nat) (w : W64) (f : ColRegs → ColRegs) :
    (s.collNote c w f).tm = s.tm ∧ (s.collNote c w f).pending = s.pending := by
  constructor <;> simp [State.collNote]

@[simp ↓] theorem collLimits_frame (s : State) (p c n : Nat) :
    (s.collLimits p c n).tm = s.tm ∧ (s.collLimits p c n).pending = s.pending := by
  constructor <;> (simp -implicitDefEqProofs only [State.collLimits]; repeat' (first | with_reducible rfl | (with_reducible intro _) | split | with_reducible refine (foldl_tm _ _ _ ?_).trans ?_ | with_reducible refine (foldl_pending _ _ _ ?_).trans ?_ | simp -implicitDefEqProofs))

@[simp ↓] theorem collBadImages_frame (s : State) (p c n : Nat) :
    (s.collBadImages p c n).tm = s.tm ∧ (s.collBadImages p c n).pending = s.pending := by
  constructor <;> (simp -implicitDefEqProofs only [State.collBadImages]; repeat' (first | with_reducible rfl | (with_reducible intro _) | split | with_reducible refine (foldl_tm _ _ _ ?_).trans ?_ | with_reducible refine (foldl_pending _ _ _ ?_).trans ?_ | simp -implicitDefEqProofs))

@[simp ↓] theorem putFrom_tm (p : Nat) (gens : List (Nat × Nat)) (errs : List MemErr) (a0 : Nat) (poison : Nat → Bool) (n : Nat) (s : State) (a : Nat) (bs : Bytes) :
    (State.putFrom p gens errs a0 poison n s a bs).tm = s.tm := by
  induction n generalizing s a bs with
  | zero => rfl
  | succ n ih =>
    unfold State.putFrom
    repeat' (first | rfl | split | rw [ih] | exact foldl_tm _ _ _ (fun s e => dropStale_tm s _ e.1) | simp)

@[simp ↓] theorem putFrom_pending (p : Nat) (gens : List (Nat × Nat)) (errs : List MemErr) (a0 : Nat) (poison : Nat → Bool) (n : Nat) (s : State) (a : Nat) (bs : Bytes) :
    (State.putFrom p gens errs a0 poison n s a bs).pending = s.pending := by
  induction n generalizing s a bs with
  | zero => rfl
  | succ n ih =>
    unfold State.putFrom
    repeat' (first | rfl | split | rw [ih] | exact foldl_pending _ _ _ (fun s e => dropStale_pending s _ e.1) | simp)

@[simp ↓] theorem partGrans_frame (s : State) (p : Nat) (gs : List Nat) (errs : List MemErr) :
    (s.partGrans p gs errs).2.tm = s.tm ∧ (s.partGrans p gs errs).2.pending = s.pending := by
  constructor <;> (simp -implicitDefEqProofs only [State.partGrans]; repeat' (first | with_reducible rfl | (with_reducible intro _) | split | with_reducible refine (foldl_tm _ _ _ ?_).trans ?_ | with_reducible refine (foldl_pending _ _ _ ?_).trans ?_ | with_reducible refine (foldr_tm _ _ _ ?_).trans ?_ | with_reducible refine (foldr_pending _ _ _ ?_).trans ?_ | with_reducible refine (foldq_tm _ _ _ ?_).trans ?_ | with_reducible refine (foldq_pending _ _ _ ?_).trans ?_ | simp -implicitDefEqProofs))

@[simp ↓] theorem putRun_frame (s : State) (p : Nat) (gens : List (Nat × Nat)) (errs : List MemErr) (a : Nat) (bs : Bytes) (poison : Nat → Bool) :
    (s.putRun p gens errs a bs poison).tm = s.tm ∧ (s.putRun p gens errs a bs poison).pending = s.pending := by
  constructor <;> simp [State.putRun]

@[simp ↓] theorem readMarked_frame (s : State) (p a n : Nat) (errs : List MemErr) :
    (s.readMarked p a n errs).2.tm = s.tm ∧ (s.readMarked p a n errs).2.pending = s.pending := by
  constructor <;> simp [State.readMarked]

@[simp ↓] theorem putMarked_frame (s : State) (p : Nat) (gens : List (Nat × Nat)) (errs : List MemErr) (a : Nat) (l : Marked) :
    (s.putMarked p gens errs a l).tm = s.tm ∧ (s.putMarked p gens errs a l).pending = s.pending := by
  constructor <;> simp [State.putMarked]

@[simp ↓] theorem segStates_frame (s : State) (p col : Nat) (k : CollCtx) (form a rel seg : Nat) (errs : List MemErr) :
    (s.segStates p col k form a rel seg errs).2.tm = s.tm ∧ (s.segStates p col k form a rel seg errs).2.pending = s.pending := by
  constructor <;> (simp only [State.segStates]; (repeat' split) <;> simp)

@[simp ↓] theorem ownStates_frame (s : State) (p col : Nat) (k : CollCtx) (step seg : Nat) (errs : List MemErr) :
    (s.ownStates p col k step seg errs).2.tm = s.tm ∧ (s.ownStates p col k step seg errs).2.pending = s.pending := by
  constructor <;> (simp only [State.ownStates]; (repeat' split) <;> simp)

@[simp ↓] theorem sendRun_frame (s : State) (c : Nat) (pkts : List Pkt) :
    (s.sendRun c pkts).tm = s.tm ∧ (s.sendRun c pkts).pending = s.pending := by
  constructor <;> (simp -implicitDefEqProofs only [State.sendRun]; repeat' (first | with_reducible rfl | (with_reducible intro _) | split | with_reducible refine (foldl_tm _ _ _ ?_).trans ?_ | with_reducible refine (foldl_pending _ _ _ ?_).trans ?_ | simp -implicitDefEqProofs))

theorem encodeSpan_tm (s : State) (k : CollCtx) (step lo hi contrib attempt : Nat) (prov : Bool) (get : State → Nat → Option (List Acc) × State)
    (h : ∀ s n, (get s n).2.tm = s.tm) : (s.encodeSpan k step lo hi contrib attempt prov get).2.tm = s.tm := by
  unfold State.encodeSpan
  refine (foldr_tm _ _ _ ?_).trans rfl
  intro x a
  dsimp only
  split
  · rfl
  · split <;> simp [h]

theorem encodeSpan_pending (s : State) (k : CollCtx) (step lo hi contrib attempt : Nat) (prov : Bool) (get : State → Nat → Option (List Acc) × State)
    (h : ∀ s n, (get s n).2.pending = s.pending) : (s.encodeSpan k step lo hi contrib attempt prov get).2.pending = s.pending := by
  unfold State.encodeSpan
  refine (foldr_pending _ _ _ ?_).trans rfl
  intro x a
  dsimp only
  split
  · rfl
  · split <;> simp [h]

@[simp ↓] theorem readPieces_frame (s : State) (p base : Nat) (ps : List Piece) (errs : List MemErr) :
    (s.readPieces p base ps errs).2.tm = s.tm ∧ (s.readPieces p base ps errs).2.pending = s.pending := by
  constructor <;> (simp -implicitDefEqProofs only [State.readPieces]; repeat' (first | with_reducible rfl | (with_reducible intro _) | split | with_reducible refine (foldl_tm _ _ _ ?_).trans ?_ | with_reducible refine (foldl_pending _ _ _ ?_).trans ?_ | with_reducible refine (foldr_tm _ _ _ ?_).trans ?_ | with_reducible refine (foldr_pending _ _ _ ?_).trans ?_ | with_reducible refine (foldq_tm _ _ _ ?_).trans ?_ | with_reducible refine (foldq_pending _ _ _ ?_).trans ?_ | simp -implicitDefEqProofs))

@[simp ↓] theorem putPieces_frame (s : State) (p : Nat) (gens : List (Nat × Nat)) (errs : List MemErr) (base : Nat) (ps : List Piece) (l : Marked) :
    (s.putPieces p gens errs base ps l).tm = s.tm ∧ (s.putPieces p gens errs base ps l).pending = s.pending := by
  constructor <;> (simp -implicitDefEqProofs only [State.putPieces]; repeat' (first | with_reducible rfl | (with_reducible intro _) | split | with_reducible refine (foldl_tm _ _ _ ?_).trans ?_ | with_reducible refine (foldl_pending _ _ _ ?_).trans ?_ | with_reducible refine (foldr_tm _ _ _ ?_).trans ?_ | with_reducible refine (foldr_pending _ _ _ ?_).trans ?_ | with_reducible refine (foldq_tm _ _ _ ?_).trans ?_ | with_reducible refine (foldq_pending _ _ _ ?_).trans ?_ | simp -implicitDefEqProofs))

@[simp ↓] theorem sendGrans_frame (s : State) (p c : Nat) (k : CollCtx) (gs : List Gran) :
    (s.sendGrans p c k gs).tm = s.tm ∧ (s.sendGrans p c k gs).pending = s.pending := by
  constructor <;> simp [State.sendGrans]

@[simp ↓] theorem collSend_frame (s : State) (p col : Nat) (k : CollCtx) (ws : List W64) (errs : List MemErr) :
    (s.collSend p col k ws errs).2.tm = s.tm ∧ (s.collSend p col k ws errs).2.pending = s.pending := by
  constructor <;> (simp -implicitDefEqProofs only [State.collSend]; repeat' (first | with_reducible rfl | (with_reducible intro _) | split | with_reducible refine (encodeSpan_tm _ _ _ _ _ _ _ _ _ ?_).trans ?_ | with_reducible refine (encodeSpan_pending _ _ _ _ _ _ _ _ _ ?_).trans ?_ | simp -implicitDefEqProofs))

@[simp ↓] theorem sendVotes_frame (s : State) (p : Nat) (k : CollCtx) :
    (s.sendVotes p k).tm = s.tm ∧ (s.sendVotes p k).pending = s.pending := by
  constructor <;> (simp -implicitDefEqProofs only [State.sendVotes]; repeat' (first | with_reducible rfl | (with_reducible intro _) | split | with_reducible refine (foldl_tm _ _ _ ?_).trans ?_ | with_reducible refine (foldl_pending _ _ _ ?_).trans ?_ | simp -implicitDefEqProofs))

@[simp ↓] theorem putCodes_frame (s : State) (p : Nat) (k : CollCtx) (run : CollRun) (errs : List MemErr) (rel seg : Nat) (sts : List Acc) :
    (s.putCodes p k run errs rel seg sts).tm = s.tm ∧ (s.putCodes p k run errs rel seg sts).pending = s.pending := by
  constructor <;> (simp only [State.putCodes]; (repeat' split) <;> simp)

@[simp ↓] theorem putCompact_frame (s : State) (p : Nat) (k : CollCtx) (run : CollRun) (errs : List MemErr) (rel : Nat) (sts : List Acc) :
    (s.putCompact p k run errs rel sts).2.tm = s.tm ∧ (s.putCompact p k run errs rel sts).2.pending = s.pending := by
  constructor <;> (simp -implicitDefEqProofs only [State.putCompact]; repeat' (first | with_reducible rfl | (with_reducible intro _) | split | with_reducible refine (foldl_tm _ _ _ ?_).trans ?_ | with_reducible refine (foldl_pending _ _ _ ?_).trans ?_ | simp -implicitDefEqProofs))

@[simp ↓] theorem spillFull_frame (s : State) (p : Nat) (k : CollCtx) (run : CollRun) (rel : Nat) :
    (s.spillFull p k run rel).tm = s.tm ∧ (s.spillFull p k run rel).pending = s.pending := by
  constructor <;> simp [State.spillFull]

@[simp ↓] theorem finishSeg_frame (s : State) (p : Nat) (k : CollCtx) (run : CollRun) (errs : List MemErr) (rel : Nat) :
    (s.finishSeg p k run errs rel).2.tm = s.tm ∧ (s.finishSeg p k run errs rel).2.pending = s.pending := by
  constructor <;> (simp only [State.finishSeg]; (repeat' split) <;> simp)

@[simp ↓] theorem finishCopy_frame (s : State) (p : Nat) (run : CollRun) (errs : List MemErr) (x : Regroup) :
    (s.finishCopy p run errs x).2.tm = s.tm ∧ (s.finishCopy p run errs x).2.pending = s.pending := by
  constructor <;> (simp only [State.finishCopy]; (repeat' split) <;> simp)

@[simp ↓] theorem finishGrans_frame (s : State) (p : Nat) (k : CollCtx) (run : CollRun) (errs : List MemErr) :
    (s.finishGrans p k run errs).2.tm = s.tm ∧ (s.finishGrans p k run errs).2.pending = s.pending := by
  constructor <;> (simp -implicitDefEqProofs only [State.finishGrans]; repeat' (first | with_reducible rfl | (with_reducible intro _) | split | with_reducible refine (foldl_tm _ _ _ ?_).trans ?_ | with_reducible refine (foldl_pending _ _ _ ?_).trans ?_ | with_reducible refine (foldr_tm _ _ _ ?_).trans ?_ | with_reducible refine (foldr_pending _ _ _ ?_).trans ?_ | with_reducible refine (foldq_tm _ _ _ ?_).trans ?_ | with_reducible refine (foldq_pending _ _ _ ?_).trans ?_ | simp -implicitDefEqProofs))

@[simp ↓] theorem runDone_frame (s : State) (p : Nat) (k : CollCtx) (run : CollRun) (res : Nat) (writes : Bool) :
    (s.runDone p k run res writes).tm = s.tm ∧ (s.runDone p k run res writes).pending = s.pending := by
  constructor <;> simp [State.runDone]

@[simp ↓] theorem collFinish_frame (s : State) (p : Nat) (k : CollCtx) (run : CollRun) (errs : List MemErr) :
    (s.collFinish p k run errs).tm = s.tm ∧ (s.collFinish p k run errs).pending = s.pending := by
  constructor <;> (simp -implicitDefEqProofs only [State.collFinish]; repeat' (first | with_reducible rfl | (with_reducible intro _) | split | with_reducible refine (foldl_tm _ _ _ ?_).trans ?_ | with_reducible refine (foldl_pending _ _ _ ?_).trans ?_ | with_reducible refine (foldr_tm _ _ _ ?_).trans ?_ | with_reducible refine (foldr_pending _ _ _ ?_).trans ?_ | with_reducible refine (foldq_tm _ _ _ ?_).trans ?_ | with_reducible refine (foldq_pending _ _ _ ?_).trans ?_ | simp -implicitDefEqProofs))

@[simp ↓] theorem collPart_frame (s : State) (p : Nat) (k : CollCtx) (run : CollRun) (x : CollIn) :
    (s.collPart p k run x).2.tm = s.tm ∧ (s.collPart p k run x).2.pending = s.pending := by
  constructor <;> (simp only [State.collPart]; (repeat' split) <;> simp)

@[simp ↓] theorem sendSolo_frame (s : State) (p col : Nat) (k : CollCtx) (a : CollAsk) (errs : List MemErr) :
    (s.sendSolo p col k a errs).tm = s.tm ∧ (s.sendSolo p col k a errs).pending = s.pending := by
  constructor <;> (simp only [State.sendSolo]; (repeat' split) <;> simp)

@[simp ↓] theorem collServe_frame (s : State) (p : Nat) (errs : List MemErr) :
    (s.collServe p errs).tm = s.tm ∧ (s.collServe p errs).pending = s.pending := by
  constructor <;> (simp -implicitDefEqProofs only [State.collServe]; repeat' (first | with_reducible rfl | (with_reducible intro _) | split | with_reducible refine (foldl_tm _ _ _ ?_).trans ?_ | with_reducible refine (foldl_pending _ _ _ ?_).trans ?_ | simp -implicitDefEqProofs))

@[simp ↓] theorem collSettle_frame (s : State) (p : Nat) (run : CollRun) (errs : List MemErr) :
    (s.collSettle p run errs).tm = s.tm ∧ (s.collSettle p run errs).pending = s.pending := by
  constructor <;> (simp -implicitDefEqProofs only [State.collSettle]; repeat' (first | with_reducible rfl | (with_reducible intro _) | split | with_reducible refine (foldl_tm _ _ _ ?_).trans ?_ | with_reducible refine (foldl_pending _ _ _ ?_).trans ?_ | with_reducible refine (foldr_tm _ _ _ ?_).trans ?_ | with_reducible refine (foldr_pending _ _ _ ?_).trans ?_ | with_reducible refine (foldq_tm _ _ _ ?_).trans ?_ | with_reducible refine (foldq_pending _ _ _ ?_).trans ?_ | simp -implicitDefEqProofs))

@[simp ↓] theorem collResume_frame (s : State) (p : Nat) (errs : List MemErr) :
    (s.collResume p errs).tm = s.tm ∧ (s.collResume p errs).pending = s.pending := by
  constructor <;> (simp -implicitDefEqProofs only [State.collResume]; repeat' (first | with_reducible rfl | (with_reducible intro _) | split | with_reducible refine (foldl_tm _ _ _ ?_).trans ?_ | with_reducible refine (foldl_pending _ _ _ ?_).trans ?_ | simp -implicitDefEqProofs))

@[simp ↓] theorem parkCheck_frame (s : State) (p : Nat) (ws : List W64) :
    (s.parkCheck p ws).tm = s.tm ∧ (s.parkCheck p ws).pending = s.pending := by
  constructor <;> (simp only [State.parkCheck]; (repeat' split) <;> simp)

@[simp ↓] theorem opColl_frame (s : State) (p sid : Nat) (errs : List MemErr) :
    (s.opColl p sid errs).tm = s.tm ∧ (s.opColl p sid errs).pending = s.pending := by
  constructor <;> (simp -implicitDefEqProofs only [State.opColl]; repeat' (first | with_reducible rfl | (with_reducible intro _) | split | with_reducible refine (issue_tm _ _ _ _ _ _ _ ?_).trans ?_ | with_reducible refine (issue_pending _ _ _ _ _ _ _ ?_).trans ?_ | simp -implicitDefEqProofs))

@[simp ↓] theorem lateParts_frame (s : State) (p cid st stepno step : Nat) :
    (s.lateParts p cid st stepno step).tm = s.tm ∧ (s.lateParts p cid st stepno step).pending = s.pending := by
  constructor <;> (simp -implicitDefEqProofs only [State.lateParts]; repeat' (first | with_reducible rfl | (with_reducible intro _) | split | with_reducible refine (foldl_tm _ _ _ ?_).trans ?_ | with_reducible refine (foldl_pending _ _ _ ?_).trans ?_ | simp -implicitDefEqProofs))

@[simp ↓] theorem collReceive_frame (s : State) (c : Nat) (pkt : Pkt) (errs : List MemErr) :
    (s.collReceive c pkt errs).tm = s.tm ∧ (s.collReceive c pkt errs).pending = s.pending := by
  constructor <;> (simp only [State.collReceive]; (repeat' split) <;> simp)

@[simp ↓] theorem opPull_frame (s : State) (p seg : Nat) :
    (s.opPull p seg).tm = s.tm ∧ (s.opPull p seg).pending = s.pending := by
  constructor <;> (simp -implicitDefEqProofs only [State.opPull]; repeat' (first | with_reducible rfl | (with_reducible intro _) | split | with_reducible refine (whenOp_tm _ _ ?_).trans ?_ | with_reducible refine (whenOp_pending _ _ ?_).trans ?_ | with_reducible refine (foldl_tm _ _ _ ?_).trans ?_ | with_reducible refine (foldl_pending _ _ _ ?_).trans ?_ | simp -implicitDefEqProofs))

@[simp ↓] theorem inpathAdd_frame (s : State) (p col : Nat) (k : CollCtx) (sender rel : Nat) (bs : Bytes) (n : Nat) (bad : List Nat) (errs : List MemErr) :
    (s.inpathAdd p col k sender rel bs n bad errs).2.tm = s.tm ∧ (s.inpathAdd p col k sender rel bs n bad errs).2.pending = s.pending := by
  constructor <;> (simp only [State.inpathAdd]; (repeat' split) <;> simp)

@[simp ↓] theorem collPass_frame (s : State) (plane : Nat) (v4 : Bool) (src dst : Nat) (pkt : Pkt) (errs : List MemErr) :
    (s.collPass plane v4 src dst pkt errs).2.tm = s.tm ∧ (s.collPass plane v4 src dst pkt errs).2.pending = s.pending := by
  constructor <;> (simp only [State.collPass]; (repeat' split) <;> simp)

/-! Xfer -/

@[simp ↓] theorem xferRead_frame (s : State) (p : Nat) (ws : List W64) (errs : List MemErr) :
    (s.xferRead p ws errs).2.tm = s.tm ∧ (s.xferRead p ws errs).2.pending = s.pending := by
  constructor <;> (simp only [State.xferRead]; (repeat' split) <;> simp)

@[simp ↓] theorem xferLocal_frame (s : State) (p : Nat) (ws : List W64) (x : Payload × Payload) (errs : List MemErr) :
    (s.xferLocal p ws x errs).2.tm = s.tm ∧ (s.xferLocal p ws x errs).2.pending = s.pending := by
  constructor <;> (simp only [State.xferLocal]; (repeat' split) <;> simp)

@[simp ↓] theorem xferSend_frame (s : State) (c : Nat) (ws : List W64) (step : Nat) (prov : Bool) (x : Payload × Payload) :
    (s.xferSend c ws step prov x).tm = s.tm ∧ (s.xferSend c ws step prov x).pending = s.pending := by
  constructor <;> (simp only [State.xferSend]; (repeat' split) <;> simp)

@[simp ↓] theorem opXfer_frame (s : State) (p sid : Nat) (errs : List MemErr) :
    (s.opXfer p sid errs).tm = s.tm ∧ (s.opXfer p sid errs).pending = s.pending := by
  constructor <;> (simp -implicitDefEqProofs only [State.opXfer]; repeat' (first | with_reducible rfl | (with_reducible intro _) | split | with_reducible refine (issue_tm _ _ _ _ _ _ _ ?_).trans ?_ | with_reducible refine (issue_pending _ _ _ _ _ _ _ ?_).trans ?_ | simp -implicitDefEqProofs))

@[simp ↓] theorem opTokenDue_frame (s : State) (p sid : Nat) (errs : List MemErr) :
    (s.opTokenDue p sid errs).tm = s.tm ∧ (s.opTokenDue p sid errs).pending = s.pending := by
  constructor <;> simp [State.opTokenDue]

/-! Image -/

/-! Xsi -/

@[simp ↓] theorem opXsiClaim_frame (s : State) (c : Nat) :
    (s.opXsiClaim c).2.tm = s.tm ∧ (s.opXsiClaim c).2.pending = s.pending := by
  constructor <;> (simp only [State.opXsiClaim]; (repeat' split) <;> simp)

@[simp ↓] theorem opXsiRelease_frame (s : State) (c : Nat) :
    (s.opXsiRelease c).2.tm = s.tm ∧ (s.opXsiRelease c).2.pending = s.pending := by
  constructor <;> simp [State.opXsiRelease]

@[simp ↓] theorem opFwClaim_frame (s : State) (c : Nat) :
    (s.opFwClaim c).2.tm = s.tm ∧ (s.opFwClaim c).2.pending = s.pending := by
  constructor <;> (simp only [State.opFwClaim]; (repeat' split) <;> simp)

@[simp ↓] theorem opFwRelease_frame (s : State) (c : Nat) :
    (s.opFwRelease c).2.tm = s.tm ∧ (s.opFwRelease c).2.pending = s.pending := by
  constructor <;> simp [State.opFwRelease]

@[simp ↓] theorem opClaimLapse_frame (s : State) (fw : Bool) :
    (s.opClaimLapse fw).tm = s.tm ∧ (s.opClaimLapse fw).pending = s.pending := by
  constructor <;> (simp -implicitDefEqProofs only [State.opClaimLapse]; repeat' (first | with_reducible rfl | (with_reducible intro _) | split | with_reducible refine (whenUp_tm _ _ ?_).trans ?_ | with_reducible refine (whenUp_pending _ _ ?_).trans ?_ | simp -implicitDefEqProofs))

@[simp ↓] theorem stageSend_frame (s : State) (c : Nat) (bs : Bytes) :
    (s.stageSend c bs).2.tm = s.tm ∧ (s.stageSend c bs).2.pending = s.pending := by
  constructor <;> (simp only [State.stageSend]; (repeat' split) <;> simp)

@[simp ↓] theorem traceXsi_frame (s : State) (cause : Nat) :
    (s.traceXsi cause).tm = s.tm ∧ (s.traceXsi cause).pending = s.pending := by
  constructor <;> simp [State.traceXsi]

@[simp ↓] theorem xsiReject_frame (s : State) (e : XsiBad) :
    (s.xsiReject e).tm = s.tm ∧ (s.xsiReject e).pending = s.pending := by
  constructor <;> (simp only [State.xsiReject]; (repeat' split) <;> simp)

@[simp ↓] theorem opXsiStart_frame (s : State) (c : Nat) :
    (s.opXsiStart c).2.tm = s.tm ∧ (s.opXsiStart c).2.pending = s.pending := by
  constructor <;> (simp only [State.opXsiStart]; (repeat' split) <;> simp)

@[simp ↓] theorem writePort_frame (s : State) (rs : List XRec) (n : Nat) :
    (s.writePort rs n).tm = s.tm ∧ (s.writePort rs n).pending = s.pending := by
  constructor <;> (simp only [State.writePort]; (repeat' split) <;> simp)

@[simp ↓] theorem writeModule_pending (s : State) (rs : List XRec) : (s.writeModule rs).pending = s.pending := by
  (simp -implicitDefEqProofs only [State.writeModule]; repeat' (first | with_reducible rfl | (with_reducible intro _) | split | with_reducible refine (foldl_pending _ _ _ ?_).trans ?_ | simp -implicitDefEqProofs))

@[simp ↓] theorem clearModule_pending (s : State) : s.clearModule.pending = s.pending := by
  (simp -implicitDefEqProofs only [State.clearModule]; repeat' (first | with_reducible rfl | (with_reducible intro _) | split | with_reducible refine (foldl_pending _ _ _ ?_).trans ?_ | simp -implicitDefEqProofs))

theorem ownerDoc_pending_bad (s : State) (bs : Bytes) (mgmt : Bool) (c : Nat × Bool) (h : s.ownerCheck bs mgmt = some c) :
    (s.ownerDoc bs mgmt).pending = s.pending := by
  unfold State.ownerDoc
  rw [h]
  obtain ⟨a, b⟩ := c
  cases b
  · exact actFail_pending _ _
  · exact (alarm_pending _ _).trans (actFail_pending _ _)

theorem ownerDoc_pending_ok (s : State) (bs : Bytes) (mgmt : Bool) (h : s.ownerCheck bs mgmt = none) :
    (s.ownerDoc bs mgmt).pending = s.pending := by
  unfold State.ownerDoc
  rw [h]
  refine (logLead_pending _ _ _).trans ((measure_pending _ _ _ _ _ _).trans ((traceAct_pending _ _).trans
    ((updFw_pending _ _).trans ((clearModule_pending _).trans ((updXsi_pending _ _).trans ?_)))))
  exact writeSec_pending _ _

@[simp ↓] theorem ownerDoc_pending (s : State) (bs : Bytes) (mgmt : Bool) : (s.ownerDoc bs mgmt).pending = s.pending := by
  cases h : s.ownerCheck bs mgmt with
  | none => exact ownerDoc_pending_ok s bs mgmt h
  | some c => exact ownerDoc_pending_bad s bs mgmt c h

@[simp ↓] theorem opActivate_pending (s : State) (mgmt : Bool) : (s.opActivate mgmt).2.pending = s.pending := by
  simp only [State.opActivate]; (repeat' split) <;> simp

@[simp ↓] theorem writeGrants_frame (s : State) (img : Bytes) (rs : List XRec) :
    (s.writeGrants img rs).tm = s.tm ∧ (s.writeGrants img rs).pending = s.pending := by
  constructor <;> (simp -implicitDefEqProofs only [State.writeGrants]; repeat' (first | with_reducible rfl | (with_reducible intro _) | split | with_reducible refine (foldl_tm _ _ _ ?_).trans ?_ | with_reducible refine (foldl_pending _ _ _ ?_).trans ?_ | simp -implicitDefEqProofs))

@[simp ↓] theorem createPart_frame (s : State) (rs : List XRec) (r : XRec) :
    (s.createPart rs r).tm = s.tm ∧ (s.createPart rs r).pending = s.pending := by
  constructor <;> (simp -implicitDefEqProofs only [State.createPart]; repeat' (first | with_reducible rfl | (with_reducible intro _) | split | with_reducible refine (foldl_tm _ _ _ ?_).trans ?_ | with_reducible refine (foldl_pending _ _ _ ?_).trans ?_ | simp -implicitDefEqProofs))

@[simp ↓] theorem seqAfter_frame (s : State) (img : Bytes) (rs : List XRec) (old : Nat → Option Bytes) :
    (s.seqAfter img rs old).tm = s.tm ∧ (s.seqAfter img rs old).pending = s.pending := by
  constructor <;> (simp -implicitDefEqProofs only [State.seqAfter]; repeat' (first | with_reducible rfl | (with_reducible intro _) | split | with_reducible refine (foldl_tm _ _ _ ?_).trans ?_ | with_reducible refine (foldl_pending _ _ _ ?_).trans ?_ | simp -implicitDefEqProofs))

@[simp ↓] theorem storeImage_frame (s : State) (img : Bytes) :
    (s.storeImage img).tm = s.tm ∧ (s.storeImage img).pending = s.pending := by
  constructor <;> (simp only [State.storeImage]; (repeat' split) <;> simp)

@[simp ↓] theorem xsiFinish_pending (s : State) (img : Bytes) (rs : List XRec) : (s.xsiFinish img rs).pending = s.pending := by
  (simp -implicitDefEqProofs only [State.xsiFinish]; repeat' (first | with_reducible rfl | (with_reducible intro _) | split | with_reducible refine (foldl_pending _ _ _ ?_).trans ?_ | simp -implicitDefEqProofs))

@[simp ↓] theorem xsiOn_pending (s : State) : s.xsiOn.pending = s.pending := by
  simp only [State.xsiOn]; (repeat' split) <;> simp

@[simp ↓] theorem opXsiApply_pending (s : State) : s.opXsiApply.pending = s.pending := by
  (simp -implicitDefEqProofs only [State.opXsiApply]; repeat' (first | with_reducible rfl | (with_reducible intro _) | split | with_reducible refine (whenBased_pending _ _ ?_).trans ?_ | with_reducible refine (foldl_pending _ _ _ ?_).trans ?_ | simp -implicitDefEqProofs))

@[simp ↓] theorem opDrainDone_pending (s : State) (p : Nat) : (s.opDrainDone p).pending = s.pending := by
  (simp -implicitDefEqProofs only [State.opDrainDone]; repeat' (first | with_reducible rfl | (with_reducible intro _) | split | with_reducible refine (whenUp_pending _ _ ?_).trans ?_ | simp -implicitDefEqProofs))

@[simp ↓] theorem restoreSeqs_frame (s : State) (r : SeqRec) :
    (s.restoreSeqs r).tm = s.tm ∧ (s.restoreSeqs r).pending = s.pending := by
  constructor <;> (simp -implicitDefEqProofs only [State.restoreSeqs]; repeat' (first | with_reducible rfl | (with_reducible intro _) | split | with_reducible refine (foldl_tm _ _ _ ?_).trans ?_ | with_reducible refine (foldl_pending _ _ _ ?_).trans ?_ | simp -implicitDefEqProofs))

@[simp ↓] theorem opStored_pending (s : State) : s.opStored.pending = s.pending := by
  (simp -implicitDefEqProofs only [State.opStored]; repeat' (first | with_reducible rfl | (with_reducible intro _) | split | with_reducible refine (whenUp_pending _ _ ?_).trans ?_ | simp -implicitDefEqProofs))

/-! Conns -/

@[simp ↓] theorem reply_frame (s : State) (rx : Rx) (p : Pkt) :
    (s.reply rx p).tm = s.tm ∧ (s.reply rx p).pending = s.pending := by
  constructor <;> simp [State.reply]

@[simp ↓] theorem sendOnce_frame (s : State) (c : Nat) (p : Pkt) :
    (s.sendOnce c p).tm = s.tm ∧ (s.sendOnce c p).pending = s.pending := by
  constructor <;> (simp only [State.sendOnce]; (repeat' split) <;> simp)

@[simp ↓] theorem traceOpen_frame (s : State) (point c : Nat) (req : Pkt) (status : Nat) :
    (s.traceOpen point c req status).tm = s.tm ∧ (s.traceOpen point c req status).pending = s.pending := by
  constructor <;> simp [State.traceOpen]

@[simp ↓] theorem refuseOpen_frame (s : State) (rx : Rx) (req : Pkt) (status : Nat) :
    (s.refuseOpen rx req status).tm = s.tm ∧ (s.refuseOpen rx req status).pending = s.pending := by
  constructor <;> simp [State.refuseOpen]

@[simp ↓] theorem enterOpen_frame (s : State) (c tgen rxNext : Nat) :
    (s.enterOpen c tgen rxNext).tm = s.tm ∧ (s.enterOpen c tgen rxNext).pending = s.pending := by
  constructor <;> (simp only [State.enterOpen]; (repeat' split) <;> simp)

@[simp ↓] theorem startSide_frame (s : State) (c psn : Nat) :
    (s.startSide c psn).tm = s.tm ∧ (s.startSide c psn).pending = s.pending := by
  constructor <;> simp [State.startSide]

@[simp ↓] theorem memberOpen_frame (s : State) (rx : Rx) (req : Pkt) :
    (s.memberOpen rx req).tm = s.tm ∧ (s.memberOpen rx req).pending = s.pending := by
  constructor <;> (simp only [State.memberOpen]; (repeat' split) <;> simp)

@[simp ↓] theorem grant_frame (s : State) (rx : Rx) (req : Pkt) (c kind part session : Nat) :
    (s.grant rx req c kind part session).tm = s.tm ∧ (s.grant rx req c kind part session).pending = s.pending := by
  constructor <;> (simp -implicitDefEqProofs only [State.grant]; repeat' (first | with_reducible rfl | (with_reducible intro _) | split | simp -implicitDefEqProofs))

@[simp ↓] theorem reclaim_frame (s : State) (p c : Nat) :
    (s.reclaim p c).tm = s.tm ∧ (s.reclaim p c).pending = s.pending := by
  constructor <;> (simp only [State.reclaim]; (repeat' split) <;> simp)

@[simp ↓] theorem sessionOpen_frame (s : State) (rx : Rx) (req : Pkt) (observer : Bool) :
    (s.sessionOpen rx req observer).tm = s.tm ∧ (s.sessionOpen rx req observer).pending = s.pending := by
  constructor <;> (simp only [State.sessionOpen]; (repeat' split) <;> simp)

@[simp ↓] theorem fmOpen_frame (s : State) (rx : Rx) (req : Pkt) :
    (s.fmOpen rx req).tm = s.tm ∧ (s.fmOpen rx req).pending = s.pending := by
  constructor <;> (simp only [State.fmOpen]; (repeat' split) <;> simp)

@[simp ↓] theorem endpointOpen_frame (s : State) (rx : Rx) (req : Pkt) :
    (s.endpointOpen rx req).tm = s.tm ∧ (s.endpointOpen rx req).pending = s.pending := by
  constructor <;> (simp only [State.endpointOpen]; (repeat' split) <;> simp)

@[simp ↓] theorem openAck_frame (s : State) (c : Nat) (ack : Pkt) :
    (s.openAck c ack).tm = s.tm ∧ (s.openAck c ack).pending = s.pending := by
  constructor <;> (simp only [State.openAck]; (repeat' split) <;> simp)

@[simp ↓] theorem closeIn_frame (s : State) (c : Nat) (req : Pkt) :
    (s.closeIn c req).tm = s.tm ∧ (s.closeIn c req).pending = s.pending := by
  constructor <;> simp [State.closeIn]

@[simp ↓] theorem closeAck_frame (s : State) (c : Nat) :
    (s.closeAck c).tm = s.tm ∧ (s.closeAck c).pending = s.pending := by
  constructor <;> (simp only [State.closeAck]; (repeat' split) <;> simp)

@[simp ↓] theorem opConnOpen_frame (s : State) (n : Nat) :
    (s.opConnOpen n).2.tm = s.tm ∧ (s.opConnOpen n).2.pending = s.pending := by
  constructor <;> (simp only [State.opConnOpen]; (repeat' split) <;> simp)

@[simp ↓] theorem opConnClose_frame (s : State) (n : Nat) :
    (s.opConnClose n).2.tm = s.tm ∧ (s.opConnClose n).2.pending = s.pending := by
  constructor <;> (simp only [State.opConnClose]; (repeat' split) <;> simp)

end Sys2Proof.Machine
end

