-- ==== Sys2Proof/Laws/FrameNet.lean ====
section
/-! SUPPORT. Frames of register access, reception, links and commands over a connection: which operations leave module time and the queue of commands alone. -/
namespace Sys2Proof.Machine

/-! Access -/

@[simp ↓] theorem clearGlobal_pending (s : State) (b : RegBlock) (r : Nat) : (s.clearGlobal b r).pending = s.pending := by
  simp only [State.clearGlobal]; (repeat' split) <;> simp

@[simp ↓] theorem clearReg_pending (s : State) (b : RegBlock) (off : Nat) : (s.clearReg b off).pending = s.pending := by
  simp only [State.clearReg]; (repeat' split) <;> simp

@[simp ↓] theorem ctlRead_pending (s : State) (c a : Nat) : (s.ctlRead c a).2.2.pending = s.pending := by
  simp only [State.ctlRead]; (repeat' split) <;> simp

@[simp ↓] theorem writeReg_pending (s : State) (c : Nat) (b : RegBlock) (off : Nat) (v : W64) (errs : List MemErr) : (s.writeReg c b off v errs).2.pending = s.pending := by
  simp only [State.writeReg]; (repeat' split) <;> simp

/-! Rx -/

@[simp ↓] theorem updRxOp_frame (s : State) (c id : Nat) (f : RxOp → RxOp) :
    (s.updRxOp c id f).tm = s.tm ∧ (s.updRxOp c id f).pending = s.pending := by
  constructor <;> simp [State.updRxOp]

@[simp ↓] theorem dropRxOp_frame (s : State) (c id : Nat) :
    (s.dropRxOp c id).tm = s.tm ∧ (s.dropRxOp c id).pending = s.pending := by
  constructor <;> simp [State.dropRxOp]

@[simp ↓] theorem setDma_frame (s : State) (c : Nat) (d : Dma) :
    (s.setDma c d).tm = s.tm ∧ (s.setDma c d).pending = s.pending := by
  constructor <;> simp [State.setDma]

@[simp ↓] theorem haltDma_frame (s : State) (c : Nat) (p : Pkt) :
    (s.haltDma c p).tm = s.tm ∧ (s.haltDma c p).pending = s.pending := by
  constructor <;> simp [State.haltDma]

@[simp ↓] theorem placeGran_frame (s : State) (c : Nat) (p : Pkt) (o : RxOp) (i : Nat) (errs : List MemErr) :
    (s.placeGran c p o i errs).2.tm = s.tm ∧ (s.placeGran c p o i errs).2.pending = s.pending := by
  constructor <;> (simp only [State.placeGran]; (repeat' split) <;> simp)

@[simp ↓] theorem placeWrite_frame (s : State) (c : Nat) (p : Pkt) (errs : List MemErr) :
    (s.placeWrite c p errs).2.tm = s.tm ∧ (s.placeWrite c p errs).2.pending = s.pending := by
  constructor <;> (simp -implicitDefEqProofs only [State.placeWrite]; repeat' (first | with_reducible rfl | (with_reducible intro _) | split | with_reducible refine (foldl_tm _ _ _ ?_).trans ?_ | with_reducible refine (foldl_pending _ _ _ ?_).trans ?_ | with_reducible refine (foldr_tm _ _ _ ?_).trans ?_ | with_reducible refine (foldr_pending _ _ _ ?_).trans ?_ | with_reducible refine (foldq_tm _ _ _ ?_).trans ?_ | with_reducible refine (foldq_pending _ _ _ ?_).trans ?_ | simp -implicitDefEqProofs))

@[simp ↓] theorem undoGran_frame (s : State) (u : Undo) :
    (s.undoGran u).tm = s.tm ∧ (s.undoGran u).pending = s.pending := by
  constructor <;> (simp -implicitDefEqProofs only [State.undoGran]; repeat' (first | with_reducible rfl | (with_reducible intro _) | split | with_reducible refine (foldl_tm _ _ _ ?_).trans ?_ | with_reducible refine (foldl_pending _ _ _ ?_).trans ?_ | with_reducible refine (foldr_tm _ _ _ ?_).trans ?_ | with_reducible refine (foldr_pending _ _ _ ?_).trans ?_ | simp -implicitDefEqProofs))

@[simp ↓] theorem sendRead_frame (s : State) (c id status : Nat) (gs : List Gran) :
    (s.sendRead c id status gs).tm = s.tm ∧ (s.sendRead c id status gs).pending = s.pending := by
  constructor <;> (simp -implicitDefEqProofs only [State.sendRead]; repeat' (first | with_reducible rfl | (with_reducible intro _) | split | with_reducible refine (foldl_tm _ _ _ ?_).trans ?_ | with_reducible refine (foldl_pending _ _ _ ?_).trans ?_ | with_reducible refine (foldr_tm _ _ _ ?_).trans ?_ | with_reducible refine (foldr_pending _ _ _ ?_).trans ?_ | simp -implicitDefEqProofs))

@[simp ↓] theorem failRead_frame (s : State) (c id status : Nat) :
    (s.failRead c id status).tm = s.tm ∧ (s.failRead c id status).pending = s.pending := by
  constructor <;> simp [State.failRead]

@[simp ↓] theorem readGrans_frame (s : State) (access part : Nat) (gens : List (Nat × Nat)) (addr n : Nat) (errs : List MemErr) :
    (s.readGrans access part gens addr n errs).2.tm = s.tm ∧ (s.readGrans access part gens addr n errs).2.pending = s.pending := by
  constructor <;> (simp -implicitDefEqProofs only [State.readGrans]; repeat' (first | with_reducible rfl | (with_reducible intro _) | split | with_reducible refine (foldl_tm _ _ _ ?_).trans ?_ | with_reducible refine (foldl_pending _ _ _ ?_).trans ?_ | with_reducible refine (foldr_tm _ _ _ ?_).trans ?_ | with_reducible refine (foldr_pending _ _ _ ?_).trans ?_ | with_reducible refine (foldq_tm _ _ _ ?_).trans ?_ | with_reducible refine (foldq_pending _ _ _ ?_).trans ?_ | simp -implicitDefEqProofs))

@[simp ↓] theorem serveRead_frame (s : State) (c : Nat) (p : Pkt) (errs : List MemErr) :
    (s.serveRead c p errs).2.tm = s.tm ∧ (s.serveRead c p errs).2.pending = s.pending := by
  constructor <;> (simp only [State.serveRead]; (repeat' split) <;> simp)

@[simp ↓] theorem serveHeld_pending (n : Nat) (s : State) (c : Nat) (l : List Pkt) (errs : List MemErr) :
    (State.serveHeld n s c l errs).pending = s.pending := by
  induction n generalizing s l with
  | zero => rfl
  | succ n ih =>
    unfold State.serveHeld
    split
    · rfl
    · split
      · simp
      · dsimp only
        rw [ih]
        split <;> (try split) <;> (try split) <;> simp

@[simp ↓] theorem serveHeld_tm (n : Nat) (s : State) (c : Nat) (l : List Pkt) (errs : List MemErr) :
    (State.serveHeld n s c l errs).tm = s.tm := by
  induction n generalizing s l with
  | zero => rfl
  | succ n ih =>
    unfold State.serveHeld
    split
    · rfl
    · split
      · simp
      · dsimp only
        rw [ih]
        split <;> (try split) <;> (try split) <;> simp

@[simp ↓] theorem answer_frame (s : State) (c : Nat) (p : Pkt) (status : Nat) (v : W64) :
    (s.answer c p status v).tm = s.tm ∧ (s.answer c p status v).pending = s.pending := by
  constructor <;> (simp only [State.answer]; (repeat' split) <;> simp)

@[simp ↓] theorem endHeld_frame (s : State) (c status : Nat) (l : List Pkt) :
    (s.endHeld c status l).tm = s.tm ∧ (s.endHeld c status l).pending = s.pending := by
  constructor <;> (simp -implicitDefEqProofs only [State.endHeld]; repeat' (first | with_reducible rfl | (with_reducible intro _) | split | with_reducible refine (foldl_tm _ _ _ ?_).trans ?_ | with_reducible refine (foldl_pending _ _ _ ?_).trans ?_ | simp -implicitDefEqProofs))

@[simp ↓] theorem opDma_frame (s : State) (p channel : Nat) (abort : Bool) (errs : List MemErr) :
    (s.opDma p channel abort errs).tm = s.tm ∧ (s.opDma p channel abort errs).pending = s.pending := by
  constructor <;> (simp only [State.opDma]; (repeat' split) <;> simp)

@[simp ↓] theorem finishOp_frame (s : State) (c : Nat) (o : RxOp) :
    (s.finishOp c o).2.tm = s.tm ∧ (s.finishOp c o).2.pending = s.pending := by
  constructor <;> (simp -implicitDefEqProofs only [State.finishOp]; repeat' (first | with_reducible rfl | (with_reducible intro _) | split | with_reducible refine (foldl_tm _ _ _ ?_).trans ?_ | with_reducible refine (foldl_pending _ _ _ ?_).trans ?_ | simp -implicitDefEqProofs))

@[simp ↓] theorem completeOps_pending (n : Nat) (s : State) (c : Nat) : (State.completeOps n s c).pending = s.pending := by
  induction n generalizing s with
  | zero => rfl
  | succ n ih =>
    unfold State.completeOps
    split
    · simp [ih]
    · rfl

@[simp ↓] theorem ctlWrite_pending (s : State) (c a : Nat) (v : W64) (errs : List MemErr) : (s.ctlWrite c a v errs).2.pending = s.pending := by
  unfold State.ctlWrite
  split
  · rfl
  · split
    · rfl
    · split <;> (try split) <;> simp

@[simp ↓] theorem ctlIn_pending (s : State) (c : Nat) (p : Pkt) (errs : List MemErr) : (s.ctlIn c p errs).pending = s.pending := by
  simp only [State.ctlIn]; (repeat' split) <;> simp

@[simp ↓] theorem msgIn_frame (s : State) (c : Nat) (p : Pkt) :
    (s.msgIn c p).tm = s.tm ∧ (s.msgIn c p).pending = s.pending := by
  constructor <;> (simp only [State.msgIn]; (repeat' split) <;> simp)

@[simp ↓] theorem sendIn_frame (s : State) (c : Nat) (p : Pkt) :
    (s.sendIn c p).tm = s.tm ∧ (s.sendIn c p).pending = s.pending := by
  constructor <;> simp [State.sendIn]

@[simp ↓] theorem deliverPkt_pending (s : State) (c : Nat) (p : Pkt) (errs : List MemErr) : (s.deliverPkt c p errs).2.pending = s.pending := by
  simp only [State.deliverPkt]; (repeat' split) <;> simp

@[simp ↓] theorem deliver_pending (n : Nat) (s : State) (c : Nat) (errs : List MemErr) : (State.deliver n s c errs).pending = s.pending := by
  induction n generalizing s with
  | zero => rfl
  | succ n ih =>
    unfold State.deliver
    split
    · split
      · dsimp only
        split
        · rw [ih]; simp
        · rfl
      · rfl
    · rfl

@[simp ↓] theorem placeHeld_pending (s : State) (c : Nat) (errs : List MemErr) : (s.placeHeld c errs).pending = s.pending := by
  (simp -implicitDefEqProofs only [State.placeHeld]; repeat' (first | with_reducible rfl | (with_reducible intro _) | split | with_reducible refine (foldl_pending _ _ _ ?_).trans ?_ | with_reducible refine (foldr_pending _ _ _ ?_).trans ?_ | simp -implicitDefEqProofs))

@[simp ↓] theorem settleRx_pending (s : State) (c : Nat) (errs : List MemErr) : (s.settleRx c errs).pending = s.pending := by
  simp only [State.settleRx]; (repeat' split) <;> simp

@[simp ↓] theorem openRxOp_frame (s : State) (c : Nat) (p : Pkt) :
    (s.openRxOp c p).tm = s.tm ∧ (s.openRxOp c p).pending = s.pending := by
  constructor <;> (simp only [State.openRxOp]; (repeat' split) <;> simp)

@[simp ↓] theorem noteOp_frame (s : State) (c : Nat) (p : Pkt) :
    (s.noteOp c p).tm = s.tm ∧ (s.noteOp c p).pending = s.pending := by
  constructor <;> (simp only [State.noteOp]; (repeat' split) <;> simp)

/-! Receive -/

@[simp ↓] theorem countRx_frame (s : State) (rx : Rx) :
    (s.countRx rx).tm = s.tm ∧ (s.countRx rx).pending = s.pending := by
  constructor <;> simp [State.countRx]

@[simp ↓] theorem countCe_frame (s : State) (n : Nat) (ce : Bool) :
    (s.countCe n ce).tm = s.tm ∧ (s.countCe n ce).pending = s.pending := by
  constructor <;> (simp only [State.countCe]; (repeat' split) <;> simp)

@[simp ↓] theorem hdrDrop_frame (s : State) (n : Nat) :
    (s.hdrDrop n).tm = s.tm ∧ (s.hdrDrop n).pending = s.pending := by
  constructor <;> simp [State.hdrDrop]

@[simp ↓] theorem noteArrival_frame (s : State) (c : Nat) (rx : Rx) (p : Pkt) :
    (s.noteArrival c rx p).tm = s.tm ∧ (s.noteArrival c rx p).pending = s.pending := by
  constructor <;> (simp only [State.noteArrival]; (repeat' split) <;> simp)

@[simp ↓] theorem takeContent_pending (s : State) (c : Nat) (p : Pkt) (errs : List MemErr) : (s.takeContent c p errs).pending = s.pending := by
  simp only [State.takeContent]; (repeat' split) <;> simp

@[simp ↓] theorem acceptPkt_pending (s : State) (c : Nat) (rx : Rx) (p : Pkt) : (s.acceptPkt c rx p).pending = s.pending := by
  simp only [State.acceptPkt]; (repeat' split) <;> simp

@[simp ↓] theorem windowIn_pending (s : State) (c : Nat) (rx : Rx) (p : Pkt) : (s.windowIn c rx p).pending = s.pending := by
  simp only [State.windowIn]; (repeat' split) <;> simp

@[simp ↓] theorem flushServed_frame (s : State) (c : Nat) :
    (s.flushServed c).tm = s.tm ∧ (s.flushServed c).pending = s.pending := by
  constructor <;> (simp -implicitDefEqProofs only [State.flushServed]; repeat' (first | with_reducible rfl | (with_reducible intro _) | split | with_reducible refine (foldl_tm _ _ _ ?_).trans ?_ | with_reducible refine (foldl_pending _ _ _ ?_).trans ?_ | with_reducible refine (foldr_tm _ _ _ ?_).trans ?_ | with_reducible refine (foldr_pending _ _ _ ?_).trans ?_ | simp -implicitDefEqProofs))

@[simp ↓] theorem ackIn_frame (s : State) (c : Nat) (p : Pkt) :
    (s.ackIn c p).tm = s.tm ∧ (s.ackIn c p).pending = s.pending := by
  constructor <;> simp [State.ackIn]

@[simp ↓] theorem entryIn_pending (s : State) (rx : Rx) (p : Pkt) : (s.entryIn rx p).pending = s.pending := by
  simp only [State.entryIn]; (repeat' split) <;> simp

@[simp ↓] theorem ownIn_pending (s : State) (rx : Rx) : (s.ownIn rx).pending = s.pending := by
  simp only [State.ownIn]; (repeat' split) <;> simp

@[simp ↓] theorem receive_pending (s : State) (rx : Rx) (row : Nat → Pkt → Bool) : (s.receive rx row).pending = s.pending := by
  simp only [State.receive]; (repeat' split) <;> simp

@[simp ↓] theorem regionOpens_pending (s : State) (r : Nat) : (s.regionOpens r).pending = s.pending := by
  (simp -implicitDefEqProofs only [State.regionOpens]; repeat' (first | with_reducible rfl | (with_reducible intro _) | split | with_reducible refine (whenUp_pending _ _ ?_).trans ?_ | with_reducible refine (foldl_pending _ _ _ ?_).trans ?_ | with_reducible refine (foldr_pending _ _ _ ?_).trans ?_ | simp -implicitDefEqProofs))

/-! Ptp -/

@[simp ↓] theorem updSide_pending (s : State) (plane : Nat) (f : PtpSide → PtpSide) : (s.updSide plane f).pending = s.pending := by
  simp [State.updSide]

@[simp ↓] theorem timeUnlock_pending (s : State) : s.timeUnlock.pending = s.pending := by
  simp [State.timeUnlock]

@[simp ↓] theorem timeFrom_pending (s : State) (plane : Nat) : (s.timeFrom plane).pending = s.pending := by
  simp [State.timeFrom]

@[simp ↓] theorem sourceUp_pending (s : State) (plane : Nat) : (s.sourceUp plane).pending = s.pending := by
  simp only [State.sourceUp]; (repeat' split) <;> simp

@[simp ↓] theorem ptpOffset_pending (s : State) (offset rate : Int) : (s.ptpOffset offset rate).pending = s.pending := by
  simp only [State.ptpOffset]; (repeat' split) <;> simp

@[simp ↓] theorem delayReq_pending (s : State) (plane : Nat) (x : PtpRx) : (s.delayReq plane x).pending = s.pending := by
  simp [State.delayReq]

@[simp ↓] theorem syncDone_pending (s : State) (plane : Nat) (x : PtpRx) (sent arrived : Int) : (s.syncDone plane x sent arrived).pending = s.pending := by
  simp only [State.syncDone]; (repeat' split) <;> simp

@[simp ↓] theorem ptpTake_pending (s : State) (plane : Nat) (x : PtpRx) : (s.ptpTake plane x).pending = s.pending := by
  simp only [State.ptpTake]; (repeat' split) <;> simp

@[simp ↓] theorem ptpSend_frame (s : State) (x : PtpRx) (hop ttl : Nat) (at' : Nat × Nat) :
    ((State.ptpSend s x hop ttl at')).tm = s.tm ∧ ((State.ptpSend s x hop ttl at')).pending = s.pending := by
  constructor <;> simp [State.ptpSend]

@[simp ↓] theorem ptpForward_frame (s : State) (plane : Nat) (x : PtpRx) :
    (s.ptpForward plane x).tm = s.tm ∧ (s.ptpForward plane x).pending = s.pending := by
  constructor <;> (simp -implicitDefEqProofs only [State.ptpForward]; repeat' (first | with_reducible rfl | (with_reducible intro _) | split | with_reducible refine (foldl_tm _ _ _ ?_).trans ?_ | with_reducible refine (foldl_pending _ _ _ ?_).trans ?_ | simp -implicitDefEqProofs))

@[simp ↓] theorem opPtp_pending (s : State) (x : PtpRx) : (s.opPtp x).pending = s.pending := by
  (simp -implicitDefEqProofs only [State.opPtp]; repeat' (first | with_reducible rfl | (with_reducible intro _) | split | with_reducible refine (whenBased_pending _ _ ?_).trans ?_ | simp -implicitDefEqProofs))

@[simp ↓] theorem opPtpTransit_pending (s : State) (x : PtpRx) : (s.opPtpTransit x).pending = s.pending := by
  simp only [State.opPtpTransit]; (repeat' split) <;> simp

@[simp ↓] theorem opPtpLost_pending (s : State) (plane : Nat) : (s.opPtpLost plane).pending = s.pending := by
  (simp -implicitDefEqProofs only [State.opPtpLost]; repeat' (first | with_reducible rfl | (with_reducible intro _) | split | with_reducible refine (whenBased_pending _ _ ?_).trans ?_ | simp -implicitDefEqProofs))

@[simp ↓] theorem opHoldover_pending (s : State) (err : Nat) : (s.opHoldover err).pending = s.pending := by
  (simp -implicitDefEqProofs only [State.opHoldover]; repeat' (first | with_reducible rfl | (with_reducible intro _) | split | with_reducible refine (whenBased_pending _ _ ?_).trans ?_ | simp -implicitDefEqProofs))

/-! Link -/

@[simp ↓] theorem opLinkDown_frame (s : State) (n sub : Nat) :
    (s.opLinkDown n sub).tm = s.tm ∧ (s.opLinkDown n sub).pending = s.pending := by
  constructor <;> (simp -implicitDefEqProofs only [State.opLinkDown]; repeat' (first | with_reducible rfl | (with_reducible intro _) | split | with_reducible refine (whenUp_tm _ _ ?_).trans ?_ | with_reducible refine (whenUp_pending _ _ ?_).trans ?_ | simp -implicitDefEqProofs))

@[simp ↓] theorem opLinkUp_frame (s : State) (n sub : Nat) :
    (s.opLinkUp n sub).tm = s.tm ∧ (s.opLinkUp n sub).pending = s.pending := by
  constructor <;> (simp -implicitDefEqProofs only [State.opLinkUp]; repeat' (first | with_reducible rfl | (with_reducible intro _) | split | with_reducible refine (whenBased_tm _ _ ?_).trans ?_ | with_reducible refine (whenBased_pending _ _ ?_).trans ?_ | simp -implicitDefEqProofs))

@[simp ↓] theorem opAckSend_frame (s : State) (c : Nat) :
    (s.opAckSend c).tm = s.tm ∧ (s.opAckSend c).pending = s.pending := by
  constructor <;> (simp only [State.opAckSend]; (repeat' split) <;> simp)

@[simp ↓] theorem resend_frame (s : State) (c : Nat) (y : Copy) :
    (s.resend c y).tm = s.tm ∧ (s.resend c y).pending = s.pending := by
  constructor <;> (simp only [State.resend]; (repeat' split) <;> simp)

@[simp ↓] theorem retry_frame (s : State) (c : Nat) (y : Copy) :
    (s.retry c y).tm = s.tm ∧ (s.retry c y).pending = s.pending := by
  constructor <;> (simp -implicitDefEqProofs only [State.retry]; repeat' (first | with_reducible rfl | (with_reducible intro _) | split | with_reducible refine (foldl_tm _ _ _ ?_).trans ?_ | with_reducible refine (foldl_pending _ _ _ ?_).trans ?_ | simp -implicitDefEqProofs))

@[simp ↓] theorem opHole_frame (s : State) (c psn : Nat) :
    (s.opHole c psn).tm = s.tm ∧ (s.opHole c psn).pending = s.pending := by
  constructor <;> (simp only [State.opHole]; (repeat' split) <;> simp)

@[simp ↓] theorem opRto_frame (s : State) (c : Nat) :
    (s.opRto c).tm = s.tm ∧ (s.opRto c).pending = s.pending := by
  constructor <;> (simp only [State.opRto]; (repeat' split) <;> simp)

@[simp ↓] theorem opTimeoutOf_frame (s : State) (c id : Nat) :
    (s.opTimeoutOf c id).tm = s.tm ∧ (s.opTimeoutOf c id).pending = s.pending := by
  constructor <;> (simp only [State.opTimeoutOf]; (repeat' split) <;> simp)

@[simp ↓] theorem opRate_frame (s : State) (c : Nat) :
    (s.opRate c).tm = s.tm ∧ (s.opRate c).pending = s.pending := by
  constructor <;> (simp only [State.opRate]; (repeat' split) <;> simp)

@[simp ↓] theorem sendTransit_frame (s : State) (rx : Rx) (gs : Option (List Gran)) (bad : Bool) (at' : Nat × Nat) :
    ((State.sendTransit s rx gs bad at')).tm = s.tm ∧ ((State.sendTransit s rx gs bad at')).pending = s.pending := by
  constructor <;> simp [State.sendTransit]

@[simp ↓] theorem pickFree_frame (s : State) (set : List (Nat × Nat)) :
    (s.pickFree set).2.tm = s.tm ∧ (s.pickFree set).2.pending = s.pending := by
  constructor <;> simp [State.pickFree]

@[simp ↓] theorem engineTags_frame (s : State) (rx : Rx) :
    (s.engineTags rx).2.tm = s.tm ∧ (s.engineTags rx).2.pending = s.pending := by
  constructor <;> (simp only [State.engineTags]; (repeat' split) <;> simp)

@[simp ↓] theorem opForward_frame (s : State) (rx : Rx) :
    (s.opForward rx).tm = s.tm ∧ (s.opForward rx).pending = s.pending := by
  constructor <;> (simp only [State.opForward]; (repeat' split) <;> simp)

@[simp ↓] theorem opPfcIn_frame (s : State) (n mask : Nat) :
    (s.opPfcIn n mask).tm = s.tm ∧ (s.opPfcIn n mask).pending = s.pending := by
  constructor <;> (simp -implicitDefEqProofs only [State.opPfcIn]; repeat' (first | with_reducible rfl | (with_reducible intro _) | split | with_reducible refine (whenBased_tm _ _ ?_).trans ?_ | with_reducible refine (whenBased_pending _ _ ?_).trans ?_ | simp -implicitDefEqProofs))

@[simp ↓] theorem opPfcOut_frame (s : State) (n prio fill : Nat) :
    (s.opPfcOut n prio fill).tm = s.tm ∧ (s.opPfcOut n prio fill).pending = s.pending := by
  constructor <;> (simp -implicitDefEqProofs only [State.opPfcOut]; repeat' (first | with_reducible rfl | (with_reducible intro _) | split | with_reducible refine (whenBased_tm _ _ ?_).trans ?_ | with_reducible refine (whenBased_pending _ _ ?_).trans ?_ | with_reducible refine (foldl_tm _ _ _ ?_).trans ?_ | with_reducible refine (foldl_pending _ _ _ ?_).trans ?_ | simp -implicitDefEqProofs))

@[simp ↓] theorem opNeighbour_frame (s : State) (n sub : Nat) (vid : Option Nat) (v6 : Bool) (target asker askerMac : Nat) :
    (s.opNeighbour n sub vid v6 target asker askerMac).tm = s.tm ∧ (s.opNeighbour n sub vid v6 target asker askerMac).pending = s.pending := by
  constructor <;> (simp only [State.opNeighbour]; (repeat' split) <;> simp)

/-! Control -/

theorem within_pending (s : State) (n bound : Nat) (f : State → State) (h : (f s).pending = s.pending) :
    (s.within n bound f).pending = s.pending := by
  unfold State.within; split <;> simp [h]

theorem within_tm (s : State) (n bound : Nat) (f : State → State) (h : (f s).tm = s.tm) :
    (s.within n bound f).tm = s.tm := by
  unfold State.within; split <;> simp [h]

@[simp ↓] theorem viaWrite_pending (s : State) (v : Via) (a : Nat) (w : W64) (errs : List MemErr) : (s.viaWrite v a w errs).pending = s.pending := by
  simp only [State.viaWrite]; (repeat' split) <;> simp

@[simp ↓] theorem partCmd_pending (s : State) (v : Via) (p cmd : Nat) : (s.partCmd v p cmd).pending = s.pending := by
  (simp -implicitDefEqProofs only [State.partCmd]; repeat' (first | with_reducible rfl | (with_reducible intro _) | (simp -implicitDefEqProofs; done) | split | with_reducible refine (within_pending _ _ _ _ ?_) | simp -implicitDefEqProofs))

@[simp ↓] theorem dmaCtrl_pending (s : State) (v : Via) (p channel op : Nat) : (s.dmaCtrl v p channel op).pending = s.pending := by
  (simp -implicitDefEqProofs only [State.dmaCtrl]; repeat' (first | with_reducible rfl | (with_reducible intro _) | (simp -implicitDefEqProofs; done) | split | with_reducible refine (within_pending _ _ _ _ ?_) | simp -implicitDefEqProofs))

@[simp ↓] theorem connCmd_pending (s : State) (v : Via) (n : Nat) (w : W64) : (s.connCmd v n w).pending = s.pending := by
  (simp -implicitDefEqProofs only [State.connCmd]; repeat' (first | with_reducible rfl | (with_reducible intro _) | (simp -implicitDefEqProofs; done) | split | with_reducible refine (within_pending _ _ _ _ ?_) | simp -implicitDefEqProofs))

end Sys2Proof.Machine
end

