-- ==== Sys2Proof/Laws/MemForm.lean ====
section
/-! SUPPORT. The canonical form of memory (R240, R244, R255): every operation over memory keeps it, and logging, sending, faults and
reads leave memory as it is. -/
namespace Sys2Proof.Machine

theorem foldl_mem {α : Type} (l : List α) (g : State → α → State) (s : State) (h : ∀ s a, (g s a).mem = s.mem) : (l.foldl g s).mem = s.mem := by
  induction l generalizing s with
  | nil => rfl
  | cons a l ih => rw [List.foldl_cons, ih, h]

theorem foldq_mem {α β γ : Type} (l : List α) (g : β × γ × State → α → β × γ × State) (x : β × γ × State)
    (h : ∀ x a, (g x a).2.2.mem = x.2.2.mem) : (l.foldl g x).2.2.mem = x.2.2.mem := by
  induction l generalizing x with
  | nil => rfl
  | cons a l ih => rw [List.foldl_cons, ih, h]

/-- A fold of operations that each keep the form keeps it. -/
theorem foldl_memForm {α : Type} (l : List α) (g : State → α → State) (s : State) (h : ∀ s a, Memory.wf s.mem → Memory.wf (g s a).mem)
    (hs : Memory.wf s.mem) : Memory.wf (l.foldl g s).mem := by
  induction l generalizing s with
  | nil => exact hs
  | cons a l ih => exact ih _ (h _ _ hs)

/-! Operations that leave memory as it is -/

@[simp ↓] theorem logP_mem (s : State) (col event unit part : Nat) (payload : List W64) : (s.logP col event unit part payload).mem = s.mem := by
  simp only [State.logP]
  (repeat' split) <;> simp

@[simp ↓] theorem logEv_mem (s : State) (col event : Nat) (payload : W64) : (s.logEv col event payload).mem = s.mem := by
  simp [State.logEv]

@[simp ↓] theorem logLead_mem (s : State) (event : Nat) (payload : W64) : (s.logLead event payload).mem = s.mem := by
  simp [State.logLead]

@[simp ↓] theorem trace_mem (s : State) (col part k point : Nat) (args : List Nat) : (s.trace col part k point args).mem = s.mem := by
  simp only [State.trace]
  (repeat' split) <;> simp

@[simp ↓] theorem traceLead_mem (s : State) (part k point : Nat) (args : List Nat) : (s.traceLead part k point args).mem = s.mem := by
  simp [State.traceLead]

@[simp ↓] theorem traceConn_mem (s : State) (c k point : Nat) (args : List Nat) : (s.traceConn c k point args).mem = s.mem := by
  simp [State.traceConn]

@[simp ↓] theorem traceRegion_mem (s : State) (r point : Nat) : (s.traceRegion r point).mem = s.mem := by
  simp [State.traceRegion]

@[simp ↓] theorem emit_mem (s : State) (c : Nat) (p : Pkt) (at' : Nat × Nat) : ((State.emit s c p at')).mem = s.mem := by
  simp only [State.emit]
  (repeat' split) <;> simp

@[simp ↓] theorem movePlane_mem (s : State) (c : Nat) : (s.movePlane c).mem = s.mem := by
  simp [State.movePlane]

@[simp ↓] theorem moveIfEmpty_mem (s : State) (c : Nat) : (s.moveIfEmpty c).mem = s.mem := by
  simp only [State.moveIfEmpty]
  (repeat' split) <;> simp

@[simp ↓] theorem sendNow_mem (s : State) (c : Nat) (p : Pkt) : (s.sendNow c p).mem = s.mem := by
  simp only [State.sendNow]
  (repeat' split) <;> simp

@[simp ↓] theorem send_mem (s : State) (c : Nat) (p : Pkt) : (s.send c p).mem = s.mem := by
  simp only [State.send]
  (repeat' split) <;> simp

@[simp ↓] theorem sendAck_mem (s : State) (c : Nat) (done : Option (Nat × Nat)) : (s.sendAck c done).mem = s.mem := by
  simp only [State.sendAck]
  (repeat' split) <;> simp

@[simp ↓] theorem startOp_mem (s : State) (c : Nat) (kind : OpKind) : (s.startOp c kind).2.mem = s.mem := by
  simp [State.startOp]

@[simp ↓] theorem sendCtl_mem (s : State) (c ctlop part role tgen : Nat) (payload : Bytes) : (s.sendCtl c ctlop part role tgen payload).mem = s.mem := by
  simp [State.sendCtl]

@[simp ↓] theorem sendResp_mem (s : State) (c : Nat) (req : Pkt) (status : Nat) (payload : Bytes) : (s.sendResp c req status payload).mem = s.mem := by
  simp [State.sendResp]

@[simp ↓] theorem sendMsg_mem (s : State) (c op : Nat) (payload : Bytes) : (s.sendMsg c op payload).mem = s.mem := by
  simp [State.sendMsg]

@[simp ↓] theorem lapseClaims_mem (s : State) (c : Nat) : (s.lapseClaims c).mem = s.mem := by
  simp [State.lapseClaims]

@[simp ↓] theorem endRx_mem (s : State) (c status : Nat) (o : RxOp) : (s.endRx c status o).mem = s.mem := by
  simp only [State.endRx]; split <;> simp

@[simp ↓] theorem finishRx_mem (s : State) (c status : Nat) : (s.finishRx c status).mem = s.mem := by
  simp -implicitDefEqProofs only [State.finishRx]
  repeat' (first | with_reducible rfl | (with_reducible intro _) | split | with_reducible refine (foldl_mem _ _ _ ?_).trans ?_ | with_reducible refine (foldq_mem _ _ _ ?_).trans ?_ | simp -implicitDefEqProofs)

@[simp ↓] theorem clearDma_mem (s : State) (c : Nat) : (s.clearDma c).mem = s.mem := by
  simp only [State.clearDma]
  (repeat' split) <;> simp

@[simp ↓] theorem closeLocal_mem (s : State) (c : Nat) : (s.closeLocal c).mem = s.mem := by
  simp [State.closeLocal]

@[simp ↓] theorem closeConn_mem (s : State) (c : Nat) : (s.closeConn c).mem = s.mem := by
  simp [State.closeConn]

@[simp ↓] theorem sendNotice_mem (s : State) (c : Nat) (e : LogEntry) : (s.sendNotice c e).mem = s.mem := by
  simp [State.sendNotice]

@[simp ↓] theorem notice_mem (s : State) (e : LogEntry) : (s.notice e).mem = s.mem := by
  simp only [State.notice]
  (repeat' split) <;> simp

@[simp ↓] theorem jobAbort_mem (s : State) (p : Nat) (payload : Bytes) : (s.jobAbort p payload).mem = s.mem := by
  simp -implicitDefEqProofs only [State.jobAbort]
  repeat' (first | with_reducible rfl | (with_reducible intro _) | split | with_reducible refine (foldl_mem _ _ _ ?_).trans ?_ | with_reducible refine (foldq_mem _ _ _ ?_).trans ?_ | simp -implicitDefEqProofs)

@[simp ↓] theorem sendAborts_mem (s : State) (p : Nat) (but : Option Nat) (payload : Bytes) : (s.sendAborts p but payload).mem = s.mem := by
  simp -implicitDefEqProofs only [State.sendAborts]
  repeat' (first | with_reducible rfl | (with_reducible intro _) | split | with_reducible refine (foldl_mem _ _ _ ?_).trans ?_ | with_reducible refine (foldq_mem _ _ _ ?_).trans ?_ | simp -implicitDefEqProofs)

@[simp ↓] theorem partFault_mem (s : State) (p event : Nat) (abort : Bool) : (s.partFault p event abort).mem = s.mem := by
  simp only [State.partFault]
  (repeat' split) <;> simp

@[simp ↓] theorem memCe_mem (s : State) (access part rgn d kind : Nat) : (s.memCe access part rgn d kind).mem = s.mem := by
  simp only [State.memCe]
  (repeat' split) <;> simp

@[simp ↓] theorem memUe_mem (s : State) (access part rgn d kind : Nat) : (s.memUe access part rgn d kind).mem = s.mem := by
  simp [State.memUe]

@[simp ↓] theorem pcFail_mem (s : State) (c pc : Nat) : (s.pcFail c pc).mem = s.mem := by
  simp -implicitDefEqProofs only [State.pcFail]
  repeat' (first | with_reducible rfl | (with_reducible intro _) | split | with_reducible refine (foldl_mem _ _ _ ?_).trans ?_ | with_reducible refine (foldq_mem _ _ _ ?_).trans ?_ | simp -implicitDefEqProofs)

@[simp ↓] theorem memRebuild_mem (s : State) (access part rgn : Nat) (r : Region) (a : Nat) : (s.memRebuild access part rgn r a).mem = s.mem := by
  simp only [State.memRebuild]
  (repeat' split) <;> simp

@[simp ↓] theorem meetCe_mem (s : State) (access part rgn : Nat) (r : Region) (errs : List MemErr) (x : Nat) :
    (s.meetCe access part rgn r errs x).mem = s.mem := by
  simp only [State.meetCe]
  (repeat' split) <;> simp

@[simp ↓] theorem rebuild_mem (s : State) (access part rgn : Nat) (r : Region) (a : Nat) (errs : List MemErr) :
    (s.rebuild access part rgn r a errs).2.mem = s.mem := by
  unfold State.rebuild
  split
  · exact (memRebuild_mem _ _ _ _ _ _).trans (foldl_mem _ _ _ fun s x => meetCe_mem s access part rgn r errs x)
  · exact memUe_mem _ _ _ _ _ _

@[simp ↓] theorem readLine_mem (s : State) (rmw : Bool) (access part rgn : Nat) (r : Region) (a : Nat) (errs : List MemErr) :
    (s.readLine rmw access part rgn r a errs).2.2.mem = s.mem := by
  have hr := rebuild_mem s access part rgn r a errs
  unfold State.readLine
  dsimp only
  generalize s.rebuild access part rgn r a errs = x at hr ⊢
  obtain ⟨_ | v, t⟩ := x <;> (repeat' split) <;> simp_all

@[simp ↓] theorem granLines_mem (s : State) (rmw : Bool) (access part rgn : Nat) (r : Region) (g : Nat) (errs : List MemErr) :
    (s.granLines rmw access part rgn r g errs).2.2.mem = s.mem := by
  unfold State.granLines
  exact foldq_mem _ _ _ fun x i => readLine_mem x.2.2 rmw access part rgn r (g + 64 * i) errs

@[simp ↓] theorem readTag_mem (s : State) (access part rgn : Nat) (r : Region) (g : Nat) (errs : List MemErr) :
    (s.readTag access part rgn r g errs).2.2.mem = s.mem := by
  simp only [State.readTag]
  (repeat' split) <;> simp

@[simp ↓] theorem granIn_mem (s : State) (rmw : Bool) (access part rgn : Nat) (r : Region) (a : Nat) (errs : List MemErr) :
    (s.granIn rmw access part rgn r a errs).2.mem = s.mem := by
  simp only [State.granIn]
  (repeat' split) <;> simp

@[simp ↓] theorem readGranAt_mem (s : State) (access part rgn : Nat) (r : Region) (a : Nat) (errs : List MemErr) :
    (s.readGranAt access part rgn r a errs).2.mem = s.mem := by
  simp [State.readGranAt]

@[simp ↓] theorem readGran_mem (s : State) (access p addr : Nat) (errs : List MemErr) : (s.readGran access p addr errs).2.mem = s.mem := by
  simp only [State.readGran]
  (repeat' split) <;> simp

@[simp ↓] theorem meetOld_mem (s : State) (access part rgn : Nat) (r : Region) (errs : List MemErr) (x : Nat) :
    (s.meetOld access part rgn r errs x).2.mem = s.mem := by
  have hr := rebuild_mem s access part rgn r x errs
  unfold State.meetOld
  generalize s.rebuild access part rgn r x errs = y at hr ⊢
  obtain ⟨_ | v, t⟩ := y <;> (repeat' split) <;> simp_all

theorem foldr2_mem {α β : Type} (l : List α) (g : β × State → α → β × State) (x : β × State) (h : ∀ x a, (g x a).2.mem = x.2.mem) :
    (l.foldl g x).2.mem = x.2.mem := by
  induction l generalizing x with
  | nil => rfl
  | cons a l ih => rw [List.foldl_cons, ih, h]

@[simp ↓] theorem mergeGran_mem (s : State) (access part rgn : Nat) (r : Region) (a : Nat) (bs : Bytes) (poison : Bool) (v : Cover) :
    (s.mergeGran access part rgn r a bs poison v).2.2.mem = s.mem := by
  unfold State.mergeGran
  dsimp only
  refine (foldr2_mem _ _ _ ?_).trans ?_
  · exact fun x l => meetOld_mem x.2 access part rgn r v.errs l
  · split
    · rfl
    · exact granIn_mem _ _ _ _ _ _ _ _

/-! Operations over memory -/

theorem wf_pokeCells (c : List Host.Cell) (a : Nat) (bs : Bytes) (h : Table.wf 0 c = true) : Table.wf 0 (pokeCells c a bs) = true := by
  induction bs generalizing c a with
  | nil => exact h
  | cons b t ih => exact ih _ _ (Table.wf_set 0 c a b h)

theorem wf_foldl_set {α : Type} [DecidableEq α] {β : Type} (d : α) (l : List β) (k : β → Nat) (v : β → α) (t : Table α)
    (h : Table.wf d t = true) : Table.wf d (l.foldl (fun t e => Table.set d t (k e) (v e)) t) = true := by
  induction l generalizing t with
  | nil => exact h
  | cons e l ih => exact ih _ (Table.wf_set d t _ _ h)

theorem poke_memForm (s : State) (a : Nat) (bs : Bytes) (h : Memory.wf s.mem) : Memory.wf (s.poke a bs).mem :=
  ⟨wf_pokeCells _ _ _ h.1, h.2⟩

theorem setLine_memForm (s : State) (l : Nat) (m : Option LineMeta) (h : Memory.wf s.mem) : Memory.wf (s.setLine l m).mem :=
  ⟨h.1, Table.wf_set none _ _ _ h.2.1, h.2.2⟩

theorem setTag_memForm (s : State) (g : Nat) (t : BitVec 32) (h : Memory.wf s.mem) : Memory.wf (s.setTag g t).mem :=
  ⟨h.1, h.2.1, h.2.2.1, Table.wf_set zeroTag _ _ _ h.2.2.2⟩

theorem updRegion_memForm (s : State) (r : Nat) (f : Region → Region) (h : Memory.wf s.mem) : Memory.wf (s.updRegion r f).mem :=
  ⟨h.1, h.2.1, Table.wf_set Region.reset _ _ _ h.2.2.1, h.2.2.2⟩

theorem clearAlloc_memForm (s : State) (r : Region) (h : Memory.wf s.mem) : Memory.wf (s.clearAlloc r).mem := by
  unfold State.clearAlloc
  dsimp only
  refine ⟨?_, ?_, h.2.2.1, ?_⟩
  · simp only; apply Table.wf_drop; exact h.1
  · simp only; apply Table.wf_drop; exact h.2.1
  · simp only; apply Table.wf_drop; exact h.2.2.2

theorem zeroStores_memForm (s : State) (c : Nat) (h : Memory.wf s.mem) : Memory.wf (s.zeroStores c).mem := by
  unfold State.zeroStores
  dsimp only
  refine ⟨?_, ?_, h.2.2.1, ?_⟩
  · simp only; apply Table.wf_drop; exact h.1
  · simp only; apply Table.wf_drop; exact h.2.1
  · simp only; apply Table.wf_drop; exact h.2.2.2

theorem regionMap_memForm (m : Mem) (f : Nat → Region → Region) (h : Memory.wf m) :
    Memory.wf { m with regions := Table.mapAll Region.reset f m.regions } :=
  ⟨h.1, h.2.1, Table.wf_mapAll Region.reset f m.regions h.2.2.1, h.2.2.2⟩

theorem storeParity_memForm (s : State) (r : Region) (a : Nat) (new : Bytes) (v : Cover) (h : Memory.wf s.mem) :
    Memory.wf (s.storeParity r a new v).mem := by
  unfold State.storeParity
  dsimp only
  split
  · exact h
  · exact setLine_memForm _ _ _ (poke_memForm _ _ _ h)

theorem storeLine_memForm (s : State) (r : Region) (a : Nat) (new : Bytes) (poison : Bool) (v : Cover) (h : Memory.wf s.mem) :
    Memory.wf (s.storeLine r a new poison v).mem := by
  have hp := storeParity_memForm s r a new v h
  unfold State.storeLine
  dsimp only
  split
  · refine setLine_memForm _ _ _ ?_
    split
    · exact hp
    · exact poke_memForm _ _ _ hp
  · split
    · exact h
    · exact setLine_memForm _ _ _ (poke_memForm _ _ _ h)

theorem storeTag_memForm (s : State) (r : Region) (g : Nat) (data : Bytes) (v : Cover) (h : Memory.wf s.mem) :
    Memory.wf (s.storeTag r g data v).mem := by
  unfold State.storeTag
  dsimp only
  split
  · exact setTag_memForm _ _ _ h
  · split
    · exact storeLine_memForm _ _ _ _ _ _ h
    · exact h

theorem storeGran_memForm (s : State) (r : Region) (g : Nat) (x : Gran) (v : Cover) (h : Memory.wf s.mem) :
    Memory.wf (s.storeGran r g x v).mem :=
  storeTag_memForm _ _ _ _ _ (foldl_memForm _ _ _ (fun _ _ h => storeLine_memForm _ _ _ _ _ _ h) h)

theorem writeIn_memForm (s : State) (access part rgn : Nat) (r : Region) (a : Nat) (bs : Bytes) (poison : Bool) (v : Cover)
    (h : Memory.wf s.mem) : Memory.wf (s.writeIn access part rgn r a bs poison v).mem :=
  storeGran_memForm _ _ _ _ _ (by rw [mergeGran_mem]; exact h)

theorem writeAlloc_memForm (s : State) (part rgn : Nat) (r : Region) (a : Nat) (bs : Bytes) (poison : Nat → Bool) (errs : List MemErr)
    (h : Memory.wf s.mem) : Memory.wf (s.writeAlloc part rgn r a bs poison errs).mem :=
  foldl_memForm _ _ _ (fun _ _ h => writeIn_memForm _ _ _ _ _ _ _ _ _ h) h

theorem writePart_memForm (s : State) (p addr : Nat) (bs : Bytes) (poison : Nat → Bool) (errs : List MemErr) (t : State)
    (ht : s.writePart p addr bs poison errs = some t) (h : Memory.wf s.mem) : Memory.wf t.mem := by
  unfold State.writePart at ht
  split at ht
  · split at ht
    · cases ht
    · cases ht
      exact writeAlloc_memForm _ _ _ _ _ _ _ _ h
  · cases ht

theorem coreWrite_memForm (s : State) (p pos off : Nat) (bs : Bytes) (poison : Bool) (errs : List MemErr) (h : Memory.wf s.mem) :
    Memory.wf (s.coreWrite p pos off bs poison errs).mem := writeAlloc_memForm _ _ _ _ _ _ _ _ h

theorem patchGran_memForm (p pos : Nat) (xs : List Wr) (errs : List MemErr) (s : State) (g : Nat) (h : Memory.wf s.mem) :
    Memory.wf (State.patchGran p pos xs errs s g).mem := by
  unfold State.patchGran
  extract_lets r m old n
  refine storeGran_memForm _ _ _ _ _ ?_
  simp only [old]
  split
  · exact h
  · rw [granIn_mem]; exact h

theorem storeWrs_memForm (s : State) (p pos : Nat) (xs : List Wr) (errs : List MemErr) (h : Memory.wf s.mem) :
    Memory.wf (s.storeWrs p pos xs errs).mem := by
  unfold State.storeWrs
  exact foldl_memForm _ _ _ (fun s g h => patchGran_memForm p pos xs errs s g h) h

theorem copyGran_memForm (s : State) (p pos b g : Nat) (h : Memory.wf s.mem) : Memory.wf (s.copyGran p pos b g).mem := by
  unfold State.copyGran
  refine setTag_memForm _ _ _ (foldl_memForm _ _ _ (fun _ _ h => setLine_memForm _ _ _ h) (poke_memForm _ _ _ ?_))
  rw [readGranAt_mem]; exact h

theorem copySlot_memForm (s : State) (p pos b : Nat) (h : Memory.wf s.mem) : Memory.wf (s.copySlot p pos b).mem := by
  unfold State.copySlot
  refine foldl_memForm _ _ _ (fun s g h => copyGran_memForm s p pos b g h) ?_
  dsimp only
  refine ⟨?_, ?_, h.2.2.1, ?_⟩
  · simp only; apply Table.wf_drop; exact h.1
  · simp only; apply Table.wf_drop; exact h.2.1
  · simp only; apply Table.wf_drop; exact h.2.2.2

theorem patrolLost_memForm (s : State) (access i : Nat) (r : Region) (a : Nat) (errs : List MemErr) (h : Memory.wf s.mem) :
    Memory.wf (s.patrolLost access i r a errs).mem := by
  have hr := rebuild_mem s access (rgnPart r) i r a errs
  unfold State.patrolLost
  dsimp only
  generalize s.rebuild access (rgnPart r) i r a errs = x at hr ⊢
  split
  · obtain ⟨_ | v, t⟩ := x
    · exact setLine_memForm _ _ _ (by rw [hr]; exact h)
    · show Memory.wf t.mem
      rw [hr]; exact h
  · exact setLine_memForm _ _ _ (by rw [memUe_mem]; exact h)

theorem patrolLine_memForm (s : State) (access i : Nat) (r : Region) (errs : List MemErr) (l : Nat) (h : Memory.wf s.mem) :
    Memory.wf (s.patrolLine access i r errs l).mem := by
  unfold State.patrolLine
  dsimp only
  repeat' split
  · exact h
  · exact patrolLost_memForm _ _ _ _ _ _ h
  · exact h
  · exact patrolLost_memForm _ _ _ _ _ _ h
  · rw [meetCe_mem]; exact h

theorem patrol_memForm (s : State) (access i : Nat) (r : Region) (errs : List MemErr) (h : Memory.wf s.mem) :
    Memory.wf (s.patrol access i r errs).mem :=
  foldl_memForm _ _ _ (fun s l h => patrolLine_memForm s access i r errs l h) h

theorem sweepLines_memForm (s : State) (q : Region) (h : Memory.wf s.mem) : Memory.wf (s.sweepLines q).mem := by
  unfold State.sweepLines
  exact foldl_memForm _ _ _ (fun _ _ h => setLine_memForm _ _ _ (poke_memForm _ _ _ h)) h

theorem startInit_memForm (s : State) (r : Nat) (h : Memory.wf s.mem) : Memory.wf (s.startInit r).mem :=
  updRegion_memForm _ _ _ (clearAlloc_memForm _ _ h)

theorem nextGen_memForm (s : State) (r : Nat) (h : Memory.wf s.mem) : Memory.wf (s.nextGen r).mem := by
  unfold State.nextGen
  rw [traceRegion_mem]
  exact updRegion_memForm _ _ _ h

theorem wipeRegion_memForm (s : State) (r : Nat) (h : Memory.wf s.mem) : Memory.wf (s.wipeRegion r).2.mem := by
  have h0 : Memory.wf (s.traceRegion r 0).mem := by rw [traceRegion_mem]; exact h
  unfold State.wipeRegion
  dsimp only
  split
  · exact clearAlloc_memForm _ _ h0
  · split
    · exact startInit_memForm _ _ h0
    · split
      · exact updRegion_memForm _ _ _ h0
      · exact nextGen_memForm _ _ h0

end Sys2Proof.Machine
end

