-- ==== Sys2Proof/WellFormed.lean ====
section
/-! DEFINITION. When a command's operands lie in the ranges that the spec gives them (R5, R203, R239, R288, R300, R307, R525). A command
that is not well formed names something that the module does not have. -/
namespace Sys2Proof

/-- Ranges of the module's numbered things. -/
def colOk (c : Nat) : Bool := decide (c < 16)
def partOk (p : Nat) : Bool := decide (p < 16)
def portOk (n : Nat) : Bool := decide (n < 16)
def clusterOk (k : Nat) : Bool := decide (k < 256)
def coreOk (n : Nat) : Bool := decide (n < 4096)
def connOk (c : Nat) : Bool := decide (c < 16383)
def opidOk (i : Nat) : Bool := decide (i < 65536)
def slotOk (n : Nat) : Bool := decide (n < 65536)
def regionOk (r : Nat) : Bool := decide (r < 4096)
/-- Stream identifiers (R206): positions, then the transfer and collective streams of the columns. -/
def streamOk (sid : Nat) : Bool := decide (sid < 0x1020)
def lidxOk (l : Nat) : Bool := decide (l < 4096)
def bits16 (v : Nat) : Bool := decide (v < 2 ^ 16)

/-- A memory error lies at a line of the 40-bit device physical address space. -/
def errsOk (l : List MemErr) : Bool := l.all fun e => decide (e.line < 2 ^ 34)

/-- The originator of a control write: an entry other than 0x3FFF, and an OPID. -/
def viaOk (v : Via) : Bool := connOk v.conn && opidOk v.opid

/-- Sensor readings fit their registers' fields. -/
def powerOk (m : PowerIn) : Bool := bits16 m.volts && bits16 m.amps && bits16 m.watts && bits16 m.regTemp

/-- A frame as a wire can carry it: header words of 64 bits, granules of 256 bytes, a mask and tags of 32 bits, addresses of the family. -/
def rxOk (rx : Rx) : Bool :=
  decide (rx.port ≤ 18) && decide (rx.sub < 8) && decide (rx.src < 2 ^ (if rx.v4 then 32 else 128))
    && decide (rx.dst < 2 ^ (if rx.v4 then 32 else 128)) && bits16 rx.dport && (rx.vid.all fun v => decide (v < 4096))
    && [rx.w0, rx.w1, rx.w2, rx.w3].all (fun w => decide (w < 2 ^ 64)) && (rx.grans.all fun g => decide (g.length = 256))
    && decide (rx.mask < 2 ^ 32) && (rx.tags.all fun t => decide (t < 2 ^ 32)) && decide (rx.ctl.length ≤ 64)
    && decide (rx.check < 2 ^ 32) && decide (rx.ttl < 256) && decide (rx.pcp < 8) && errsOk rx.errs

/-- A PTP message as a wire can carry it. -/
def ptpOk (x : PtpRx) : Bool :=
  let f := x.frame
  let m := f.msg
  let ip := 2 ^ (match f.map with | .udp6 => 128 | .udp4 => 32 | .ethernet => 0)
  portOk x.port && decide (x.sub < 8) && (x.vid.all fun v => decide (v < 4096)) && decide (x.pcp < 8) && decide (f.src < ip)
    && decide (f.dst < ip) && decide (f.ttl < 256) && bits16 f.sum && decide (m.kind < 16) && decide (m.domain < 256)
    && decide (m.source < 2 ^ 80) && bits16 m.seq && decide (m.target < 2 ^ 80) && decide (m.corr.natAbs < 2 ^ 63)
    && decide (m.interval.natAbs < 128)

/-- The ranges of every command's operands. -/
def Instr.wf : Instr → Bool
  | .powerUp rom shares => bits16 rom && bits16 shares
  | .baseStageStart | .storedImageApply | .regulatorsOff | .resetReqNRelease | .thermalClear | .coolantWarn | .removeReady | .plogCopy
  | .dumpCopy | .xsiApply | .fwHandoverTimeout | .fwHandoverPointTimeout | .fwProbationEnd | .faultNoticeFlush
  | .probationFailureReport => true
  | .selftestDone c _ => colOk c
  | .modEnAssert _ | .modEnDeassert _ | .throtNAssert _ | .throtNDeassert _ | .resetReqNAssert _ | .ppsInEdge _ | .fwHandover _
  | .holdoverErrorLimit _ | .stageClaimLapse _ => true
  | .pinHeld pin => decide (pin < 7)
  | .powerEmergency m _ | .powerClear m _ => powerOk m
  | .inputSag low m _ => bits16 low && powerOk m
  | .brownOut volts _ | .overVoltageOff volts _ => bits16 volts
  | .phaseFail conv unit _ => if conv then decide (unit < 8) else decide (unit < 16)
  | .pwrManagerTick cols => decide (cols.length = 16) && cols.all fun m => decide (m.power < 4096) && decide (m.limitBin ≤ 24)
  | .fastLimiter m => powerOk m
  | .thermalSample tj => decide (tj.length = 16) && tj.all fun t => decide (t < 2048)
  | .thermalTrip _ regTemp => bits16 regTemp
  | .coolantSample inlet outlet watts => bits16 inlet && bits16 outlet && bits16 watts
  | .lifeUpdate recs => recs.all fun r => decide (r.index < 616) && bits16 r.days && bits16 r.low && bits16 r.high && decide (r.margin < 256)
  | .pwrRemoveRequest v | .pwrRemoveCancel v | .devDumpTake v | .devDumpAck v | .devResetModuleWarm v | .devResetModuleCold v
  | .xsiStageClaim v | .xsiStageRelease v | .xsiLoadStart v | .fwStageClaim v | .fwStageRelease v | .fwActivateStart v
  | .fwAttestStart v => viaOk v
  | .wdFire c | .standbyTakeover c | .columnReset c _ => colOk c
  | .heartbeatSample c beats => colOk c && beats.all fun b => decide (b.1 < 296) && bits16 b.2
  | .laneSelftest k _ | .tileCheckDone k _ => clusterOk k
  | .logDigestCheck upset => decide (upset < 2 ^ 512)
  | .dumpDone l => l.all fun u => decide (u / 4096 < 16) && decide (u % 4096 < 296)
  | .devResetCore v t => viaOk v && coreOk t
  | .devResetCluster v t => viaOk v && clusterOk t
  | .devResetColumn v t | .devResetPort v t => viaOk v && colOk t
  | .teardownPeerTimeout p | .teardownDrainDone p | .xsiDrainStuck p | .roundStart p | .stepBoundary p | .verdictReady p
  | .carrierComplete p | .quiescedSend p | .partitionParked p | .orphanExpired p => partOk p
  | .drainStuckColumnReset p c => partOk p && colOk c
  | .regionInitDone r => regionOk r
  | .schLoad v p addr errs => viaOk v && partOk p && decide (addr < 2 ^ 40) && errsOk errs
  | .tileIssue p sid errs _ | .tileLaReplay p sid errs _ | .drainStart p sid errs _ | .convIssue p sid errs _ =>
    partOk p && streamOk sid && errsOk errs
  | .vecIssue p sid errs | .mergeIssue p sid errs | .xferIssue p sid errs | .reserveIssue p sid errs | .collIssue p sid errs
  | .layerIssue p sid errs | .waitIssue p sid errs | .stepEnd p sid errs | .tokenTimeout p sid errs =>
    partOk p && streamOk sid && errsOk errs
  | .pullTimeout p seg => partOk p && decide (seg < 2 ^ 24)
  | .layerClose p l | .layerReplayIssue p l => partOk p && lidxOk l
  | .memWipe v p r => viaOk v && partOk p && regionOk r
  | .scrubPass r errs codes => regionOk r && errsOk errs && errsOk codes
  | .sweepPassDone w => regionOk w.region && errsOk w.errs
  | .memDmaResume v p ch | .memDmaAbort v p ch => viaOk v && partOk p && decide (ch < 4)
  | .linkDown n sub | .linkUp n sub => portOk n && decide (sub < 8)
  | .writeReceive rx | .readReceive rx | .readRespReceive rx | .sendReceive rx | .reduceReceive rx | .tokenReceive rx | .regRead rx
  | .regWrite rx | .memberOpenReceive rx | .sessionOpen rx | .openAckReceive rx | .closeReceive rx | .closeAckReceive rx
  | .ackReceive rx | .slipReceive rx | .verdictVoteReceive rx | .verdictTreeVoteReceive rx
  | .verdictDecideReceive rx | .verdictRequestReceive rx | .verdictRetractReceive rx | .verdictQuiescedReceive rx
  | .verdictResumeReceive rx | .verdictHandoverReceive rx | .abortReceive rx => rxOk rx
  | .cadSlotCfgWrite v n _ | .cadSlotStateWrite v n _ => viaOk v && slotOk n
  | .netConnOpen v n | .netConnClose v n => viaOk v && connOk n
  | .ackSend c | .rtoTimeout c | .rateIncrease c | .leaseExpired c => connOk c
  | .holeRetransmit c psn => connOk c && decide (psn < 2 ^ 32)
  | .opTimeout c id => connOk c && opidOk id
  | .pfcFrameReceive n mask => portOk n && decide (mask < 256)
  | .pfcPauseSend n prio _ => portOk n && decide (prio < 8)
  | .neighbourReceive a v6 target asker =>
    decide (a.port ≤ 16) && decide (a.sub < 8) && (a.vid.all fun v => decide (v < 4096)) && decide (target < 2 ^ (if v6 then 128 else 32))
      && decide (asker.ip < 2 ^ (if v6 then 128 else 32)) && decide (asker.mac < 2 ^ 48)
  | .forwardPacket (.packet rx) => rxOk rx
  | .forwardPacket (.ptp x) => ptpOk x
  | .ptpSyncReceive l f rate synce => ptpOk ⟨l, f, rate, synce⟩
  | .ptpSourceLost plane => decide (plane < 2)
  | .devPartPark v p | .devPartResume v p | .devPartEnd v p | .devPartAbort v p | .devPartVacate v p => viaOk v && partOk p

end Sys2Proof
end

