-- ==== Sys2Proof/Tests/Slice0.lean ====
section
/-! SUPPORT. Tests of the model: states that meet the hypotheses of each statement (a witness for every clause), the smoke test of
well-formedness, and the worked examples of the spec. -/
namespace Sys2Proof.Machine

open Sys2Proof

set_option maxRecDepth 100000
set_option Elab.async false

/-! States that witnesses use. -/

/-- A member connection, session, observer or manager entry of a partition, open, with peer 0x77 at 10.0.0.2. -/
def tConn (kind part : Nat) : Conn :=
  { Conn.reset with cfg := fields [at_ 63 61 kind, at_ 60 57 part, flag 54 true, at_ 53 48 32, at_ 47 34 0x77], peerALo := 0x0A000002, st := 2,
                    viaMgmt := decide (kind = 4), rate := 2000000000 }

/-- A ready partition with the first cluster, connection entries from `c` on and slots from `n` on. -/
def tPart (c n clusters : Nat) : Part :=
  { Part.reset with st := .ready, tgen := 3, clusters := clusters, connFirst := c, connCount := 16, slotFirst := n, slotCount := 8,
                    leaseMs := 1, orphanS := 1, cfgDefault := 0x00007F0000000000 }

/-- The public key of a test key pair. -/
def tKey : Nat := 0x5C6F0FB4018874F31B12941DBF0967CA725DBA3C2DDB52FD95F10974DDE3888A

/-- An operational module (its ROM's one firmware key is the test key): every column in service, port 0 for endpoints and ports 1 and 2 of a ring up, one route, partitions 0 and 1, and
open connections: 5 and 8 of members, 6 of a session, 7 of an observer, 40 of partition 1's session, 0x3FFB of a fabric manager. -/
def tOp : State :=
  { State.reset with
    flash := { Flash.shipped with romKeys := [BitVec.ofNat 256 tKey] }
    pwr := { Pwr.reset with phase := .on, modPg := true, grants := [(0, 0x7FF), (1, 0x7FF)] }
    dev := { Dev.reset with selftest := 0xFFFF, inService := 0xFFFF, tested := 0xFFFF }
    fw := { Fw.reset with service := .operational, romOk := 0xFFFF, identity := true, aliasKeys := true }
    net := { Net.reset with
      planes := [(0, ⟨0, 0, 0x10A000001, 0xB8D8⟩)], mgmtUp := true,
      ports := [(0, { Port.reset with cfg := fields [at_ 63 62 1, at_ 49 42 0x0F], lanes := 0xFF, subs := 1 }),
        (1, { Port.reset with cfg := at_ 63 62 2, lanes := 0xFF, subs := 1 }), (2, { Port.reset with cfg := at_ 63 62 2, lanes := 0xFF, subs := 1 })],
      routes := [(0, ⟨0, 0x0A000000, fields [flag 63 true, at_ 62 55 8, flag 54 true, at_ 51 44 1, at_ 43 36 1], 0⟩),
        (1, ⟨0, 0x0B000000, fields [flag 63 true, at_ 62 55 8, flag 54 true, at_ 51 44 4, at_ 43 36 1], 0⟩)],
      conns := [(5, tConn 1 0), (6, tConn 2 0), (7, tConn 3 0), (8, tConn 1 0), (40, tConn 2 1), (0x3FFB, tConn 4 0)] }
    parts := [(0, tPart 0 0 1), (1, tPart 32 8 2)] }

/-- Originators: the session of partition 0, that of partition 1, the fabric manager. -/
def tSess : Via := ⟨6, 1⟩
def tSess1 : Via := ⟨40, 1⟩
def tFm : Via := ⟨0x3FFB, 1⟩

/-- A frame on port 0 with a packet, its header check and tags true (R300, R301). -/
def tRx (p : Pkt) : Rx :=
  { (default : Rx) with
    port := 0, sub := 0, v4 := true, src := 0x0A000002, dst := 0x0A000001, dport := 47320, vid := none, stacked := false, fragment := false,
    sumBad := false, ce := false, w0 := pktW0 p, w1 := pktW1 p, w2 := p.w2, w3 := pktW3 p, grans := p.grans.map (·.data),
    mask := (List.range p.grans.length).foldl (fun m i => if (p.grans.getD i default).poison then m + 2 ^ i else m) 0,
    tags := p.grans.map fun g => crc32c g.data, ctl := p.ctl, check := crc32c p.ctl, ttl := 64, fcsBad := false, roomFull := false, errs := [] }

/-- A whole packet of an opcode for connection c from its peer, generation 3, PSN 0. -/
def tPkt (op c : Nat) : Pkt := { Pkt.blank op with first := true, last := true, dconn := c, sconn := 0x77, tgen := 3 }

/-- The HBM region 0 of partition 0 in stack 0, light code, tagged, scrubbed, open, for hosts and members: 1 MiB at partition address 0. -/
def tRgn : Region :=
  { Region.reset with pmap := at_ 43 23 1, dmap := flag 63 true, attr := fields [at_ 60 60 1, at_ 59 56 1, at_ 55 54 3], st := 2 }

/-- The core store of position 0 as region 0 of partition 0. -/
def tCore : Region := { Region.reset with pmap := at_ 43 23 1, dmap := fields [flag 63 true, at_ 58 39 0xFE00], attr := at_ 55 54 3, st := 2 }

def State.tRegion (s : State) (r : Region) : State := { s with mem := { s.mem with regions := [(0, r)] } }
def State.tPart (s : State) (f : Part → Part) : State := s.updPart 0 f
def State.tClock (s : State) (n : Nat) : State := { s with tm := { s.tm with clk := n } }

/-- A schedule whose image stands at 0x80000, at step 0. -/
def tSched : Sched :=
  { addr := 0x80000, jobId := 9, member := 0, lam := 11, qexp := 0, mhz := 1000, epoch := 0, first := 0, steps := 10, period := 1, slack := 0,
    lead := 0, waitLimit := 1, digest := [], ckpt := 0 }

/-- The words of an entry of a kind with no release, in no layer. -/
def tWords (kind : Nat) : List W64 :=
  [at_ 63 58 kind ||| at_ 28 7 relNone, at_ 63 52 0xFFF, 0, 0, 0, 0, 0, 0]

/-- Bytes put into SRAM, with the tags of their granules (R254). -/
def State.tPut (s : State) (a : Nat) (bs : Bytes) : State :=
  (List.range (ceilDiv (a % 256 + bs.length) 256)).foldl (fun t i =>
    t.setTag (a / 256 + i) (BitVec.ofNat 32 (crc32c (t.peek (256 * (a / 256 + i)) 256)))) (s.poke a bs)

/-- Partition 0 runs a schedule whose stream `sid` has one entry, which stands at 0x80100 of the core store of position 0. -/
def tRun (sid : Nat) (ws : List W64) : State :=
  ((tOp.tRegion tCore).tPut (2 ^ 40 + 0x80100) (ws.flatMap fun w => natLE 8 w.toNat)).tPart fun q =>
    { q with st := .running, schSt := 2, sched := some tSched, stn := { q.stn with st := 1, committed := BitVec.allOnes 64 },
             streams := [(sid, { Stream.reset with live := true, count := 1, entry := 0x100 })] }

/-- What the commands read of the power inputs. -/
def tIn (volts amps watts reg : Nat) : PowerIn := ⟨volts, amps, watts, reg⟩

theorem find_map_range (u n v : Nat) (h : u < n) :
    ((List.range n).map fun i => (i, v)).find? (fun e => decide (e.1 = u)) = some (u, v) := by
  induction n with
  | zero => omega
  | succ n ih =>
    rw [List.range_succ, List.map_append, List.find?_append]
    by_cases hu : u = n
    · rw [List.find?_eq_none.2 (by simp; omega)]
      simp [hu]
    · rw [ih (by omega)]
      rfl

theorem get_one_ne {α : Type} (d : α) (i j : Nat) (v : α) (h : j ≠ i) : Table.get d [(i, v)] j = d := by simp [Table.get, h.symm]

/-- Structure and firmware images that the test key signed (R421 to R426, R462). -/
def tSigner : Bytes := natLE 16 0xBD808BB10CB95D0AAB9E30E78A728437
def tXsi : Bytes :=
  natLE 4 0x4A345853 ++ natLE 2 1 ++ natLE 2 1 ++ natLE 4 344 ++ natLE 2 0xFFFF ++ natLE 2 1 ++ natLE 8 1 ++ zeros 16 ++ tSigner ++ zeros 200
    ++ natLE 4 0x52574F50 ++ natLE 4 16 ++ natLE 8 1 ++ natLE 8 1000
    ++ natLE 64 0xDF8796678DE11811A176A258F09155787E6BF1A119329408CF730C27D697E3F0AF586E187DBFE8DA750E8FB2BADCCE3DCAD417D5FCC95942C033C48154D4DDF
def tFw (kind : Nat) : Bytes :=
  natLE 4 0x4A344657 ++ natLE 2 1 ++ natLE 2 kind ++ natLE 4 512 ++ natLE 4 1 ++ zeros 4 ++ natLE 4 (kind - 1) ++ natLE 4 (kind - 1) ++ zeros 28
    ++ tSigner ++ zeros 376
    ++ natLE 64 (if kind = 1 then 0x91205A7ED256CA052F24A13997E10F27D5DD1B2D29BF731258077D33DCFFD02EF4A0FC049087CEF4194909065DDA78B1772F249F81D75FFC6CC4DACB0D2C284
      else 0x76DD5D07891626AB47A968A7F2483CFBA8D53742899FE2A0B4695AE45CF8311EB0830E7239DA5062BBACDFF020B437093CA3FCD33FA9DA2C6B85914B070E005)

/-- The module enrolled to the test key, which is also firmware key 0 of its ROM. -/
def tOwned : State :=
  { tOp with flash := { tOp.flash with sec := some ⟨1, natLE 32 tKey, 0, 0, 0, 0, 0⟩ } }
/-- The same with a claim of the session's that holds an image. -/
def tStaged (s : State) (c : Nat) (b : Bytes) : State := { s with xsi := { s.xsi with stage := ⟨some c, b, 0⟩ } }
def tFwStaged (b : Bytes) : State := { tOwned with fw := { tOwned.fw with stage := ⟨some 0x3FFB, b, 0⟩ } }
def tLoading (s : State) : State := { s with xsi := { s.xsi with st := 1, image := some tXsi } }
def State.tTear (s : State) (remove : Bool) (stage : Nat) : State :=
  s.tPart fun q => { q with st := .tearing, tear := some { remove := remove, at_ := 0, closing := [5], stage := stage } }
def okOf {α β : Type} [Inhabited β] (x : Except α β) : β := match x with | .ok b => b | .error _ => default
/-- A tile waits at position 0 while the partition is torn down. -/
def tBusy : State := (tOp.tTear false 5).updPos 0 fun x => { x with waiting := [default] }
/-- The HBM region with a line written. -/
def tLine (l : Nat) : State :=
  let s := tOp.tRegion tRgn
  { s with mem := { s.mem with lines := [(l, some ⟨0, false⟩)] } }

/-- An instance of two ranks by recursive doubling (R343), and partition 0 that carries its commits on it. -/
def tInst (alg path elems : Nat) (ctl : W64) : Bytes :=
  natLE 2 7 ++ natLE 1 1 ++ natLE 1 0 ++ natLE 1 10 ++ zeros 3 ++ natLE 8 elems ++ natLE 8 ctl.toNat ++ zeros 40
    ++ (natLE 1 2 ++ natLE 1 0 ++ natLE 1 alg ++ natLE 1 path ++ natLE 2 4 ++ zeros 10)
    ++ (natLE 1 1 ++ zeros 15) ++ (natLE 1 1 ++ zeros 15) ++ (natLE 1 1 ++ zeros 15)
/-- FP32, dense, roundTiesToEven. -/
def tCtl : W64 := at_ 14 11 10
def State.tColl (s : State) (alg carrier : Nat) : State :=
  s.tPart fun q => { q with insts := [tInst alg 0 64 tCtl], stn := { q.stn with cfg := at_ 59 44 carrier } }
/-- A COLL entry of that instance: one granule from 0x1000, results at 0x2000. -/
def tCollWords (fixed : Bool) (step : Nat) : List W64 :=
  [at_ 63 58 kColl ||| at_ 28 7 relNone, at_ 63 52 lidxNone, fields [at_ 63 48 7, at_ 47 44 1, flag 43 fixed, at_ 40 25 step, at_ 24 21 10],
    fields [at_ 63 24 0x1000, at_ 23 0 1], fields [at_ 63 24 0x2000, at_ 23 0 1], 0, 0, 0]
def entryBytes (ws : List W64) : Bytes := ws.flatMap fun w => natLE 8 w.toNat
def tImgHdr : Bytes :=
  let h := natLE 4 0x4A345344 ++ natLE 2 1 ++ zeros 2 ++ natLE 8 9 ++ natLE 2 0 ++ natLE 1 11 ++ natLE 1 0 ++ natLE 4 1000 ++ zeros 8 ++ natLE 8 1
    ++ natLE 8 10 ++ natLE 4 1 ++ zeros 2 ++ natLE 2 1 ++ natLE 4 1 ++ natLE 4 1
  h ++ natLE 64 0x5DBB5A099A9EA5D38DB61B0F094140EC0F7E5E29DB7A4BB992EF3E2B6427CD360EE4DD0EF3A1CB7DD4F4FBAA7F62472F4507B084BFFA569B6DD7FDECFF5854B4 ++ zeros 128
def tImgOf (es : List (List W64)) : Image :=
  ⟨tImgHdr, natLE 2 0x1010 ++ natLE 6 es.length ++ natLE 8 320, [⟨0x1010, es.length, 320, es⟩]⟩
/-- Partition 0 ready, with a schedule image of one collective stream at 0x80000. -/
def tLoad (es : List (List W64)) : State :=
  ((tOp.tRegion { tCore with attr := at_ 55 53 7 }).tPut (2 ^ 40 + 0x80000)
    (tImgHdr ++ (tImgOf es).table ++ zeros 48 ++ es.flatMap entryBytes)).tColl 2 7
theorem tFetched (es : List (List W64)) (s : State) (b : Bytes)
    (h0 : s.fetchBytes 0 [] 0x80000 256 = (.ok tImgHdr, s))
    (h1 : s.fetchBytes 0 [] (0x80000 + 256) (16 * leAt tImgHdr 60 4) = (.ok (tImgOf es).table, s)) (h2 : leAt tImgHdr 60 4 = 1)
    (h3 : leAt (tImgOf es).table 0 2 = 0x1010 ∧ leAt (tImgOf es).table 2 6 = es.length ∧ leAt (tImgOf es).table 8 8 = 320)
    (h4 : s.fetchBytes 0 [] (0x80000 + 320) (64 * es.length) = (.ok b, s))
    (h5 : es = (List.range es.length).map fun i => wordsOf (slice b (64 * i) 64)) : Fetched s 0 0x80000 (tImgOf es) := by
  refine ⟨h0, h1, by rw [show (tImgOf es).hdr = tImgHdr from rfl, h2]; rfl, fun i x h => ?_⟩
  match i with
  | 0 =>
    obtain rfl := Option.some.inj h
    exact ⟨h3.1.symm, h3.2.1.symm, h3.2.2.symm, b, h4, h5⟩
  | _ + 1 => cases h
/-- That run five rounds late. -/
def tLate : State := let s := tRun 0x1000 (tWords kWait); { s with tm := { s.tm with now := 5 * 2048 } }

/-- A TILE of one block of 32 of plain E4M3: A at granule 0, B at granule 8, parameters at granule 100, OUT at granule 512. -/
def tTile (sa scope : Bool) (lidx : Nat) (ctl : W64) : List W64 :=
  [at_ 63 58 kTile ||| at_ 28 7 relNone, at_ 63 52 lidx, fields [at_ 37 34 6, at_ 10 0 1], fields [at_ 63 52 8, at_ 37 34 6, at_ 10 0 1], 0,
    fields [at_ 63 28 1, flag 27 sa, flag 26 scope], fields [at_ 63 50 400, at_ 49 38 512, at_ 37 27 1], ctl]
/-- Position 0 runs that tile on 1.0 times 1.0; slot 0 allows SA as told. -/
def tTileRun (ws : List W64) (slot : W64) : State :=
  { ((tRun 0 ws).tPut (2 ^ 40) [0x38]).tPut (2 ^ 40 + 0x800) [0x38] with slots := [(0, { Slot.reset with state := slot })] }
def tileLd (s : State) (ws : List W64) : Grans × List Nat × State := (s.updPart 0 fun q => markIssue q 0 0).tileLoad 0 0 ws []
def tTileOf (ws : List W64) : Tile :=
  { (default : Tile) with part := 0, words := ws, fmt := .fp32, lay := .dense, src := .none, lidx := lidxNone }
def tCtlSlot : W64 := tCtl ||| flag 48 true
def tTileS : State := tTileRun (tTile false false lidxNone tCtl) 0
def tReplay : State := tTileS.updPos 0 fun x => { x with replay := some (tTileOf (tTile false false lidxNone tCtl)) }
def tDeclined : State := tTileRun (tTile true false lidxNone tCtlSlot) 0
def tDeclinedLd : Grans × List Nat × State :=
  ((tDeclined.updPart 0 fun q => markIssue q 0 0).updCol (0 / 4096) fun k => { k with cadDeclined := inc k.cadDeclined }).tileLoad 0 0
    (tTile true false lidxNone tCtlSlot) []
def tSaWs : List W64 := tTile true false lidxNone tCtlSlot
def tSa (anchor : Nat) : State := tTileRun tSaWs (at_ 55 46 anchor ||| flag 45 true)
def tLayer : Layer := { Layer.reset with lidx := 3, npos := 1, streams := [⟨0, 0, none, false⟩] }
def tSaLayer : State := (tTileRun (tTile true true 3 tCtlSlot) (at_ 55 46 5 ||| flag 45 true)).tPart fun q => { q with layers := [tLayer] }
def tDrain (raw : Bool) : State :=
  (tTileRun (tTile false false lidxNone tCtl) 0).updPos 0 fun x =>
    { x with waiting := [tTileOf (tTile false false lidxNone (if raw then flag 25 true else tCtl))],
             set0 := (List.range 64).map fun i => { accClear with value := 3 * i * 2 ^ 300, terms := 1 } }
def tDrainPrm : OutPrm × Bool × Grans × State :=
  ((tDrain false).updPos 0 fun q => { q with waiting := [], tiles := inc q.tiles }).loadPrm 0 0 (tTile false false lidxNone tCtl)
    { (ctlOf tCtl).getD default with format := .fp32, layout := .dense, scaleSrc := .none } []
/-- CONV of 33 FP32 elements from granule 0, parameters at granule 100, OUT at granule 512. -/
def tConvWs : List W64 :=
  [at_ 63 58 kConv ||| at_ 28 7 relNone, at_ 63 52 lidxNone, fields [at_ 37 34 10, at_ 10 0 2], at_ 63 40 33, 0, 0,
    fields [at_ 63 50 400, at_ 49 38 512, at_ 37 27 2], tCtl]
def tConv : State := (tRun 0 tConvWs).tPut (2 ^ 40) (natLE 4 0x3F800000)
def tConvLd : Grans × State :=
  ((tConv.updPart 0 fun q => markIssue q 0 0).updPos 0 fun q =>
    { q with h := (countdown (fractionD (tConv.part 0).stn.cfg) q.h).2 }).loadGrans 0 0 ((viewF32 (tConvWs.getD 2 0)).allGrans 0 0 1 33) []
def tConvPrm : OutPrm × Bool × Grans × State := tConvLd.2.loadPrm 0 0 tConvWs ((ctlOf tCtl).getD default) []
theorem tClean (l : List Acc) (h : (l.all fun a => !a.poison) = true) (o : Nat) : (l.getD o accClear).poison = false := by
  rw [List.all_eq_true] at h
  rw [List.getD_eq_getElem?_getD]
  match e : l[o]? with
  | none => rfl
  | some a => simpa using h a (List.mem_of_getElem? e)

/-- A VEC entry on 3 elements: operands at granules 0 and 8, result at granule 512, its descriptors (OPLIST) at byte 25600. -/
def tVecWs (op : Nat) : List W64 :=
  [at_ 63 58 kVec ||| at_ 28 7 relNone, at_ 63 52 lidxNone, fields [at_ 63 56 op, at_ 55 32 3, at_ 17 4 400], 0, 0, 0, 0, 0]
def tVec (op : Nat) : State :=
  (tRun 0 (tVecWs op)).tPut (2 ^ 40 + 25600)
    (entryBytes [at_ 37 34 10 ||| at_ 10 0 1, fields [at_ 63 52 8, at_ 37 34 10, at_ 10 0 1], 0, 0, fields [at_ 63 52 512, at_ 37 34 10, at_ 10 0 1]])
def tVecLd (op : VecOp) (n : Nat) : VecIn × State := ((tVec n).updPart 0 fun q => markIssue q 0 0).vecLoad 0 0 (tVecWs n) op []
def tHeld : State :=
  let s := (tVec 0x10).tPart fun q => { q with step := 5, stn := { q.stn with committed := 3 } }
  { s with tm := { s.tm with now := 5 * 2048 } }
def tMergeWs : List W64 :=
  [at_ 63 58 kMerge ||| at_ 28 7 relNone, at_ 63 52 lidxNone, fields [at_ 63 52 8, at_ 51 40 512, at_ 39 32 2], 0, 0, 0, 0, 0]
def tMerge : State := tRun 0 tMergeWs
def tMergeLd : Grans × State := (tMerge.updPart 0 fun q => markIssue q 0 0).loadGrans 0 0 [8, 9] []
/-- A transfer of `n` granules of FP32 from an address to 0x2000. -/
def tXferWs (src n conn : Nat) : List W64 :=
  [at_ 63 58 kXfer ||| at_ 28 7 relNone, at_ 63 52 lidxNone, fields [at_ 63 24 src, at_ 23 0 n], fields [at_ 63 24 0x2000, at_ 23 10 conn],
    fields [at_ 63 42 77, at_ 24 21 10, at_ 18 15 10], 0, 0, 0]
def tXfer (src n conn : Nat) : State := (tRun 0x1000 (tXferWs src n conn)).tPut (2 ^ 40 + 0x1000) [1, 2, 3]
def tXferLd (src n conn : Nat) : Option (Payload × Payload) × State :=
  (((tXfer src n conn).updPart 0 fun q => markIssue q 0x1000 0).chargePools 0 0x1000 (tXferWs src n conn)).xferRead 0 (tXferWs src n conn) []
/-- A transfer to an address with no region. -/
def tXferOutWs : List W64 := (tXferWs 0x1000 1 0x3FFF).set 3 (fields [at_ 63 24 0x200000, at_ 23 10 0x3FFF])
def tXferOut : State := (tRun 0x1000 tXferOutWs).tPut (2 ^ 40 + 0x1000) [1, 2, 3]
def tXferOutLd : Option (Payload × Payload) × State :=
  ((tXferOut.updPart 0 fun q => markIssue q 0x1000 0).chargePools 0 0x1000 tXferOutWs).xferRead 0 tXferOutWs []
def tWaitWs : List W64 := [at_ 63 58 kWait ||| at_ 28 7 relNone, fields [at_ 63 52 lidxNone, at_ 40 25 1], 0, 0, 0, 0, 0, 0]
def tLayerWs : List W64 := [at_ 63 58 kLayer ||| at_ 28 7 relNone, at_ 63 52 lidxNone, fields [at_ 63 32 9, at_ 15 4 3], at_ 63 51 1, 0, 0, 0, 0]
def State.tLayers (s : State) (l : Layer) : State := s.tPart fun q => { q with layers := [l] }
def tClosed : Layer := { tLayer with streams := [⟨0, 0, none, true⟩] }
/-- Every stream of the running partition has ended its step. -/
def tEnded : State :=
  (tRun 0x1000 (tWords kWait)).tPart fun q =>
    { q with streams := (partStreams q).map fun i => (i, { Stream.reset with live := true, count := 1, ended := true }) }
def tTimeout (now : Nat) : State := let s := tRun 0x1000 tWaitWs; { s with tm := { s.tm with now := BitVec.ofNat 64 now } }
def tCollRun (alg : Nat) (fixed : Bool) (step : Nat) : State :=
  (tRun 0x1010 (tCollWords fixed step)).tPart fun q =>
    { q with insts := [tInst alg 0 64 tCtl], stn := { q.stn with cfg := at_ 59 44 8 } }
def tCtx (alg : Nat) (fixed : Bool) (step : Nat) : CollCtx := ctxOf (tInst alg 0 64 tCtl) 0 step fixed
def tCollIssued (alg : Nat) (fixed : Bool) (step : Nat) : State :=
  ((tCollRun alg fixed step).updPart 0 fun q => markIssue q 0x1010 0).chargePools 0 0x1010 (tCollWords fixed step)
def tCollLd (alg : Nat) (fixed : Bool) (step : Nat) : Option Marked × State := (tCollIssued alg fixed step).readMarked 0 0x1000 256 []

def tEncode : Option (List Pkt × Nat) × State :=
  (tCollIssued 2 false 0).encodeSpan (tCtx 2 false 0) 0 0 1 1 0 true
    fun v seg => v.segStates 0 0 (tCtx 2 false 0) 0 0x1000 (seg - 0) seg []
def tFarWs : List W64 := (tCollWords true 1).set 3 (fields [at_ 63 24 0x200000, at_ 23 0 1])
def tFar : State := (tRun 0x1010 tFarWs).tPart fun q => { q with insts := [tInst 1 0 64 tCtl], stn := { q.stn with cfg := at_ 59 44 8 } }
def tFarIssued : State := (tFar.updPart 0 fun q => markIssue q 0x1010 0).chargePools 0 0x1010 tFarWs
def tInpath : CollRun := ⟨0x1010, 0, 0, tCollWords false 0, false, [], [], [], [], 0, false, []⟩
def tPull : State := (tRun 0x1010 (tCollWords false 0)).tPart fun q => { q with insts := [tInst 3 128 2048 tCtl], colls := [tInpath] }

/-- A check of a tile of position 0 that waits in the lane of cluster 0. -/
def tCheck (conv skip : Bool) (fail : Option (Nat × Nat)) : Check := ⟨0, 5, 0, 3, conv, skip, fail⟩
def tLane (ch : Check) (broken : Bool) : State := (tRun 0x1000 (tWords kWait)).updCluster 0 fun c => { c with queue := [ch, tCheck true false none], laneFailed := broken }
/-- A job record (R344) with a parent and children in the broadcast tree. -/
def tJob (up : Nat) (kids : List Nat) : Bytes :=
  zeros 16 ++ natLE 2 up ++ kids.flatMap (natLE 2) ++ (List.range (8 - kids.length)).flatMap (fun _ => natLE 2 0x3FFF) ++ zeros 30
def State.tStn (s : State) (f : Stn → Stn) : State := s.tPart fun q => { q with stn := f q.stn }
def State.tTree (s : State) (up : Nat) (kids : List Nat) : State := s.tPart fun q => { q with job := tJob up kids }
def tRetract (up : Nat) : State := (tEnded.tStn fun x => { x with st := 2, retracted := some 0 }).tTree up []
def tMsg (op : Nat) (b : Bytes) : Pkt := { tPkt op 5 with ctl := b }
def tSlip (label : Nat) : Pkt := tMsg opSlip (slipBytes label 7 0)
def tAbort (job : Nat) : Pkt := tMsg opAbort (natLE 8 job ++ zeros 8)
def tV (n kind rseq : Nat) : Pkt := tMsg opVerdict (verdictBytes n kind 0 2 0 3 0 0 rseq 0)
def tVo (n kind rseq : Nat) : Pkt := tMsg opVerdict (verdictBytes n kind 0 0 0 3 0 0 rseq 0)

theorem tDataIn (s : State) (rx : Rx) (p : Pkt) (c part op : Nat) (h : InOrder s rx p c)
    (h' : p.op = op ∧ connPart (s.conn c) = part ∧ s.opGate c p = 0 ∧ s.dmaOf c = Dma.reset ∧ rx.errs = []) (hc : s.cols = [])
    (hm : Memory.wf s.mem) : DataIn s rx p c part op :=
  ⟨h, h'.1, h'.2.1, h'.2.2.1, h'.2.2.2.1, h'.2.2.2.2, fun k => by rw [State.col, hc]; rfl, hm⟩
def tGran : Gran := ⟨List.replicate 256 7, false⟩
def tMem : State := tOp.tRegion tRgn
def tWrite (c addr : Nat) : Pkt := { tPkt opWrite c with w2 := addr * 2 ^ 24 + 2 ^ 18 + 9, w3 := 77 * 2 ^ 10, grans := [tGran] }
def tToken : Pkt := { tPkt opToken 5 with w2 := 9, w3 := 77 * 2 ^ 10 }
def tRead (c addr : Nat) : Pkt := { tPkt opRead c with w2 := addr * 2 ^ 24 + 1, w3 := 9 * 2 ^ 16 }
def tResp : Pkt := { tPkt opReadResp 5 with w2 := 2 ^ 18 + 9, grans := [tGran] }
def tSend (c : Nat) : Pkt := { tPkt opSend c with w2 := 2 ^ 18 + 9, grans := [tGran] }
def tReduce : Pkt := { tPkt opReduce 5 with w2 := 7 * 2 ^ 48 + 2 ^ 18 + 9, w3 := 0, grans := [tGran] }
/-- Granule 0 of the HBM region written with zeros, and its tag (R248). -/
def tLines (poison : Bool) : State :=
  let s := tMem.poke 0xFC000 (natLE 4 (crc32c (zeros 256)))
  { s with mem := { s.mem with lines := [(0, some ⟨0, poison⟩), (1, some ⟨0, false⟩), (2, some ⟨0, false⟩), (3, some ⟨0, false⟩), (0x3F00, some ⟨0, false⟩)] } }
def tHalted : State :=
  (tMem.tPart fun q => { q with dma := [(0, ⟨true, 0, 6, [], some (tRead 6 0)⟩)] }).updConn 6 fun k =>
    { k with rxOps := [{ (default : RxOp) with opid := 9, op := opRead }] }
/-- A CTL packet: a register read or write, or another CTLOP, of an address. -/
def tCtlPkt (c cop addr : Nat) : Pkt := { tPkt opCtl c with w2 := addr * 2 ^ 16 + 9, w3 := cop * 2 ^ 24, ctl := natLE 8 0x5 ++ zeros 8 }

theorem tNoTear (s : State) (h : (s.parts.all fun e => e.2.tear.isNone) = true) (q : Nat) : (s.part q).tear = none := by
  unfold State.part
  generalize s.parts = l at h
  induction l with
  | nil => rfl
  | cons e l ih =>
    rw [List.all_cons, Bool.and_eq_true] at h
    rw [Table.get]
    split
    · exact Option.isNone_iff_eq_none.1 h.1
    · exact ih h.2
/-- A member entry that is closed or waits, at index 10. -/
def tEntry (st : Nat) : State := tOp.updConn 10 fun _ => { tConn 1 0 with st := st }
def tCall (c cop tgen status : Nat) (resp : Bool) : Pkt :=
  { tPkt (if resp then opCtlResp else opCtl) c with w2 := 9, w3 := cop * 2 ^ 24 + tgen * 2 ^ 10, ctl := zeros 16, status := status }
def tAsk (role part : Nat) : Pkt := { tPkt opCtl 0x3FFF with w2 := 9, w3 := 0x10 * 2 ^ 24 + part * 2 ^ 20 + role * 2 ^ 18, ctl := zeros 16, tgen := 0 }
/-- No session yet, and a record that lets 10.0.0.2 open partition 0 as its controlling session (R432). -/
def tPolicy : State :=
  { tOp with net := { tOp.net with conns := [] }, xsi := { tOp.xsi with poly := [[3, 0, 1, 160] ++ zeros 4 ++ natLE 4 0x0A000002 ++ zeros 24] } }
def tMgmt : State := { tOp with net := { tOp.net with conns := [], mgmt := ⟨0, 0, 0x10A000005, 0⟩ } }
def tMgmtRx : Rx := { tRx (tAsk 3 0) with port := 16, dst := 0x0A000005 }
def tAck (c ackpsn : Nat) (cee done : Bool) (b : Byte) : Pkt :=
  { tPkt opAck c with ackpsn := ackpsn, cee := cee, done := done, w2 := 9 * 2 ^ 48, ctl := b :: zeros 63 }
def tCopy (psn tries : Nat) : Copy := ⟨{ tPkt opWrite 0x77 with sconn := 5, psn := psn }, 0, tries, 0⟩
def tSent (c tries : Nat) : State :=
  (tOp.updConn c fun k =>
    { k with copies := [tCopy 1 tries, tCopy 2 tries], holes := [1], txPsn := 3, ops := [⟨9, .data, some 0⟩],
             timers := fields [at_ 63 48 100, at_ 47 40 5, at_ 39 36 7, at_ 35 20 1] }).tClock 1000000
def tFwd (ttl : Nat) : Rx := { tRx (tPkt opWrite 5) with port := 1, dst := 0x0B000001, ttl := ttl }
def State.tTime (s : State) (st : TimeState) (usable : Nat) : State := { s with tm := { s.tm with st := st, usable := usable, everLocked := true } }
def State.tState (s : State) (st : PState) : State := s.tPart fun q => { q with st := st }
/-- A pause, and an ELT packet of connection 5, wait at port 0. -/
def tQueued : Queued := ⟨.pfc (tOp.linkOf (0, 0) 5 0) 3, clsControl, 0, 0, none⟩
def tEgress : State := { tOp with net := { tOp.net with egress := [tQueued] } }
def tEltD : Datagram := { (default : Datagram) with link := tOp.linkOf (0, 0) 5 0, pkt := tPkt opWrite 0x77 }
def tElt : Queued := ⟨.elt tEltD, clsControl, 0, 0, some 5⟩
/-- Port 0 with two sub-ports up, the packet queued on the first. -/
def tTwoSubs : State :=
  ({ tOp with net := { tOp.net with egress := [tElt], routes := [(0, ⟨0, 0x0A000000, fields [flag 63 true, at_ 62 55 8, flag 54 true, at_ 51 44 1, at_ 43 36 3], 0⟩)] } }).updPort 0
    fun p => { p with cfg := p.cfg ||| at_ 61 58 4, subs := 3 }
/-- Connection 5 may move to plane B. -/
def tMoving : State := tOp.updConn 5 fun k => { k with cfg := k.cfg ||| flag 55 true, peerBLo := 0x0A000003 }
def tPtp (kind : Nat) (two : Bool) (stamp seq : Nat) : PtpRx :=
  { port := 0, sub := 0, vid := none, stacked := false, pcp := 0, fcsBad := false, sumBad := false, residence := 0, rate := 0, synce := none,
    frame := ⟨.ethernet, 0, 0, 1, 0, ⟨kind, 0, two, 0, 0x99, seq, -3, stamp, tOp.clockId 0⟩⟩ }
def tPtpOn : PtpRx := { tPtp ptpSync false 0 0 with port := 1, residence := 9, frame := { (tPtp ptpSync false 0 0).frame with map := .udp4, dst := 0x0B000001, ttl := 3 } }
def State.tSide (s : State) (n : Nat) (x : PtpSide) : State := { s with tm := { s.tm with sides := [(n, x)] } }
theorem tNoPc (s : State) (h : s.cols = []) (k : Nat) : (s.col k).pcFailed = 0 := by rw [State.col, h]; rfl
/-- A write of NET_CONN_CFG of entry 10. -/
def tCfgWrite : Pkt := { tCtlPkt 6 2 0x8000500 with ctl := natLE 8 (tConn 1 0).cfg.toNat ++ zeros 8 }
theorem tTimeInv (t : TimeSt) (h : t.sides = [])
    (h' : (-100 ≤ t.drift ∧ t.drift ≤ 100) ∧ (-4 ≤ t.freq ∧ t.freq ≤ 4) ∧ (-1000000 < t.acc ∧ t.acc < 1000000) ∧
      ((t.st = .locked ∨ t.st = .holdover) → t.everLocked = true) ∧ t.source ≤ 3 ∧ (t.source = 3 → t.st = .holdover) ∧ t.usable < 4) : TimeInv t :=
  ⟨h'.1, h'.2.1, fun _ he => absurd (h ▸ he) List.not_mem_nil, h'.2.2⟩

/-! Witnesses: for every clause that has hypotheses, a state and operands that meet all of them. -/

theorem witness_StepRunsFrontCommand :
    (∃ (c : Instr) (rest : List Instr) (s : State), s.pending = c :: rest) :=
  ⟨.coolantWarn, [.removeReady], { State.reset with pending := [.coolantWarn, .removeReady] }, by decide +kernel⟩

theorem witness_EmptyQueueIsOneNanosecond :
    (∃ (s : State), s.pending = []) ∧
    (∃ (s : State) (q : Queued), s.pending = [] ∧ s.listens = true ∧ s.pwr.throtOffAt = none ∧ s.net.egress = [q] ∧ ({ s with tm := { s.tm with clk := s.tm.clk + 1 } } : State).mayGo q = true) ∧
    (∃ (s : State) (n : Nat) (b : Nat) (x : Queued), s.nextFrame n b = some x) :=
  ⟨⟨State.reset, by decide +kernel⟩,
    ⟨tEgress, tQueued, by decide +kernel⟩,
    ⟨tEgress, 0, 0, tQueued, by decide +kernel⟩⟩

theorem witness_NoCommandTouchesQueueOrClock :
    (∃ (i : Instr) (s : State) (t : State), Sys2Proof.Machine.exec i s = .next t) ∧
    (∃ (i : Instr) (s : State) (t : State), Sys2Proof.Machine.exec i s = .next t) :=
  ⟨⟨.coolantWarn, tOp, tOp, rfl⟩,
    ⟨.coolantWarn, tOp, tOp, rfl⟩⟩

theorem witness_TimeInvariantKeptByEveryStep :
    (∃ (s : State) (t : State), TimeInv s.tm ∧ Sys2Proof.Machine.step s = .next t) :=
  ⟨State.reset, State.reset.tick, ⟨tTimeInv _ rfl (by decide +kernel), rfl⟩⟩

theorem witness_ModuleEnableStartsAndStops :
    (∃ (s : State) (us : Nat), testBit s.pwr.pins pinModEn = false ∧ 10000 ≤ us ∧ s.pinFree pinModEn 1000000000 = true ∧ s.pwr.phase = .off) ∧
    (∃ (s : State) (us : Nat), s.up = false ∧ testBit s.pwr.pins pinModEn = false ∧ us < 10000) ∧
    (∃ (s : State) (us : Nat), testBit s.pwr.pins pinModEn = true ∧ 100 ≤ us ∧ s.pwr.phase = .on ∧ s.based = true ∧ s.fw.latch = false ∧ s.dev.dump.state ≠ 3) ∧
    (∃ (s : State), s.pwr.phase = .turningOff ∧ 10000000 ≤ s.since s.pwr.phaseAt) ∧
    (∃ (s : State), s.pwr.phase = .turningOff ∧ s.since s.pwr.phaseAt < 10000000) :=
  ⟨⟨State.reset, 10000, by decide +kernel⟩,
    ⟨State.reset, 9999, by decide +kernel⟩,
    ⟨{ tOp with pwr := { tOp.pwr with pins := setBit 0 pinModEn } }, 100, by decide +kernel⟩,
    ⟨{ tOp with pwr := { tOp.pwr with phase := .turningOff } }.tClock 10000000, by decide +kernel⟩,
    ⟨{ tOp with pwr := { tOp.pwr with phase := .turningOff } }.tClock 9999999, by decide +kernel⟩⟩

theorem witness_InputFaultsAndHeat :
    (∃ (s : State) (volts : Nat) (us : Nat), s.pwr.phase ≠ .off ∧ s.pwr.phase ≠ .tripped ∧ (volts < 3600 ∨ (volts < 4400 ∧ 5000 < us))) ∧
    (∃ (s : State) (volts : Nat) (us : Nat), s.pwr.phase ≠ .off ∧ s.pwr.phase ≠ .tripped ∧ (6200 < volts ∨ (6000 < volts ∧ 10000 < us))) ∧
    (∃ (s : State) (ms : Nat) (regTemp : Nat), s.up = true ∧ ((s.pwr.hotAt.isSome = true ∧ 10 ≤ ms) ∨ 1350 ≤ regTemp)) ∧
    (∃ (volts : Nat), 4400 ≤ volts) ∧
    (∃ (s : State) (low : Nat) (m : PowerIn) (us : Nat), s.based = true ∧ s.pwr.phase ≠ .starting ∧ 3600 ≤ low ∧ low < 4400 ∧ us ≤ 5000 ∧ 4600 < m.volts) ∧
    (∃ (s : State) (low : Nat) (m : PowerIn) (us : Nat), s.pwr.phase = .starting ∧ 3600 ≤ low ∧ low < 4400 ∧ us ≤ 5000 ∧ 4600 < m.volts) :=
  ⟨⟨tOp, 4399, 5001, by decide +kernel⟩,
    ⟨tOp, 6001, 10001, by decide +kernel⟩,
    ⟨tOp, 0, 1350, by decide +kernel⟩,
    ⟨4400, by decide +kernel⟩,
    ⟨tOp, 3600, tIn 4601 0 0 0, 5000, by decide +kernel⟩,
    ⟨{ State.reset with pwr := { Pwr.reset with phase := .starting } }, 4399, tIn 4601 0 0 0, 5000, by decide +kernel⟩⟩

theorem witness_ThrottlesAndPhases :
    (∃ (s : State) (ns : Nat), s.up = true ∧ testBit s.pwr.pins pinThrot = false ∧ 1000 ≤ ns ∧ s.pinFree pinThrot 100000 = true) ∧
    (∃ (s : State) (ns : Nat), s.up = true ∧ testBit s.pwr.pins pinThrot = true ∧ 1000 ≤ ns ∧ s.pinFree pinThrot 100000 = true) ∧
    (∃ (s : State), s.based = true) ∧
    (∃ (s : State) (c : Nat), s.based = true ∧ c < 16 ∧ 12 ≤ (s.colPwr c).phases) ∧
    (∃ (s : State) (c : Nat), s.based = true ∧ c < 16 ∧ (s.colPwr c).phases ≤ 11) ∧
    (∃ (s : State) (m : PowerIn), s.based = true ∧ (11 * s.capNow < 10 * m.watts ∨ 8500 < m.amps)) ∧
    (∃ (s : State) (m : PowerIn), s.based = true ∧ 10 * m.watts ≤ 11 * s.capNow ∧ m.amps ≤ 8500) ∧
    (∃ (s : State) (m : PowerIn) (us : Nat), s.based = true ∧ s.pwr.power = false ∧ m.volts < 4600 ∧ 100 < us) ∧
    (∃ (s : State) (m : PowerIn) (ms : Nat), s.based = true ∧ s.pwr.power = true ∧ 4700 ≤ m.volts ∧ m.volts ≤ 6000 ∧ m.amps ≤ 8000 ∧ m.regTemp ≤ 1150 ∧ 100 ≤ ms) ∧
    (∃ (s : State) (tj : List Nat), s.based = true ∧ tj.length = 16) ∧
    (∃ (s : State), s.based = true ∧ s.pwr.thermal = true ∧ 1000000000 ≤ s.since s.pwr.thermalAt ∧ (∀ c, c < 16 → (s.colPwr c).tj ≤ 950)) :=
  ⟨⟨tOp.tClock 100000, 1000, by decide +kernel⟩,
    ⟨{ tOp with pwr := { tOp.pwr with pins := setBit 0 pinThrot } }.tClock 100000, 1000, by decide +kernel⟩,
    ⟨tOp, by decide +kernel⟩,
    ⟨tOp, 15, by decide +kernel⟩,
    ⟨tOp.updColPwr 15 fun q => { q with phases := 11 }, 15, by decide +kernel⟩,
    ⟨tOp, tIn 0 8501 0 0, by decide +kernel⟩,
    ⟨tOp, tIn 0 8500 0 0, by decide +kernel⟩,
    ⟨tOp, tIn 4599 0 0 0, 101, by decide +kernel⟩,
    ⟨{ tOp with pwr := { tOp.pwr with power := true } }, tIn 4700 8000 0 1150, 100, by decide +kernel⟩,
    ⟨tOp, 1000 :: List.replicate 15 0, by decide +kernel⟩,
    ⟨{ tOp with pwr := { tOp.pwr with thermal := true } }.tClock 1000000000, by decide +kernel⟩⟩

theorem witness_EmergenciesBeginAndClear :
    (∃ (s : State) (m : PowerIn) (us : Nat), s.based = true ∧ s.pwr.power = false ∧ ((m.volts < 4600 ∧ 100 < us) ∨ (8500 < m.amps ∧ 1000 ≤ us) ∨ 1250 ≤ m.regTemp)) ∧
    (∃ (s : State) (m : PowerIn) (ms : Nat), s.based = true ∧ s.pwr.power = true ∧ 4700 ≤ m.volts ∧ m.volts ≤ 6000 ∧ m.amps ≤ 8000 ∧ m.regTemp ≤ 1150 ∧ 100 ≤ ms) ∧
    (∃ (s : State), s.pwr.power = true) ∧
    (∃ (s : State) (tj : List Nat), s.based = true ∧ s.pwr.thermal = false ∧ tj.length = 16 ∧ (∃ x ∈ tj, 1000 ≤ x)) ∧
    (∃ (s : State) (tj : List Nat), s.based = true ∧ tj.length = 16 ∧ (∀ x ∈ tj, x < 950) ∧ (∀ c, c < 16 → (s.colPwr c).cooling = false)) ∧
    (∃ (s : State), s.based = true ∧ s.pwr.thermal = true ∧ 1000000000 ≤ s.since s.pwr.thermalAt ∧ (∀ c, c < 16 → (s.colPwr c).tj ≤ 950)) :=
  ⟨⟨tOp, tIn 4599 0 0 0, 101, by decide +kernel⟩,
    ⟨{ tOp with pwr := { tOp.pwr with power := true } }, tIn 4700 8000 0 1150, 100, by decide +kernel⟩,
    ⟨{ tOp with pwr := { tOp.pwr with power := true } }, by decide +kernel⟩,
    ⟨tOp, 1000 :: List.replicate 15 0, by decide +kernel⟩,
    ⟨tOp, List.replicate 16 949, by decide +kernel⟩,
    ⟨{ tOp with pwr := { tOp.pwr with thermal := true } }.tClock 1000000000, by decide +kernel⟩⟩

theorem witness_PowerManagerTickKeepsTheLimits :
    (∃ (s : State) (ms : List ColMeasure), s.based = true ∧ ms.length = 16) :=
  ⟨tOp, List.replicate 16 default, by decide +kernel⟩

theorem witness_CoolantLifeAndAgeing :
    (∃ (s : State) (inlet : Nat) (outlet : Nat), s.based = true ∧ inlet < outlet) ∧
    (∃ (s : State) (inlet : Nat) (outlet : Nat), s.based = true ∧ outlet ≤ inlet) ∧
    (∃ (s : State) (a : Nat), s.based = true ∧ s.pwr.coolantBadAt = some a ∧ 10000000000 ≤ s.since a ∧ s.pwr.coolant = false) ∧
    (∃ (s : State) (a : Nat), s.pwr.coolantBadAt = some a ∧ s.since a < 10000000000) ∧
    (∃ (s : State) (r : LifeRec), s.based = true ∧ r.index < 616) ∧
    (∃ (s : State) (r : LifeRec), s.based = true ∧ 616 ≤ r.index) :=
  ⟨⟨tOp, 300, 301, by decide +kernel⟩,
    ⟨tOp, 300, 300, by decide +kernel⟩,
    ⟨{ tOp with pwr := { tOp.pwr with coolantBadAt := some 0 } }.tClock 10000000000, 0, by decide +kernel⟩,
    ⟨{ tOp with pwr := { tOp.pwr with coolantBadAt := some 0 } }.tClock 9999999999, 0, by decide +kernel⟩,
    ⟨tOp, { (default : LifeRec) with index := 615 }, by decide +kernel⟩,
    ⟨tOp, { (default : LifeRec) with index := 616 }, by decide +kernel⟩⟩

theorem witness_PlannedRemoval :
    (∃ (s : State) (v : Via), ViaOpen s v 4 ∧ s.pwr.remove = 0) ∧
    (∃ (s : State) (v : Via), ViaOpen s v 4 ∧ s.pwr.remove ≠ 0) ∧
    (∃ (s : State) (v : Via), ViaOpen s v 4 ∧ s.pwr.remove ≠ 0) ∧
    (∃ (s : State) (v : Via), ViaOpen s v 2) ∧
    (∃ (s : State), s.based = true ∧ s.pwr.remove = 1 ∧ (∀ e ∈ s.parts, e.2.st ≠ .running) ∧ s.dev.dump.state ≠ 3 ∧ s.fw.plogWait = []) ∧
    (∃ (s : State), (s.dev.dump.state = 3 ∨ s.fw.plogWait ≠ [] ∨ (∃ e ∈ s.parts, e.2.st = .running))) :=
  ⟨⟨tOp, tFm, ⟨by simp only [ViaOpen]; decide +kernel, by decide +kernel⟩⟩,
    ⟨{ tOp with pwr := { tOp.pwr with remove := 1 } }, tFm, ⟨by simp only [ViaOpen]; decide +kernel, by decide +kernel⟩⟩,
    ⟨{ tOp with pwr := { tOp.pwr with remove := 1 } }, tFm, ⟨by simp only [ViaOpen]; decide +kernel, by decide +kernel⟩⟩,
    ⟨tOp, tSess, by simp only [ViaOpen]; decide +kernel⟩,
    ⟨{ tOp with pwr := { tOp.pwr with remove := 1 } }, by decide +kernel⟩,
    ⟨tOp.updDev fun d => { d with dump := { d.dump with state := 3 } }, by decide +kernel⟩⟩

theorem witness_ResetAndPpsPins :
    (∃ (s : State) (us : Nat), s.up = true ∧ testBit s.pwr.pins pinReset = false ∧ 10000 ≤ us ∧ s.pinFree pinReset 10000000000 = true ∧ s.dev.dump.state ≠ 1) ∧
    (∃ (s : State) (us : Nat), s.up = true ∧ testBit s.pwr.pins pinReset = false ∧ 10000 ≤ us ∧ s.pinFree pinReset 10000000000 = true ∧ s.dev.dump.state = 1) ∧
    (∃ (s : State), testBit s.pwr.pins pinReset = true) ∧
    (∃ (s : State), s.based = true ∧ testBit s.pwr.pins pinThrot = true ∧ 60000000000 ≤ s.since (Table.get 0 s.pwr.pinAt pinThrot) ∧ testBit s.pwr.held pinThrot = false) ∧
    (∃ (s : State), s.based = true ∧ s.tm.ppsEn = true ∧ 2000000000 ≤ s.since s.tm.ppsLast ∧ testBit s.pwr.held pinPps = false) ∧
    (∃ (s : State) (ns : Nat), s.up = true ∧ s.tm.ppsEn = true ∧ 100 ≤ ns ∧ s.tm.everLocked = true ∧ s.tm.st = .holdover ∧ (s.tm.now.toNat % 1000000000 ≤ 100000 ∨ 999900000 ≤ s.tm.now.toNat % 1000000000)) ∧
    (∃ (s : State) (ns : Nat), s.up = true ∧ s.tm.ppsEn = true ∧ 100 ≤ ns ∧ (s.tm.everLocked = false ∨ (100000 < s.tm.now.toNat % 1000000000 ∧ s.tm.now.toNat % 1000000000 < 999900000))) ∧
    (∃ (s : State), s.tm.ppsEn = false) :=
  ⟨⟨tOp.tClock 10000000000, 10000, by decide +kernel⟩,
    ⟨(tOp.updDev fun d => { d with dump := { d.dump with state := 1 } }).tClock 10000000000, 10000, by decide +kernel⟩,
    ⟨{ tOp with pwr := { tOp.pwr with pins := setBit 0 pinReset } }, by decide +kernel⟩,
    ⟨{ tOp with pwr := { tOp.pwr with pins := setBit 0 pinThrot } }.tClock 60000000000, by decide +kernel⟩,
    ⟨{ tOp with tm := { tOp.tm with ppsEn := true, clk := 2000000000 } }, by decide +kernel⟩,
    ⟨{ tOp with tm := { tOp.tm with ppsEn := true, everLocked := true, st := .holdover, now := 100000 } }, 100, by decide +kernel⟩,
    ⟨{ tOp with tm := { tOp.tm with ppsEn := true, everLocked := true, now := 100001 } }, 100, by decide +kernel⟩,
    ⟨tOp, by decide +kernel⟩⟩

theorem witness_PowerUpAndBaseStage :
    (∃ (s : State) (rom : Nat) (shares : Nat), (s.pwr.phase = .off ∨ s.pwr.phase = .starting) ∧ (testBit rom 0 = true ∨ testBit rom 8 = true) ∧ rom < 65536 ∧ s.flash.trial < 2 ∧ ({ s with fw := { s.fw with identity := decide (4 ≤ popCount 16 shares) } } : State).copyOk (if s.flash.prefer then s.flash.copyB else s.flash.copyA) = true) ∧
    (∃ (s : State) (rom : Nat) (shares : Nat), (s.pwr.phase = .off ∨ s.pwr.phase = .starting) ∧ (testBit rom 0 = true ∨ testBit rom 8 = true) ∧ rom < 65536 ∧ ({ s with fw := { s.fw with identity := decide (4 ≤ popCount 16 shares) } } : State).copyOk s.flash.copyA = false ∧ ({ s with fw := { s.fw with identity := decide (4 ≤ popCount 16 shares) } } : State).copyOk s.flash.copyB = false) ∧
    (∃ (s : State), s.pwr.phase = .on) ∧
    (∃ (s : State) (b : FwInfo), s.up = true ∧ s.fw.service = .rom ∧ s.fw.base = some b ∧ s.fw.romRecovery = false) ∧
    (∃ (s : State), s.fw.romRecovery = true) :=
  ⟨⟨State.reset, 0x0100, 0, by decide +kernel⟩,
    ⟨{ State.reset with flash := { Flash.shipped with copyA := { FwInfo.shipped with ok := false }, copyB := { FwInfo.shipped with ok := false } } }, 1, 0, by decide +kernel⟩,
    ⟨tOp, by decide +kernel⟩,
    ⟨{ State.reset with pwr := { Pwr.reset with phase := .on }, fw := { Fw.reset with base := some FwInfo.shipped } }, FwInfo.shipped, by decide +kernel⟩,
    ⟨{ State.reset with fw := { Fw.reset with romRecovery := true } }, by decide +kernel⟩⟩

theorem witness_SelfTestAndStandby :
    (∃ (s : State) (c : Nat), s.up = true ∧ c < 16 ∧ testBit s.dev.tested c = false ∧ s.fw.service = .starting) ∧
    (∃ (s : State) (c : Nat), testBit s.dev.tested c = true) ∧
    (∃ (s : State), s.up = true ∧ s.fw.service = .starting ∧ (∀ c ∈ bitsOf 16 s.fw.romOk, testBit s.dev.tested c = true) ∧ s.dev.selftest ≠ 0 ∧ s.net.mgmtUp = false ∧ s.storedHalf = none ∧ s.storedForged = false) ∧
    (∃ (s : State), s.up = true ∧ s.fw.service = .starting ∧ s.fw.latch = false ∧ (∀ c ∈ bitsOf 16 s.fw.romOk, testBit s.dev.tested c = true) ∧ s.dev.selftest ≠ 0 ∧ s.net.mgmtUp = false ∧ s.storedHalf = none ∧ s.storedForged = true) ∧
    (∃ (s : State), s.up = true ∧ s.fw.service = .recovery ∧ (∀ c ∈ bitsOf 16 s.fw.romOk, testBit s.dev.tested c = true) ∧ s.dev.selftest ≠ 0 ∧ s.net.mgmtUp = false) ∧
    (∃ (s : State), s.dev.selftest = 0) :=
  ⟨⟨{ State.reset with pwr := { Pwr.reset with phase := .on }, fw := { Fw.reset with service := .starting } }, 15, by decide +kernel⟩,
    ⟨tOp, 0, by decide +kernel⟩,
    ⟨{ tOp with fw := { tOp.fw with service := .starting }, net := { tOp.net with mgmtUp := false } }, by decide +kernel⟩,
    ⟨{ tOwned with parts := [], fw := { tOwned.fw with service := .starting }, net := { tOwned.net with mgmtUp := false }, flash := { tOwned.flash with half0 := tXsi.dropLast ++ [0xFF] } }, by decide +kernel⟩,
    ⟨{ tOp with fw := { tOp.fw with service := .recovery }, net := { tOp.net with mgmtUp := false } }, by decide +kernel⟩,
    ⟨State.reset, by decide +kernel⟩⟩

theorem witness_StewardsAndHeartbeats :
    (∃ (s : State) (c : Nat), s.based = true ∧ c < 16 ∧ (s.steward c).held = false) ∧
    (∃ (s : State) (c : Nat), s.based = true ∧ (s.steward c).held = true ∧ s.inService c = true ∧ testBit s.dev.standbyActive c = false ∧ s.inService ((c + 8) % 16) = true) ∧
    (∃ (s : State) (c : Nat), s.based = true ∧ (s.steward c).held = true ∧ s.inService c = true ∧ testBit s.dev.standbyActive c = false ∧ s.inService ((c + 8) % 16) = false) ∧
    (∃ (s : State) (c : Nat), (s.steward c).held = true) ∧
    (∃ (s : State) (c : Nat) (beats : List (Nat × Nat)), (∀ u, u < 296 → u ≠ 294 → ∃ v, beats.find? (fun e => e.1 = u) = some (u, v) ∧ v % 65536 ≠ (Table.get Beat.reset s.dev.beats (c * 4096 + u)).value) ∧ s.based = true ∧ s.inService c = true ∧ s.dev.heldUnits = []) ∧
    (∃ (s : State) (c : Nat) (u : Nat) (v : Nat) (at' : Nat), (∀ w, w < 296 → w ≠ 294 → w ≠ u → (Table.get Beat.reset s.dev.beats (c * 4096 + w)).same ≤ 8) ∧ s.based = true ∧ c < 16 ∧ s.inService c = true ∧ u < 272 ∧ v < 65536 ∧ Table.get Beat.reset s.dev.beats (c * 4096 + u) = ⟨v, 9, at'⟩ ∧ s.dev.heldUnits = []) ∧
    (∃ (s : State) (k : Nat), s.up = true ∧ k < 256 ∧ s.inService (k / 16) = true ∧ (s.cluster k).laneFailed = false) :=
  ⟨⟨tOp, 15, by decide +kernel⟩,
    ⟨tOp.updSteward 15 fun w => { w with held := true }, 15, by decide +kernel⟩,
    ⟨(tOp.updSteward 15 fun w => { w with held := true }).updDev fun d => { d with inService := 0xFF7F }, 15, by decide +kernel⟩,
    ⟨tOp.updSteward 0 fun w => { w with held := true }, 0, by decide +kernel⟩,
    ⟨tOp, 0, (List.range 296).map fun u => (u, 1), ⟨fun u h _ => ⟨1, find_map_range u 296 1 h, by show 1 % 65536 ≠ (Beat.reset).value; decide⟩, by decide +kernel⟩⟩,
    ⟨tOp.updDev fun d => { d with beats := [(15 * 4096 + 271, ⟨7, 9, 0⟩)] }, 15, 271, 7, 0, ⟨fun w _ _ h => by show (Table.get Beat.reset [(15 * 4096 + 271, ⟨7, 9, 0⟩)] (15 * 4096 + w)).same ≤ 8; rw [get_one_ne _ _ _ _ (by omega)]; decide, by decide +kernel⟩⟩,
    ⟨tOp, 255, by decide +kernel⟩⟩

theorem witness_DigestCheckAndLogCopy :
    (∃ (s : State), s.fw.dropped = 0 ∧ s.fw.digest = digestOf s.fw.mlog ∧ s.fw.digestCopy = s.fw.digest ∧ s.fw.digest.length = 64) ∧
    (∃ (s : State) (upset : Nat), s.based = true ∧ s.fw.dropped = 0 ∧ s.fw.digestCopy = s.fw.digest ∧ s.fw.digest.length = 64 ∧ upset ≠ 0 ∧ upset < 2 ^ 512) ∧
    (∃ (s : State), s.based = true ∧ s.since s.fw.plogAt < 1000000000 ∧ s.fw.plogCount ≤ 1024) ∧
    (∃ (s : State), s.based = true ∧ 1000000000 ≤ s.since s.fw.plogAt ∧ s.fw.plogWait.length ≤ 1024) ∧
    (∃ (s : State) (k : Nat), k < 12 ∧ bit s.fw.trace k = true) ∧
    (∃ (s : State) (k : Nat), (12 ≤ k ∨ bit s.fw.trace k = false)) :=
  ⟨⟨{ tOp with fw := { tOp.fw with digest := digestOf [], digestCopy := digestOf [] } }, by decide +kernel⟩,
    ⟨tOp, 2 ^ 511, by decide +kernel⟩,
    ⟨tOp.tClock 999999999, by decide +kernel⟩,
    ⟨tOp.tClock 1000000000, by decide +kernel⟩,
    ⟨{ tOp with fw := { tOp.fw with trace := 0x800 } }, 11, by decide +kernel⟩,
    ⟨tOp, 12, by decide +kernel⟩⟩

theorem witness_CrashDump :
    (∃ (s : State) (v : Via), ViaOpen s v 4 ∧ s.dev.dump.state = 0) ∧
    (∃ (s : State) (v : Via), ViaOpen s v 4 ∧ s.dev.dump.state = 2 ∧ s.dev.dump.acked = false) ∧
    (∃ (s : State) (v : Via), ViaOpen s v 4 ∧ (s.dev.dump.state = 2 ∨ s.dev.dump.state = 3 ∨ s.dev.dump.state = 4)) ∧
    (∃ (s : State), s.up = true ∧ s.dev.dump.state = 1 ∧ s.dev.warmDue = none) ∧
    (∃ (s : State), s.up = true ∧ (s.fw.service = .standby ∨ s.fw.service = .operational) ∧ s.pwr.power = false ∧ s.pwr.thermal = false ∧ s.dev.dump.state = 2) ∧
    (∃ (s : State), s.up = true ∧ (s.fw.service = .standby ∨ s.fw.service = .operational) ∧ s.pwr.power = false ∧ s.pwr.thermal = false ∧ s.dev.dump.state = 3) ∧
    (∃ (s : State), s.up = true ∧ (s.pwr.power = true ∨ s.pwr.thermal = true) ∧ s.dev.dump.state = 3) :=
  ⟨⟨tOp, tFm, ⟨by simp only [ViaOpen]; decide +kernel, by decide +kernel⟩⟩,
    ⟨tOp.updDev fun d => { d with dump := { d.dump with state := 2 } }, tFm, ⟨by simp only [ViaOpen]; decide +kernel, by decide +kernel⟩⟩,
    ⟨tOp.updDev fun d => { d with dump := { d.dump with state := 4 } }, tFm, ⟨by simp only [ViaOpen]; decide +kernel, by decide +kernel⟩⟩,
    ⟨tOp.updDev fun d => { d with dump := { d.dump with state := 1 } }, by decide +kernel⟩,
    ⟨tOp.updDev fun d => { d with dump := { d.dump with state := 2 } }, by decide +kernel⟩,
    ⟨tOp.updDev fun d => { d with dump := { d.dump with state := 3 } }, by decide +kernel⟩,
    ⟨{ tOp with pwr := { tOp.pwr with power := true } }.updDev fun d => { d with dump := { d.dump with state := 3 } }, by decide +kernel⟩⟩

theorem witness_DevResetOfCoresAndClusters :
    (∃ (s : State) (v : Via) (n : Nat), ViaOpen s v 4 ∧ n < 4096 ∧ s.clusterRuns (n / 16) = false) ∧
    (∃ (s : State) (v : Via) (k : Nat), ViaOpen s v 4 ∧ k < 256 ∧ s.clusterRuns k = false) ∧
    (∃ (s : State) (v : Via) (n : Nat), ViaOpen s v 4 ∧ n < 4096 ∧ s.clusterRuns (n / 16) = true) ∧
    (∃ (s : State) (v : Via) (k : Nat), ViaOpen s v 4 ∧ k < 256 ∧ s.clusterRuns k = true) :=
  ⟨⟨tOp, tFm, 4095, ⟨by simp only [ViaOpen]; decide +kernel, by decide +kernel⟩⟩,
    ⟨tOp, tFm, 255, ⟨by simp only [ViaOpen]; decide +kernel, by decide +kernel⟩⟩,
    ⟨tOp.tPart fun q => { q with schSt := 2 }, tFm, 15, ⟨by simp only [ViaOpen]; decide +kernel, by decide +kernel⟩⟩,
    ⟨tOp.tPart fun q => { q with schSt := 3 }, tFm, 0, ⟨by simp only [ViaOpen]; decide +kernel, by decide +kernel⟩⟩⟩

theorem witness_DevResetOfColumnsPortsAndModule :
    (∃ (s : State) (v : Via) (c : Nat), ViaOpen s v 4 ∧ c < 16) ∧
    (∃ (s : State) (v : Via) (n : Nat) (b : Nat), ViaOpen s v 4 ∧ n < 16 ∧ b < 8 ∧ testBit (s.port n).subs b = true) ∧
    (∃ (s : State) (v : Via) (n : Nat), ViaOpen s v 4 ∧ n < 16 ∧ (s.port n).subs = 0) ∧
    (∃ (s : State) (v : Via), ViaOpen s v 4 ∧ s.dev.dump.state ≠ 1) ∧
    (∃ (s : State) (v : Via), ViaOpen s v 4 ∧ s.dev.dump.state = 1) ∧
    (∃ (s : State) (v : Via), ViaOpen s v 4) ∧
    (∃ (s : State) (v : Via), ViaOpen s v 2) :=
  ⟨⟨tOp, tFm, 15, ⟨by simp only [ViaOpen]; decide +kernel, by decide +kernel⟩⟩,
    ⟨tOp.updPort 15 fun p => { p with subs := 1 }, tFm, 15, 0, ⟨by simp only [ViaOpen]; decide +kernel, by decide +kernel⟩⟩,
    ⟨tOp, tFm, 15, ⟨by simp only [ViaOpen]; decide +kernel, by decide +kernel⟩⟩,
    ⟨tOp, tFm, ⟨by simp only [ViaOpen]; decide +kernel, by decide +kernel⟩⟩,
    ⟨tOp.updDev fun d => { d with dump := { d.dump with state := 1 } }, tFm, ⟨by simp only [ViaOpen]; decide +kernel, by decide +kernel⟩⟩,
    ⟨tOp, tFm, by simp only [ViaOpen]; decide +kernel⟩,
    ⟨tOp, tSess, by simp only [ViaOpen]; decide +kernel⟩⟩

theorem witness_ColumnResetClearsTheColumn :
    (∃ (s : State) (c : Nat), s.up = true ∧ c < 16 ∧ s.dev.resetDue.contains c = true) ∧
    (∃ (s : State) (c : Nat), s.dev.resetDue.contains c = false) :=
  ⟨⟨tOp.updDev fun d => { d with resetDue := [15] }, 15, by decide +kernel⟩,
    ⟨tOp, 15, by decide +kernel⟩⟩

theorem witness_StagingAndLoadStart :
    (∃ (s : State) (v : Via) (k : Nat), ViaOpen s v k ∧ (k = 2 ∨ k = 4) ∧ s.xsi.stage.holder = none ∧ s.fw.stage.holder ≠ some v.conn) ∧
    (∃ (s : State) (v : Via) (k : Nat) (h : Nat), ViaOpen s v k ∧ (k = 2 ∨ k = 4) ∧ s.xsi.stage.holder = some h ∧ h ≠ v.conn) ∧
    (∃ (s : State) (v : Via) (k : Nat), ViaOpen s v k ∧ (k = 2 ∨ k = 4) ∧ s.xsi.stage.holder = some v.conn) ∧
    (∃ (s : State) (v : Via) (k : Nat), ViaOpen s v k ∧ (k = 2 ∨ k = 4) ∧ s.xsi.stage.holder ≠ some v.conn) ∧
    (∃ (s : State) (v : Via), ViaOpen s v 4 ∧ s.fw.stage.holder = none ∧ s.xsi.stage.holder ≠ some v.conn) ∧
    (∃ (s : State) (v : Via), ViaOpen s v 4 ∧ s.fw.stage.holder = some v.conn) ∧
    (∃ (s : State) (v : Via), ViaOpen s v 2) ∧
    (∃ (s : State) (h : Nat), s.up = true ∧ s.xsi.stage.holder = some h ∧ 60000000000 ≤ s.since s.xsi.stage.at_) ∧
    (∃ (s : State) (h : Nat), s.up = true ∧ s.fw.stage.holder = some h ∧ 60000000000 ≤ s.since s.fw.stage.at_) ∧
    (∃ (s : State), s.since s.xsi.stage.at_ < 60000000000) ∧
    (∃ (s : State) (v : Via) (k : Nat) (e : XsiBad), ViaOpen s v k ∧ (k = 2 ∨ k = 4) ∧ s.xsi.st ≠ 1 ∧ s.xsi.st ≠ 2 ∧ (∀ x ∈ s.parts, x.2.st ≠ .tearing) ∧ s.xsi.stage.holder = some v.conn ∧ ({ s with xsi := { s.xsi with st := 1, cause := 0, sect := 0, offset := noOffset, loader := some v.conn } } : State).xsiCheck
      s.xsi.stage.buf false = .error e ∧ e.cause ≠ 5 ∧ e.cause ≠ 6) ∧
    (∃ (s : State) (v : Via) (k : Nat) (rs : List XRec), ViaOpen s v k ∧ (k = 2 ∨ k = 4) ∧ s.xsi.st ≠ 1 ∧ s.xsi.st ≠ 2 ∧ (∀ x ∈ s.parts, x.2.st ≠ .tearing) ∧ s.xsi.stage.holder = some v.conn ∧ ({ s with xsi := { s.xsi with st := 1, cause := 0, sect := 0, offset := noOffset, loader := some v.conn } } : State).xsiCheck
      s.xsi.stage.buf false = .ok rs) ∧
    (∃ (s : State) (v : Via) (k : Nat), ViaOpen s v k ∧ (k = 2 ∨ k = 4) ∧ (s.xsi.st = 1 ∨ s.xsi.st = 2 ∨ (∃ x ∈ s.parts, x.2.st = .tearing) ∨ s.xsi.stage.holder ≠ some v.conn)) ∧
    (∃ (b : Bytes), b.length < 328) :=
  ⟨⟨tOp, tSess, 2, ⟨by simp only [ViaOpen]; decide +kernel, by decide +kernel⟩⟩,
    ⟨tStaged tOp 6 [], tFm, 4, 6, ⟨by simp only [ViaOpen]; decide +kernel, by decide +kernel⟩⟩,
    ⟨tStaged tOp 6 [1], tSess, 2, ⟨by simp only [ViaOpen]; decide +kernel, by decide +kernel⟩⟩,
    ⟨tOp, tSess, 2, ⟨by simp only [ViaOpen]; decide +kernel, by decide +kernel⟩⟩,
    ⟨tOp, tFm, ⟨by simp only [ViaOpen]; decide +kernel, by decide +kernel⟩⟩,
    ⟨tFwStaged [1], tFm, ⟨by simp only [ViaOpen]; decide +kernel, by decide +kernel⟩⟩,
    ⟨tOp, tSess, by simp only [ViaOpen]; decide +kernel⟩,
    ⟨(tStaged tOp 6 [1]).tClock 60000000000, 6, by decide +kernel⟩,
    ⟨(tFwStaged [1]).tClock 60000000000, 0x3FFB, by decide +kernel⟩,
    ⟨(tStaged tOp 6 [1]).tClock 59999999999, by decide +kernel⟩,
    ⟨tStaged tOp 6 [], tSess, 2, ⟨1, 0, 8⟩, ⟨by simp only [ViaOpen]; decide +kernel, by decide +kernel⟩⟩,
    ⟨tStaged { tOwned with parts := [] } 0x3FFB tXsi, tFm, 4, okOf (tOwned.xsiCheck tXsi false), ⟨by simp only [ViaOpen]; decide +kernel, by decide +kernel⟩⟩,
    ⟨tOp, tSess, 2, ⟨by simp only [ViaOpen]; decide +kernel, by decide +kernel⟩⟩,
    ⟨[], by decide +kernel⟩⟩

theorem witness_StructureImageIsApplied :
    (∃ (s : State) (img : Bytes) (rs : List XRec), s.based = true ∧ s.xsi.image = some img ∧ s.xsi.st = 1 ∧ xsiRecs img = .ok rs ∧ s.xsiTorn img rs = [] ∧ s.fw.zeroDue = false) ∧
    (∃ (s : State) (img : Bytes) (rs : List XRec), s.based = true ∧ s.xsi.image = some img ∧ s.xsi.st = 1 ∧ xsiRecs img = .ok rs ∧ s.xsiTorn img rs ≠ []) ∧
    (∃ (s : State), s.xsi.st ≠ 1) :=
  ⟨⟨tLoading { tOwned with parts := [] }, tXsi, okOf (xsiRecs tXsi), by decide +kernel⟩,
    ⟨tLoading (tOwned.tPart fun q => { q with recs := [[1]] }), tXsi, okOf (xsiRecs tXsi), by decide +kernel⟩,
    ⟨tOp, by decide +kernel⟩⟩

theorem witness_TeardownRunsItsSteps :
    (∃ (s : State) (p : Nat) (x : Tear), (∀ a, (s.part p).tgenAt = some a → 16000000 ≤ s.since a) ∧ s.up = true ∧ (s.part p).tear = some x ∧ x.stage = 2 ∧ 10000000 ≤ s.since x.at_) ∧
    (∃ (s : State) (p : Nat) (x : Tear), (s.part p).tear = some x ∧ s.since x.at_ < 10000000) ∧
    (∃ (s : State) (p : Nat) (x : Tear), s.up = true ∧ p < 16 ∧ (s.part p).tear = some x ∧ x.stage = 5 ∧ s.drainCount p = 0 ∧ x.remove = false ∧ s.xsi.image = none) ∧
    (∃ (s : State) (p : Nat) (x : Tear), s.up = true ∧ p < 16 ∧ (s.part p).tear = some x ∧ x.stage = 5 ∧ s.drainCount p = 0 ∧ x.remove = true ∧ s.xsi.image = none) ∧
    (∃ (s : State) (p : Nat), s.drainCount p ≠ 0 ∧ s.xsi.image = none) :=
  ⟨⟨(tOp.tTear false 2).tClock 10000000, 0, ⟨false, 0, [5], 2⟩, ⟨(fun a h => nomatch (h : none = some a)), by decide +kernel⟩⟩,
    ⟨(tOp.tTear false 2).tClock 9999999, 0, ⟨false, 0, [5], 2⟩, by decide +kernel⟩,
    ⟨tOp.tTear false 5, 0, ⟨false, 0, [5], 5⟩, by decide +kernel⟩,
    ⟨tOp.tTear true 5, 0, ⟨true, 0, [5], 5⟩, by decide +kernel⟩,
    ⟨tBusy, 0, by decide +kernel⟩⟩

theorem witness_StuckDrainsAndOrphans :
    (∃ (s : State) (p : Nat) (x : Tear), s.up = true ∧ (s.part p).tear = some x ∧ x.stage = 5 ∧ (s.part p).stuck = false ∧ 100000000 ≤ s.since x.at_ ∧ s.drainCount p ≠ 0) ∧
    (∃ (s : State) (p : Nat) (c : Nat) (x : Tear), s.up = true ∧ (s.part p).tear = some x ∧ x.stage = 5 ∧ (s.part p).stuck = true ∧ 10000000 ≤ s.since x.at_ ∧ s.sharedHolds p c = true ∧ s.inService c = true) ∧
    (∃ (s : State) (p : Nat), s.drainCount p = 0) ∧
    (∃ (s : State) (p : Nat) (c : Nat), s.sharedHolds p c = false) ∧
    (∃ (s : State) (p : Nat) (a : Nat), s.operational = true ∧ (s.part p).st = .orphaned ∧ (s.part p).holdAt = some a ∧ (s.part p).orphanS * 1000000000 ≤ s.since a) ∧
    (∃ (s : State) (p : Nat) (a : Nat), (s.part p).holdAt = some a ∧ s.since a < (s.part p).orphanS * 1000000000) :=
  ⟨⟨tBusy.tClock 100000000, 0, ⟨false, 0, [5], 5⟩, by decide +kernel⟩,
    ⟨(tBusy.tPart fun q => { q with stuck := true, colls := [{ (default : CollRun) with stream := 15 }] }).tClock 10000000, 0, 15, ⟨false, 0, [5], 5⟩, by decide +kernel⟩,
    ⟨tOp, 0, by decide +kernel⟩,
    ⟨tOp, 0, 15, by decide +kernel⟩,
    ⟨(tOp.tPart fun q => { q with st := .orphaned, holdAt := some 0 }).tClock 1000000000, 0, 0, by decide +kernel⟩,
    ⟨(tOp.tPart fun q => { q with st := .orphaned, holdAt := some 0 }).tClock 999999999, 0, 0, by decide +kernel⟩⟩

theorem witness_MemoryFormKeptByEveryStep :
    (∃ (s : State) (t : State), Sys2Proof.Machine.step s = .next t ∧ Memory.wf s.mem) :=
  ⟨State.reset, State.reset.tick, ⟨rfl, by decide +kernel⟩⟩

theorem witness_BytesReadBackAndScrub :
    (∃ (s : State) (r : Nat), s.up = true ∧ rgnValid (s.region r) = true ∧ (s.region r).st = 2 ∧ rgnHbm (s.region r) = true ∧ rgnScrub (s.region r) ≠ 0) ∧
    (∃ (s : State) (r : Nat) (c : Nat), (∀ k, (s.col k).pcFailed = 0) ∧ s.up = true ∧ rgnValid (s.region r) = true ∧ (s.region r).st = 2 ∧ rgnHbm (s.region r) = true ∧ rgnScrub (s.region r) ≠ 0 ∧ c < 16 ∧ rgnInCol (s.region r) c = true) ∧
    (∃ (s : State) (r : Nat) (l : Nat), RegionFits (s.region r) ∧ (∀ k, (s.col k).pcFailed = 0) ∧ s.up = true ∧ rgnValid (s.region r) = true ∧ (s.region r).st = 2 ∧ rgnHbm (s.region r) = true ∧ rgnScrub (s.region r) ≠ 0 ∧ rgnHas (s.region r) (64 * l) = true ∧ s.lineNow (s.region r) (64 * l) = .data) ∧
    (∃ (s : State) (r : Nat) (l : Nat), RegionFits (s.region r) ∧ (∀ k, (s.col k).pcFailed = 0) ∧ s.up = true ∧ rgnValid (s.region r) = true ∧ (s.region r).st = 2 ∧ rgnHbm (s.region r) = true ∧ rgnScrub (s.region r) ≠ 0 ∧ rgnHas (s.region r) (64 * l) = true ∧ s.lineNow (s.region r) (64 * l) = .data ∧ rgnCode (s.region r) ≠ 1) ∧
    (∃ (s : State) (r : Nat), rgnScrub (s.region r) = 0) :=
  ⟨⟨tOp.tRegion tRgn, 0, by decide +kernel⟩,
    ⟨tOp.tRegion tRgn, 0, 0, ⟨tNoPc _ rfl, by decide +kernel⟩⟩,
    ⟨tLine 16383, 0, 16383, ⟨by simp only [RegionFits]; decide +kernel, tNoPc _ rfl, by decide +kernel⟩⟩,
    ⟨tLine 16383, 0, 16383, ⟨by simp only [RegionFits]; decide +kernel, tNoPc _ rfl, by decide +kernel⟩⟩,
    ⟨tOp, 4095, by decide +kernel⟩⟩

theorem witness_RegionsOpenWipeAndSweep :
    (∃ (s : State) (r : Nat), s.up = true ∧ (s.region r).st = 1 ∧ (∀ e ∈ s.net.conns, e.2.rxHeld = []) ∧ (∀ x ∈ (s.part (rgnPart (s.region r))).colls, x.done = true) ∧ (s.part (rgnPart (s.region r))).collAsk = []) ∧
    (∃ (s : State) (v : Via) (p : Nat) (r : Nat), ViaOpen s v 2 ∧ p < 16 ∧ connPart (s.conn v.conn) = p ∧ r < 4096 ∧ rgnValid (s.region r) = true ∧ rgnPart (s.region r) = p ∧ (s.region r).st = 2 ∧ (s.part p).schSt ≠ 2 ∧ (s.part p).schSt ≠ 3 ∧ rgnHbm (s.region r) = true ∧ rgnRaw (s.region r) = false ∧ (s.region r).debt < 14) ∧
    (∃ (s : State) (v : Via) (p : Nat) (r : Nat), ViaOpen s v 2 ∧ p < 16 ∧ connPart (s.conn v.conn) = p ∧ r < 4096 ∧ rgnValid (s.region r) = true ∧ rgnPart (s.region r) = p ∧ (s.region r).st = 2 ∧ (s.part p).schSt ≠ 2 ∧ (s.part p).schSt ≠ 3 ∧ rgnHbm (s.region r) = true ∧ rgnRaw (s.region r) = false ∧ 14 ≤ (s.region r).debt) ∧
    (∃ (s : State) (v : Via) (p : Nat) (r : Nat), ViaOpen s v 2 ∧ p < 16 ∧ connPart (s.conn v.conn) = p ∧ r < 4096 ∧ (rgnValid (s.region r) = false ∨ rgnPart (s.region r) ≠ p ∨ (s.region r).st ≠ 2)) ∧
    (∃ (s : State) (r : Nat), (∀ k, (s.col k).pcFailed = 0) ∧ s.up = true ∧ Memory.wf s.mem ∧ (s.region r).sweeping = true ∧ (s.region r).st = 2 ∧ (s.region r).waiting = 0) ∧
    (∃ (s : State) (r : Nat), s.up = true ∧ (s.region r).sweeping = true ∧ (s.region r).st = 2 ∧ (s.region r).waiting ≠ 0) ∧
    (∃ (s : State) (r : Nat), (s.region r).sweeping = false) :=
  ⟨⟨(tOp.tRegion { tRgn with st := 1 }).tPart fun q => { q with st := .building }, 0, by decide +kernel⟩,
    ⟨tOp.tRegion { tRgn with debt := 13, gen := 15 }, tSess, 0, 0, ⟨by simp only [ViaOpen]; decide +kernel, by decide +kernel⟩⟩,
    ⟨tOp.tRegion { tRgn with debt := 14 }, tSess, 0, 0, ⟨by simp only [ViaOpen]; decide +kernel, by decide +kernel⟩⟩,
    ⟨tOp.tRegion { tRgn with st := 1 }, tSess, 0, 0, ⟨by simp only [ViaOpen]; decide +kernel, by decide +kernel⟩⟩,
    ⟨tOp.tRegion { tRgn with sweeping := true, gen := 1, debt := 1 }, 0, ⟨tNoPc _ rfl, by decide +kernel⟩⟩,
    ⟨tOp.tRegion { tRgn with sweeping := true, gen := 15, debt := 14, waiting := 2 }, 0, by decide +kernel⟩,
    ⟨tOp, 4095, by decide +kernel⟩⟩

theorem witness_FirmwareActivationStarts :
    (∃ (s : State) (v : Via) (e : Nat), ViaOpen s v 4 ∧ (s.fw.act = .idle ∨ s.fw.act = .done ∨ s.fw.act = .failed) ∧ leAt s.fw.stage.buf 0 4 ≠ 0x4A344F57 ∧ s.fwCheck s.fw.stage.buf = .error e ∧ e ≠ 5 ∧ e ≠ 6) ∧
    (∃ (s : State) (v : Via) (k : Nat), ViaOpen s v 4 ∧ (s.fw.act = .idle ∨ s.fw.act = .done ∨ s.fw.act = .failed) ∧ leAt s.fw.stage.buf 0 4 ≠ 0x4A344F57 ∧ s.fwCheck s.fw.stage.buf = .ok k ∧ (fwInfoOf s.fw.stage.buf k).kind = 1 ∧ s.fw.bootCopy = false) ∧
    (∃ (s : State) (v : Via) (k : Nat) (i : FwInfo), ViaOpen s v 4 ∧ i = fwInfoOf s.fw.stage.buf k ∧ (s.fw.act = .idle ∨ s.fw.act = .done ∨ s.fw.act = .failed) ∧ leAt s.fw.stage.buf 0 4 ≠ 0x4A344F57 ∧ s.fwCheck s.fw.stage.buf = .ok k ∧ i.kind = 2 ∧ i.stateMin ≤ (s.fw.op.map (·.stateVer)).getD i.stateMin ∧ (s.fw.op.map (·.stateVer)).getD i.stateMin ≤ i.stateVer ∧ (∀ e ∈ s.net.conns, connHost e.2 = true → e.2.st = 2 → levelOk i.iface e.2.level = true) ∧ s.pwr.power = false ∧ s.pwr.thermal = false) ∧
    (∃ (s : State) (v : Via), ViaOpen s v 4 ∧ (s.fw.act = .awaiting ∨ s.fw.act = .deferred ∨ s.fw.act = .probation)) ∧
    (∃ (s : State) (v : Via), ViaOpen s v 4 ∧ s.fw.dropped = 0 ∧ s.fw.digest = digestOf s.fw.mlog ∧ s.fw.digestCopy = s.fw.digest ∧ s.fw.digest.length = 64) ∧
    (∃ (s : State) (v : Via), ViaOpen s v 2) :=
  ⟨⟨tFwStaged [], tFm, 1, ⟨by simp only [ViaOpen]; decide +kernel, by decide +kernel⟩⟩,
    ⟨tFwStaged (tFw 1), tFm, 0, ⟨by simp only [ViaOpen]; decide +kernel, by decide +kernel⟩⟩,
    ⟨tFwStaged (tFw 2), tFm, 0, fwInfoOf (tFw 2) 0, ⟨by simp only [ViaOpen]; decide +kernel, rfl, by decide +kernel⟩⟩,
    ⟨{ tOp with fw := { tOp.fw with act := .probation } }, tFm, ⟨by simp only [ViaOpen]; decide +kernel, by decide +kernel⟩⟩,
    ⟨{ tOp with fw := { tOp.fw with digest := digestOf [], digestCopy := digestOf [] } }, tFm, ⟨by simp only [ViaOpen]; decide +kernel, by decide +kernel⟩⟩,
    ⟨tOp, tSess, by simp only [ViaOpen]; decide +kernel⟩⟩

theorem witness_HandoverAndProbation :
    (∃ (s : State) (i : FwInfo) (us : Nat), s.based = true ∧ s.fw.newOp = some i ∧ s.handoverPoint = true ∧ us ≤ 5000) ∧
    (∃ (s : State), s.based = true ∧ s.handoverPoint = true) ∧
    (∃ (s : State), s.based = true ∧ (s.fw.act = .awaiting ∨ s.fw.act = .deferred) ∧ 60000000000 ≤ s.since s.fw.actAt) ∧
    (∃ (s : State) (i : FwInfo), s.based = true ∧ s.fw.op = some i ∧ s.fw.act = .probation ∧ 10000000000 ≤ s.since s.fw.probationAt ∧ s.fw.latch = false) ∧
    (∃ (s : State) (i : FwInfo), s.based = true ∧ s.fw.act = .probation ∧ s.fw.oldOp = some i) ∧
    (∃ (s : State), s.handoverPoint = false) ∧
    (∃ (s : State), s.fw.act ≠ .probation) ∧
    (∃ (s : State), s.since s.fw.actAt < 60000000000) :=
  ⟨⟨{ tOp with fw := { tOp.fw with act := .awaiting, newOp := some (fwInfoOf (tFw 2) 0) } }, fwInfoOf (tFw 2) 0, 5000, by decide +kernel⟩,
    ⟨{ tOp with fw := { tOp.fw with act := .awaiting, newOp := some (fwInfoOf (tFw 2) 0) } }, by decide +kernel⟩,
    ⟨{ tOp with fw := { tOp.fw with act := .deferred } }.tClock 60000000000, by decide +kernel⟩,
    ⟨{ tOp with fw := { tOp.fw with act := .probation, op := some (fwInfoOf (tFw 2) 0), oldOp := some .shipped } }.tClock 10000000000, fwInfoOf (tFw 2) 0, by decide +kernel⟩,
    ⟨{ tOp with fw := { tOp.fw with act := .probation, op := some (fwInfoOf (tFw 2) 0), oldOp := some .shipped } }, .shipped, by decide +kernel⟩,
    ⟨tOp, by decide +kernel⟩,
    ⟨tOp, by decide +kernel⟩,
    ⟨tOp.tClock 59999999999, by decide +kernel⟩⟩

theorem witness_ScheduleLoadAndRounds_1 :
    ∃ (s : State) (v : Via) (p : Nat) (addr : Nat) (im : Image), ViaOpen s v 2 ∧ Fetched s p addr im ∧ p < 16 ∧ connPart (s.conn v.conn) = p ∧ addr < 2 ^ 40 ∧ addr % 256 = 0 ∧ s.pwr.remove = 0 ∧ (s.part p).st = .ready ∧ (s.part p).schSt ≠ 2 ∧ (s.part p).schSt ≠ 3 ∧ headerOk im.hdr = true ∧ digestOk im.hdr = true ∧ leAt im.hdr 20 4 ≤ fld (Table.get 0 s.pwr.grants p) 10 0 ∧ s.tableBad p im.table (leAt im.hdr 60 4) = none ∧ s.admission p im = none :=
  ⟨tLoad [tCollWords true 0, stepEndWords], tSess, 0, 0x80000, tImgOf [tCollWords true 0, stepEndWords], ⟨by simp only [ViaOpen]; decide +kernel, tFetched _ _ ([tCollWords true 0, stepEndWords].flatMap entryBytes) (by decide +kernel) (by decide +kernel) (by decide +kernel) (by decide +kernel) (by decide +kernel) (by decide +kernel), by decide +kernel⟩⟩

theorem witness_ScheduleLoadAndRounds_2 :
    ∃ (s : State) (v : Via) (p : Nat) (addr : Nat) (im : Image) (r : Reject), ViaOpen s v 2 ∧ Fetched s p addr im ∧ p < 16 ∧ connPart (s.conn v.conn) = p ∧ addr < 2 ^ 40 ∧ addr % 256 = 0 ∧ s.pwr.remove = 0 ∧ (s.part p).st = .ready ∧ (s.part p).schSt ≠ 2 ∧ (s.part p).schSt ≠ 3 ∧ headerOk im.hdr = true ∧ digestOk im.hdr = true ∧ leAt im.hdr 20 4 ≤ fld (Table.get 0 s.pwr.grants p) 10 0 ∧ s.tableBad p im.table (leAt im.hdr 60 4) = none ∧ s.admission p im = some r :=
  ⟨tLoad [stepEndWords], tSess, 0, 0x80000, tImgOf [stepEndWords], ⟨5, 0, noEntry⟩, ⟨by simp only [ViaOpen]; decide +kernel, tFetched _ _ ([stepEndWords].flatMap entryBytes) (by decide +kernel) (by decide +kernel) (by decide +kernel) (by decide +kernel) (by decide +kernel) (by decide +kernel), by decide +kernel⟩⟩

theorem witness_ScheduleLoadAndRounds_3 :
    ∃ (s : State) (v : Via) (p : Nat) (addr : Nat), ViaOpen s v 2 ∧ p < 16 ∧ connPart (s.conn v.conn) = p ∧ addr < 2 ^ 40 ∧ addr % 256 ≠ 0 ∧ s.loadBarred p = false :=
  ⟨tOp, tSess, 0, 0x80001, ⟨by simp only [ViaOpen]; decide +kernel, by decide +kernel⟩⟩

theorem witness_ScheduleLoadAndRounds_4 :
    ∃ (s : State) (v : Via) (p : Nat) (addr : Nat), ViaOpen s v 2 ∧ p < 16 ∧ connPart (s.conn v.conn) = p ∧ addr < 2 ^ 40 ∧ (s.pwr.remove ≠ 0 ∨ (s.part p).st = .absent ∨ (s.part p).st = .tearing) :=
  ⟨{ tOp with pwr := { tOp.pwr with remove := 1 } }, tSess, 0, 0x80000, ⟨by simp only [ViaOpen]; decide +kernel, by decide +kernel⟩⟩

theorem witness_ScheduleLoadAndRounds_5 :
    ∃ (s : State) (v : Via) (p : Nat) (addr : Nat), ViaOpen s v 2 ∧ p < 16 ∧ connPart (s.conn v.conn) ≠ p ∧ addr < 2 ^ 40 :=
  ⟨tOp, tSess, 1, 0x80000, ⟨by simp only [ViaOpen]; decide +kernel, by decide +kernel⟩⟩

theorem witness_ScheduleLoadAndRounds_6 :
    ∃ (s : State) (u : State) (p : Nat) (late : Nat) (h : Sched), u = (s.overrun p h).servePools p h ∧ late = u.lateness p ∧ s.operational = true ∧ (s.part p).sched = some h ∧ ((s.part p).schSt = 2 ∨ (s.part p).schSt = 3) ∧ (s.part p).stn.st = 1 ∧ late ≤ h.slack + (s.part p).slipD :=
  ⟨tRun 0x1000 (tWords kWait), (tRun 0x1000 (tWords kWait)).overrun 0 tSched |>.servePools 0 tSched, 0, 0, tSched, ⟨rfl, rfl, by decide +kernel⟩⟩

theorem witness_ScheduleLoadAndRounds_7 :
    ∃ (s : State) (u : State) (p : Nat) (late : Nat) (h : Sched), u = (s.overrun p h).servePools p h ∧ late = u.lateness p ∧ s.operational = true ∧ (s.part p).sched = some h ∧ ((s.part p).schSt = 2 ∨ (s.part p).schSt = 3) ∧ (s.part p).stn.st = 1 ∧ h.slack + (s.part p).slipD < late :=
  ⟨tLate, tLate.overrun 0 tSched |>.servePools 0 tSched, 0, 5, tSched, ⟨rfl, rfl, by decide +kernel⟩⟩

theorem witness_LaTileFillsASet :
    (∃ (s : State) (u : State) (p : Nat) (pos : Nat) (i : Nat) (ws : List W64) (l : Grans) (arrays : List Nat) (errs : List MemErr), MayIssue s p pos i ws kTile errs ∧ (s.updPart p fun q => markIssue q pos i).tileLoad p pos ws errs = (l, arrays, u) ∧ s.tileRoom p pos ws = true ∧ tileSa ws = false) ∧
    (∃ (s : State) (u : State) (p : Nat) (pos : Nat) (x : Tile) (l : Grans) (arrays : List Nat) (errs : List MemErr), (s.updPos pos fun q => { q with replay := none }).tileLoad p pos x.words errs = (l, arrays, u) ∧ s.operational = true ∧ s.unitFree pos = true ∧ (s.posn pos).replay = some x ∧ x.part = p) ∧
    (∃ (s : State) (u : State) (p : Nat) (pos : Nat) (i : Nat) (ws : List W64) (c : Ctl) (l : Grans) (arrays : List Nat) (errs : List MemErr), MayIssue s p pos i ws kTile errs ∧ ((s.updPart p fun q => markIssue q pos i).updCol (c.slot / 4096) fun k => { k with cadDeclined := inc k.cadDeclined }).tileLoad p pos ws errs
      = (l, arrays, u) ∧ s.tileRoom p pos ws = true ∧ tileSa ws = true ∧ eLidx ws = lidxNone ∧ ctlOf (ws.getD 7 0) = some c ∧ tileClass (s.view (ws.getD 2 0)).f (s.view (ws.getD 3 0)).f ≤ 2 ∧ ((s.part p).forceLa = true ∨ stSaOk (s.slot c.slot).state = false)) ∧
    (∃ (s : State) (p : Nat) (pos : Nat) (i : Nat) (ws : List W64) (errs : List MemErr), MayIssue s p pos i ws kTile errs ∧ s.tileRoom p pos ws = false) ∧
    (∃ (s : State) (pos : Nat), (s.posn pos).replay = none) :=
  ⟨⟨tTileS, (tileLd tTileS (tTile false false lidxNone tCtl)).2.2, 0, 0, 0, tTile false false lidxNone tCtl, (tileLd tTileS (tTile false false lidxNone tCtl)).1, (tileLd tTileS (tTile false false lidxNone tCtl)).2.1, [], ⟨by simp only [MayIssue]; decide +kernel, rfl, by decide +kernel⟩⟩,
    ⟨tReplay, ((tReplay.updPos 0 fun q => { q with replay := none }).tileLoad 0 0 (tTile false false lidxNone tCtl) []).2.2, 0, 0, tTileOf (tTile false false lidxNone tCtl), ((tReplay.updPos 0 fun q => { q with replay := none }).tileLoad 0 0 (tTile false false lidxNone tCtl) []).1, ((tReplay.updPos 0 fun q => { q with replay := none }).tileLoad 0 0 (tTile false false lidxNone tCtl) []).2.1, [], ⟨rfl, by decide +kernel⟩⟩,
    ⟨tDeclined, tDeclinedLd.2.2, 0, 0, 0, tSaWs, (ctlOf tCtlSlot).getD default, tDeclinedLd.1, tDeclinedLd.2.1, [], ⟨by simp only [MayIssue]; decide +kernel, rfl, by decide +kernel⟩⟩,
    ⟨tTileS.updPos 0 fun x => { x with waiting := [default, default] }, 0, 0, 0, tTile false false lidxNone tCtl, [], ⟨by simp only [MayIssue]; decide +kernel, by decide +kernel⟩⟩,
    ⟨tOp, 0, by decide +kernel⟩⟩

theorem witness_SaTileRunsOrLosesExactness_1 :
    ∃ (s : State) (u : State) (p : Nat) (pos : Nat) (i : Nat) (ws : List W64) (c : Ctl) (l : Grans) (arrays : List Nat) (errs : List MemErr), MayIssue s p pos i ws kTile errs ∧ (s.updPart p fun q => markIssue q pos i).tileLoad p pos ws errs = (l, arrays, u) ∧ s.tileRoom p pos ws = true ∧ tileSa ws = true ∧ eLidx ws = lidxNone ∧ ctlOf (ws.getD 7 0) = some c ∧ tileClass (s.view (ws.getD 2 0)).f (s.view (ws.getD 3 0)).f ≤ 2 ∧ (s.part p).forceLa = false ∧ stSaOk (s.slot c.slot).state = true ∧ (u.tileIn ws l arrays).loss (stAnchor (s.slot c.slot).state) (saBlocksPerChunk u ws) = none :=
  ⟨tSa 0, (tileLd (tSa 0) tSaWs).2.2, 0, 0, 0, tSaWs, (ctlOf tCtlSlot).getD default, (tileLd (tSa 0) tSaWs).1, (tileLd (tSa 0) tSaWs).2.1, [], ⟨by simp only [MayIssue]; decide +kernel, rfl, by decide +kernel⟩⟩

theorem witness_SaTileRunsOrLosesExactness_2 :
    ∃ (s : State) (u : State) (p : Nat) (pos : Nat) (i : Nat) (ws : List W64) (c : Ctl) (l : Grans) (arrays : List Nat) (errs : List MemErr) (x : Loss) (w : W64), MayIssue s p pos i ws kTile errs ∧ (s.updPart p fun q => markIssue q pos i).tileLoad p pos ws errs = (l, arrays, u) ∧ w = lastLossWord (i % 2 ^ 32) (stAnchor (s.slot c.slot).state) x ∧ s.tileRoom p pos ws = true ∧ tileSa ws = true ∧ tileScope ws = false ∧ eLidx ws = lidxNone ∧ ctlOf (ws.getD 7 0) = some c ∧ tileClass (s.view (ws.getD 2 0)).f (s.view (ws.getD 3 0)).f ≤ 2 ∧ (s.part p).forceLa = false ∧ stSaOk (s.slot c.slot).state = true ∧ (u.tileIn ws l arrays).loss (stAnchor (s.slot c.slot).state) (saBlocksPerChunk u ws) = some x :=
  ⟨tSa 5, (tileLd (tSa 5) tSaWs).2.2, 0, 0, 0, tSaWs, (ctlOf tCtlSlot).getD default, (tileLd (tSa 5) tSaWs).1, (tileLd (tSa 5) tSaWs).2.1, [], ⟨some 0, 0, 0, .belowAnchor⟩, lastLossWord 0 5 ⟨some 0, 0, 0, .belowAnchor⟩, ⟨by simp only [MayIssue]; decide +kernel, rfl, rfl, by decide +kernel⟩⟩

theorem witness_SaTileRunsOrLosesExactness_3 :
    ∃ (s : State) (p : Nat) (pos : Nat) (i : Nat) (ws : List W64) (c : Ctl) (errs : List MemErr), MayIssue s p pos i ws kTile errs ∧ s.tileRoom p pos ws = true ∧ tileSa ws = true ∧ tileScope ws = false ∧ eLidx ws = lidxNone ∧ ctlOf (ws.getD 7 0) = some c ∧ tileClass (s.view (ws.getD 2 0)).f (s.view (ws.getD 3 0)).f ≤ 2 ∧ (s.part p).forceLa = false ∧ stSaOk (s.slot c.slot).state = true ∧ anchorOk (stAnchor (s.slot c.slot).state) = false :=
  ⟨tSa 400, 0, 0, 0, tSaWs, (ctlOf tCtlSlot).getD default, [], ⟨by simp only [MayIssue]; decide +kernel, by decide +kernel⟩⟩

theorem witness_SaTileRunsOrLosesExactness_4 :
    ∃ (s : State) (u : State) (p : Nat) (pos : Nat) (i : Nat) (ws : List W64) (c : Ctl) (y : Layer) (l : Grans) (arrays : List Nat) (errs : List MemErr) (x : Loss), MayIssue s p pos i ws kTile errs ∧ (s.updPart p fun q => markIssue q pos i).tileLoad p pos ws errs = (l, arrays, u) ∧ s.tileRoom p pos ws = true ∧ tileSa ws = true ∧ tileScope ws = true ∧ ctlOf (ws.getD 7 0) = some c ∧ tileClass (s.view (ws.getD 2 0)).f (s.view (ws.getD 3 0)).f ≤ 2 ∧ (s.part p).forceLa = false ∧ stSaOk (s.slot c.slot).state = true ∧ layerOf ((s.updPart p fun q => markIssue q pos i).part p) (eLidx ws) = some y ∧ layerOf (u.part p) (eLidx ws) = some y ∧ y.la = false ∧ (u.tileIn ws l arrays).loss (stAnchor (s.slot c.slot).state) (saBlocksPerChunk u ws) = some x :=
  ⟨tSaLayer, (tileLd tSaLayer (tTile true true 3 tCtlSlot)).2.2, 0, 0, 0, tTile true true 3 tCtlSlot, (ctlOf tCtlSlot).getD default, tLayer, (tileLd tSaLayer (tTile true true 3 tCtlSlot)).1, (tileLd tSaLayer (tTile true true 3 tCtlSlot)).2.1, [], ⟨some 0, 0, 0, .belowAnchor⟩, ⟨by simp only [MayIssue]; decide +kernel, rfl, by decide +kernel⟩⟩

theorem witness_DrainWritesSixtyFourOutputs :
    (∃ (s : State) (p : Nat) (pos : Nat) (x : Tile) (rest : List Tile) (c : Ctl), s.operational = true ∧ s.unitFree pos = true ∧ pos < 4096 ∧ (s.posn pos).waiting = x :: rest ∧ x.part = p ∧ ctlOf (x.words.getD 7 0) = some c ∧ c.raw = true ∧ 256 * eOut x.words + 6144 ≤ 2 ^ 20) ∧
    (∃ (s : State) (u : State) (p : Nat) (pos : Nat) (x : Tile) (rest : List Tile) (c : Ctl) (prm : OutPrm) (l : Grans) (errs : List MemErr), plainCtl c ∧ (s.updPos pos fun q => { q with waiting := rest, tiles := inc q.tiles }).loadPrm p pos x.words { c with format := .fp32, layout := .dense, scaleSrc := x.src } errs
      = (prm, false, l, u) ∧ (∀ o, (((if x.set1 then (s.posn pos).set1 else (s.posn pos).set0).getD o accClear).poison = false)) ∧ s.operational = true ∧ s.unitFree pos = true ∧ pos < 4096 ∧ (s.posn pos).waiting = x :: rest ∧ x.part = p ∧ ctlOf (x.words.getD 7 0) = some c ∧ x.fmt = .fp32 ∧ x.lay = .dense ∧ (s.posn pos).blocks = [] ∧ 16 * eOcol x.words + 16 ≤ 32 * eOutVlen x.words ∧ denseAddr (eOut x.words) (eOutVlen x.words) (4 * eOrow x.words + 4) 0 ≤ 2 ^ 20) ∧
    (∃ (s : State) (pos : Nat), (s.posn pos).waiting = []) :=
  ⟨⟨tDrain true, 0, 0, tTileOf (tTile false false lidxNone (flag 25 true)), [], (ctlOf (flag 25 true)).getD default, by decide +kernel⟩,
    ⟨tDrain false, tDrainPrm.2.2.2, 0, 0, tTileOf (tTile false false lidxNone tCtl), [], (ctlOf tCtl).getD default, tDrainPrm.1, tDrainPrm.2.2.1, [], ⟨by simp only [plainCtl]; decide +kernel, rfl, tClean _ (by decide +kernel), by decide +kernel⟩⟩,
    ⟨tOp, 0, by decide +kernel⟩⟩

theorem witness_ConvWritesItsVector :
    (∃ (s : State) (u : State) (u2 : State) (p : Nat) (pos : Nat) (i : Nat) (n : Nat) (ws : List W64) (c : Ctl) (prm : OutPrm) (l : Grans) (lp : Grans) (errs : List MemErr) (v : View), MayIssue s p pos i ws kConv errs ∧ plainCtl c ∧ n = ef ws 3 63 40 ∧ v = viewF32 (ws.getD 2 0) ∧ ((s.updPart p fun q => markIssue q pos i).updPos pos fun q => { q with h := (countdown (fractionD (s.part p).stn.cfg) q.h).2 }).loadGrans p pos
      (v.allGrans (ef ws 3 39 24) (ef ws 3 23 8) 1 n) errs = (l, u) ∧ u.loadPrm p pos ws c errs = (prm, false, lp, u2) ∧ s.unitRoom p pos ws = true ∧ pos < 4096 ∧ ctlOf (ws.getD 7 0) = some c ∧ c.format = .fp32 ∧ c.layout = .dense ∧ eLidx ws = lidxNone ∧ (s.posn pos).blocks = [] ∧ (∀ e ∈ l, e.2.poison = false) ∧ denseAddr (eOut ws) (eOutVlen ws) (eOrow ws) (16 * eOcol ws + n) ≤ 2 ^ 20) ∧
    (∃ (s : State) (p : Nat) (pos : Nat) (i : Nat) (ws : List W64) (errs : List MemErr), MayIssue s p pos i ws kConv errs ∧ s.unitRoom p pos ws = false) :=
  ⟨⟨tConv, tConvLd.2, tConvPrm.2.2.2, 0, 0, 0, 33, tConvWs, (ctlOf tCtl).getD default, tConvPrm.1, tConvLd.1, tConvPrm.2.2.1, [], viewF32 (tConvWs.getD 2 0), ⟨by simp only [MayIssue]; decide +kernel, by simp only [plainCtl]; decide +kernel, rfl, rfl, rfl, rfl, by decide +kernel⟩⟩,
    ⟨tConv.updDev fun d => { d with heldUnits := [0] }, 0, 0, 0, tConvWs, [], ⟨by simp only [MayIssue]; decide +kernel, by decide +kernel⟩⟩⟩

theorem witness_VectorAndMergeEntriesWrite :
    (∃ (s : State) (u : State) (p : Nat) (pos : Nat) (i : Nat) (ws : List W64) (op : VecOp) (x : VecIn) (b : Nat → Nat) (errs : List MemErr), MayIssue s p pos i ws kVec errs ∧ (s.updPart p fun q => markIssue q pos i).vecLoad p pos ws op errs = (x, u) ∧ (∀ j, j < (vecShape op).2.2 → 256 * b j + 4 * vecCount ws ≤ 2 ^ 20 ∧ ∃ v, x.views[4 + j]? = some v ∧ v.d.base = b j ∧ v.d.vlen ≠ 0) ∧ (∀ j k, j < k → k < (vecShape op).2.2 → 256 * b j + 4 * vecCount ws ≤ 256 * b k ∨ 256 * b k + 4 * vecCount ws ≤ 256 * b j) ∧ s.unitRoom p pos ws = true ∧ pos < 4096 ∧ vecHeld (s.part p) ws = false ∧ vecOp ws = some op) ∧
    (∃ (s : State) (p : Nat) (pos : Nat) (i : Nat) (ws : List W64) (errs : List MemErr), MayIssue s p pos i ws kVec errs ∧ vecHeld (s.part p) ws = true ∧ (streamOf (s.part p) pos).heldUpd = false) ∧
    (∃ (s : State) (p : Nat) (pos : Nat) (i : Nat) (ws : List W64) (errs : List MemErr), MayIssue s p pos i ws kVec errs ∧ ((vecHeld (s.part p) ws = true ∧ (streamOf (s.part p) pos).heldUpd = true) ∨ (vecHeld (s.part p) ws = false ∧ s.unitRoom p pos ws = false))) ∧
    (∃ (s : State) (u : State) (p : Nat) (pos : Nat) (i : Nat) (ws : List W64) (gs : List Nat) (l : Grans) (m : TopMerge) (errs : List MemErr), MayIssue s p pos i ws kMerge errs ∧ (s.updPart p fun q => markIssue q pos i).loadGrans p pos gs errs = (l, u) ∧ m = topMerge (gs.map fun g => (granOf l (256 * g)).data) ∧ s.unitRoom p pos ws = true ∧ pos < 4096 ∧ gs = (List.range (ef ws 2 39 32)).map (ef ws 2 63 52 + ·)) ∧
    (∃ (s : State) (p : Nat) (pos : Nat) (i : Nat) (ws : List W64) (errs : List MemErr), MayIssue s p pos i ws kMerge errs ∧ s.unitRoom p pos ws = false) :=
  ⟨⟨tVec 1, (tVecLd .vadd 1).2, 0, 0, 0, tVecWs 1, .vadd, (tVecLd .vadd 1).1, fun _ => 512, [], ⟨by simp only [MayIssue]; decide +kernel, rfl, (fun j h => match j, h with | 0, _ => ⟨by decide +kernel, viewF32 (fields [at_ 63 52 512, at_ 37 34 10, at_ 10 0 1]), rfl, by decide +kernel, by decide +kernel⟩), fun j k h1 h2 => absurd (show k < 1 from h2) (by omega), by decide +kernel⟩⟩,
    ⟨tHeld, 0, 0, 0, tVecWs 0x10, [], ⟨by simp only [MayIssue]; decide +kernel, by decide +kernel⟩⟩,
    ⟨tHeld.tPart fun q => { q with streams := q.streams.map fun e => (e.1, { e.2 with heldUpd := true }) }, 0, 0, 0, tVecWs 0x10, [], ⟨by simp only [MayIssue]; decide +kernel, by decide +kernel⟩⟩,
    ⟨tMerge, tMergeLd.2, 0, 0, 0, tMergeWs, [8, 9], tMergeLd.1, topMerge ([8, 9].map fun g => (granOf tMergeLd.1 (256 * g)).data), [], ⟨by simp only [MayIssue]; decide +kernel, rfl, rfl, by decide +kernel⟩⟩,
    ⟨tMerge.updDev fun d => { d with heldUnits := [0] }, 0, 0, 0, tMergeWs, [], ⟨by simp only [MayIssue]; decide +kernel, by decide +kernel⟩⟩⟩

theorem witness_TransfersMoveOrSend :
    (∃ (s : State) (u : State) (p : Nat) (sid : Nat) (i : Nat) (ws : List W64) (x : Payload × Payload) (errs : List MemErr), MayIssue s p sid i ws kXfer errs ∧ s.served p sid ws = true ∧ s.xferOpening p ws = false ∧ ef ws 3 23 10 = 0x3FFF ∧ ((s.updPart p fun q => markIssue q sid i).chargePools p sid ws).xferRead p ws errs = (some x, u) ∧ u.reaches p (ef ws 3 63 24) x.1.1.length = true ∧ u.reaches p (ef ws 6 63 24) x.2.1.length = true) ∧
    (∃ (s : State) (u : State) (p : Nat) (sid : Nat) (i : Nat) (c : Nat) (ws : List W64) (x : Payload × Payload) (errs : List MemErr), MayIssue s p sid i ws kXfer errs ∧ s.served p sid ws = true ∧ s.xferOpening p ws = false ∧ c = ef ws 3 23 10 ∧ c ≠ 0x3FFF ∧ (s.conn c).st = 2 ∧ ef ws 2 23 0 ≠ 0 ∧ ((s.updPart p fun q => markIssue q sid i).chargePools p sid ws).xferRead p ws errs = (some x, u) ∧ x.1.1 ≠ []) ∧
    (∃ (s : State) (u : State) (p : Nat) (sid : Nat) (i : Nat) (c : Nat) (ws : List W64) (x : Payload × Payload) (errs : List MemErr), MayIssue s p sid i ws kXfer errs ∧ s.served p sid ws = true ∧ s.xferOpening p ws = false ∧ c = ef ws 3 23 10 ∧ c ≠ 0x3FFF ∧ (s.conn c).st = 2 ∧ ef ws 2 23 0 = 0 ∧ ef ws 4 63 42 ≠ relNone ∧ ((s.updPart p fun q => markIssue q sid i).chargePools p sid ws).xferRead p ws errs = (some x, u)) ∧
    (∃ (s : State) (u : State) (p : Nat) (sid : Nat) (i : Nat) (ws : List W64) (errs : List MemErr), MayIssue s p sid i ws kXfer errs ∧ s.served p sid ws = true ∧ s.xferOpening p ws = false ∧ (ef ws 3 23 10 = 0x3FFF ∨ (s.conn (ef ws 3 23 10)).st = 2) ∧ ((s.updPart p fun q => markIssue q sid i).chargePools p sid ws).xferRead p ws errs = (none, u) ∧ (u.part p).st ≠ .tearing) ∧
    (∃ (s : State) (u : State) (p : Nat) (sid : Nat) (i : Nat) (ws : List W64) (x : Payload × Payload) (errs : List MemErr), MayIssue s p sid i ws kXfer errs ∧ s.served p sid ws = true ∧ s.xferOpening p ws = false ∧ ef ws 3 23 10 = 0x3FFF ∧ ((s.updPart p fun q => markIssue q sid i).chargePools p sid ws).xferRead p ws errs = (some x, u) ∧ (u.reaches p (ef ws 3 63 24) x.1.1.length = false ∨ u.reaches p (ef ws 6 63 24) x.2.1.length = false) ∧ (u.part p).st ≠ .tearing) ∧
    (∃ (s : State) (p : Nat) (sid : Nat) (i : Nat) (ws : List W64) (errs : List MemErr), MayIssue s p sid i ws kXfer errs ∧ ((ef ws 3 23 10 ≠ 0x3FFF ∧ (s.conn (ef ws 3 23 10)).st ≠ 2) ∨ s.served p sid ws = false ∨ s.xferOpening p ws = true)) :=
  ⟨⟨tXfer 0x1000 1 0x3FFF, (tXferLd 0x1000 1 0x3FFF).2, 0, 0x1000, 0, tXferWs 0x1000 1 0x3FFF, (tXferLd 0x1000 1 0x3FFF).1.getD default, [], ⟨by simp only [MayIssue]; decide +kernel, by decide +kernel⟩⟩,
    ⟨tXfer 0x1000 1 5, (tXferLd 0x1000 1 5).2, 0, 0x1000, 0, 5, tXferWs 0x1000 1 5, (tXferLd 0x1000 1 5).1.getD default, [], ⟨by simp only [MayIssue]; decide +kernel, by decide +kernel⟩⟩,
    ⟨tXfer 0x1000 0 5, (tXferLd 0x1000 0 5).2, 0, 0x1000, 0, 5, tXferWs 0x1000 0 5, (tXferLd 0x1000 0 5).1.getD default, [], ⟨by simp only [MayIssue]; decide +kernel, by decide +kernel⟩⟩,
    ⟨tXfer 0x200000 1 5, (tXferLd 0x200000 1 5).2, 0, 0x1000, 0, tXferWs 0x200000 1 5, [], ⟨by simp only [MayIssue]; decide +kernel, by decide +kernel⟩⟩,
    ⟨tXferOut, tXferOutLd.2, 0, 0x1000, 0, tXferOutWs, tXferOutLd.1.getD default, [], ⟨by simp only [MayIssue]; decide +kernel, by decide +kernel⟩⟩,
    ⟨tXfer 0x1000 1 9, 0, 0x1000, 0, tXferWs 0x1000 1 9, [], ⟨by simp only [MayIssue]; decide +kernel, by decide +kernel⟩⟩⟩

theorem witness_ControlEntriesAndTheIssueRule :
    (∃ (s : State) (p : Nat) (sid : Nat) (i : Nat) (ws : List W64) (errs : List MemErr), MayIssue s p sid i ws kWait errs) ∧
    (∃ (s : State) (p : Nat) (sid : Nat) (i : Nat) (ws : List W64) (errs : List MemErr), MayIssue s p sid i ws kReserve errs) ∧
    (∃ (s : State) (p : Nat) (sid : Nat) (i : Nat) (ws : List W64) (errs : List MemErr), MayIssue s p sid i ws kLayer errs ∧ (∀ l ∈ (s.part p).layers, l.lidx ≠ ef ws 2 15 4) ∧ redoOf (s.part p) sid = none) ∧
    (∃ (s : State) (p : Nat) (sid : Nat) (i : Nat) (ws : List W64) (l : Layer) (errs : List MemErr), MayIssue s p sid i ws kLayer errs ∧ (s.part p).layers = [l] ∧ l.lidx = ef ws 2 15 4 ∧ redoOf (s.part p) sid = none) ∧
    (∃ (s : State) (p : Nat) (sid : Nat) (i : Nat) (ws : List W64) (errs : List MemErr), MayIssue s p sid i ws kStepEnd errs ∧ redoOf (s.part p) sid = none) ∧
    (∃ (s : State) (p : Nat) (sid : Nat) (i : Nat) (kind : Nat) (ws : List W64) (errs : List MemErr), HeldBack s p sid i ws kind errs) :=
  ⟨⟨tRun 0 (tWords kWait), 0, 0, 0, tWords kWait, [], by simp only [MayIssue]; decide +kernel⟩,
    ⟨tRun 0x1000 (tWords kReserve), 0, 0x1000, 0, tWords kReserve, [], by simp only [MayIssue]; decide +kernel⟩,
    ⟨tRun 0 tLayerWs, 0, 0, 0, tLayerWs, [], ⟨by simp only [MayIssue]; decide +kernel, by decide +kernel⟩⟩,
    ⟨(tRun 0 tLayerWs).tLayers { Layer.reset with lidx := 3, npos := 2, streams := [⟨1, 1, none, false⟩] }, 0, 0, 0, tLayerWs, { Layer.reset with lidx := 3, npos := 2, streams := [⟨1, 1, none, false⟩] }, [], ⟨by simp only [MayIssue]; decide +kernel, by decide +kernel⟩⟩,
    ⟨(tRun 0 (tWords kStepEnd)).tPart fun q => { q with streams := [(0, { (streamOf q 0) with tokens := [(6, 2), (7, 4)] })] }, 0, 0, 0, tWords kStepEnd, [], ⟨by simp only [MayIssue]; decide +kernel, by decide +kernel⟩⟩,
    ⟨tTimeout 2048, 0, 0x1000, 0, kWait, tWaitWs, [], by simp only [HeldBack]; decide +kernel⟩⟩

theorem witness_LayersCloseAndStepsEnd :
    (∃ (s : State) (p : Nat) (lidx : Nat) (l : Layer), s.operational = true ∧ layerOf (s.part p) lidx = some l ∧ l.waiting = false ∧ l.npos ≤ (l.streams.filter (·.closed)).length ∧ (s.part p).stn.st = 1 ∧ l.lost = false ∧ (l.ovf = false ∨ atCeiling (s.slot l.slot) = true) ∧ l.ceilRaised = false) ∧
    (∃ (s : State) (p : Nat) (lidx : Nat) (l : Layer), s.operational = true ∧ layerOf (s.part p) lidx = some l ∧ l.waiting = false ∧ l.npos ≤ (l.streams.filter (·.closed)).length ∧ (s.part p).stn.st = 1 ∧ l.lost = false ∧ l.ovf = true ∧ atCeiling (s.slot l.slot) = true ∧ l.ceilRaised = true) ∧
    (∃ (s : State) (p : Nat) (lidx : Nat) (l : Layer) (up : Bool), s.operational = true ∧ layerOf (s.part p) lidx = some l ∧ l.waiting = false ∧ l.npos ≤ (l.streams.filter (·.closed)).length ∧ (s.part p).stn.st = 1 ∧ up = (l.ovf && !atCeiling (s.slot l.slot)) ∧ (l.lost = true ∨ up = true)) ∧
    (∃ (s : State) (p : Nat) (lidx : Nat) (l : Layer), layerOf (s.part p) lidx = some l ∧ (l.waiting = true ∨ (l.streams.filter (·.closed)).length < l.npos)) ∧
    (∃ (s : State) (p : Nat) (lidx : Nat) (l : Layer), s.operational = true ∧ layerOf (s.part p) lidx = some l ∧ l.waiting = true ∧ (s.part p).stn.st = 1 ∧ (∀ x ∈ l.streams, 1024000 ≤ s.since l.closedAt * s.clusterMhz (x.stream / 16))) ∧
    (∃ (s : State) (p : Nat) (lidx : Nat) (l : Layer), layerOf (s.part p) lidx = some l ∧ (∃ x ∈ l.streams, s.since l.closedAt * s.clusterMhz (x.stream / 16) < 1024000)) ∧
    (∃ (s : State) (p : Nat), s.operational = true ∧ s.boundaryReady p = true) ∧
    (∃ (s : State) (p : Nat), s.boundaryReady p = false) ∧
    (∃ (s : State) (p : Nat) (l : Layer), l ∈ (s.part p).layers) ∧
    (∃ (s : State) (p : Nat) (sid : Nat) (i : Nat) (ws : List W64) (h : Sched) (errs : List MemErr), s.operational = true ∧ mayIssue (s.part p) sid = true ∧ (streamOf (s.part p) sid).timedOut = false ∧ s.nextEntry p sid errs = (some (i, ws), s) ∧ (s.part p).sched = some h ∧ planned (s.part p) (s.part p).step (eRound ws) + (h.waitLimit : Int) ≤ s.roundNow (s.part p) ∧ waitsMet (s.part p) sid ws = false) ∧
    (∃ (s : State) (p : Nat) (sid : Nat), (streamOf (s.part p) sid).timedOut = true) ∧
    (∃ (s : State) (p : Nat) (sid : Nat) (i : Nat) (ws : List W64) (h : Sched) (errs : List MemErr), mayIssue (s.part p) sid = true ∧ s.nextEntry p sid errs = (some (i, ws), s) ∧ (s.part p).sched = some h ∧ s.roundNow (s.part p) < planned (s.part p) (s.part p).step (eRound ws) + (h.waitLimit : Int)) :=
  ⟨⟨tEnded.tLayers { tClosed with rels := [512 * 1 + 3] }, 0, 3, { tClosed with rels := [512 * 1 + 3] }, by decide +kernel⟩,
    ⟨tEnded.tLayers { tClosed with ovf := true, ceilRaised := true }, 0, 3, { tClosed with ovf := true, ceilRaised := true }, by decide +kernel⟩,
    ⟨tEnded.tLayers { tClosed with lost := true }, 0, 3, { tClosed with lost := true }, false, by decide +kernel⟩,
    ⟨tEnded.tLayers tLayer, 0, 3, tLayer, by decide +kernel⟩,
    ⟨(tEnded.tLayers { tClosed with waiting := true }).tClock 512, 0, 3, { tClosed with waiting := true }, by decide +kernel⟩,
    ⟨(tEnded.tLayers { tClosed with waiting := true }).tClock 511, 0, 3, { tClosed with waiting := true }, by decide +kernel⟩,
    ⟨tEnded, 0, by decide +kernel⟩,
    ⟨tRun 0x1000 (tWords kWait), 0, by decide +kernel⟩,
    ⟨tEnded.tLayers tClosed, 0, tClosed, by decide +kernel⟩,
    ⟨tTimeout 2048, 0, 0x1000, 0, tWaitWs, tSched, [], by decide +kernel⟩,
    ⟨(tTimeout 2048).tPart fun q => { q with streams := q.streams.map fun e => (e.1, { e.2 with timedOut := true }) }, 0, 0x1000, by decide +kernel⟩,
    ⟨tTimeout 2047, 0, 0x1000, 0, tWaitWs, tSched, [], by decide +kernel⟩⟩

theorem witness_CollectivesStepAndPull :
    (∃ (s : State) (u : State) (p : Nat) (sid : Nat) (i : Nat) (d : Nat) (ws : List W64) (k : CollCtx) (l : Marked) (errs : List MemErr), MayIssue s p sid i ws kColl errs ∧ s.served p sid ws = true ∧ collCtx (s.part p) ws = some k ∧ s.collOpening p k ws = false ∧ k.cid ≠ carrierCid (s.part p) ∧ k.mv.dest = some d ∧ (s.conn (k.conn d)).st = 2 ∧ k.mv.src = none ∧ k.exact = false ∧ k.regroup = none ∧ cCid ws ≠ carrierCid (s.part p) ∧ (s.part p).collIn = [] ∧ (s.part p).collAsk = [] ∧ (s.part p).colls = [] ∧ ((s.updPart p fun q => markIssue q sid i).chargePools p sid ws).readMarked p (ef ws 3 63 24) (256 * ef ws 3 23 0) errs = (some l, u) ∧ u.parts = ((s.updPart p fun q => markIssue q sid i).chargePools p sid ws).parts ∧ u.net = s.net) ∧
    (∃ (s : State) (u : State) (p : Nat) (sid : Nat) (i : Nat) (d : Nat) (m : Nat) (ws : List W64) (k : CollCtx) (pkts : List Pkt) (errs : List MemErr), MayIssue s p sid i ws kColl errs ∧ s.served p sid ws = true ∧ collCtx (s.part p) ws = some k ∧ s.collOpening p k ws = false ∧ k.cid ≠ carrierCid (s.part p) ∧ cCid ws ≠ carrierCid (s.part p) ∧ k.mv.dest = some d ∧ (s.conn (k.conn d)).st = 2 ∧ k.mv.src ≠ none ∧ k.exact = true ∧ k.mv.recv.1 < k.mv.recv.2 ∧ k.own ≠ k.want ∧ (s.part p).collIn = [] ∧ (s.part p).collAsk = [] ∧ (s.part p).colls = [] ∧ (((s.updPart p fun q => markIssue q sid i).chargePools p sid ws).encodeSpan k (s.part p).step k.mv.send.1 k.mv.send.2
        k.sent (attemptOf (s.part p) (s.part p).step) (provStep (s.part p) (s.part p).step)
        fun v seg => v.segStates p (collCol sid) k
          (if !k.mv.combine ∨ (k.resAt (s.part p) (s.part p).step k.mv.send.1).isSome then 2 else k.form) (ef ws 3 63 24) (seg - k.mv.send.1) seg errs)
      = (some (pkts, m), u) ∧ u.parts = ((s.updPart p fun q => markIssue q sid i).chargePools p sid ws).parts ∧ u.net = s.net) ∧
    (∃ (s : State) (p : Nat) (sid : Nat) (i : Nat) (d : Nat) (ws : List W64) (k : CollCtx) (errs : List MemErr), MayIssue s p sid i ws kColl errs ∧ collCtx (s.part p) ws = some k ∧ ((k.mv.dest = some d ∧ (s.conn (k.conn d)).st ≠ 2) ∨ collHeld (s.part p) ws = true ∨ s.served p sid ws = false ∨ s.collOpening p k ws = true)) ∧
    (∃ (s : State) (u : State) (p : Nat) (sid : Nat) (i : Nat) (d : Nat) (ws : List W64) (k : CollCtx) (errs : List MemErr), MayIssue s p sid i ws kColl errs ∧ s.served p sid ws = true ∧ collCtx (s.part p) ws = some k ∧ s.collOpening p k ws = false ∧ k.cid ≠ carrierCid (s.part p) ∧ cCid ws ≠ carrierCid (s.part p) ∧ k.mv.dest = some d ∧ (s.conn (k.conn d)).st = 2 ∧ k.exact = false ∧ k.regroup = none ∧ (s.part p).st ≠ .tearing ∧ ((s.updPart p fun q => markIssue q sid i).chargePools p sid ws).readMarked p (ef ws 3 63 24) (256 * ef ws 3 23 0) errs = (none, u)) ∧
    (∃ (s : State) (p : Nat) (seg : Nat) (run : CollRun) (k : CollCtx) (missing : List Nat), missing = ((bitsOf k.g (k.want - k.union run seg)).filter fun r => !run.pulled.contains (seg, r) && decide ((s.conn (k.conn r)).st = 2)) ∧ s.operational = true ∧ s.net.opid < 65536 ∧ (s.part p).colls = [run] ∧ collCtx (s.part p) run.words = some k ∧ run.done = false ∧ k.inpath = true ∧ k.exact = true ∧ seg < k.mv.recv.2 - k.mv.recv.1 ∧ run.due + (iHold k.b k.st : Int) ≤ s.roundNow (s.part p) ∧ k.union run seg ≠ k.want) ∧
    (∃ (s : State) (p : Nat), (∀ x ∈ (s.part p).colls, x.done = true)) :=
  ⟨⟨tCollRun 1 true 1, (tCollLd 1 true 1).2, 0, 0x1010, 0, 1, tCollWords true 1, tCtx 1 true 1, (tCollLd 1 true 1).1.getD default, [], ⟨by simp only [MayIssue]; decide +kernel, by decide +kernel⟩⟩,
    ⟨tCollRun 2 false 0, tEncode.2, 0, 0x1010, 0, 1, (tEncode.1.getD default).2, tCollWords false 0, tCtx 2 false 0, (tEncode.1.getD default).1, [], ⟨by simp only [MayIssue]; decide +kernel, by decide +kernel⟩⟩,
    ⟨{ tCollRun 1 true 1 with net := { tOp.net with conns := [] } }, 0, 0x1010, 0, 1, tCollWords true 1, tCtx 1 true 1, [], ⟨by simp only [MayIssue]; decide +kernel, by decide +kernel⟩⟩,
    ⟨tFar, (tFarIssued.readMarked 0 0x200000 256 []).2, 0, 0x1010, 0, 1, tFarWs, tCtx 1 true 1, [], ⟨by simp only [MayIssue]; decide +kernel, by decide +kernel⟩⟩,
    ⟨tPull, 0, 0, tInpath, ctxOf (tInst 3 128 2048 tCtl) 0 0 false, [1], ⟨rfl, by decide +kernel⟩⟩,
    ⟨tOp, 0, by decide +kernel⟩⟩

theorem witness_LaneChecksComplete :
    (∃ (s : State) (cl : Nat) (ch : Check) (rest : List Check), s.operational = true ∧ (s.cluster cl).queue = ch :: rest ∧ (s.cluster cl).laneFailed = false ∧ ch.skip = false ∧ ch.fail = none) ∧
    (∃ (s : State) (cl : Nat) (ch : Check) (rest : List Check), s.operational = true ∧ (s.cluster cl).queue = ch :: rest ∧ ((s.cluster cl).laneFailed = true ∨ ch.skip = true)) ∧
    (∃ (s : State) (cl : Nat) (kind : Nat) (out : Nat) (ch : Check) (rest : List Check) (w : W64), w = lastFailWord (ch.entry % 2 ^ 32) ch.step ch.pos (s.physSlot ch.pos) kind out 0 ∧ s.operational = true ∧ (s.cluster cl).queue = ch :: rest ∧ (s.cluster cl).laneFailed = false ∧ ch.skip = false ∧ ch.fail = some (kind, out)) ∧
    (∃ (s : State) (cl : Nat) (kind : Nat) (out : Nat) (ch : Check) (rest : List Check) (w : W64), w = lastFailWord (ch.entry % 2 ^ 32) ch.step ch.pos (s.physSlot ch.pos) 6 0 0 ∧ s.operational = true ∧ (s.cluster cl).queue = ch :: rest ∧ (s.cluster cl).laneFailed = false ∧ ch.skip = false ∧ ch.fail = some (kind, out)) ∧
    (∃ (s : State) (cl : Nat), (s.cluster cl).queue = []) :=
  ⟨⟨tLane (tCheck false false none) false, 0, tCheck false false none, [tCheck true false none], by decide +kernel⟩,
    ⟨tLane (tCheck false true none) false, 0, tCheck false true none, [tCheck true false none], by decide +kernel⟩,
    ⟨tLane (tCheck false false (some (5, 63))) false, 0, 5, 63, tCheck false false (some (5, 63)), [tCheck true false none], lastFailWord (3 % 2 ^ 32) 5 0 0 5 63 0, ⟨rfl, by decide +kernel⟩⟩,
    ⟨tLane (tCheck false false (some (1, 0))) false, 0, 1, 0, tCheck false false (some (1, 0)), [tCheck true false none], lastFailWord (3 % 2 ^ 32) 5 0 0 6 0 0, ⟨rfl, by decide +kernel⟩⟩,
    ⟨tOp, 255, by decide +kernel⟩⟩

theorem witness_VerdictsCommitOrRetract :
    (∃ (s : State) (p : Nat) (n : Nat) (v : Nat), v = s.verdictFlags p n ∧ s.operational = true ∧ ((s.part p).stn.st = 1 ∨ (s.part p).stn.st = 2) ∧ (s.part p).stn.retracted = none ∧ oldestStep (s.part p) = n ∧ n ≤ (s.part p).step ∧ verdictOf (s.part p) n = none ∧ s.stepSettled p n = true ∧ s.checksDone p n = true ∧ v % 2 = 0 ∧ finalStep (s.part p) n = false) ∧
    (∃ (s : State) (p : Nat) (n : Nat) (v : Nat) (c : Nat), v = s.verdictFlags p n ∧ s.operational = true ∧ ((s.part p).stn.st = 1 ∨ (s.part p).stn.st = 2) ∧ (s.part p).stn.retracted = none ∧ oldestStep (s.part p) = n ∧ n ≤ (s.part p).step ∧ verdictOf (s.part p) n = none ∧ s.stepSettled p n = true ∧ s.checksDone p n = true ∧ v % 2 = 1 ∧ finalStep (s.part p) n = false ∧ slipParent (s.part p) = some c ∧ (s.conn c).st = 2 ∧ (s.part p).stn.exhausted = false) ∧
    (∃ (s : State) (p : Nat) (n : Nat) (v : Nat), v = s.verdictFlags p n ∧ s.operational = true ∧ ((s.part p).stn.st = 1 ∨ (s.part p).stn.st = 2) ∧ (s.part p).stn.retracted = none ∧ oldestStep (s.part p) = n ∧ n ≤ (s.part p).step ∧ verdictOf (s.part p) n = none ∧ s.stepSettled p n = true ∧ s.checksDone p n = true ∧ v % 2 = 1 ∧ slipParent (s.part p) = none ∧ (s.part p).stn.exhausted = false ∧ (s.part p).stn.handover = false ∧ attemptOf (s.part p) n < 3) ∧
    (∃ (s : State) (p : Nat) (n : Nat), oldestStep (s.part p) = n ∧ n ≤ (s.part p).step ∧ verdictOf (s.part p) n = none ∧ (s.stepSettled p n = false ∨ s.checksDone p n = false)) ∧
    (∃ (s : State) (p : Nat) (n : Nat) (own : Nat), s.operational = true ∧ (s.part p).stn.st = 1 ∧ oldestStep (s.part p) = n ∧ (s.part p).step = n + 1 ∧ verdictOf (s.part p) n = some own ∧ (∀ x ∈ (s.part p).colls, x.done = true) ∧ (∀ c ∈ partCols (s.part p), s.carrierAhead p (0x1010 + c) = false) ∧ (own ||| Table.get 0 (s.part p).stn.votes n) % 2 = 0 ∧ finalStep (s.part p) n = false ∧ finalStep (s.part p) (n + 1) = false ∧ fld (s.part p).stn.cfg 43 12 = 0 ∧ bit (s.part p).stn.cfg 60 = false) ∧
    (∃ (s : State) (p : Nat) (n : Nat) (own : Nat), oldestStep (s.part p) = n ∧ verdictOf (s.part p) n = some own ∧ (own ||| Table.get 0 (s.part p).stn.votes n) % 2 = 1) :=
  ⟨⟨tEnded, 0, 0, 4, ⟨rfl, by decide +kernel⟩⟩,
    ⟨(tEnded.tStn fun x => { x with failing := [(0, 7)] }).tTree 5 [], 0, 0, 5, 5, ⟨rfl, by decide +kernel⟩⟩,
    ⟨tEnded.tStn fun x => { x with failing := [(0, 7)] }, 0, 0, 5, ⟨rfl, by decide +kernel⟩⟩,
    ⟨tRun 0x1000 (tWords kWait), 0, 0, by decide +kernel⟩,
    ⟨(tEnded.tStn fun x => { x with verdicts := [(0, some 4)] }).tPart fun q => { q with step := 1 }, 0, 0, 4, by decide +kernel⟩,
    ⟨(tEnded.tStn fun x => { x with verdicts := [(0, some 5)] }).tPart fun q => { q with step := 1 }, 0, 0, 5, by decide +kernel⟩⟩

theorem witness_QuiescenceResumesOrHandsOver :
    (∃ (s : State) (p : Nat) (r : Nat) (c : Nat), s.operational = true ∧ (s.part p).stn.retracted = some r ∧ (s.part p).stn.st = 2 ∧ s.mayQuiesce p r = true ∧ (∀ k ∈ slipChildren (s.part p), k ∈ (s.part p).stn.quiesced) ∧ (∀ e ∈ (s.part p).stn.failing, e.1 < r ∨ 4096 ≤ e.2) ∧ slipParent (s.part p) = some c ∧ (s.conn c).st = 2 ∧ (s.part p).stn.handover = false) ∧
    (∃ (s : State) (p : Nat) (r : Nat), s.operational = true ∧ (s.part p).stn.retracted = some r ∧ (s.part p).stn.st = 2 ∧ s.mayQuiesce p r = true ∧ (∀ k ∈ slipChildren (s.part p), k ∈ (s.part p).stn.quiesced) ∧ (∀ e ∈ (s.part p).stn.failing, e.1 < r ∨ 4096 ≤ e.2) ∧ slipParent (s.part p) = none ∧ (s.part p).stn.handover = false) ∧
    (∃ (s : State) (p : Nat) (r : Nat), s.operational = true ∧ (s.part p).stn.retracted = some r ∧ (s.part p).stn.st = 2 ∧ s.mayQuiesce p r = true ∧ (∀ k ∈ slipChildren (s.part p), k ∈ (s.part p).stn.quiesced) ∧ (∀ e ∈ (s.part p).stn.failing, e.1 < r ∨ 4096 ≤ e.2) ∧ (s.part p).stn.handover = true) ∧
    (∃ (s : State) (p : Nat) (r : Nat) (pos : Nat), s.operational = true ∧ (s.part p).stn.retracted = some r ∧ (s.part p).stn.st = 2 ∧ s.mayQuiesce p r = true ∧ (∀ k ∈ slipChildren (s.part p), k ∈ (s.part p).stn.quiesced) ∧ (s.part p).stn.failing = [(r, pos)] ∧ pos < 4096 ∧ 1 ≤ (s.posn pos).fails ∧ s.spareFree (pos / 16) = true ∧ Memory.wf s.mem) ∧
    (∃ (s : State) (p : Nat) (r : Nat), (s.part p).stn.retracted = some r ∧ s.mayQuiesce p r = false) :=
  ⟨⟨tRetract 5, 0, 0, 5, by decide +kernel⟩,
    ⟨tRetract 0x3FFF, 0, 0, by decide +kernel⟩,
    ⟨(tRetract 5).tStn fun x => { x with handover := true }, 0, 0, by decide +kernel⟩,
    ⟨((tRetract 5).tStn fun x => { x with failing := [(0, 3)] }).updPos 3 fun x => { x with fails := 1 }, 0, 0, 3, by decide +kernel⟩,
    ⟨(tRetract 5).updPos 0 fun x => { x with waiting := [default] }, 0, 0, by decide +kernel⟩⟩

theorem witness_SlipsAndAbortsAct :
    (∃ (s : State) (rx : Rx) (p : Pkt) (c : Nat) (q : Nat) (m : Nat) (d : Nat), Message s rx p c q opSlip ∧ m = leAt p.ctl 0 8 ∧ ((s.part q).schSt = 2 ∨ (s.part q).schSt = 3) ∧ c ∈ treeConns (s.part q) ∧ d = leAt p.ctl 8 4 ∧ (s.part q).step < m) ∧
    (∃ (s : State) (rx : Rx) (p : Pkt) (c : Nat) (q : Nat) (m : Nat) (d : Nat) (had : Nat), Message s rx p c q opSlip ∧ m = leAt p.ctl 0 8 ∧ ((s.part q).schSt = 2 ∨ (s.part q).schSt = 3) ∧ c ∈ treeConns (s.part q) ∧ d = leAt p.ctl 8 4 ∧ m ≤ (s.part q).step ∧ had = Table.get 0 (s.part q).slipApplied m) ∧
    (∃ (s : State) (rx : Rx) (p : Pkt) (c : Nat) (q : Nat), Message s rx p c q opSlip ∧ c ∉ treeConns (s.part q)) ∧
    (∃ (s : State) (rx : Rx) (p : Pkt) (c : Nat) (q : Nat) (h : Sched), Message s rx p c q opAbort ∧ (s.part q).sched = some h ∧ h.jobId = leAt p.ctl 0 8 ∧ (s.part q).abortedJob ≠ some h.jobId ∧ (s.part q).st = .running ∧ ((s.part q).schSt = 2 ∨ (s.part q).schSt = 3)) ∧
    (∃ (s : State) (rx : Rx) (p : Pkt) (c : Nat) (q : Nat), Message s rx p c q opAbort ∧ (s.part q).sched.map (·.jobId) ≠ some (leAt p.ctl 0 8)) :=
  ⟨⟨tEnded.tTree 5 [], tRx (tSlip 1), tSlip 1, 5, 0, 1, 7, ⟨by simp only [Message, InOrder, OnOpen, Arrives]; decide +kernel, rfl, by decide +kernel⟩⟩,
    ⟨tEnded.tTree 5 [], tRx (tSlip 0), tSlip 0, 5, 0, 0, 7, 0, ⟨by simp only [Message, InOrder, OnOpen, Arrives]; decide +kernel, rfl, by decide +kernel⟩⟩,
    ⟨tEnded, tRx (tSlip 1), tSlip 1, 5, 0, ⟨by simp only [Message, InOrder, OnOpen, Arrives]; decide +kernel, by decide +kernel⟩⟩,
    ⟨tEnded, tRx (tAbort 9), tAbort 9, 5, 0, tSched, ⟨by simp only [Message, InOrder, OnOpen, Arrives]; decide +kernel, by decide +kernel⟩⟩,
    ⟨tEnded, tRx (tAbort 10), tAbort 10, 5, 0, ⟨by simp only [Message, InOrder, OnOpen, Arrives]; decide +kernel, by decide +kernel⟩⟩⟩

theorem witness_VotesDecisionsAndOrders :
    (∃ (s : State) (rx : Rx) (p : Pkt) (c : Nat) (q : Nat) (n : Nat) (att : Nat) (flags : Nat) (stage : Nat) (member : Nat) (stepno : Nat), Message s rx p c q opVerdict ∧ LiveStep (s.part q) n att ∧ p.ctl = verdictBytes n 1 att flags stage member (carrierCid (s.part q)) stepno 0 0 ∧ flags < 8) ∧
    (∃ (s : State) (rx : Rx) (p : Pkt) (c : Nat) (q : Nat) (n : Nat) (att : Nat) (flags : Nat) (member : Nat) (k : Nat), Message s rx p c q opVerdict ∧ LiveStep (s.part q) n att ∧ p.ctl = verdictBytes n 2 att flags 0 member 0 0 0 0 ∧ flags < 8 ∧ finalStep (s.part q) n = true ∧ c ∈ slipChildren (s.part q) ∧ k ∈ slipChildren (s.part q) ∧ k ≠ c ∧ (∀ v ∈ (s.part q).stn.treeVotes, v.1 ≠ k)) ∧
    (∃ (s : State) (rx : Rx) (p : Pkt) (c : Nat) (q : Nat) (n : Nat) (att : Nat) (flags : Nat) (member : Nat), Message s rx p c q opVerdict ∧ LiveStep (s.part q) n att ∧ p.ctl = verdictBytes n 3 att flags 0 member 0 0 0 0 ∧ flags < 8 ∧ flags % 2 = 0 ∧ finalStep (s.part q) n = true ∧ slipParent (s.part q) = some c ∧ (s.part q).st = .running ∧ fld (s.part q).stn.cfg 43 12 = 0 ∧ bit (s.part q).stn.cfg 60 = false) ∧
    (∃ (s : State) (rx : Rx) (p : Pkt) (c : Nat) (q : Nat) (n : Nat) (att : Nat) (flags : Nat) (member : Nat) (pos : Nat) (up : Nat), Message s rx p c q opVerdict ∧ p.ctl = verdictBytes n 4 att flags 0 member 0 0 0 pos ∧ flags < 16 ∧ n < 2 ^ 64 ∧ att < 256 ∧ (s.part q).stn.st ≠ 0 ∧ c ∈ slipChildren (s.part q) ∧ (n, 16 * att + flags / 8) ∉ (s.part q).stn.passed ∧ slipParent (s.part q) = some up ∧ up ≠ c ∧ (s.conn up).st = 2) ∧
    (∃ (s : State) (rx : Rx) (p : Pkt) (c : Nat) (q : Nat) (kind : Nat) (t' : State), Message s rx p c q opVerdict ∧ leAt p.ctl 8 1 = kind ∧ (s.part q).stn.st = 0 ∧ t' = (s.updStn q fun x => { x with drops := inc x.drops })) ∧
    (∃ (s : State) (rx : Rx) (p : Pkt) (c : Nat) (q : Nat) (n : Nat) (att : Nat) (member : Nat) (rseq : Nat), Message s rx p c q opVerdict ∧ LiveStep (s.part q) n att ∧ p.ctl = verdictBytes n 5 att 0 0 member 0 0 rseq 0 ∧ slipParent (s.part q) = some c ∧ rseq = ((s.part q).stn.rseq + 1) % 65536 ∧ (s.part q).stn.retracted = none) ∧
    (∃ (s : State) (rx : Rx) (p : Pkt) (c : Nat) (q : Nat) (n : Nat) (att : Nat) (member : Nat) (rseq : Nat), Message s rx p c q opVerdict ∧ LiveStep (s.part q) n att ∧ p.ctl = verdictBytes n 8 att 0 0 member 0 0 rseq 0 ∧ slipParent (s.part q) = some c ∧ rseq = ((s.part q).stn.rseq + 1) % 65536 ∧ (s.part q).stn.retracted = none) ∧
    (∃ (s : State) (rx : Rx) (p : Pkt) (c : Nat) (q : Nat) (n : Nat) (att : Nat) (member : Nat) (r : Nat), Message s rx p c q opVerdict ∧ p.ctl = verdictBytes n 6 att 0 0 member 0 0 (s.part q).stn.rseq 0 ∧ (s.part q).stn.rseq < 65536 ∧ (s.part q).stn.st ≠ 0 ∧ c ∈ slipChildren (s.part q) ∧ (s.part q).stn.retracted = some r ∧ c ∉ (s.part q).stn.quiesced) ∧
    (∃ (s : State) (rx : Rx) (p : Pkt) (c : Nat) (q : Nat) (n : Nat) (att : Nat) (member : Nat) (r : Nat), Message s rx p c q opVerdict ∧ p.ctl = verdictBytes n 7 att 0 0 member 0 0 (s.part q).stn.rseq 0 ∧ (s.part q).stn.rseq < 65536 ∧ (s.part q).stn.st = 3 ∧ slipParent (s.part q) = some c ∧ (s.part q).stn.retracted = some r) ∧
    (∃ (s : State) (rx : Rx), s.arrives rx = false) :=
  ⟨⟨tEnded, tRx (tV 0 1 0), tV 0 1 0, 5, 0, 0, 0, 2, 0, 3, 0, ⟨by simp only [Message, InOrder, OnOpen, Arrives]; decide +kernel, by simp only [LiveStep]; decide +kernel, by decide +kernel⟩⟩,
    ⟨tEnded.tTree 0x3FFF [5, 8], tRx (tV 9 2 0), tV 9 2 0, 5, 0, 9, 0, 2, 3, 8, ⟨by simp only [Message, InOrder, OnOpen, Arrives]; decide +kernel, by simp only [LiveStep]; decide +kernel, by decide +kernel⟩⟩,
    ⟨tEnded.tTree 5 [], tRx (tV 9 3 0), tV 9 3 0, 5, 0, 9, 0, 2, 3, ⟨by simp only [Message, InOrder, OnOpen, Arrives]; decide +kernel, by simp only [LiveStep]; decide +kernel, by decide +kernel⟩⟩,
    ⟨tEnded.tTree 8 [5], tRx (tV 0 4 0), tV 0 4 0, 5, 0, 0, 0, 2, 3, 0, 8, ⟨by simp only [Message, InOrder, OnOpen, Arrives]; decide +kernel, by decide +kernel⟩⟩,
    ⟨tOp, tRx (tV 0 8 0), tV 0 8 0, 5, 0, 8, tOp.updStn 0 fun x => { x with drops := inc x.drops }, ⟨by simp only [Message, InOrder, OnOpen, Arrives]; decide +kernel, by decide +kernel⟩⟩,
    ⟨tEnded.tTree 5 [], tRx (tVo 0 5 1), tVo 0 5 1, 5, 0, 0, 0, 3, 1, ⟨by simp only [Message, InOrder, OnOpen, Arrives]; decide +kernel, by simp only [LiveStep]; decide +kernel, by decide +kernel⟩⟩,
    ⟨tEnded.tTree 5 [], tRx (tVo 0 8 1), tVo 0 8 1, 5, 0, 0, 0, 3, 1, ⟨by simp only [Message, InOrder, OnOpen, Arrives]; decide +kernel, by simp only [LiveStep]; decide +kernel, by decide +kernel⟩⟩,
    ⟨(tRetract 8).tTree 8 [5], tRx (tVo 0 6 0), tVo 0 6 0, 5, 0, 0, 0, 3, 0, ⟨by simp only [Message, InOrder, OnOpen, Arrives]; decide +kernel, by decide +kernel⟩⟩,
    ⟨(tRetract 5).tStn fun x => { x with st := 3 }, tRx (tVo 0 7 0), tVo 0 7 0, 5, 0, 0, 0, 3, 0, ⟨by simp only [Message, InOrder, OnOpen, Arrives]; decide +kernel, by decide +kernel⟩⟩,
    ⟨State.reset, tRx (tSlip 0), by decide +kernel⟩⟩

theorem witness_WritesAndTokensArrive :
    (∃ (s : State) (rx : Rx) (p : Pkt) (c : Nat) (q : Nat) (a : Nat) (r : Region) (g : Gran), DataIn s rx p c q opWrite ∧ GranAt s c q (pktAddr p) true r a ∧ RegionFits r ∧ p.grans = [g] ∧ s.sprayNow c ≠ []) ∧
    (∃ (s : State) (rx : Rx) (p : Pkt) (c : Nat) (q : Nat) (g : Gran), DataIn s rx p c q opWrite ∧ p.grans = [g] ∧ s.sprayNow c ≠ [] ∧ s.place q (pktAddr p) = none) ∧
    (∃ (s : State) (rx : Rx) (p : Pkt) (c : Nat) (st : Nat), InOrder s rx p c ∧ (p.op = opWrite ∨ p.op = opToken) ∧ s.opGate c p = st ∧ st ≠ 0 ∧ s.dmaOf c = Dma.reset ∧ s.sprayNow c ≠ []) ∧
    (∃ (s : State) (rx : Rx) (p : Pkt) (c : Nat) (q : Nat), DataIn s rx p c q opToken ∧ s.sprayNow c ≠ [] ∧ nfld p.w3 31 10 ≠ relNone) :=
  ⟨⟨tMem, tRx (tWrite 5 0x1000), tWrite 5 0x1000, 5, 0, 0x1000, tRgn, tGran, ⟨tDataIn _ _ _ _ _ _ (by simp only [InOrder, OnOpen, Arrives]; decide +kernel) (by decide +kernel) rfl (by decide +kernel), ⟨0, by decide +kernel, by decide +kernel⟩, by simp only [RegionFits]; decide +kernel, by decide +kernel⟩⟩,
    ⟨tMem, tRx (tWrite 5 0x200000), tWrite 5 0x200000, 5, 0, tGran, ⟨tDataIn _ _ _ _ _ _ (by simp only [InOrder, OnOpen, Arrives]; decide +kernel) (by decide +kernel) rfl (by decide +kernel), by decide +kernel⟩⟩,
    ⟨tMem, tRx (tWrite 5 1), tWrite 5 1, 5, 2, ⟨by simp only [InOrder, OnOpen, Arrives]; decide +kernel, by decide +kernel⟩⟩,
    ⟨tMem, tRx tToken, tToken, 5, 0, ⟨tDataIn _ _ _ _ _ _ (by simp only [InOrder, OnOpen, Arrives]; decide +kernel) (by decide +kernel) rfl (by decide +kernel), by decide +kernel⟩⟩⟩

theorem witness_ReadsAreServedOrHalted :
    (∃ (s : State) (rx : Rx) (p : Pkt) (c : Nat) (q : Nat) (a : Nat) (r : Region), DataIn s rx p c q opRead ∧ GranAt s c q (pktAddr p) false r a ∧ TagTrue s r a ∧ nfld p.w2 23 0 = 1 ∧ (∀ k, k < 4 → s.lineNow r (rgnDpa r (a + 64 * k)) = .data)) ∧
    (∃ (s : State) (rx : Rx) (p : Pkt) (c : Nat) (q : Nat) (a : Nat) (r : Region), DataIn s rx p c q opRead ∧ GranAt s c q (pktAddr p) false r a ∧ nfld p.w2 23 0 = 1 ∧ s.lineNow r (rgnDpa r a) = .poisoned ∧ connHost (s.conn c) = false) ∧
    (∃ (s : State) (rx : Rx) (p : Pkt) (c : Nat) (q : Nat) (a : Nat) (r : Region), DataIn s rx p c q opRead ∧ GranAt s c q (pktAddr p) false r a ∧ nfld p.w2 23 0 = 1 ∧ s.lineNow r (rgnDpa r a) = .poisoned ∧ connHost (s.conn c) = true ∧ (s.part q).st ≠ .tearing ∧ s.sprayNow c ≠ []) ∧
    (∃ (s : State) (rx : Rx) (p : Pkt) (c : Nat) (q : Nat), DataIn s rx p c q opRead ∧ nfld p.w2 23 0 = 1 ∧ s.place q (pktAddr p) = none) ∧
    (∃ (s : State) (rx : Rx) (p : Pkt) (c : Nat) (q : Nat), DataIn s rx p c q opReadResp ∧ s.sprayNow c ≠ []) ∧
    (∃ (s : State) (v : Via) (p : Nat) (ch : Nat) (d : Dma) (f : Pkt) (o : RxOp), ViaOpen s v 2 ∧ p < 16 ∧ connPart (s.conn v.conn) = p ∧ ch < 4 ∧ d = Table.get Dma.reset (s.part p).dma ch ∧ d.halted = true ∧ d.held = [] ∧ d.faulting = some f ∧ f.op = opRead ∧ rxOpOf (s.conn d.conn) (pktOp f) = some o) ∧
    (∃ (s : State) (v : Via) (p : Nat) (ch : Nat), ViaOpen s v 2 ∧ p < 16 ∧ connPart (s.conn v.conn) ≠ p ∧ ch < 4) :=
  ⟨⟨tLines false, tRx (tRead 5 0), tRead 5 0, 5, 0, 0, tRgn, ⟨tDataIn _ _ _ _ _ _ (by simp only [InOrder, OnOpen, Arrives]; decide +kernel) (by decide +kernel) rfl (by decide +kernel), ⟨0, by decide +kernel, by decide +kernel⟩, by simp only [TagTrue]; decide +kernel, by decide +kernel⟩⟩,
    ⟨tLines true, tRx (tRead 5 0), tRead 5 0, 5, 0, 0, tRgn, ⟨tDataIn _ _ _ _ _ _ (by simp only [InOrder, OnOpen, Arrives]; decide +kernel) (by decide +kernel) rfl (by decide +kernel), ⟨0, by decide +kernel, by decide +kernel⟩, by decide +kernel⟩⟩,
    ⟨tLines true, tRx (tRead 6 0), tRead 6 0, 6, 0, 0, tRgn, ⟨tDataIn _ _ _ _ _ _ (by simp only [InOrder, OnOpen, Arrives]; decide +kernel) (by decide +kernel) rfl (by decide +kernel), ⟨0, by decide +kernel, by decide +kernel⟩, by decide +kernel⟩⟩,
    ⟨tMem, tRx (tRead 6 0x200000), tRead 6 0x200000, 6, 0, ⟨tDataIn _ _ _ _ _ _ (by simp only [InOrder, OnOpen, Arrives]; decide +kernel) (by decide +kernel) rfl (by decide +kernel), by decide +kernel⟩⟩,
    ⟨tMem, tRx tResp, tResp, 5, 0, ⟨tDataIn _ _ _ _ _ _ (by simp only [InOrder, OnOpen, Arrives]; decide +kernel) (by decide +kernel) rfl (by decide +kernel), by decide +kernel⟩⟩,
    ⟨tHalted, tSess, 0, 0, ⟨true, 0, 6, [], some (tRead 6 0)⟩, tRead 6 0, { (default : RxOp) with opid := 9, op := opRead }, ⟨by simp only [ViaOpen]; decide +kernel, by decide +kernel⟩⟩,
    ⟨tOp, tSess, 1, 3, ⟨by simp only [ViaOpen]; decide +kernel, by decide +kernel⟩⟩⟩

theorem witness_SendsAndPartsArrive :
    (∃ (s : State) (rx : Rx) (p : Pkt) (c : Nat) (q : Nat), DataIn s rx p c q opSend ∧ s.sprayNow c ≠ [] ∧ s.xsi.stage.holder = some c ∧ s.levelMay (s.conn c) = true ∧ (∀ g ∈ p.grans, g.poison = false) ∧ s.xsi.stage.buf.length + 256 * p.grans.length ≤ xsiRoom) ∧
    (∃ (s : State) (rx : Rx) (p : Pkt) (c : Nat) (q : Nat), DataIn s rx p c q opSend ∧ s.sprayNow c ≠ [] ∧ s.xsi.stage.holder ≠ some c ∧ s.fw.stage.holder = some c ∧ (∀ g ∈ p.grans, g.poison = false) ∧ s.fw.stage.buf.length + 256 * p.grans.length ≤ fwRoom) ∧
    (∃ (s : State) (rx : Rx) (p : Pkt) (c : Nat) (q : Nat), DataIn s rx p c q opSend ∧ s.sprayNow c ≠ [] ∧ s.xsi.stage.holder ≠ some c ∧ s.fw.stage.holder ≠ some c ∧ s.levelMay (s.conn c) = true ∧ (∀ g ∈ p.grans, g.poison = false)) ∧
    (∃ (s : State) (rx : Rx) (p : Pkt) (c : Nat) (q : Nat) (st : Nat) (b : Bytes), DataIn s rx p c q opReduce ∧ s.sprayNow c ≠ [] ∧ instOf (s.part q) (nfld p.w2 63 48) = some b ∧ stageOfConn b c = some st ∧ p.grans ≠ [] ∧ (s.part q).colls = []) ∧
    (∃ (s : State) (rx : Rx), s.arrives rx = false) :=
  ⟨⟨tStaged tOp 6 [1], tRx (tSend 6), tSend 6, 6, 0, ⟨tDataIn _ _ _ _ _ _ (by simp only [InOrder, OnOpen, Arrives]; decide +kernel) (by decide +kernel) rfl (by decide +kernel), by decide +kernel⟩⟩,
    ⟨tFwStaged [1], tRx (tSend 0x3FFB), tSend 0x3FFB, 0x3FFB, 0, ⟨tDataIn _ _ _ _ _ _ (by simp only [InOrder, OnOpen, Arrives]; decide +kernel) (by decide +kernel) rfl (by decide +kernel), by decide +kernel⟩⟩,
    ⟨tOp, tRx (tSend 6), tSend 6, 6, 0, ⟨tDataIn _ _ _ _ _ _ (by simp only [InOrder, OnOpen, Arrives]; decide +kernel) (by decide +kernel) rfl (by decide +kernel), by decide +kernel⟩⟩,
    ⟨tOp.tColl 2 8, tRx tReduce, tReduce, 5, 0, 0, tInst 2 0 64 tCtl, ⟨tDataIn _ _ _ _ _ _ (by simp only [InOrder, OnOpen, Arrives]; decide +kernel) (by decide +kernel) rfl (by decide +kernel), by decide +kernel⟩⟩,
    ⟨State.reset, tRx tToken, by decide +kernel⟩⟩

theorem witness_RegistersAndSlots :
    (∃ (s : State) (rx : Rx) (p : Pkt) (c : Nat) (off : Nat) (b : RegBlock), InOrder s rx p c ∧ (∀ n, b ≠ .port n ∧ b ≠ .xsiPart n ∧ b ≠ .devPart n) ∧ p.op = opCtl ∧ ctlOp p = 1 ∧ s.sprayNow c ≠ [] ∧ s.ctlCheck c false (nfld p.w2 63 16) = .ok (b, off)) ∧
    (∃ (s : State) (rx : Rx) (p : Pkt) (c : Nat) (st : Nat), InOrder s rx p c ∧ p.op = opCtl ∧ ctlOp p = 1 ∧ s.sprayNow c ≠ [] ∧ s.ctlCheck c false (nfld p.w2 63 16) = .error st) ∧
    (∃ (s : State) (rx : Rx) (p : Pkt) (c : Nat) (st : Nat), InOrder s rx p c ∧ p.op = opCtl ∧ ctlOp p = 2 ∧ s.sprayNow c ≠ [] ∧ s.ctlCheck c true (nfld p.w2 63 16) = .error st) ∧
    (∃ (s : State) (rx : Rx) (p : Pkt) (c : Nat) (off : Nat), InOrder s rx p c ∧ p.op = opCtl ∧ ctlOp p = 2 ∧ s.sprayNow c ≠ [] ∧ s.ctlCheck c true (nfld p.w2 63 16) = .ok (.fw, off) ∧ (off = 0 ∨ off = 0x78)) ∧
    (∃ (s : State) (c : Nat), s.fw.service = .recovery ∧ connKind (s.conn c) ≠ 4) ∧
    (∃ (s : State) (c : Nat) (a : Nat) (off : Nat) (w : Bool) (b : RegBlock), s.recoveryGate (s.conn c) w a = none ∧ connKind (s.conn c) = 1 ∧ a % 8 = 0 ∧ locate a = some (b, off)) ∧
    (∃ (s : State) (c : Nat) (a : Nat), s.recoveryGate (s.conn c) true a = none ∧ s.levelMay (s.conn c) = false ∧ locate a ≠ some (.fw, 0x20) ∧ locate a ≠ some (.fw, 0x30)) ∧
    (∃ (s : State) (c : Nat) (a : Nat) (w : Bool), s.recoveryGate (s.conn c) w a = none ∧ s.levelGate (s.conn c) w a = true) ∧
    (∃ (s : State) (rx : Rx) (p : Pkt) (c : Nat) (n : Nat) (v : W64), InOrder s rx p c ∧ v = BitVec.ofNat 64 (leAt p.ctl 0 8) ∧ p.op = opCtl ∧ ctlOp p = 2 ∧ s.sprayNow c ≠ [] ∧ n ≠ c ∧ s.ctlCheck c true (nfld p.w2 63 16) = .ok (.conn n, 0)) ∧
    (∃ (s : State) (rx : Rx), s.arrives rx = false) ∧
    (∃ (s : State) (v : Via) (n : Nat), ViaOpen s v 2 ∧ n < 65536 ∧ s.blockPart (.slot n) = some (connPart (s.conn v.conn)) ∧ s.inService (n / 4096) = true) :=
  ⟨⟨tOp, tRx (tCtlPkt 6 1 0), tCtlPkt 6 1 0, 6, 0, .root, ⟨by simp only [InOrder, OnOpen, Arrives]; decide +kernel, fun _ => ⟨nofun, nofun, nofun⟩, by decide +kernel⟩⟩,
    ⟨tOp, tRx (tCtlPkt 6 1 0x7004), tCtlPkt 6 1 0x7004, 6, 2, ⟨by simp only [InOrder, OnOpen, Arrives]; decide +kernel, by decide +kernel⟩⟩,
    ⟨tOp, tRx (tCtlPkt 6 2 0x7020), tCtlPkt 6 2 0x7020, 6, 3, ⟨by simp only [InOrder, OnOpen, Arrives]; decide +kernel, by decide +kernel⟩⟩,
    ⟨tOp, tRx (tCtlPkt 0x3FFB 2 0x7078), tCtlPkt 0x3FFB 2 0x7078, 0x3FFB, 0x78, ⟨by simp only [InOrder, OnOpen, Arrives]; decide +kernel, by decide +kernel⟩⟩,
    ⟨{ tOp with fw := { tOp.fw with service := .recovery } }, 6, by decide +kernel⟩,
    ⟨tOp, 5, 0, 0, false, .root, by decide +kernel⟩,
    ⟨tOp.updConn 6 fun k => { k with level := 0x10000 }, 6, 0, by decide +kernel⟩,
    ⟨tOp, 6, 0, true, by decide +kernel⟩,
    ⟨tEntry 0, tRx tCfgWrite, tCfgWrite, 6, 10, (tConn 1 0).cfg, ⟨by simp only [InOrder, OnOpen, Arrives]; decide +kernel, rfl, by decide +kernel⟩⟩,
    ⟨State.reset, tRx tToken, by decide +kernel⟩,
    ⟨tOp, tSess, 0, ⟨by simp only [ViaOpen]; decide +kernel, by decide +kernel⟩⟩⟩

theorem witness_ConnectionsOpenAndClose :
    (∃ (s : State) (v : Via) (n : Nat), ViaOpen s v 2 ∧ n < 16384 ∧ s.blockPart (.conn n) = some (connPart (s.conn v.conn)) ∧ n ≠ v.conn ∧ connKind (s.conn n) = 1 ∧ (s.conn n).st = 0 ∧ (s.part (connPart (s.conn n))).tgen < 256) ∧
    (∃ (s : State) (v : Via) (n : Nat), ViaOpen s v 2 ∧ n < 16384 ∧ s.blockPart (.conn n) = some (connPart (s.conn v.conn)) ∧ connKind (s.conn n) = 1 ∧ (s.conn n).st ≠ 0) ∧
    (∃ (s : State) (v : Via) (n : Nat), ViaOpen s v 2 ∧ n < 16384 ∧ s.blockPart (.conn n) = some (connPart (s.conn v.conn)) ∧ n ≠ v.conn ∧ connKind (s.conn n) = 1 ∧ (s.conn n).st = 2) ∧
    (∃ (s : State) (rx : Rx) (p : Pkt), Arrives s rx p ∧ p.op = opCtl ∧ ctlOp p = 0x10 ∧ s.fw.service ≠ .recovery ∧ connKind (s.conn p.dconn) = 1 ∧ (s.conn p.dconn).st = 0 ∧ connPeer (s.conn p.dconn) = p.sconn ∧ connV4 (s.conn p.dconn) = rx.v4 ∧ connPeerAddr (s.conn p.dconn) (planeOfPort rx.port) = rx.src ∧ (s.conn p.dconn).job.toNat = leAt p.ctl 0 8) ∧
    (∃ (s : State) (rx : Rx) (p : Pkt), Arrives s rx p ∧ p.op = opCtl ∧ ctlOp p = 0x10 ∧ s.fw.service ≠ .recovery ∧ (connKind (s.conn p.dconn) ≠ 1 ∨ (s.conn p.dconn).st = 3 ∨ (s.conn p.dconn).job.toNat ≠ leAt p.ctl 0 8)) ∧
    (∃ (s : State) (rx : Rx) (p : Pkt) (c : Nat), Arrives s rx p ∧ p.dconn = c ∧ p.op = opCtlResp ∧ ctlOp p = 0x11 ∧ (s.conn c).st = 1 ∧ connKind (s.conn c) = 1 ∧ p.tgen = (s.part (connPart (s.conn c))).tgen ∧ p.status = 0) ∧
    (∃ (s : State) (rx : Rx) (p : Pkt) (c : Nat), Arrives s rx p ∧ p.dconn = c ∧ p.op = opCtlResp ∧ ctlOp p = 0x11 ∧ (s.conn c).st = 1 ∧ connKind (s.conn c) = 1 ∧ p.tgen = (s.part (connPart (s.conn c))).tgen ∧ p.status ≠ 0) ∧
    (∃ (s : State) (rx : Rx) (p : Pkt) (c : Nat), InOrder s rx p c ∧ (∀ q, (s.part q).tear = none) ∧ p.op = opCtl ∧ ctlOp p = 0x12 ∧ s.fw.service ≠ .recovery ∧ connKind (s.conn c) = 1 ∧ s.sprayNow c ≠ []) ∧
    (∃ (s : State) (rx : Rx) (p : Pkt) (c : Nat), Arrives s rx p ∧ (∀ q, (s.part q).tear = none) ∧ p.dconn = c ∧ p.op = opCtlResp ∧ ctlOp p = 0x13 ∧ (s.conn c).st = 4 ∧ connKind (s.conn c) = 1 ∧ p.tgen = (s.part (connPart (s.conn c))).tgen) :=
  ⟨⟨tEntry 0, tSess, 10, ⟨by simp only [ViaOpen]; decide +kernel, by decide +kernel⟩⟩,
    ⟨tOp, tSess, 5, ⟨by simp only [ViaOpen]; decide +kernel, by decide +kernel⟩⟩,
    ⟨tOp, tSess, 5, ⟨by simp only [ViaOpen]; decide +kernel, by decide +kernel⟩⟩,
    ⟨tEntry 0, tRx (tCall 10 0x10 4 0 false), tCall 10 0x10 4 0 false, ⟨by simp only [Arrives]; decide +kernel, by decide +kernel⟩⟩,
    ⟨tOp, tRx (tCall 6 0x10 4 0 false), tCall 6 0x10 4 0 false, ⟨by simp only [Arrives]; decide +kernel, by decide +kernel⟩⟩,
    ⟨tEntry 1, tRx (tCall 10 0x11 4 0 true), tCall 10 0x11 4 0 true, 10, ⟨by simp only [Arrives]; decide +kernel, by decide +kernel⟩⟩,
    ⟨tEntry 1, tRx (tCall 10 0x11 4 4 true), tCall 10 0x11 4 4 true, 10, ⟨by simp only [Arrives]; decide +kernel, by decide +kernel⟩⟩,
    ⟨tOp, tRx (tCall 5 0x12 0 0 false), tCall 5 0x12 0 0 false, 5, ⟨by simp only [InOrder, OnOpen, Arrives]; decide +kernel, tNoTear _ (by decide +kernel), by decide +kernel⟩⟩,
    ⟨tEntry 4, tRx (tCall 10 0x13 0 0 true), tCall 10 0x13 0 0 true, 10, ⟨by simp only [Arrives]; decide +kernel, tNoTear _ (by decide +kernel), by decide +kernel⟩⟩⟩

theorem witness_SessionsAreAdmitted :
    (∃ (s : State) (rx : Rx) (p : Pkt) (q : Nat) (c : Nat), s.arrives rx = true ∧ rx.port < 16 ∧ s.isOwn (planeOfPort rx.port) rx.v4 rx.dst = true ∧ rx.fcsBad = false ∧ s.vlanOk rx = true ∧ rx.fragment = false ∧ rx.sumBad = false ∧ rx.dport = s.eltPort rx.port ∧ rxHdrOk rx = true ∧ p = rxPkt rx ∧ p.dconn = 0x3FFF ∧ p.op = opCtl ∧ ctlOp p = 0x10 ∧ ctlRole p = 1 ∧ ctlPart p = q ∧ s.operational = true ∧ ((s.part q).st = .ready ∨ (s.part q).st = .running ∨ (s.part q).st = .parked ∨ (s.part q).st = .orphaned) ∧ testBit (s.sessionMask q) 0 = false ∧ s.grantedTo rx p 2 q = none ∧ (∃ r ∈ s.xsi.poly, leAt r 0 1 = 3 ∧ leAt r 1 1 = q ∧ testBit (leAt r 2 1) 0 = true ∧ polyHas r rx.v4 rx.src = true) ∧ s.freeIndex (s.part q).connFirst (s.part q).connCount = some c) ∧
    (∃ (s : State) (rx : Rx) (p : Pkt) (q : Nat), s.arrives rx = true ∧ s.isOwn (planeOfPort rx.port) rx.v4 rx.dst = true ∧ rx.fcsBad = false ∧ s.vlanOk rx = true ∧ rx.fragment = false ∧ rx.sumBad = false ∧ rx.dport = s.eltPort rx.port ∧ rxHdrOk rx = true ∧ p = rxPkt rx ∧ p.dconn = 0x3FFF ∧ p.op = opCtl ∧ ctlOp p = 0x10 ∧ ctlRole p = 1 ∧ ctlPart p = q ∧ s.grantedTo rx p 2 q = none ∧ (testBit (s.sessionMask q) 0 = true ∨ s.xsi.poly = [] ∨ s.operational = false)) ∧
    (∃ (s : State) (rx : Rx) (p : Pkt) (c : Nat), s.arrives rx = true ∧ rx.port = 16 ∧ s.isOwn 2 rx.v4 rx.dst = true ∧ rx.fcsBad = false ∧ s.vlanOk rx = true ∧ rx.fragment = false ∧ rx.sumBad = false ∧ rx.dport = 47320 ∧ rxHdrOk rx = true ∧ p = rxPkt rx ∧ p.dconn = 0x3FFF ∧ p.op = opCtl ∧ ctlOp p = 0x10 ∧ ctlRole p = 3 ∧ s.xsi.ownerImage = false ∧ s.fw.romRecovery = false ∧ (∀ e ∈ s.net.conns, connKind e.2 ≠ 4) ∧ s.freeIndex 0x3FFB 4 = some c) :=
  ⟨⟨tPolicy, tRx (tAsk 1 0), tAsk 1 0, 0, 0, by decide +kernel⟩,
    ⟨tOp, tRx (tAsk 1 0), tAsk 1 0, 0, by decide +kernel⟩,
    ⟨tMgmt, tMgmtRx, tAsk 3 0, 0x3FFB, by decide +kernel⟩⟩

theorem witness_AcksFreeCopiesAndGoOut :
    (∃ (s : State) (rx : Rx) (p : Pkt) (c : Nat), OnOpen s rx p c ∧ p.op = opAck ∧ p.cee = false ∧ (∀ e ∈ s.net.conns, e.2.txWait = []) ∧ leNat p.ctl = 0) ∧
    (∃ (s : State) (rx : Rx) (p : Pkt) (c : Nat), OnOpen s rx p c ∧ p.op = opAck ∧ p.cee = true ∧ connHost (s.conn c) = true ∧ (s.conn c).txWait = []) ∧
    (∃ (s : State) (rx : Rx) (p : Pkt) (c : Nat) (y : Copy) (i : Nat), OnOpen s rx p c ∧ p.op = opAck ∧ (s.conn c).txWait = [] ∧ y ∈ (s.conn c).copies ∧ psnLt y.pkt.psn p.ackpsn = false ∧ 512 ≤ (y.pkt.psn + 2 ^ 32 - (p.ackpsn + 1)) % 2 ^ 32 ∧ i < 512 ∧ testBit (leNat p.ctl) i = true ∧ psnLt y.pkt.psn ((p.ackpsn + 1 + i) % 2 ^ 32) = true) ∧
    (∃ (s : State) (c : Nat), s.listens = true ∧ (s.conn c).st = 2 ∧ s.sprayNow c ≠ [] ∧ ((s.conn c).ackNow = true ∨ (0 < (s.conn c).rxDebt ∧ 2000 ≤ s.since (s.conn c).rxDebtAt))) ∧
    (∃ (s : State) (c : Nat), (s.conn c).ackNow = false ∧ ((s.conn c).rxDebt = 0 ∨ s.since (s.conn c).rxDebtAt < 2000)) :=
  ⟨⟨tSent 5 0, tRx (tAck 5 2 false true 0), tAck 5 2 false true 0, 5, ⟨by simp only [OnOpen, Arrives]; decide +kernel, by decide +kernel⟩⟩,
    ⟨tSent 6 0, tRx (tAck 6 2 true false 0), tAck 6 2 true false 0, 6, ⟨by simp only [OnOpen, Arrives]; decide +kernel, by decide +kernel⟩⟩,
    ⟨tSent 5 0, tRx (tAck 5 1 false false 1), tAck 5 1 false false 1, 5, tCopy 1 0, 0, ⟨by simp only [OnOpen, Arrives]; decide +kernel, by decide +kernel⟩⟩,
    ⟨tOp.updConn 5 fun k => { k with ackNow := true }, 5, by decide +kernel⟩,
    ⟨tOp, 5, by decide +kernel⟩⟩

theorem witness_TimersRetransmitAndFail :
    (∃ (s : State) (c : Nat) (y : Copy) (at' : Nat × Nat), s.listens = true ∧ (s.conn c).copies.find? (fun x => x.pkt.psn = y.pkt.psn) = some y ∧ y.pkt.psn ∈ (s.conn c).holes ∧ connHoleUs (s.conn c) * 1000 ≤ s.since y.sentAt ∧ y.tries < connRetryMax (s.conn c) ∧ nextSub (s.sprayNow c) y.port = some at') ∧
    (∃ (s : State) (c : Nat) (psn : Nat), psn ∉ (s.conn c).holes) ∧
    (∃ (s : State) (c : Nat) (y : Copy) (rest : List Copy) (at' : Nat × Nat), s.listens = true ∧ (s.conn c).copies = y :: rest ∧ (s.conn c).st = 2 ∧ connRtoUs (s.conn c) * 1000 ≤ s.since (max (s.conn c).ackAt y.sentAt) ∧ y.tries < connRetryMax (s.conn c) ∧ nextSub (s.sprayNow c) y.port = some at') ∧
    (∃ (s : State) (c : Nat) (y : Copy) (rest : List Copy), s.listens = true ∧ (s.conn c).copies = y :: rest ∧ (s.conn c).st = 2 ∧ connRtoUs (s.conn c) * 1000 ≤ s.since (max (s.conn c).ackAt y.sentAt) ∧ connRetryMax (s.conn c) ≤ y.tries ∧ mayMove (s.conn c) = false) ∧
    (∃ (s : State) (c : Nat) (y : Copy) (rest : List Copy), s.listens = true ∧ (s.conn c).copies = y :: rest ∧ (s.conn c).st = 2 ∧ connRtoUs (s.conn c) * 1000 ≤ s.since (max (s.conn c).ackAt y.sentAt) ∧ connRetryMax (s.conn c) ≤ y.tries ∧ mayMove (s.conn c) = true) ∧
    (∃ (s : State) (c : Nat), ((s.conn c).copies = [] ∨ s.since (s.conn c).ackAt < connRtoUs (s.conn c) * 1000)) ∧
    (∃ (s : State) (c : Nat) (a : Nat) (o : TxOp), s.listens = true ∧ o ∈ (s.conn c).ops ∧ o.startAt = some a ∧ connOptimeMs (s.conn c) * 1000000 ≤ s.since a ∧ (s.conn c).st = 2) ∧
    (∃ (s : State) (c : Nat) (id : Nat), (∀ o ∈ (s.conn c).ops, o.opid ≠ id ∨ o.startAt = none)) ∧
    (∃ (s : State) (c : Nat), s.listens = true ∧ connHost (s.conn c) = true ∧ (s.conn c).st = 2 ∧ 8000 ≤ s.since (max (s.conn c).cutAt (s.conn c).raiseAt)) ∧
    (∃ (s : State) (c : Nat), (connHost (s.conn c) = false ∨ s.since (max (s.conn c).cutAt (s.conn c).raiseAt) < 8000)) :=
  ⟨⟨tSent 5 6, 5, tCopy 1 6, (0, 0), by decide +kernel⟩,
    ⟨tOp, 5, 3, by decide +kernel⟩,
    ⟨tSent 5 6, 5, tCopy 1 6, [tCopy 2 6], (0, 0), by decide +kernel⟩,
    ⟨tSent 5 7, 5, tCopy 1 7, [tCopy 2 7], by decide +kernel⟩,
    ⟨(tSent 5 7).updConn 5 fun k => { k with cfg := k.cfg ||| flag 55 true }, 5, tCopy 1 7, [tCopy 2 7], by decide +kernel⟩,
    ⟨tOp, 5, by decide +kernel⟩,
    ⟨tSent 5 0, 5, 0, ⟨9, .data, some 0⟩, by decide +kernel⟩,
    ⟨tOp, 5, 9, by decide +kernel⟩,
    ⟨tOp.tClock 8000, 6, by decide +kernel⟩,
    ⟨tOp, 5, by decide +kernel⟩⟩

theorem witness_LinksNeighboursAndTransit :
    (∃ (s : State) (n : Nat) (b : Nat), s.up = true ∧ n < 16 ∧ s.subUp n b = true ∧ s.net.egress = [] ∧ (∀ e ∈ s.net.conns, e.2.txWait = [] ∧ canMove e.2 = false)) ∧
    (∃ (s : State) (n : Nat) (b : Nat) (c : Nat), s.up = true ∧ n < 16 ∧ s.subUp n b = true ∧ s.net.egress = [] ∧ (∀ e ∈ s.net.conns, e.2.txWait = []) ∧ (s.conn c).st = 2 ∧ canMove (s.conn c) = true ∧ (s.updPort n fun p => { p with subs := clearBit p.subs b }).sprayNow c = []) ∧
    (∃ (s : State) (n : Nat) (b : Nat) (q : Queued) (d : Datagram) (c : Nat), s.up = true ∧ n < 16 ∧ s.subUp n b = true ∧ s.net.egress = [q] ∧ q.frame = .elt d ∧ q.conn = some c ∧ d.link.port = n ∧ d.link.sub = b ∧ (∀ e ∈ s.net.conns, e.2.txWait = [] ∧ canMove e.2 = false) ∧ (s.updPort n fun p => { p with subs := clearBit p.subs b }).sprayNow c ≠ []) ∧
    (∃ (s : State) (n : Nat) (b : Nat), s.subUp n b = false) ∧
    (∃ (s : State) (n : Nat) (b : Nat), s.based = true ∧ n < 16 ∧ s.roleNow n ≠ 0 ∧ b < modeSubs (portMode (s.port n)) ∧ testBit (s.port n).subs b = false ∧ s.net.egress = [] ∧ (∀ e ∈ s.net.conns, e.2.txWait = [])) ∧
    (∃ (s : State) (n : Nat) (b : Nat), (s.roleNow n = 0 ∨ testBit (s.port n).subs b = true)) ∧
    (∃ (s : State) (n : Nat) (mask : Nat), s.based = true ∧ n < 16 ∧ s.roleNow n ≠ 0 ∧ mask < 256) ∧
    (∃ (s : State) (n : Nat) (prio : Nat) (fill : Nat), s.based = true ∧ n < 16 ∧ prio < 8 ∧ s.roleNow n ≠ 0 ∧ testBit (portPfcEn (s.port n)) prio = true ∧ s.upSubs n ≠ [] ∧ 3 * 2 ^ 19 < fill ∧ (Table.get 0 (s.port n).pfcAt prio = 0 ∨ 50000 ≤ s.since (Table.get 0 (s.port n).pfcAt prio - 1))) ∧
    (∃ (s : State) (n : Nat) (prio : Nat), testBit (portPfcEn (s.port n)) prio = false) ∧
    (∃ (s : State) (n : Nat) (b : Nat) (target : Nat) (vid : Option Nat) (v6 : Bool), s.listens = true ∧ n < 16 ∧ s.lineUp n b = true ∧ s.tagOk n vid false = true ∧ s.isOwn (planeOfPort n) (!v6) target = true) ∧
    (∃ (s : State) (n : Nat) (b : Nat) (target : Nat) (vid : Option Nat) (v6 : Bool), s.listens = true ∧ n < 16 ∧ s.lineUp n b = true ∧ (s.tagOk n vid false = false ∨ s.isOwn (planeOfPort n) (!v6) target = false)) ∧
    (∃ (s : State) (rx : Rx) (i : Nat) (r : Route), s.arrives rx = true ∧ rx.port < 16 ∧ s.isMine rx.v4 rx.dst = false ∧ s.vlanOk rx = true ∧ rx.fragment = false ∧ portRole (s.port rx.port) = 2 ∧ hchkOk rx = true ∧ 1 < rx.ttl ∧ s.lookup (planeOfPort rx.port) rx.v4 rx.dst = some (i, r) ∧ rtInpath r = false ∧ ((s.sprayOf (planeOfPort rx.port) r).filter fun e => e ≠ (rx.port, rx.sub)) ≠ []) ∧
    (∃ (s : State) (rx : Rx), s.arrives rx = true ∧ rx.port < 16 ∧ s.isMine rx.v4 rx.dst = false ∧ s.vlanOk rx = true ∧ rx.fragment = false ∧ (portRole (s.port rx.port) ≠ 2 ∨ hchkOk rx = false ∨ rx.ttl ≤ 1 ∨ s.lookup (planeOfPort rx.port) rx.v4 rx.dst = none)) ∧
    (∃ (s : State) (rx : Rx), s.isMine rx.v4 rx.dst = true) ∧
    (∃ (s : State) (x : PtpRx) (v4 : Bool) (i : Nat) (r : Route), s.based = true ∧ x.port < 16 ∧ s.subUp x.port x.sub = true ∧ s.roleNow x.port = 2 ∧ x.fcsBad = false ∧ x.sumBad = false ∧ s.tagOk x.port x.vid x.stacked = true ∧ x.frame.map ≠ .ethernet ∧ v4 = decide (x.frame.map = .udp4) ∧ s.isMine v4 x.frame.dst = false ∧ s.ptpMine (x.port / 8) x.frame = false ∧ 1 < x.frame.ttl ∧ x.frame.msg.kind < 4 ∧ s.lookup (x.port / 8) v4 x.frame.dst = some (i, r) ∧ ((s.sprayOf (x.port / 8) r).filter fun e => e ≠ (x.port, x.sub) ∧ s.roleNow e.1 = 2) ≠ []) :=
  ⟨⟨tOp, 0, 0, by decide +kernel⟩,
    ⟨tMoving, 0, 0, 5, by decide +kernel⟩,
    ⟨tTwoSubs, 0, 0, tElt, tEltD, 5, by decide +kernel⟩,
    ⟨tOp, 3, 0, by decide +kernel⟩,
    ⟨tOp.updPort 1 fun p => { p with subs := 0 }, 1, 0, by decide +kernel⟩,
    ⟨tOp, 0, 0, by decide +kernel⟩,
    ⟨tOp, 0, 255, by decide +kernel⟩,
    ⟨tOp, 0, 3, 3 * 2 ^ 19 + 1, by decide +kernel⟩,
    ⟨tOp, 0, 8, by decide +kernel⟩,
    ⟨tOp, 0, 0, 0x0A000001, none, false, by decide +kernel⟩,
    ⟨tOp, 0, 0, 0x0A000003, none, false, by decide +kernel⟩,
    ⟨tOp, tFwd 2, 1, ⟨0, 0x0B000000, fields [flag 63 true, at_ 62 55 8, flag 54 true, at_ 51 44 4, at_ 43 36 1], 0⟩, by decide +kernel⟩,
    ⟨tOp, tFwd 1, by decide +kernel⟩,
    ⟨tOp, tRx (tPkt opWrite 5), by decide +kernel⟩,
    ⟨tOp, tPtpOn, true, 1, ⟨0, 0x0B000000, fields [flag 63 true, at_ 62 55 8, flag 54 true, at_ 51 44 4, at_ 43 36 1], 0⟩, by decide +kernel⟩⟩

theorem witness_TimeFollowsItsSource :
    (∃ (s : State) (x : PtpRx) (plane : Nat) (good : Nat) (path : Int) (offset : Int), SyncIn s x plane ∧ GivesTime s plane plane ∧ x.frame.msg.twoStep = false ∧ (s.side plane).path = some path ∧ (s.tm.st ≠ .locked ∨ offset.natAbs ≤ 1000) ∧ offset = x.frame.msg.stamp + corrNs x.frame.msg.corr + path - (s.tm.now.toNat : Int) ∧ (good = (if s.tm.st = .neverLocked ∨ s.tm.st = .holdover ∨ s.tm.source ≠ plane + 1 then 0 else s.tm.good))) ∧
    (∃ (s : State) (x : PtpRx) (plane : Nat) (path : Int) (offset : Int), SyncIn s x plane ∧ GivesTime s plane plane ∧ x.frame.msg.twoStep = false ∧ (s.side plane).path = some path ∧ s.tm.st = .locked ∧ 1000 < offset.natAbs ∧ offset = x.frame.msg.stamp + corrNs x.frame.msg.corr + path - (s.tm.now.toNat : Int)) ∧
    (∃ (s : State) (x : PtpRx) (plane : Nat) (i : Nat), SyncIn s x plane ∧ GivesTime s plane i ∧ x.frame.msg.twoStep = false ∧ (i ≠ plane ∨ (s.side plane).path = none)) ∧
    (∃ (s : State) (x : PtpRx) (plane : Nat), SyncIn s x plane ∧ x.frame.msg.twoStep = true) ∧
    (∃ (s : State) (x : PtpRx) (plane : Nat) (seq : Nat) (at' : Nat) (src : Nat) (corr : Int) (path : Int) (offset : Int), PtpIn s x plane ∧ x.frame.msg.kind = ptpFollowUp ∧ (s.side plane).wait = some (src, seq, at', corr) ∧ x.frame.msg.source = src ∧ x.frame.msg.seq = seq ∧ (s.side plane).path = some path ∧ s.timePlane = some plane ∧ (s.tm.st ≠ .locked ∨ offset.natAbs ≤ 1000) ∧ offset = x.frame.msg.stamp + corrNs (corr + x.frame.msg.corr) + path - (at' : Int)) ∧
    (∃ (s : State) (x : PtpRx) (plane : Nat) (seq : Nat) (left : Nat) (sent : Int) (arrived : Int), PtpIn s x plane ∧ x.frame.msg.kind = ptpDelayResp ∧ (s.side plane).req = some (seq, left) ∧ (s.side plane).sync = some (sent, arrived) ∧ x.frame.msg.seq = seq ∧ x.frame.msg.target = s.clockId x.port) ∧
    (∃ (s : State) (x : PtpRx), s.based = true ∧ x.port < 16 ∧ s.subUp x.port x.sub = true ∧ s.roleNow x.port ≠ 2 ∧ (x.frame.msg.domain ≠ fld (s.plane (x.port / 8)).cfg 23 16 ∨ x.fcsBad = true ∨ x.sumBad = true ∨ s.tagOk x.port x.vid x.stacked = false ∨ (x.frame.msg.kind = ptpSync ∧ (x.frame.msg.interval < -7 ∨ 0 < x.frame.msg.interval)))) ∧
    (∃ (s : State) (plane : Nat) (i : Nat), s.based = true ∧ plane < 2 ∧ testBit s.tm.usable plane = true ∧ ({ s with tm := { s.tm with usable := clearBit s.tm.usable plane } } : State).timePlane = some i) ∧
    (∃ (s : State) (plane : Nat), s.based = true ∧ plane < 2 ∧ testBit s.tm.usable plane = true ∧ ({ s with tm := { s.tm with usable := clearBit s.tm.usable plane } } : State).timePlane = none) ∧
    (∃ (s : State) (plane : Nat), testBit s.tm.usable plane = false) ∧
    (∃ (s : State) (err : Nat), s.based = true ∧ s.tm.st = .holdover ∧ err ≤ 1000) ∧
    (∃ (s : State) (err : Nat), s.based = true ∧ s.tm.st = .holdover ∧ 1000 < err) ∧
    (∃ (s : State), s.tm.st ≠ .holdover) :=
  ⟨⟨(tOp.tTime .acquiring 0).tSide 0 { PtpSide.reset with path := some 0 }, tPtp ptpSync false 50 0, 0, 0, 0, 50, ⟨by simp only [SyncIn, PtpIn]; decide +kernel, by simp only [GivesTime]; decide +kernel, by decide +kernel⟩⟩,
    ⟨(tOp.tTime .locked 0).tSide 0 { PtpSide.reset with path := some 10 }, tPtp ptpSync false 2000 0, 0, 10, 2010, ⟨by simp only [SyncIn, PtpIn]; decide +kernel, by simp only [GivesTime]; decide +kernel, by decide +kernel⟩⟩,
    ⟨tOp.tTime .acquiring 0, tPtp ptpSync false 2000 0, 0, 0, ⟨by simp only [SyncIn, PtpIn]; decide +kernel, by simp only [GivesTime]; decide +kernel, by decide +kernel⟩⟩,
    ⟨tOp.tTime .acquiring 0, tPtp ptpSync true 0 3, 0, ⟨by simp only [SyncIn, PtpIn]; decide +kernel, by decide +kernel⟩⟩,
    ⟨(tOp.tTime .acquiring 1).tSide 0 { PtpSide.reset with path := some 10, wait := some (0x99, 3, 0, 0) }, tPtp ptpFollowUp false 7 3, 0, 3, 0, 0x99, 0, 10, 17, ⟨by simp only [PtpIn]; decide +kernel, by decide +kernel⟩⟩,
    ⟨(tOp.tTime .acquiring 1).tSide 0 { PtpSide.reset with sync := some (10, 30), req := some (4, 100) }, tPtp ptpDelayResp false 200 4, 0, 4, 100, 10, 30, ⟨by simp only [PtpIn]; decide +kernel, by decide +kernel⟩⟩,
    ⟨tOp, { tPtp ptpSync false 0 0 with fcsBad := true }, by decide +kernel⟩,
    ⟨tOp.tTime .locked 3, 0, 1, by decide +kernel⟩,
    ⟨tOp.tTime .locked 1, 0, by decide +kernel⟩,
    ⟨tOp, 1, by decide +kernel⟩,
    ⟨tOp.tTime .holdover 0, 1000, by decide +kernel⟩,
    ⟨tOp.tTime .holdover 0, 1001, by decide +kernel⟩,
    ⟨tOp, by decide +kernel⟩⟩

theorem witness_PartitionCommandsAct :
    (∃ (s : State) (v : Via) (p : Nat), ViaOpen s v 2 ∧ p < 16 ∧ connPart (s.conn v.conn) = p ∧ (s.part p).st = .running ∧ schRuns (s.part p) = true) ∧
    (∃ (s : State) (v : Via) (p : Nat), ViaOpen s v 2 ∧ p < 16 ∧ connPart (s.conn v.conn) = p ∧ (s.part p).st = .running ∧ schRuns (s.part p) = false) ∧
    (∃ (s : State) (v : Via) (p : Nat), ViaOpen s v 2 ∧ p < 16 ∧ connPart (s.conn v.conn) = p ∧ (s.part p).st = .parked ∧ (s.controlling p).isSome = true ∧ s.pwr.remove = 0) ∧
    (∃ (s : State) (v : Via) (p : Nat), ViaOpen s v 2 ∧ p < 16 ∧ connPart (s.conn v.conn) = p ∧ ((s.part p).st = .parked ∨ (s.part p).st = .orphaned)) ∧
    (∃ (s : State) (v : Via) (p : Nat), ViaOpen s v 2 ∧ p < 16 ∧ connPart (s.conn v.conn) = p ∧ ((s.part p).st = .running ∨ (s.part p).st = .parked ∨ (s.part p).st = .orphaned)) ∧
    (∃ (s : State) (v : Via) (p : Nat), ViaOpen s v 2 ∧ p < 16 ∧ connPart (s.conn v.conn) = p ∧ ((s.part p).st = .ready ∨ (s.part p).st = .parked ∨ (s.part p).st = .orphaned)) ∧
    (∃ (s : State) (v : Via) (p : Nat), ViaOpen s v 2 ∧ p < 16 ∧ connPart (s.conn v.conn) = p) ∧
    (∃ (s : State) (v : Via) (p : Nat), ViaOpen s v 2 ∧ p < 16 ∧ connPart (s.conn v.conn) ≠ p) :=
  ⟨⟨(tOp.tState .running).tPart fun q => { q with schSt := 3 }, tSess, 0, ⟨by simp only [ViaOpen]; decide +kernel, by decide +kernel⟩⟩,
    ⟨tOp.tState .running, tSess, 0, ⟨by simp only [ViaOpen]; decide +kernel, by decide +kernel⟩⟩,
    ⟨tOp.tState .parked, tSess, 0, ⟨by simp only [ViaOpen]; decide +kernel, by decide +kernel⟩⟩,
    ⟨tOp.tState .parked, tSess, 0, ⟨by simp only [ViaOpen]; decide +kernel, by decide +kernel⟩⟩,
    ⟨tOp.tState .running, tSess, 0, ⟨by simp only [ViaOpen]; decide +kernel, by decide +kernel⟩⟩,
    ⟨tOp, tSess, 0, ⟨by simp only [ViaOpen]; decide +kernel, by decide +kernel⟩⟩,
    ⟨tOp, tSess, 0, ⟨by simp only [ViaOpen]; decide +kernel, by decide +kernel⟩⟩,
    ⟨tOp, tSess, 1, ⟨by simp only [ViaOpen]; decide +kernel, by decide +kernel⟩⟩⟩

theorem witness_ParksLeasesAndNotices :
    (∃ (s : State) (p : Nat), s.operational = true ∧ (s.part p).parking = true ∧ (s.part p).stn.st = 1 ∧ (s.part p).stn.committed ≠ BitVec.allOnes 64 ∧ (s.part p).parkStep ≤ (s.part p).stn.committed.toNat) ∧
    (∃ (s : State) (p : Nat), (s.part p).parking = false) ∧
    (∃ (s : State) (c : Nat) (p : Nat), s.operational = true ∧ connKind (s.conn c) = 2 ∧ connPart (s.conn c) = p ∧ (s.conn c).st = 2 ∧ (s.part p).leaseMs * 1000000 ≤ s.since (s.conn c).leaseAt ∧ ((s.part p).st = .running ∨ (s.part p).st = .ready ∨ (s.part p).st = .parked)) ∧
    (∃ (s : State) (c : Nat) (p : Nat), s.operational = true ∧ connKind (s.conn c) = 3 ∧ connPart (s.conn c) = p ∧ (s.conn c).st = 2 ∧ (s.part p).leaseMs * 1000000 ≤ s.since (s.conn c).leaseAt) ∧
    (∃ (s : State) (c : Nat), s.since (s.conn c).leaseAt < (s.part (connPart (s.conn c))).leaseMs * 1000000) ∧
    (∃ (s : State) (c : Nat), s.based = true ∧ s.fmConn = some c) ∧
    (∃ (s : State), s.fmConn = none) :=
  ⟨⟨tEnded.tPart fun q => { q with parking := true, parkStep := 5, stn := { q.stn with committed := 5 } }, 0, by decide +kernel⟩,
    ⟨tOp, 0, by decide +kernel⟩,
    ⟨tOp.tClock 1000000, 6, 0, by decide +kernel⟩,
    ⟨tOp.tClock 1000000, 7, 0, by decide +kernel⟩,
    ⟨tOp.tClock 999999, 6, by decide +kernel⟩,
    ⟨tOp.updDev fun d => { d with notices := [default] }, 0x3FFB, by decide +kernel⟩,
    ⟨State.reset, by decide +kernel⟩⟩

theorem witness_AccumulationIsOrderIndependent :
    (∃ (a : List Elem) (b : List Elem), List.Perm a b) ∧
    (∃ (st : Acc), (st.terms ≤ 2 ^ 40 ∨ st = accLimit)) ∧
    (∃ (x : Acc) (y : Acc) (z : Acc), (x.terms ≤ 2 ^ 40 ∨ x = accLimit) ∧ (y.terms ≤ 2 ^ 40 ∨ y = accLimit) ∧ (z.terms ≤ 2 ^ 40 ∨ z = accLimit)) :=
  ⟨⟨[⟨.nan, false, 0, 0, true⟩, default], [default, ⟨.nan, false, 0, 0, true⟩], List.Perm.swap _ _ _⟩,
    ⟨accClear, by decide +kernel⟩,
    ⟨accClear, accLimit, { accClear with terms := 2 ^ 40 }, by decide +kernel⟩⟩

theorem witness_TimeNeverMovesBackUnderASchedule :
    (∃ (s : State) (t : State), TimeInv s.tm ∧ Sys2Proof.Machine.step s = .next t ∧ s.anySchedule = true ∧ t.anySchedule = true) :=
  ⟨tOp.tPart fun q => { q with schSt := 3 }, (tOp.tPart fun q => { q with schSt := 3 }).tick, ⟨tTimeInv _ rfl (by decide +kernel), rfl, by decide +kernel⟩⟩

/-! The cases of clauses that hold several. -/

/-- Each check of R539 has an access that reaches it. -/
theorem witness_RegistersAndSlots_checks :
    (∃ (a : Nat), tOp.recoveryGate (tOp.conn 6) true a = none ∧ connKind (tOp.conn 6) ≠ 1 ∧ tOp.levelGate (tOp.conn 6) true a = true ∧ a % 8 ≠ 0) ∧
    (∃ (a : Nat), a % 8 = 0 ∧ locate a = none ∧ tOp.recoveryGate (tOp.conn 6) true a = none) ∧
    (∃ (a : Nat), a % 8 = 0 ∧ locate a = some (.fw, 0x20) ∧ tOp.roleMay (tOp.conn 6) true .fw 0x20 = false) ∧
    (∃ (a : Nat), a % 8 = 0 ∧ locate a = some (.conn 6, 0) ∧ tOp.roleMay (tOp.conn 6) true (.conn 6) 0 = true ∧
      tOp.stateMay true (.conn 6) 0 = false) ∧
    (∃ (a : Nat), a % 8 = 0 ∧ locate a = some (.root, 0) ∧ tOp.roleMay (tOp.conn 6) false .root 0 = true ∧
      tOp.stateMay false .root 0 = true) :=
  ⟨⟨4, by decide +kernel⟩, ⟨0x1F00, by decide +kernel⟩, ⟨0x7020, by decide +kernel⟩, ⟨0x8000300, by decide +kernel⟩, ⟨0, by decide +kernel⟩⟩

/-- Slot writes that are taken, refused by value and refused under a job. -/
theorem witness_RegistersAndSlots_slots :
    (jobRuns (tOp.part 0) = false ∧ (slotCfgWrite (tOp.slot 65535) 0x00007F0000000000).isSome = true ∧
      slotCfgWrite (tOp.slot 65535) (2 ^ 63) = none) ∧
    jobRuns ((tRun 0 (tWords kWait)).part 0) = true ∧
    (∃ (w : W64), stScale w ≠ 255 ∧ cfgFloor (tOp.slot 0).cfg ≤ stLevel w ∧ stLevel w ≤ cfgCeil (tOp.slot 0).cfg ∧
      cfgFloor (tOp.slot 0).cfg ≤ stBase w ∧ stBase w ≤ cfgCeil (tOp.slot 0).cfg ∧ stBias w ≤ cfgBiasMax (tOp.slot 0).cfg ∧
      stValid w = 16 ∧ fld w 23 0 = 0) ∧
    (∃ (w : W64), stScale w = 255) ∧ (∃ (w : W64), 16 < stValid w) ∧ (∃ (w : W64), fld w 23 0 ≠ 0) :=
  ⟨by decide +kernel, by decide +kernel, ⟨at_ 63 56 254 ||| at_ 28 24 16, by decide +kernel⟩, ⟨at_ 63 56 255, by decide +kernel⟩,
    ⟨at_ 28 24 17, by decide +kernel⟩, ⟨1, by decide +kernel⟩⟩

/-- A TOKEN that a role forbids, and a VERDICT of every kind that finds no job. -/
theorem witness_messages_cases :
    (InOrder tOp (tRx { tToken with dconn := 7 }) { tToken with dconn := 7 } 7 ∧ tOp.opGate 7 { tToken with dconn := 7 } ≠ 0) ∧
    (∀ k ∈ [1, 2, 3, 4, 5, 6, 7, 8], Message tOp (tRx (tV 0 k 0)) (tV 0 k 0) 5 0 opVerdict ∧ leAt (tV 0 k 0).ctl 8 1 = k) ∧
    (tOp.part 0).stn.st = 0 :=
  ⟨by simp only [InOrder, OnOpen, Arrives]; decide +kernel, by simp only [Message, InOrder, OnOpen, Arrives]; decide +kernel, by decide +kernel⟩

/-- Every state that a partition command is turned away in. -/
theorem witness_PartitionCommandsAct_refused :
    ViaOpen (tOp.tState .running) tSess 2 ∧ ViaOpen (tOp.tState .tearing) tSess 2 ∧ ViaOpen { tOp with pwr := { tOp.pwr with remove := 1 } } tSess 2 :=
  ⟨by simp only [ViaOpen]; decide +kernel, by simp only [ViaOpen]; decide +kernel, by simp only [ViaOpen]; decide +kernel⟩

/-! Well-formedness: each check refuses a term that breaks it, and takes the largest that does not. -/

def tVia : Via := ⟨16382, 65535⟩
theorem smoke_wf_ranges :
    (Instr.selftestDone 16 true).wf = false ∧ (Instr.selftestDone 15 true).wf = true ∧ (Instr.roundStart 16).wf = false ∧
    (Instr.roundStart 15).wf = true ∧ (Instr.linkDown 16 0).wf = false ∧ (Instr.linkDown 15 8).wf = false ∧ (Instr.linkDown 15 7).wf = true ∧
    (Instr.laneSelftest 256 true).wf = false ∧ (Instr.laneSelftest 255 true).wf = true ∧ (Instr.devResetCore tVia 4096).wf = false ∧
    (Instr.devResetCore tVia 4095).wf = true ∧ (Instr.ackSend 16383).wf = false ∧ (Instr.ackSend 16382).wf = true ∧
    (Instr.scrubPass 0 [] [⟨2 ^ 34, .lost⟩]).wf = false ∧ (Instr.scrubPass 0 [] [⟨2 ^ 34 - 1, .lost⟩]).wf = true ∧
    (Instr.opTimeout 0 65536).wf = false ∧ (Instr.opTimeout 0 65535).wf = true ∧ (Instr.cadSlotCfgWrite tVia 65536 0).wf = false ∧
    (Instr.cadSlotCfgWrite tVia 65535 0).wf = true ∧ (Instr.sweepPassDone ⟨4096, []⟩).wf = false ∧ (Instr.sweepPassDone ⟨4095, []⟩).wf = true ∧
    (Instr.waitIssue 0 0x1020 []).wf = false ∧ (Instr.waitIssue 0 0x101F []).wf = true ∧ (Instr.layerClose 0 4096).wf = false ∧
    (Instr.layerClose 0 4095).wf = true := by decide +kernel
theorem smoke_wf_values :
    (Instr.powerUp 65536 0).wf = false ∧ (Instr.powerUp 0 65536).wf = false ∧ (Instr.powerUp 65535 65535).wf = true ∧
    (Instr.waitIssue 0 0 [⟨2 ^ 34, .lost⟩]).wf = false ∧ (Instr.waitIssue 0 0 [⟨2 ^ 34 - 1, .lost⟩]).wf = true ∧
    (Instr.pwrRemoveRequest ⟨16383, 0⟩).wf = false ∧ (Instr.pwrRemoveRequest ⟨0, 65536⟩).wf = false ∧ (Instr.pwrRemoveRequest tVia).wf = true ∧
    (Instr.pinHeld 7).wf = false ∧ (Instr.pinHeld 6).wf = true ∧ (Instr.phaseFail true 8 0).wf = false ∧ (Instr.phaseFail false 16 0).wf = false ∧
    (Instr.phaseFail false 15 0).wf = true ∧ (Instr.brownOut 65536 0).wf = false ∧ (Instr.fastLimiter ⟨0, 65536, 0, 0⟩).wf = false ∧
    (Instr.fastLimiter ⟨65535, 65535, 65535, 65535⟩).wf = true ∧ (Instr.inputSag 65536 ⟨0, 0, 0, 0⟩ 0).wf = false ∧
    (Instr.pwrManagerTick []).wf = false ∧ (Instr.pwrManagerTick (List.replicate 16 { (default : ColMeasure) with limitBin := 25 })).wf = false ∧
    (Instr.pwrManagerTick (List.replicate 16 { (default : ColMeasure) with power := 4096 })).wf = false ∧
    (Instr.pwrManagerTick (List.replicate 16 { (default : ColMeasure) with limitBin := 24 })).wf = true ∧
    (Instr.thermalSample (List.replicate 16 2048)).wf = false ∧ (Instr.thermalSample [0]).wf = false ∧
    (Instr.thermalTrip 0 65536).wf = false ∧ (Instr.coolantSample 65536 0 0).wf = false ∧
    (Instr.lifeUpdate [{ (default : LifeRec) with index := 616 }]).wf = false ∧ (Instr.lifeUpdate [{ (default : LifeRec) with margin := 256 }]).wf = false ∧
    (Instr.lifeUpdate [{ (default : LifeRec) with index := 615 }]).wf = true := by decide +kernel
theorem smoke_wf_fields :
    (Instr.heartbeatSample 0 [(296, 0)]).wf = false ∧ (Instr.heartbeatSample 0 [(295, 65536)]).wf = false ∧ (Instr.heartbeatSample 0 [(295, 65535)]).wf = true ∧
    (Instr.logDigestCheck (2 ^ 512)).wf = false ∧ (Instr.logDigestCheck (2 ^ 512 - 1)).wf = true ∧ (Instr.dumpDone [16 * 4096]).wf = false ∧
    (Instr.dumpDone [296]).wf = false ∧ (Instr.dumpDone [15 * 4096 + 295]).wf = true ∧ (Instr.schLoad tVia 0 (2 ^ 40) []).wf = false ∧
    (Instr.schLoad tVia 15 (2 ^ 40 - 1) []).wf = true ∧ (Instr.pullTimeout 0 (2 ^ 24)).wf = false ∧ (Instr.memDmaResume tVia 0 4).wf = false ∧
    (Instr.memDmaResume tVia 0 3).wf = true ∧ (Instr.holeRetransmit 0 (2 ^ 32)).wf = false ∧ (Instr.pfcFrameReceive 0 256).wf = false ∧
    (Instr.pfcPauseSend 0 8 0).wf = false ∧ (Instr.pfcPauseSend 0 7 0).wf = true ∧ (Instr.neighbourReceive ⟨17, 0, none⟩ false 0 ⟨0, 0⟩).wf = false ∧
    (Instr.neighbourReceive ⟨16, 0, none⟩ false (2 ^ 32) ⟨0, 0⟩).wf = false ∧ (Instr.neighbourReceive ⟨16, 8, none⟩ true 0 ⟨0, 0⟩).wf = false ∧
    (Instr.neighbourReceive ⟨16, 0, some 4096⟩ true 0 ⟨0, 0⟩).wf = false ∧ (Instr.neighbourReceive ⟨16, 0, none⟩ true 0 ⟨0, 2 ^ 48⟩).wf = false ∧
    (Instr.neighbourReceive ⟨16, 7, some 4095⟩ true (2 ^ 128 - 1) ⟨0, 0⟩).wf = true ∧
    (Instr.ptpSourceLost 2).wf = false ∧ (Instr.ptpSourceLost 1).wf = true := by decide +kernel
theorem smoke_wf_frames :
    (Instr.regRead (tRx (tWrite 5 0))).wf = true ∧ (Instr.regRead { tRx (tWrite 5 0) with port := 19 }).wf = false ∧
    (Instr.regRead { tRx (tWrite 5 0) with sub := 8 }).wf = false ∧ (Instr.regRead { tRx (tWrite 5 0) with src := 2 ^ 32 }).wf = false ∧
    (Instr.regRead { tRx (tWrite 5 0) with vid := some 4096 }).wf = false ∧ (Instr.regRead { tRx (tWrite 5 0) with w0 := 2 ^ 64 }).wf = false ∧
    (Instr.regRead { tRx (tWrite 5 0) with grans := [[]] }).wf = false ∧ (Instr.regRead { tRx (tWrite 5 0) with mask := 2 ^ 32 }).wf = false ∧
    (Instr.regRead { tRx (tWrite 5 0) with tags := [2 ^ 32] }).wf = false ∧ (Instr.regRead { tRx (tWrite 5 0) with ctl := zeros 65 }).wf = false ∧
    (Instr.regRead { tRx (tWrite 5 0) with check := 2 ^ 32 }).wf = false ∧ (Instr.regRead { tRx (tWrite 5 0) with ttl := 256 }).wf = false ∧
    (Instr.regRead { tRx (tWrite 5 0) with pcp := 8 }).wf = false := by
  decide +kernel
theorem smoke_wf_ptp :
    (Instr.ptpSyncReceive tPtpOn.toPtpLink tPtpOn.frame tPtpOn.rate tPtpOn.synce).wf = true ∧
    ([{ tPtpOn with port := 16 }, { tPtpOn with sub := 8 }, { tPtpOn with vid := some 4096 }, { tPtpOn with pcp := 8 },
      { tPtpOn with frame := { tPtpOn.frame with src := 2 ^ 32 } }, { tPtpOn with frame := { tPtpOn.frame with dst := 2 ^ 32 } },
      { tPtpOn with frame := { tPtpOn.frame with ttl := 256 } }, { tPtpOn with frame := { tPtpOn.frame with sum := 65536 } }].all fun x =>
        !(Instr.ptpSyncReceive x.toPtpLink x.frame x.rate x.synce).wf) = true ∧
    (let m := tPtpOn.frame.msg
     [{ m with kind := 16 }, { m with domain := 256 }, { m with source := 2 ^ 80 }, { m with seq := 65536 }, { m with target := 2 ^ 80 },
      { m with corr := 2 ^ 63 }, { m with interval := 128 }].all fun m =>
        !(Instr.forwardPacket (.ptp { tPtpOn with frame := { tPtpOn.frame with msg := m } })).wf) = true := by
  decide +kernel

/-! Worked examples of the spec: the words and addresses that its text gives. -/

/-- The decoded codes of the example of chapter 02. -/
theorem test_decodes :
    decodeElement .e4m3 0xC5 = ⟨.finite, true, 13, -2, false⟩ ∧ decodeScaled .e4m3 0xC5 0x82 false = ⟨.finite, true, 13, 1, false⟩ ∧
    decodeElement .e5m2 0x03 = ⟨.finite, false, 3, -16, false⟩ ∧ decodeElement .e5m2 0xFC = ⟨.inf, true, 0, 0, false⟩ ∧
    decodeElement .e2m3 0b011110 = ⟨.finite, false, 14, -1, false⟩ ∧ decodeElement .e3m2 0b100001 = ⟨.finite, true, 1, -4, false⟩ ∧
    decodeElement .e2m1 0xF = ⟨.finite, true, 3, 1, false⟩ ∧ decodeElement .mxint8 0x80 = ⟨.finite, true, 128, -6, false⟩ ∧
    decodeElement .bf16 0x3F80 = ⟨.finite, false, 128, -7, false⟩ ∧ decodeElement .fp16 0x7BFF = ⟨.finite, false, 2047, 5, false⟩ ∧
    decodeElement .fp32 1 = ⟨.finite, false, 1, -149, false⟩ ∧ (decodeScaled .e4m3 0 0xFF false).cls = .nan := by decide +kernel
/-- Four 6-bit codes pack as 0x81, 0x47, 0xFE (chapter 02). -/
theorem test_packs : pack 6 [1, 0b011110, 0b100100, 0b111111] = [0x81, 0x47, 0xFE] := by decide +kernel
/-- 32 products of -0, then a bias of +0 (chapter 03). -/
theorem test_negative_zero :
    (addTerms accClear (List.replicate 32 ⟨.finite, true, 0, 0, false⟩)) = { accClear with terms := 32, negz := true } ∧
    (addTerm { accClear with terms := 32, negz := true } ⟨.finite, false, 0, 0, false⟩) = { accClear with terms := 33, negz := false } := by decide +kernel
/-- The SA example of chapter 03: -4,991 at anchors -12, -11 and -15. -/
theorem test_sa_anchor :
    (saOutput (-12) [[⟨.finite, true, 4991, -12, false⟩]]).toOption.map (·.value) = some (-4991 * 2 ^ 292) ∧
    saOutput (-11) [[⟨.finite, true, 4991, -12, false⟩]] = .error (0, .belowAnchor) ∧
    saOutput (-15) [[⟨.finite, true, 4991, -12, false⟩]] = .error (0, .beyond16) := by decide +kernel
theorem test_last_loss : lastLossWord 0x1A2B (-15) ⟨some 0, 37, 0, .beyond16⟩ = 0x00001A2B96FC4000 := by decide +kernel
/-- K = 2,080 in class MX8 takes 65 cycles in LA mode and 33 in SA mode, and 260 with a 16-bit operand (chapter 04). -/
theorem test_tile_cycles : tileCycles 65 2 false = 65 ∧ tileCycles 65 2 true = 33 ∧ tileCycles 65 3 false = 260 := by decide +kernel
theorem test_status_words :
    cubWord 16 5 true true 3 = 0x10BB00 ∧ lastOvfWord 0x2C40 21 0 2 false (-3) = 0x00002C405427F400 ∧
    lastReplayWord 0x2A17 0x15B3C 1 false 0 false 1 2 1 = 0x2A175B3C20280200 ∧
    schLoadStatus { Part.reset with schCause := 0x10, schSt := 4, schStream := 0x1000, schEntry := 0x1C4 } = 0x10900000000001C4 ∧
    wipeStatus { Part.reset with wipeSt := 4, wipeRegion := 0x2A, wipeGen := 1 } = 0x8002A10000000000 ∧
    connState { tConn 1 0 with peerTgen := 3, txPsn := 0x80000011 } = 0x4018000080000011 ∧
    lastFailWord 0x3A10 2000 (4 * 256 + 9 * 16 + 6) 6 3 5 1 = 0x00003A10F418CC54 ∧
    colPwrState { ColPwr.reset with bin := 8, cause := 2, power := 187, tj := 885 } = 0x4105DB75C0000000 ∧
    partFaultWord { Part.reset with st := .orphaned, isParked := true, faultEvent := 0x94, faultStep := 0x3E8 } = 0x0094C000000003E8 := by decide +kernel
theorem test_module_words :
    ({ tOp with fw := { tOp.fw with service := .operational, aOk := true, bOk := true, owner := true, act := .deferred, iface := 0x30002 } } : State).fwStatus
      = 0x6E60000300020000 ∧
    (({ tOp with net := { tOp.net with conns := [] } } : State).tPart fun q => { q with pri := 1, tgen := 6, clusters := 2 ^ 32 - 1 }).partStatus 0
      = 0x2418040000000000 := by decide +kernel
/-- The region of the layout example of chapter 08: its status, and where a byte of it and its tag lie. -/
def tLayout : Region := { Region.reset with pmap := 0x2000000800000000, dmap := 0x9A08002000000000, attr := 0x55C0000000000000, st := 2 }
theorem test_region_layout :
    regionStatus tLayout = 0x08000000EC000000 ∧ regionStatus { tLayout with gen := 1, debt := 1 } = 0x18400000EC000000 ∧
    rgnPart tLayout = 3 ∧ rgnDlen tLayout = 0xEC000000 ∧ rgnDpa tLayout 0x12345680 = 0x51048D1680 ∧
    rgnDpa tLayout (rgnTagAt tLayout 0x123456) = 0x513B123158 ∧
    ((tOp.tRegion tLayout).regionAt 3 0x2012345680).map (fun e => (e.1, e.2.2)) = some (0, 0x12345680) := by decide +kernel
/-- The header of the packet example of chapter 09. -/
theorem test_packet_words :
    (let p : Pkt := { tPkt opWrite 0x456 with
      first := false, prov := true, sconn := 0x123, psn := 0x80000010, w2 := 0x2012345600 * 2 ^ 24 + 32 * 2 ^ 18 + 0xABC,
      w3 := (0x952 * 2 ^ 9 + 0x14) * 2 ^ 10 + 0x1DC }
     pktW0 p = 0x1188115812303000 ∧ pktW1 p = 0x8000001000000000 ∧ p.w2 = 0x2012345600800ABC ∧ pktW3 p / 2 ^ 32 = 0x4A9051DC) := by decide +kernel
/-- The CTL example of chapter 16: W2 and W3 of a read of MEM_CE_COUNT of column 5. -/
theorem test_ctl_words :
    0x12000500 * 2 ^ 16 + 0x42 = 0x0000120005000042 ∧ 1 * 2 ^ 24 = 0x01000000 ∧ ctlOp { tPkt opCtl 5 with w3 := 0x01000000 } = 1 ∧
    nfld 0x0000120005000042 63 16 = 0x12000500 ∧ locate 0x12000500 = some (.memCol 5, 0) := by decide +kernel
/-- The register addresses that the examples name. -/
theorem test_addresses :
    locate 0x107304320 = some (.acc (7 * 256 + 3 * 16 + 12), 0x20) ∧ locate 0x107305330 = some (.cube (7 * 256 + 3 * 16 + 12), 0x30) ∧
    locate 0x107307338 = some (.out (7 * 256 + 3 * 16 + 12), 0x38) ∧ locate 0x107306000 = some (.ramp (7 * 16 + 3), 0) ∧
    locate 0x104908038 = some (.strainer (4 * 16 + 9), 0x38) ∧ locate 0x8022B38 = some (.conn 0x456, 0x38) ∧ locate 0x2208 = some (.sch 2, 8) ∧
    locate 0x11000220 = some (.cad 2, 0x20) ∧ locate 0x30C8 = some (.memPart 3, 8) ∧ locate 0x4000558 = some (.region 0x2A, 0x18) ∧
    locate 0x6180 = some (.xsiPart 2, 0) ∧ locate 0x9008 = some (.devPart 0, 8) ∧ locate 0x18000508 = some (.pwrCol 5, 8) ∧
    locate 0x102A1700 = some (.slot 0x2A17, 0) := by decide +kernel
/-- Connection 0x123 is served by column 3 (chapter 09). -/
theorem test_serving : tOp.serving 0x123 = 3 := by decide +kernel
/-- The round example of chapter 07. -/
theorem test_rounds :
    roundAt (1700000000000000000 + 3072000500) 1700000000000000000 11 = 1500000 ∧ cyclesPerRound 11 2000 = 4096 := by decide +kernel
/-- No word spells a command: the table gives no row bits (log 23). -/
theorem test_no_words : decodeTableWord 0 0 = none ∧ (State.withFetchWord State.reset 64 1).pending = [] := by decide +kernel

end Sys2Proof.Machine
end

/-! ## Tables: a second write, and sums over a table -/

namespace Sys2Proof.Table

variable {α : Type}

theorem erase_of_no_key (t : Table α) (i : Nat) (h : ∀ e ∈ t, e.1 ≠ i) : erase t i = t := by
  rw [erase_eq_filter, List.filter_eq_self]
  simpa using h

theorem erase_insert_same (i : Nat) (v : α) (t : Table α) (h : ∀ e ∈ t, e.1 ≠ i) : erase (insert i v t) i = t := by
  induction t with
  | nil => simp [insert, erase]
  | cons e t ih =>
    obtain ⟨j, w⟩ := e
    have hj : j ≠ i := h (j, w) (by simp)
    have ht : ∀ e ∈ t, e.1 ≠ i := fun e he => h e (by simp [he])
    by_cases hl : i < j
    · simp [insert, hl, erase, hj, erase_of_no_key t i ht]
    · simp [insert, hl, erase, hj, ih ht]

/-- The last of two writes of an entry stands. -/
theorem set_set [DecidableEq α] (d : α) (t : Table α) (i : Nat) (v w : α) : set d (set d t i v) i w = set d t i w := by
  have herase : erase (set d t i v) i = erase t i := by
    unfold set
    split
    · exact erase_of_no_key _ _ (erase_no_key t i)
    · exact erase_insert_same i v _ (erase_no_key t i)
  show (if w = d then erase (set d t i v) i else insert i w (erase (set d t i v) i)) = set d t i w
  rw [herase, set]

theorem sum_insert (w : α → Nat) (i : Nat) (v : α) (t : Table α) :
    ((insert i v t).map fun e => w e.2).sum = w v + (t.map fun e => w e.2).sum := by
  induction t with
  | nil => simp [insert]
  | cons e t ih =>
    obtain ⟨j, x⟩ := e
    by_cases hl : i < j
    · simp [insert, hl]
    · simp only [insert, hl, if_false, List.map_cons, List.sum_cons, ih]
      omega

theorem sum_erase_add_get (w : α → Nat) (d : α) (t : Table α) (i : Nat) (hd : w d = 0) :
    ((erase t i).map fun e => w e.2).sum + w (get d t i) ≤ (t.map fun e => w e.2).sum := by
  induction t with
  | nil => simp [erase, hd]
  | cons e t ih =>
    obtain ⟨j, x⟩ := e
    by_cases hj : j = i
    · simp only [erase, get, hj, if_true, List.map_cons, List.sum_cons]
      omega
    · simp only [erase, get, hj, if_false, List.map_cons, List.sum_cons]
      omega

/-- A write of an entry of no more weight leaves the weight of the table no greater. -/
theorem sum_set_le [DecidableEq α] (w : α → Nat) (d : α) (t : Table α) (i : Nat) (v : α) (hd : w d = 0)
    (hv : w v ≤ w (get d t i)) : ((set d t i v).map fun e => w e.2).sum ≤ (t.map fun e => w e.2).sum := by
  have := sum_erase_add_get w d t i hd
  unfold set
  split
  · omega
  · rw [sum_insert]; omega

end Sys2Proof.Table

/-! ## What a connection sends -/

namespace Sys2Proof.Machine

theorem updConn_updConn (s : State) (c : Nat) (f g : Conn → Conn) : (s.updConn c f).updConn c g = s.updConn c (g ∘ f) := by
  simp only [State.updConn, State.conn, Table.get_set_same, Table.set_set, Function.comp]

/-- Between s and t nothing changes but the frames queued at the ports and what connection c keeps of its sending. -/
structure TxOnly (c : Nat) (s t : State) : Prop where
  rest : t = { s with net := { s.net with egress := t.net.egress, conns := t.net.conns } }
  other : ∀ k, k ≠ c → t.conn k = s.conn k
  own : t.conn c = { s.conn c with
    txPsn := (t.conn c).txPsn, spray := (t.conn c).spray, copies := (t.conn c).copies, txWait := (t.conn c).txWait,
    rxDebt := (t.conn c).rxDebt, ackNow := (t.conn c).ackNow, rxCe := (t.conn c).rxCe }

/-- f changes no more of a connection than what it keeps of its sending. -/
def TxUpdate (f : Conn → Conn) : Prop := ∀ k, f k = { k with
  txPsn := (f k).txPsn, spray := (f k).spray, copies := (f k).copies, txWait := (f k).txWait,
  rxDebt := (f k).rxDebt, ackNow := (f k).ackNow, rxCe := (f k).rxCe }

namespace TxOnly

variable {c : Nat} {s t u : State}

theorem trans (h₁ : TxOnly c s t) (h₂ : TxOnly c t u) : TxOnly c s u where
  rest := by have h := h₂.rest; rw [h₁.rest] at h; exact h
  other k hk := (h₂.other k hk).trans (h₁.other k hk)
  own := by have h := h₂.own; rw [h₁.own] at h; exact h

/-- A frame queued on connection c, and a change of what the connection keeps of its sending. -/
theorem of_emit_updConn (s : State) (c : Nat) (p : Pkt) (at' : Nat × Nat) (f : Conn → Conn) (hf : TxUpdate f) :
    TxOnly c s ((s.emit c p at').updConn c f) where
  rest := rfl
  other k hk := updConn_conn_ne _ _ _ hk
  own := by rw [updConn_conn_same]; exact hf _

/-- A change of what the connection keeps of its sending. -/
theorem of_updConn (s : State) (c : Nat) (f : Conn → Conn) (hf : TxUpdate f) :
    TxOnly c s (s.updConn c f) where
  rest := rfl
  other k hk := updConn_conn_ne _ _ _ hk
  own := by rw [updConn_conn_same]; exact hf _

theorem conn_cfg (h : TxOnly c s t) (k : Nat) : (t.conn k).cfg = (s.conn k).cfg := by
  by_cases hk : k = c
  · rw [hk, h.own]
  · rw [h.other k hk]

theorem conn_st (h : TxOnly c s t) : (t.conn c).st = (s.conn c).st := by rw [h.own]
theorem conn_rxHeld (h : TxOnly c s t) : (t.conn c).rxHeld = (s.conn c).rxHeld := by rw [h.own]
theorem conn_rxOps (h : TxOnly c s t) : (t.conn c).rxOps = (s.conn c).rxOps := by rw [h.own]

theorem part_eq (h : TxOnly c s t) (p : Nat) : t.part p = s.part p := by rw [h.rest]; rfl

/-- Every piece but the network is the same. -/
theorem keeps (h : TxOnly c s t) : Keeps [.network, .stewards] s t := by
  intro p hp
  rw [h.rest]
  cases p with
  | network | stewards => simp at hp
  | _ => rfl

theorem serves_eq (h : TxOnly c s t) : t.serves c = s.serves c := by
  unfold State.serves connKind connPart
  dsimp only
  rw [h.part_eq, h.conn_st, h.conn_cfg]

/-- The spray set does not depend on what has been sent (R328). -/
theorem sprayNow_eq (h : TxOnly c s t) : t.sprayNow c = s.sprayNow c := by
  unfold State.sprayNow
  rw [h.own, h.rest]
  rfl

end TxOnly

theorem moveIfEmpty_of_spray (s : State) (c : Nat) (h : s.sprayNow c ≠ []) : s.moveIfEmpty c = s := by
  simp [State.moveIfEmpty, h]

/-- A spray set that is not empty gives a sub-port (R328). -/
theorem exists_pickSub (k : Conn) (set : List (Nat × Nat)) (h : set ≠ []) : ∃ at', pickSub k set = some at' := by
  have hpos := List.length_pos_iff.mpr h
  have hlt : k.spray % max set.length 1 < set.length := by
    rw [Nat.max_eq_left hpos]; exact Nat.mod_lt _ hpos
  exact ⟨_, List.getElem?_eq_getElem hlt⟩

@[simp] theorem emit_conn (s : State) (c : Nat) (p : Pkt) (at' : Nat × Nat) (k : Nat) : (s.emit c p at').conn k = s.conn k := rfl

/-- The packet that connection c makes of p: the fields that name the connection are filled in (R306, R313). -/
def State.headed (s : State) (c : Nat) (p : Pkt) : Pkt :=
  { p with sconn := c, dconn := connPeer (s.conn c),
           tgen := if p.op = opCtl ∧ p.w3 / 2 ^ 24 = 0x10 then 0 else (s.conn c).peerTgen }

theorem send_eq (s : State) (c : Nat) (p : Pkt) :
    s.send c p = if (s.conn c).txWait.isEmpty then s.sendNow c (s.headed c p)
      else s.updConn c fun k => { k with txWait := k.txWait ++ [s.headed c p] } := rfl

/-- A packet ready to go is put last in line: it leaves at once with its copy, or it waits (R322). -/
theorem sendNow_sends (s : State) (c : Nat) (p : Pkt) (h : s.sprayNow c ≠ []) (hw : (s.conn c).txWait = []) :
    TxOnly c s (s.sendNow c p) ∧ outList ((s.sendNow c p).conn c) = outList (s.conn c) ++ [{ p with psn := 0 }] := by
  obtain ⟨at', hat⟩ := exists_pickSub (s.conn c) _ h
  unfold State.sendNow
  simp only [moveIfEmpty_of_spray s c h, hat]
  cases s.roomFor c p.grans.length with
  | true => exact ⟨TxOnly.of_emit_updConn _ _ _ _ _ fun _ => rfl, by simp [outList, hw]⟩
  | false => exact ⟨TxOnly.of_updConn _ _ _ fun _ => rfl, by simp [outList]⟩

/-- A new packet of a connection that has a sub-port follows those it had (R322). -/
theorem send_sends (s : State) (c : Nat) (p : Pkt) (h : s.sprayNow c ≠ []) :
    TxOnly c s (s.send c p) ∧ outList ((s.send c p).conn c) = outList (s.conn c) ++ [{ s.headed c p with psn := 0 }] := by
  rw [send_eq]
  split
  · next hw => exact sendNow_sends s c _ h (List.isEmpty_iff.mp hw)
  · exact ⟨TxOnly.of_updConn _ _ _ fun _ => rfl, by simp [outList]⟩

/-- The completion of operation `id` on a connection that has a sub-port: the DONE ACK waits at its port, and no further ACK is owed
(R319, R320). -/
theorem sendAck_done (s : State) (c id st : Nat) (h : s.sprayNow c ≠ []) :
    TxOnly c s (s.sendAck c (some (id, st))) ∧ DoneSent (s.sendAck c (some (id, st))) c id st ∧
      ((s.sendAck c (some (id, st))).conn c).ackNow = false ∧
      outList ((s.sendAck c (some (id, st))).conn c) = outList (s.conn c) := by
  obtain ⟨at', hat⟩ := exists_pickSub (s.conn c) _ h
  unfold State.sendAck
  simp only [moveIfEmpty_of_spray s c h, hat]
  refine ⟨TxOnly.of_emit_updConn _ _ _ _ _ fun _ => rfl, ?_, by simp, by simp [outList]⟩
  refine ⟨_, ⟨_, List.mem_append_right _ (List.mem_singleton_self _), rfl, ?_⟩, rfl, rfl, rfl, rfl, rfl⟩
  simp [clsOf, opControl, Pkt.blank]

/-- The answer to a CTL operation on a connection that is served and has a sub-port (R303, R320): CTL_RESP, with the status and the value,
then the DONE ACK; nothing else happens. -/
theorem answer_sends (s : State) (c : Nat) (p : Pkt) (status : Nat) (v : W64) (hs : s.serves c = true) (h : s.sprayNow c ≠ []) :
    TxOnly c s (s.answer c p status v) ∧ ((s.answer c p status v).conn c).ackNow = false ∧
      DoneSent (s.answer c p status v) c (pktOp p) status ∧
      ∃ x, Sends s (s.answer c p status v) c [x] ∧ x.op = opCtlResp ∧ x.status = status ∧ x.w2 = p.w2 ∧ x.w3 = p.w3 ∧
        x.ctl = natLE 8 v.toNat ++ zeros 8 := by
  unfold State.answer State.sendResp
  rw [if_pos hs]
  dsimp only
  generalize hr : ({ Pkt.blank opCtlResp with first := true, last := true, w2 := p.w2, w3 := p.w3, status := status,
                                              ctl := natLE 8 v.toNat ++ zeros 8 } : Pkt) = r
  obtain ⟨hsend, hout⟩ := send_sends s c r h
  have hspray : (s.send c r).sprayNow c ≠ [] := by rwa [hsend.sprayNow_eq]
  obtain ⟨hack, hdone, hnow, hkept⟩ := sendAck_done (s.send c r) c (pktOp p) status hspray
  refine ⟨hsend.trans hack, hnow, hdone, { s.headed c r with psn := 0 }, ⟨hkept.trans hout, ?_⟩, ?_⟩
  · simp [State.headed]
  · subst hr
    simp [State.headed, Pkt.blank]

end Sys2Proof.Machine

/-! ## A packet that arrives in order on an open connection -/

namespace Sys2Proof.Machine

theorem updConn_congr (s : State) (c : Nat) {f g : Conn → Conn} (h : f (s.conn c) = g (s.conn c)) : s.updConn c f = s.updConn c g := by
  simp only [State.updConn, h]

@[simp] theorem countPort_conn (s : State) (n : Nat) (f : Port → Port) (k : Nat) : (s.countPort n f).conn k = s.conn k := by
  unfold State.countPort; split <;> rfl
@[simp] theorem countPort_part (s : State) (n : Nat) (f : Port → Port) (p : Nat) : (s.countPort n f).part p = s.part p := by
  unfold State.countPort; split <;> rfl
@[simp] theorem countPort_eltPort (s : State) (n : Nat) (f : Port → Port) (m : Nat) : (s.countPort n f).eltPort m = s.eltPort m := by
  unfold State.countPort; split <;> rfl
theorem countPort_rest (s : State) (n : Nat) (f : Port → Port) :
    s.countPort n f = { s with net := { s.net with ports := (s.countPort n f).net.ports } } := by
  unfold State.countPort; split <;> rfl

/-- A frame with packet p counted at its port: the frame itself (R339), and its CE mark where the packet is no host packet (R299). -/
def State.framed (s : State) (rx : Rx) (p : Pkt) : State := (s.countRx rx).countCe rx.port (rx.ce && !hostPkt (s.conn p.dconn) p)

@[simp] theorem framed_conn (s : State) (rx : Rx) (p : Pkt) (k : Nat) : (s.framed rx p).conn k = s.conn k := by
  unfold State.framed State.countCe State.countRx; split <;> simp
@[simp] theorem framed_part (s : State) (rx : Rx) (p : Pkt) (q : Nat) : (s.framed rx p).part q = s.part q := by
  unfold State.framed State.countCe State.countRx; split <;> simp
@[simp] theorem framed_tm (s : State) (rx : Rx) (p : Pkt) : (s.framed rx p).tm = s.tm := by
  simp [State.framed]

theorem framed_rest (s : State) (rx : Rx) (p : Pkt) :
    s.framed rx p = { s with net := { s.net with ports := (s.framed rx p).net.ports } } := by
  unfold State.framed State.countCe State.countRx
  split
  · rw [countPort_rest, countPort_rest s]
  · rw [countPort_rest]

/-- A counter of a port leaves every field that its update leaves. -/
theorem countPort_port {β : Type} (g : Port → β) (s : State) (m : Nat) (f : Port → Port) (hf : ∀ q, g (f q) = g q) (n : Nat) :
    g ((s.countPort m f).port n) = g (s.port n) := by
  unfold State.countPort
  split
  · by_cases hn : n = m
    · rw [hn, updPort_port_same, hf]
    · rw [updPort_port_ne _ _ _ hn]
  · rfl

theorem countRx_port (s : State) (rx : Rx) (n : Nat) :
    ((s.countRx rx).port n).cfg = (s.port n).cfg ∧ ((s.countRx rx).port n).subs = (s.port n).subs :=
  ⟨countPort_port Port.cfg s _ _ (by intro _; rfl) n, countPort_port Port.subs s _ _ (by intro _; rfl) n⟩

theorem countCe_port (s : State) (m : Nat) (ce : Bool) (n : Nat) :
    ((s.countCe m ce).port n).cfg = (s.port n).cfg ∧ ((s.countCe m ce).port n).subs = (s.port n).subs := by
  unfold State.countCe
  split
  · exact ⟨countPort_port Port.cfg s _ _ (by intro _; rfl) n, countPort_port Port.subs s _ _ (by intro _; rfl) n⟩
  · exact ⟨rfl, rfl⟩

/-- Counting a frame touches no more of a port than its counters. -/
theorem framed_port (s : State) (rx : Rx) (p : Pkt) (n : Nat) :
    ((s.framed rx p).port n).cfg = (s.port n).cfg ∧ ((s.framed rx p).port n).subs = (s.port n).subs :=
  ⟨(countCe_port _ _ _ n).1.trans (countRx_port s rx n).1, (countCe_port _ _ _ n).2.trans (countRx_port s rx n).2⟩

theorem countRx_vlanOk (s : State) (rx : Rx) : (s.countRx rx).vlanOk rx = s.vlanOk rx := by
  unfold State.vlanOk State.tagOk portTagged portVid
  rw [(countRx_port s rx rx.port).1]

/-- A packet for an open entry of the generation in force, other than an ACK, goes to the window of its connection (R313, R316). -/
theorem entryIn_open (s : State) (rx : Rx) (p : Pkt) (hport : rx.port ≠ 16) (hst : (s.conn p.dconn).st = 2)
    (hkind : connKind (s.conn p.dconn) ≠ 0)
    (hgen : connKind (s.conn p.dconn) = 4 ∨ p.tgen = (s.part (connPart (s.conn p.dconn))).tgen) (hop : p.op ≠ opAck) :
    s.entryIn rx p = s.windowIn p.dconn rx p := by
  have hs : s.serves p.dconn = true := by simp [State.serves, hst]
  have hgen' : ¬(connKind (s.conn p.dconn) ≠ 4 ∧ p.tgen ≠ (s.part (connPart (s.conn p.dconn))).tgen) := by tauto
  simp only [State.entryIn, hs, hst, hkind, hport, hgen', hop, Bool.true_or, Bool.not_true, false_and, or_false, if_false]
  simp

/-- A frame on an open connection is counted, and its packet goes to the window (R293 to R302, R313). -/
theorem receive_onOpen {s : State} {rx : Rx} {p : Pkt} {c : Nat} (row : Nat → Pkt → Bool) (h : OnOpen s rx p c) (hrow : row p.op p = true)
    (hop : p.op ≠ opAck) (hopen : ¬(p.op = opCtl ∧ ctlOp p = 0x10)) : s.receive rx row = (s.framed rx p).windowIn c rx p := by
  obtain ⟨⟨harr, hport, hown, hfcs, hvlan, hfrag, hsum, hdport, hhdr, rfl, hend⟩, rfl, hst, hkind, hgen⟩ := h
  have hopen' : (decide ((rxPkt rx).op = opCtl) && decide (ctlOp (rxPkt rx) = 0x10)) = false := by
    simpa [not_and] using hopen
  have hport' : rx.port ≠ 16 := by omega
  have hrow' : row (nfld rx.w0 59 56) (rxPkt rx) = true := hrow
  have hframed : (s.countRx rx).countCe rx.port
      (rx.ce && !(decide ((rxPkt rx).dconn ≠ 0x3FFF) && hostPkt ((s.countRx rx).conn (rxPkt rx).dconn) (rxPkt rx))) = s.framed rx (rxPkt rx) := by
    simp [State.framed, hend, State.countRx]
  have helt : (s.countRx rx).eltPort rx.port = s.eltPort rx.port := by simp [State.countRx]
  simp only [State.receive, harr, hrow', hown, hfcs, countRx_vlanOk, hvlan, State.ownIn, hfrag, hsum, helt, hdport,
    hhdr, hframed, hopen', hport', hend]
  simpa using entryIn_open (s.framed rx (rxPkt rx)) rx (rxPkt rx) hport' (by simpa) (by simpa) (by simpa) hop

/-- A packet that is the next one expected, with nothing before it missing, is accepted; the ACK that it makes due goes out (R316, R319). -/
theorem windowIn_next (s : State) (c : Nat) (rx : Rx) (p : Pkt) (hpsn : p.psn = (s.conn c).rxNext) (hgot : (s.conn c).rxGot = [])
    (hroom : rx.roomFull = false) (hhost : hostPkt (s.conn c) p = false) :
    s.windowIn c rx p = if ((s.acceptPkt c rx p).conn c).ackNow ∧ (s.acceptPkt c rx p).serves c then (s.acceptPkt c rx p).sendAck c none
      else s.acceptPkt c rx p := by
  simp [State.windowIn, hhost, hpsn, hgot, hroom]

theorem advPsn_next (f n : Nat) : advPsn (f + 2) n [n] = ((n + 1) % 2 ^ 32, []) := by
  simp [advPsn]

end Sys2Proof.Machine

/-! ## A register access that arrives: what is taken in, carried out and answered -/

namespace Sys2Proof.Machine

/-- What connection k keeps of the arrival of packet p in order: the lease renewed (R503), an ACK owed at once (R319), the PSN taken (R316). -/
def Conn.arrived (now : Nat) (p : Pkt) (k : Conn) : Conn :=
  { k with leaseAt := now, rxDebt := k.rxDebt + 1, rxDebtAt := if k.rxDebt = 0 then now else k.rxDebtAt, ackNow := true,
           rxNext := (p.psn + 1) % 2 ^ 32 }

/-- The state in which the register access of packet p on connection c is carried out. -/
def State.ctlTaken (s : State) (c : Nat) (rx : Rx) (p : Pkt) : State := (s.framed rx p).updConn c (Conn.arrived s.tm.clk p)

/-- A register access carried out and answered (R303). -/
def State.ctlAct (s : State) (c : Nat) (p : Pkt) (errs : List MemErr) : State :=
  if ctlOp p = 1 then (s.ctlRead c (nfld p.w2 63 16)).2.2.answer c p (s.ctlRead c (nfld p.w2 63 16)).1 (s.ctlRead c (nfld p.w2 63 16)).2.1
  else (s.ctlWrite c (nfld p.w2 63 16) (BitVec.ofNat 64 (leAt p.ctl 0 8)) errs).2.answer c p
    (s.ctlWrite c (nfld p.w2 63 16) (BitVec.ofNat 64 (leAt p.ctl 0 8)) errs).1 0

/-- The operation that a CTL packet opens at its receiver (R320). -/
def State.ctlRxOp (s : State) (c : Nat) (p : Pkt) : RxOp :=
  ⟨pktOp p, opCtl, 0, some p.psn, relNone, nfld p.w3 9 0, p.prov, [], [], s.gensOf (connPart (s.conn c)), []⟩

/-- A change of a connection that opens no operation lets no more of them be under way (R327). -/
theorem opsInFlight_updConn_le (s : State) (c : Nat) (f : Conn → Conn)
    (hf : (f (s.conn c)).ops.length + (f (s.conn c)).rxOps.length ≤ (s.conn c).ops.length + (s.conn c).rxOps.length) :
    (s.updConn c f).opsInFlight ≤ s.opsInFlight := by
  simp only [State.opsInFlight, ← List.sum_eq_foldl]
  exact Table.sum_set_le (fun k : Conn => k.ops.length + k.rxOps.length) Conn.reset s.net.conns c _ rfl hf

/-- The first packet of a CTL operation, whole, notes its operation with no status (R320). -/
theorem noteOp_ctl (s : State) (c : Nat) (p : Pkt) (hop : p.op = opCtl) (hlast : p.last = true) (hops : (s.conn c).rxOps = [])
    (hfew : s.opsInFlight < 65536) : s.noteOp c p = s.updConn c fun k => { k with rxOps := [s.ctlRxOp c p] } := by
  have hopen : s.openRxOp c p = s.updConn c fun k =>
      { k with rxOps := k.rxOps ++ [⟨pktOp p, p.op, 0, none, relNone, 0, false, [], [], s.gensOf (connPart (s.conn c)), []⟩] } := by
    simp [State.openRxOp, rxOpOf, hops, Nat.not_le.mpr hfew]
  have hopens : opensOp p.op = true := by rw [hop]; decide
  simp only [State.noteOp, hopens, hopen, State.updRxOp, updConn_updConn]
  apply updConn_congr
  simp [hops, State.ctlRxOp, hlast, hop, opCtl, opWrite, opToken]

/-- A CTL packet that is the next one expected waits on its connection, with its operation noted, until it is delivered (R316, R317). -/
theorem acceptPkt_ctl (s : State) (c : Nat) (rx : Rx) (p : Pkt) (hop : p.op = opCtl) (hlast : p.last = true) (htag : rxTagBad rx = false)
    (hpsn : p.psn = (s.conn c).rxNext) (hgot : (s.conn c).rxGot = []) (hheld : (s.conn c).rxHeld = []) (hops : (s.conn c).rxOps = [])
    (hfew : s.opsInFlight < 65536) :
    ∃ o : RxOp, o.opid = pktOp p ∧ o.status = 0 ∧
      s.acceptPkt c rx p = (s.updConn c fun k => { k.arrived s.tm.clk p with rxHeld := [p], rxOps := [o] }).settleRx c rx.errs := by
  have hplaced : placedNow p = false := by rw [placedNow, hop]; decide
  have harr : s.noteArrival c rx p = s.updConn c fun k =>
      { k with leaseAt := s.tm.clk, rxDebt := k.rxDebt + 1, rxDebtAt := if k.rxDebt = 0 then s.tm.clk else k.rxDebtAt, ackNow := true } := by
    simp [State.noteArrival, hplaced, hlast]
  have hfew' : (s.noteArrival c rx p).opsInFlight < 65536 := by
    rw [harr]; exact Nat.lt_of_le_of_lt (opsInFlight_updConn_le s c _ (Nat.le_refl _)) hfew
  have hnote := noteOp_ctl (s.noteArrival c rx p) c p hop hlast (by rw [harr]; simpa using hops) hfew'
  refine ⟨(s.noteArrival c rx p).ctlRxOp c p, rfl, rfl, ?_⟩
  have hadv : advPsn 4097 (s.conn c).rxNext [p.psn] = ((p.psn + 1) % 2 ^ 32, []) := by rw [← hpsn]; exact advPsn_next 4095 p.psn
  simp only [State.acceptPkt, htag, hnote]
  generalize (s.noteArrival c rx p).ctlRxOp c p = o
  simp only [harr, updConn_updConn, updConn_conn_same, Function.comp, hgot, hadv, State.takeContent, hplaced, hop]
  rw [if_neg (by simp), if_neg (by simp), if_neg (by decide)]
  rw [updConn_congr s c (g := fun k => { k.arrived s.tm.clk p with rxHeld := [p], rxOps := [o] })]
  simp [Conn.arrived, hgot, hheld]

/-- A register access delivered: its operation is dropped, and the access is carried out (R303, R538). -/
theorem deliverPkt_access (s : State) (c : Nat) (p : Pkt) (errs : List MemErr) (o : RxOp) (hop : p.op = opCtl)
    (hctl : ctlOp p = 1 ∨ ctlOp p = 2) (hops : (s.conn c).rxOps = [o]) (hid : o.opid = pktOp p) (hst : o.status = 0) :
    s.deliverPkt c p errs = (true, (s.updConn c fun k => { k with rxOps := [] }).ctlAct c p errs) := by
  have hdrop : s.dropRxOp c (pktOp p) = s.updConn c fun k => { k with rxOps := [] } := by
    unfold State.dropRxOp
    exact updConn_congr s c (by simp [hops, hid])
  have hfull : ((rxOpOf (s.conn c) (pktOp p)).map (·.status)).getD 0 = 0 := by simp [rxOpOf, hops, hid, hst]
  have hin : s.ctlIn c p errs = (s.updConn c fun k => { k with rxOps := [] }).ctlAct c p errs := by
    simp only [State.ctlIn, hfull, hdrop, State.ctlAct]
    obtain h | h := hctl <;> simp [h]
  rw [← hin]
  simp [State.deliverPkt, State.dmaHolds, hop, opCtl, opWrite, opRead, opToken, opReduce, opSend]

/-- The next PSN comes after (R316), also where PSNs wrap. -/
theorem psnLt_next (a : Nat) (_ : a < 2 ^ 32) : psnLt a ((a + 1) % 2 ^ 32) = true := by
  simp only [psnLt, Bool.and_eq_true, decide_eq_true_eq]
  omega

/-- Nothing that connection c has received waits, and no operation of its peer is open. -/
def NothingWaits (s : State) (c : Nat) : Prop := (s.conn c).rxHeld = [] ∧ (s.conn c).rxOps = []

/-- A register access that waits alone on its connection is delivered, and nothing of it is left to do (R317). -/
theorem settleRx_access (s : State) (c now : Nat) (p : Pkt) (errs : List MemErr) (o : RxOp) (w : State) (hop : p.op = opCtl)
    (hctl : ctlOp p = 1 ∨ ctlOp p = 2) (hid : o.opid = pktOp p) (host : o.status = 0) (hbound : p.psn < 2 ^ 32) (hst : (s.conn c).st = 2)
    (hw : (s.updConn c fun k => { k.arrived now p with rxHeld := [], rxOps := [] }).ctlAct c p errs = w) (hrest : NothingWaits w c) :
    (s.updConn c fun k => { k.arrived now p with rxHeld := [p], rxOps := [o] }).settleRx c errs = w := by
  obtain ⟨hwheld, hwops⟩ := hrest
  generalize hu : (s.updConn c fun k => { k.arrived now p with rxHeld := [p], rxOps := [o] }) = u
  have hconn : u.conn c = { (s.conn c).arrived now p with rxHeld := [p], rxOps := [o] } := by rw [← hu, updConn_conn_same]
  have hheld : (u.conn c).rxHeld = [p] := by rw [hconn]
  have hpsn : psnLt p.psn (u.conn c).rxNext = true := by rw [hconn]; exact psnLt_next p.psn hbound
  have hserves : u.serves c = true := by simp [State.serves, hconn, Conn.arrived, hst]
  have hplaced : placedNow p = false := by rw [placedNow, hop]; decide
  have hplace : u.placeHeld c errs = u := by simp [State.placeHeld, hheld, hplaced]
  have hplace' : w.placeHeld c errs = w := by simp [State.placeHeld, hwheld]
  have hgone : (u.updConn c fun k => { k with rxHeld := k.rxHeld.filter fun x => x.psn ≠ p.psn })
      = s.updConn c fun k => { k.arrived now p with rxHeld := [], rxOps := [o] } := by
    rw [← hu, updConn_updConn]
    exact updConn_congr s c (by simp)
  have hdeliver : (u.updConn c fun k => { k with rxHeld := k.rxHeld.filter fun x => x.psn ≠ p.psn }).deliverPkt c p errs = (true, w) := by
    rw [hgone, deliverPkt_access _ c p errs o hop hctl (by simp) hid host, updConn_updConn]
    exact congrArg (true, ·) hw
  have hfirst : State.deliver 1 u c errs = w := by
    have hearliest : firstHeld (u.conn c) = some p := by simp [firstHeld, hheld]
    simp only [State.deliver, hearliest, hpsn, hserves, and_self, if_true, hdeliver]
  simp [State.settleRx, hplace, hheld, hfirst, hplace', hwheld, hwops, State.deliver, State.completeOps]

/-- A register access that arrives in order ends in the state of its answer, provided that the answer leaves no packet and no operation
waiting on the connection and no ACK due. -/
theorem receive_access {s : State} {rx : Rx} {p : Pkt} {c : Nat} (row : Nat → Pkt → Bool) (w : State) (h : InOrder s rx p c) (hop : p.op = opCtl)
    (hctl : ctlOp p = 1 ∨ ctlOp p = 2) (hrow : row opCtl p = true) (hw : (s.ctlTaken c rx p).ctlAct c p rx.errs = w)
    (hrest : NothingWaits w c) (hnow : (w.conn c).ackNow = false) : s.receive rx row = w := by
  obtain ⟨hopen, hpsn, hgot, hheld₀, hops₀, hroom, htag, -, hlast, hfew⟩ := h
  have hframed : s.receive rx row = (s.framed rx p).windowIn c rx p :=
    receive_onOpen row hopen (by rw [hop]; exact hrow) (by rw [hop]; decide) (by omega)
  obtain ⟨⟨-, -, -, -, -, -, -, -, -, hp, -⟩, rfl, hst, -, -⟩ := hopen
  have hbound : p.psn < 2 ^ 32 := by rw [hp]; exact Nat.mod_lt _ (by decide)
  have hfew' : (s.framed rx p).opsInFlight < 65536 := by rw [framed_rest]; exact hfew
  obtain ⟨o, hid, host, hacc⟩ := acceptPkt_ctl (s.framed rx p) p.dconn rx p hop hlast htag (by simpa using hpsn) (by simpa using hgot)
    (by simpa using hheld₀) (by simpa using hops₀) hfew'
  have htaken : ((s.framed rx p).updConn p.dconn fun k => { k.arrived (s.framed rx p).tm.clk p with rxHeld := [], rxOps := [] })
      = s.ctlTaken p.dconn rx p := by
    unfold State.ctlTaken
    exact updConn_congr _ _ (by simp [Conn.arrived, hheld₀, hops₀])
  have hsettled : (s.framed rx p).acceptPkt p.dconn rx p = w := by
    rw [hacc]
    exact settleRx_access _ p.dconn _ p rx.errs o w hop hctl hid host hbound (by simpa using hst) (htaken ▸ hw) hrest
  have hhost : hostPkt (s.conn p.dconn) p = false := by simp [hostPkt, hop, opControl, opCtl]
  rw [hframed, windowIn_next _ _ _ _ (by simpa using hpsn) (by simpa using hgot) hroom (by simpa using hhost), hsettled]
  simp [hnow]

end Sys2Proof.Machine

/-! ## What a register access that arrives leaves as it was -/

namespace Sys2Proof.Machine

theorem ctlTaken_conn_same (s : State) (c : Nat) (rx : Rx) (p : Pkt) :
    (s.ctlTaken c rx p).conn c = (s.conn c).arrived s.tm.clk p := by
  simp [State.ctlTaken]

theorem ctlTaken_conn_ne (s : State) (c : Nat) (rx : Rx) (p : Pkt) {k : Nat} (hk : k ≠ c) : (s.ctlTaken c rx p).conn k = s.conn k := by
  rw [State.ctlTaken, updConn_conn_ne _ _ _ hk, framed_conn]

/-- An access that arrives changes counters of its port and its connection, and nothing else. -/
theorem ctlTaken_rest (s : State) (c : Nat) (rx : Rx) (p : Pkt) :
    ∃ P C, s.ctlTaken c rx p = { s with net := { s.net with ports := P, conns := C } } :=
  ⟨_, _, by rw [State.ctlTaken, framed_rest]; rfl⟩

/-- The registers of an entry, and what the checks of R539 read of it, are the same once an access has arrived on it. -/
theorem ctlTaken_conn_regs (s : State) (c : Nat) (rx : Rx) (p : Pkt) (k : Nat) :
    connRegs ((s.ctlTaken c rx p).conn k) = connRegs (s.conn k) ∧ ((s.ctlTaken c rx p).conn k).cfg = (s.conn k).cfg ∧
      ((s.ctlTaken c rx p).conn k).st = (s.conn k).st := by
  by_cases hk : k = c
  · rw [hk, ctlTaken_conn_same]; exact ⟨rfl, rfl, rfl⟩
  · rw [ctlTaken_conn_ne _ _ _ _ hk]; exact ⟨rfl, rfl, rfl⟩

/-- The spray set depends on the network and on the columns in service only (R328). -/
theorem sprayNow_of_net {s t : State} (hnet : t.net = s.net) (hin : t.dev.inService = s.dev.inService) (c : Nat) :
    t.sprayNow c = s.sprayNow c := by
  unfold State.sprayNow State.isOwn State.ownAddr State.lookup State.sprayOf State.subUp State.roleNow State.inService State.conn State.plane
    State.port
  rw [hnet, hin]

theorem sprayNow_updConn_ne (s : State) (f : Conn → Conn) {n c : Nat} (h : n ≠ c) : (s.updConn n f).sprayNow c = s.sprayNow c := by
  unfold State.sprayNow
  rw [updConn_conn_ne _ _ _ h.symm]
  rfl

theorem framed_sprayOf (s : State) (rx : Rx) (p : Pkt) (plane : Nat) (r : Route) : (s.framed rx p).sprayOf plane r = s.sprayOf plane r := by
  have hdev : (s.framed rx p).dev = s.dev := by rw [framed_rest]
  unfold State.sprayOf State.subUp State.roleNow State.inService portMode portRole
  simp only [(framed_port s rx p _).1, (framed_port s rx p _).2, hdev]

theorem ctlTaken_sprayNow (s : State) (c : Nat) (rx : Rx) (p : Pkt) : (s.ctlTaken c rx p).sprayNow c = s.sprayNow c := by
  have hframed : (s.framed rx p).sprayNow c = s.sprayNow c := by
    unfold State.sprayNow
    simp only [framed_conn, framed_sprayOf]
    rw [framed_rest]
    rfl
  rw [← hframed]
  unfold State.sprayNow
  rw [ctlTaken_conn_same, framed_conn]
  rfl

theorem ctlTaken_stateMay (s : State) (c : Nat) (rx : Rx) (p : Pkt) (w : Bool) (b : RegBlock) (off : Nat) :
    (s.ctlTaken c rx p).stateMay w b off = s.stateMay w b off := by
  have hregs := ctlTaken_conn_regs s c rx p
  obtain ⟨P, C, hrest⟩ := ctlTaken_rest s c rx p
  cases b with
  | conn n =>
    obtain ⟨-, hcfg, hst⟩ := hregs n
    unfold State.stateMay connKind
    dsimp only
    rw [hcfg, hst]
    rfl
  | _ => rw [hrest]; rfl

/-- The arrival of an access changes nothing that its checks look at (R539). -/
theorem ctlTaken_ctlCheck (s : State) (c : Nat) (rx : Rx) (p : Pkt) (w : Bool) (a : Nat) :
    (s.ctlTaken c rx p).ctlCheck c w a = s.ctlCheck c w a := by
  have hmay := ctlTaken_stateMay s c rx p w
  have hconn := ctlTaken_conn_same s c rx p
  obtain ⟨P, C, hrest⟩ := ctlTaken_rest s c rx p
  unfold State.ctlCheck
  simp only [hmay, hconn]
  rw [hrest]
  rfl

/-- The registers that count at no port and tell of no session read the same once an access has arrived. -/
theorem ctlTaken_readReg (s : State) (c : Nat) (rx : Rx) (p : Pkt) (b : RegBlock) (off : Nat)
    (hb : ∀ n, b ≠ .port n ∧ b ≠ .xsiPart n ∧ b ≠ .devPart n) : (s.ctlTaken c rx p).readReg b off = s.readReg b off := by
  have hregs := ctlTaken_conn_regs s c rx p
  obtain ⟨P, C, hrest⟩ := ctlTaken_rest s c rx p
  cases b with
  | conn n => simp only [State.readReg, (hregs n).1]
  | port n => exact absurd rfl (hb n).1
  | xsiPart n => exact absurd rfl (hb n).2.1
  | devPart n => exact absurd rfl (hb n).2.2
  | _ => rw [hrest]; rfl

theorem clearGlobal_inService (s : State) (b : RegBlock) (r : Nat) : (s.clearGlobal b r).dev.inService = s.dev.inService := by
  unfold State.clearGlobal
  split <;> rfl

/-- Clearing a register takes no column out of service. -/
theorem clearReg_inService (s : State) (b : RegBlock) (off : Nat) : (s.clearReg b off).dev.inService = s.dev.inService := by
  cases b with
  | sch | stn | slot | cad | memCol | port | coll | fwCol | acc | cube | out | strainer => rfl
  | devPart | devCol | pwrCol | fwLog =>
    simp only [State.clearReg]
    split <;> rfl
  | _ => exact clearGlobal_inService s _ _

/-- The state with another network. -/
def State.withNet (s : State) (N : Net) : State := { s with net := N }

theorem clearGlobal_withNet (s : State) (N : Net) (b : RegBlock) (r : Nat) :
    (s.withNet N).clearGlobal b r = (s.clearGlobal b r).withNet N := by
  unfold State.clearGlobal
  split <;> rfl

/-- Clearing a register outside the ports neither reads nor changes the network. -/
theorem clearReg_withNet (s : State) (N : Net) (b : RegBlock) (off : Nat) (hb : ∀ n, b ≠ .port n) :
    (s.withNet N).clearReg b off = (s.clearReg b off).withNet N := by
  cases b with
  | port n => exact absurd rfl (hb n)
  | sch | stn | slot | cad | memCol | coll | fwCol | acc | cube | out | strainer => rfl
  | devPart | devCol | pwrCol =>
    simp only [State.clearReg]
    split <;> rfl
  | fwLog c =>
    have hlog : (s.withNet N).steward c = s.steward c := rfl
    simp only [State.clearReg, hlog]
    split <;> rfl
  | _ =>
    simp only [State.clearReg]
    exact clearGlobal_withNet s N _ _

end Sys2Proof.Machine

/-! ## The access checks in their order (R539) -/

namespace Sys2Proof.Machine

/-- Check 1 of R539 (R446, R478). -/
theorem ctlCheck_gated {s : State} {c a st : Nat} {w : Bool} (h : s.recoveryGate (s.conn c) w a = some st) : s.ctlCheck c w a = .error st := by
  simp [State.ctlCheck, h]

section
variable {s : State} {c a off : Nat} {w : Bool} {b : RegBlock}

/-- Check 2 of R539. -/
theorem ctlCheck_level (hg : s.recoveryGate (s.conn c) w a = none) (hl : s.levelGate (s.conn c) w a = false) : s.ctlCheck c w a = .error 0xB := by
  simp [State.ctlCheck, hg, hl]

variable (hg : s.recoveryGate (s.conn c) w a = none) (hl : s.levelGate (s.conn c) w a = true)
include hg hl

/-- Check 3 of R539. -/
theorem ctlCheck_unaligned (ha : a % 8 ≠ 0) : s.ctlCheck c w a = .error 2 := by
  simp [State.ctlCheck, hg, hl, ha]

variable (ha : a % 8 = 0)
include ha

/-- Check 4 of R539. -/
theorem ctlCheck_absent (hloc : locate a = none) : s.ctlCheck c w a = .error 1 := by
  simp [State.ctlCheck, hg, hl, ha, hloc]

variable (hloc : locate a = some (b, off))
include hloc

/-- Check 5 of R539. -/
theorem ctlCheck_role (hr : s.roleMay (s.conn c) w b off = false) : s.ctlCheck c w a = .error 3 := by
  simp [State.ctlCheck, hg, hl, ha, hloc, hr]

variable (hr : s.roleMay (s.conn c) w b off = true)
include hr

/-- Check 6 of R539. -/
theorem ctlCheck_state (hm : s.stateMay w b off = false) : s.ctlCheck c w a = .error 4 := by
  simp [State.ctlCheck, hg, hl, ha, hloc, hr, hm]

/-- An access that passes every check. -/
theorem ctlCheck_passes (hm : s.stateMay w b off = true) : s.ctlCheck c w a = .ok (b, off) := by
  simp [State.ctlCheck, hg, hl, ha, hloc, hr, hm]

end

/-- In recovery a connection that is no fabric manager's accesses no register (R478). -/
theorem recoveryGate_recovery (s : State) (k : Conn) (w : Bool) (a : Nat) (h : s.fw.service = .recovery) (hk : connKind k ≠ 4) :
    s.recoveryGate k w a = some 0xD := by
  simp [State.recoveryGate, h, hk]

/-- A connection of a member has no interface level to compare (R469). -/
theorem levelMay_member (s : State) (k : Conn) (hk : connKind k = 1) : s.levelMay k = true := by
  simp [State.levelMay, connHost, hk]

/-- A member's connection may reach no register (R433). -/
theorem roleMay_member (s : State) (k : Conn) (w : Bool) (b : RegBlock) (off : Nat) (hk : connKind k = 1) : s.roleMay k w b off = false := by
  simp [State.roleMay, hk]

/-! ## Slots at their addresses -/

theorem oneBlock_none {addr base size : Nat} (b : RegBlock) (h : addr < base ∨ base + size ≤ addr) : oneBlock addr base size b = none := by
  have : ¬(base ≤ addr ∧ addr < base + size * 1) := by omega
  simp only [oneBlock, inBlocks, this, if_false, Option.map_none]

theorem arrayBlock_none {addr base size count : Nat} (f : Nat → RegBlock) (h : addr < base ∨ base + size * count ≤ addr) :
    arrayBlock addr base size count f = none := by
  have : ¬(base ≤ addr ∧ addr < base + size * count) := by omega
  simp only [arrayBlock, inBlocks, this, if_false, Option.map_none]

theorem arrayBlock_some {size count n off : Nat} (base : Nat) (f : Nat → RegBlock) (hn : n < count) (ho : off < size) :
    arrayBlock (base + size * n + off) base size count f = some (f n, off) := by
  have hend : size * (n + 1) ≤ size * count := Nat.mul_le_mul_left _ hn
  rw [Nat.mul_add, Nat.mul_one] at hend
  have hin : base ≤ base + size * n + off ∧ base + size * n + off < base + size * count := by omega
  have hdiff : base + size * n + off - base = size * n + off := by omega
  simp only [arrayBlock, inBlocks, hin, and_self, if_true, Option.map_some, hdiff, Nat.mul_add_mod, Nat.mod_eq_of_lt ho,
    Nat.mul_add_div (Nat.zero_lt_of_lt ho), Nat.div_eq_of_lt ho, Nat.add_zero]

/-- The registers of slot n stand at their place in the index (R537). -/
theorem locate_slot (n off : Nat) (hn : n < 65536) (ho : off < 0x100) : locate (0x10000000 + 0x100 * n + off) = some (.slot n, off) := by
  have hslot : arrayBlock (0x10000000 + 0x100 * n + off) 0x10000000 0x100 65536 .slot = some (.slot n, off) := arrayBlock_some _ _ hn ho
  have hwin : 0x10000000 + 0x100 * n + off < 0x100000000 := by omega
  simp (disch := omega) only [locate, hwin, if_true, locateLow, locateHigh, oneBlock_none, arrayBlock_none, hslot,
    Option.orElse_eq_orElse, Option.orElse_eq_or, Option.none_or, Option.some_or]

end Sys2Proof.Machine

/-! ## REG_READ and REG_WRITE: answered and acted on -/

namespace Sys2Proof.Machine

/-- CTL_RESP with a status and a payload, then the DONE ACK, go out on connection c in answer to packet p (R303, R320). -/
def CtlAnswered (s t : State) (c : Nat) (p : Pkt) (status : Nat) (v : W64) : Prop :=
  (∃ x, Sends s t c [x] ∧ x.op = opCtlResp ∧ x.status = status ∧ x.w2 = p.w2 ∧ x.w3 = p.w3 ∧ x.ctl = natLE 8 v.toNat ++ zeros 8) ∧
    DoneSent t c (pktOp p) status

section
variable {s : State} {rx : Rx} {p : Pkt} {c : Nat}

/-- A register access that arrives in order, and leaves the state u to be answered in, is answered from there, and nothing else happens. -/
theorem access_answered (row : Nat → Pkt → Bool) (h : InOrder s rx p c) (hop : p.op = opCtl) (hctl : ctlOp p = 1 ∨ ctlOp p = 2)
    (hrow : row opCtl p = true) (hspray : s.sprayNow c ≠ []) (u : State) (status : Nat) (v : W64)
    (hact : (s.ctlTaken c rx p).ctlAct c p rx.errs = u.answer c p status v) (hconn : u.conn c = (s.ctlTaken c rx p).conn c)
    (hset : u.sprayNow c = s.sprayNow c) :
    TxOnly c u (s.receive rx row) ∧ CtlAnswered s (s.receive rx row) c p status v := by
  obtain ⟨⟨-, -, hst, -, -⟩, -, -, hheld, hops, -⟩ := id h
  rw [ctlTaken_conn_same] at hconn
  have hserves : u.serves c = true := by simp [State.serves, hconn, Conn.arrived, hst]
  obtain ⟨htx, hnow, hdone, x, ⟨hout, hhead⟩, hx⟩ := answer_sends u c p status v hserves (hset ▸ hspray)
  have hw : s.receive rx row = u.answer c p status v :=
    receive_access row _ h hop hctl hrow hact ⟨by rw [htx.conn_rxHeld, hconn]; exact hheld, by rw [htx.conn_rxOps, hconn]; exact hops⟩ hnow
  rw [hw]
  refine ⟨htx, ⟨x, ⟨?_, ?_⟩, hx⟩, hdone⟩
  · rw [hout, hconn]; rfl
  · intro q hq
    rw [hconn] at hhead
    exact hhead q hq

/-- The row of REG_READ takes the packets of CTLOP 1, that of REG_WRITE those of CTLOP 2. -/
theorem runs_regRead {P : State → Prop} (h : P (s.receive rx (isCtl fun x => decide (x = 1) || ctlReserved x))) : Runs (.regRead rx) s P :=
  ⟨_, rfl, h⟩
theorem runs_regWrite {P : State → Prop} (h : P (s.receive rx (isCtl fun x => decide (x = 2)))) : Runs (.regWrite rx) s P :=
  ⟨_, rfl, h⟩

variable (h : InOrder s rx p c) (hop : p.op = opCtl) (hspray : s.sprayNow c ≠ [])
include h hop hspray

/-- A REG_READ is answered with the value that the checks and the register give, from the state that the read leaves. -/
theorem regRead_answered (hctl : ctlOp p = 1) (u : State) (status : Nat) (v : W64)
    (hread : (s.ctlTaken c rx p).ctlRead c (nfld p.w2 63 16) = (status, v, u)) (hconn : u.conn c = (s.ctlTaken c rx p).conn c)
    (hset : u.sprayNow c = s.sprayNow c) : Runs (.regRead rx) s fun t => TxOnly c u t ∧ CtlAnswered s t c p status v :=
  runs_regRead (access_answered _ h hop (.inl hctl) (by simp [isCtl, hctl]) hspray u status v (by simp [State.ctlAct, hctl, hread]) hconn hset)

/-- A REG_WRITE is answered with the status that the checks and the register give, from the state that the write leaves. -/
theorem regWrite_answered (hctl : ctlOp p = 2) (u : State) (status : Nat)
    (hwrite : (s.ctlTaken c rx p).ctlWrite c (nfld p.w2 63 16) (BitVec.ofNat 64 (leAt p.ctl 0 8)) rx.errs = (status, u))
    (hconn : u.conn c = (s.ctlTaken c rx p).conn c) (hset : u.sprayNow c = s.sprayNow c) :
    Runs (.regWrite rx) s fun t => TxOnly c u t ∧ CtlAnswered s t c p status 0 :=
  runs_regWrite (access_answered _ h hop (.inr hctl) (by simp [isCtl, hctl]) hspray u status 0 (by simp [State.ctlAct, hctl, hwrite]) hconn hset)

end

/-- A write that passed its checks, on an open connection, acts on its register (R540), but for MEM_DMA_CTRL. -/
theorem ctlWrite_ok {s : State} {c a off : Nat} {b : RegBlock} (v : W64) (errs : List MemErr) (hst : (s.conn c).st = 2)
    (hcheck : s.ctlCheck c true a = .ok (b, off)) (hb : ∀ n, b ≠ .memPart n) : s.ctlWrite c a v errs = s.writeReg c b off v errs := by
  simp only [State.ctlWrite, hcheck, hst]
  cases b with
  | memPart n => exact absurd rfl (hb n)
  | _ => rfl

theorem ctlWrite_error {s : State} {c a st : Nat} (v : W64) (errs : List MemErr) (hcheck : s.ctlCheck c true a = .error st) :
    s.ctlWrite c a v errs = (st, s) := by
  simp only [State.ctlWrite, hcheck]

theorem ctlRead_error {s : State} {c a st : Nat} (hcheck : s.ctlCheck c false a = .error st) : s.ctlRead c a = (st, 0, s) := by
  simp only [State.ctlRead, hcheck]

theorem ctlRead_ok {s : State} {c a off : Nat} {b : RegBlock} (hcheck : s.ctlCheck c false a = .ok (b, off)) :
    s.ctlRead c a = (0, s.readReg b off, if connKind (s.conn c) = 3 then s else s.clearReg b off) := by
  simp only [State.ctlRead, hcheck]

/-- A write of NET_CONN_CFG takes KIND to the peer's entry number where R309 allows its content. -/
theorem connWrite_cfg (k : Conn) (v : W64) (hkind : fld v 63 61 < 5) (hgran : 0 < fld v 53 48) (hmax : fld v 53 48 ≤ 32) :
    connWrite k 0 v = some { k with cfg := at_ 63 34 (fld v 63 34) } := by
  have hok : ¬(5 ≤ fld v 63 61 ∨ fld v 53 48 = 0 ∨ 32 < fld v 53 48) := by omega
  simp [connWrite, hok, fields]

/-- A write of NET_CONN_CFG of entry n whose content is taken. -/
theorem writeReg_conn {k : Conn} (s : State) (c n : Nat) (v : W64) (errs : List MemErr) (h : connWrite (s.conn n) 0 v = some k) :
    s.writeReg c (.conn n) 0 v errs = (0, s.updConn n fun _ => k) := by
  simp only [State.writeReg, h]

/-- A write of NET_CONN_CFG of entry n whose content is rejected. -/
theorem writeReg_conn_rejected (s : State) (c n : Nat) (v : W64) (errs : List MemErr) (h : connWrite (s.conn n) 0 v = none) :
    s.writeReg c (.conn n) 0 v errs = (0xE, s) := by
  simp only [State.writeReg, h]

/-- A write of a slot's register whose value the slot allows. -/
theorem writeReg_slot {q : Slot} (s : State) (c n off : Nat) (v : W64) (errs : List MemErr) (h : slotWrite (s.slot n) off v = some q) :
    s.writeReg c (.slot n) off v errs = (0, s.updSlot n fun _ => q) := by
  simp only [State.writeReg, h]

/-- A write of a slot's register whose value the slot does not allow. -/
theorem writeReg_slot_rejected (s : State) (c n off : Nat) (v : W64) (errs : List MemErr) (h : slotWrite (s.slot n) off v = none) :
    s.writeReg c (.slot n) off v errs = (0xE, s) := by
  simp only [State.writeReg, h]

theorem connWrite_cfg_reserved (k : Conn) (v : W64) (hkind : 5 ≤ fld v 63 61) : connWrite k 0 v = none := by
  simp [connWrite, hkind]

end Sys2Proof.Machine

namespace Sys2Proof

open Sys2Proof.Machine

theorem Keeps.trans {l : List Piece} {s t u : State} (h₁ : Keeps l s t) (h₂ : Keeps l t u) : Keeps l s u := by
  intro p hp
  have h₁ := h₁ p hp
  have h₂ := h₂ p hp
  cases p <;> exact h₂.trans h₁

/-- A run establishes what follows from what it establishes. -/
theorem Runs.mono {i : Instr} {s : State} {P Q : State → Prop} (h : Runs i s P) (hPQ : ∀ t, P t → Q t) : Runs i s Q := by
  obtain ⟨t, ht, hP⟩ := h
  exact ⟨t, ht, hPQ t hP⟩

theorem Keeps.mono {l m : List Piece} {s t : State} (h : Keeps l s t) (hl : ∀ p ∈ l, p ∈ m) : Keeps m s t :=
  fun p hp => h p fun hm => hp (hl p hm)

end Sys2Proof

namespace Sys2Proof.Machine

theorem keeps_withNet (s : State) (N : Net) : Keeps [.network, .stewards] s (s.withNet N) := by
  intro p hp
  cases p with
  | network | stewards => simp at hp
  | _ => rfl

theorem ctlTaken_withNet (s : State) (c : Nat) (rx : Rx) (p : Pkt) : s.ctlTaken c rx p = s.withNet (s.ctlTaken c rx p).net := by
  obtain ⟨P, C, hrest⟩ := ctlTaken_rest s c rx p
  rw [hrest]; rfl

/-- The arrival of an access changes nothing but the network. -/
theorem ctlTaken_keeps (s : State) (c : Nat) (rx : Rx) (p : Pkt) : Keeps [.network, .stewards] s (s.ctlTaken c rx p) := by
  rw [ctlTaken_withNet]; exact keeps_withNet s _

end Sys2Proof.Machine

/-! ## The clauses on register accesses -/

namespace Sys2Proof.Machine

section
variable {s : State} {rx : Rx} {p : Pkt} {c : Nat} (h : InOrder s rx p c) (hop : p.op = opCtl) (hspray : s.sprayNow c ≠ [])
include h hop hspray

/-- A read that passes its checks answers the register's value and clears an RC register, but for an observer (R11, R434). -/
theorem regRead_reads (hctl : ctlOp p = 1) {b : RegBlock} {off : Nat} (hcheck : s.ctlCheck c false (nfld p.w2 63 16) = .ok (b, off))
    (hb : ∀ n, b ≠ .port n ∧ b ≠ .xsiPart n ∧ b ≠ .devPart n) :
    Runs (.regRead rx) s fun t => CtlAnswered s t c p 0 (s.readReg b off) ∧
      Keeps [.network, .stewards] (if connKind (s.conn c) = 3 then s else s.clearReg b off) t := by
  have hread := ctlRead_ok ((ctlTaken_ctlCheck s c rx p false (nfld p.w2 63 16)).trans hcheck)
  rw [ctlTaken_readReg s c rx p b off hb] at hread
  have hkind : connKind ((s.ctlTaken c rx p).conn c) = connKind (s.conn c) := by rw [ctlTaken_conn_same]; rfl
  rw [hkind] at hread
  have hspray' := ctlTaken_sprayNow s c rx p
  by_cases hobs : connKind (s.conn c) = 3
  · simp only [hobs, if_true] at hread ⊢
    obtain ⟨t, ht, htx, hans⟩ := regRead_answered h hop hspray hctl _ _ _ hread rfl hspray'
    exact ⟨t, ht, hans, (ctlTaken_keeps s c rx p).trans htx.keeps⟩
  · simp only [hobs, if_false] at hread ⊢
    have hclear : (s.ctlTaken c rx p).clearReg b off = (s.clearReg b off).withNet (s.ctlTaken c rx p).net := by
      conv_lhs => rw [ctlTaken_withNet]
      exact clearReg_withNet s _ b off fun n => (hb n).1
    have hin : (s.clearReg b off).dev.inService = s.dev.inService := clearReg_inService s b off
    have hset : ((s.ctlTaken c rx p).clearReg b off).sprayNow c = s.sprayNow c := by
      rw [← hspray', hclear]
      have hin' : (s.ctlTaken c rx p).dev.inService = s.dev.inService := by rw [ctlTaken_withNet]; rfl
      exact sprayNow_of_net (s := s.ctlTaken c rx p) (t := (s.clearReg b off).withNet (s.ctlTaken c rx p).net) rfl (hin.trans hin'.symm) c
    obtain ⟨t, ht, htx, hans⟩ := regRead_answered h hop hspray hctl _ _ _ hread (by rw [hclear]; rfl) hset
    refine ⟨t, ht, hans, Keeps.trans ?_ htx.keeps⟩
    rw [hclear]
    exact keeps_withNet _ _

/-- A read that fails a check is answered with its status and changes nothing. -/
theorem regRead_fails (hctl : ctlOp p = 1) {st : Nat} (hcheck : s.ctlCheck c false (nfld p.w2 63 16) = .error st) :
    Runs (.regRead rx) s fun t => CtlAnswered s t c p st 0 ∧ Keeps [.network, .stewards] s t := by
  have hread := ctlRead_error ((ctlTaken_ctlCheck s c rx p false (nfld p.w2 63 16)).trans hcheck)
  obtain ⟨t, ht, htx, hans⟩ := regRead_answered h hop hspray hctl _ _ _ hread rfl (ctlTaken_sprayNow s c rx p)
  exact ⟨t, ht, hans, (ctlTaken_keeps s c rx p).trans htx.keeps⟩

/-- A write that fails a check is answered with its status and changes nothing. -/
theorem regWrite_fails (hctl : ctlOp p = 2) {st : Nat} (hcheck : s.ctlCheck c true (nfld p.w2 63 16) = .error st) :
    Runs (.regWrite rx) s fun t => CtlAnswered s t c p st 0 ∧ Keeps [.network, .stewards] s t := by
  have hwrite := ctlWrite_error (BitVec.ofNat 64 (leAt p.ctl 0 8)) rx.errs ((ctlTaken_ctlCheck s c rx p true (nfld p.w2 63 16)).trans hcheck)
  obtain ⟨t, ht, htx, hans⟩ := regWrite_answered h hop hspray hctl _ _ hwrite rfl (ctlTaken_sprayNow s c rx p)
  exact ⟨t, ht, hans, (ctlTaken_keeps s c rx p).trans htx.keeps⟩

/-- A write that passes its checks acts on its register, in the state that its arrival leaves. -/
theorem regWrite_acts (hctl : ctlOp p = 2) {b : RegBlock} {off : Nat} (hcheck : s.ctlCheck c true (nfld p.w2 63 16) = .ok (b, off))
    (hb : ∀ n, b ≠ .memPart n) (st : Nat) (u : State)
    (hwrite : (s.ctlTaken c rx p).writeReg c b off (BitVec.ofNat 64 (leAt p.ctl 0 8)) rx.errs = (st, u))
    (hconn : u.conn c = (s.ctlTaken c rx p).conn c) (hset : u.sprayNow c = (s.ctlTaken c rx p).sprayNow c) :
    Runs (.regWrite rx) s fun t => TxOnly c u t ∧ CtlAnswered s t c p st 0 := by
  have hst : ((s.ctlTaken c rx p).conn c).st = 2 := by
    obtain ⟨⟨-, -, hopen, -⟩, -⟩ := h
    rw [(ctlTaken_conn_regs s c rx p c).2.2, hopen]
  exact regWrite_answered h hop hspray hctl u st
    ((ctlWrite_ok _ _ hst ((ctlTaken_ctlCheck s c rx p true _).trans hcheck) hb).trans hwrite) hconn (hset.trans (ctlTaken_sprayNow s c rx p))

/-- FW_STATUS is read-only, and FW_TRACE_MASK takes what is written (R11, R479). -/
theorem regWrite_fw (hctl : ctlOp p = 2) {off : Nat} (hcheck : s.ctlCheck c true (nfld p.w2 63 16) = .ok (.fw, off)) (hoff : off = 0 ∨ off = 0x78) :
    Runs (.regWrite rx) s fun t => CtlAnswered s t c p 0 0 ∧
      t.fw = { s.fw with trace := if off = 0x78 then at_ 15 0 (fld (BitVec.ofNat 64 (leAt p.ctl 0 8)) 15 0) else s.fw.trace } ∧
      Keeps [.network, .firmware, .stewards] s t := by
  have hnet := ctlTaken_withNet s c rx p
  have htaken : (s.ctlTaken c rx p).fw = s.fw := by rw [hnet]; rfl
  have hkeeps : Keeps [.network, .firmware, .stewards] s (s.ctlTaken c rx p) := (ctlTaken_keeps s c rx p).mono (by simp)
  obtain rfl | rfl := hoff
  · obtain ⟨t, ht, htx, hans⟩ := regWrite_acts h hop hspray hctl hcheck (by simp) 0 (s.ctlTaken c rx p) rfl rfl rfl
    refine ⟨t, ht, hans, ?_, hkeeps.trans (htx.keeps.mono (by simp))⟩
    rw [htx.rest]
    exact htaken
  · obtain ⟨t, ht, htx, hans⟩ := regWrite_acts h hop hspray hctl hcheck (by simp) 0 _ rfl rfl (sprayNow_of_net rfl rfl c)
    refine ⟨t, ht, hans, ?_, (hkeeps.trans ?_).trans (htx.keeps.mono (by simp))⟩
    · rw [htx.rest, if_pos rfl, ← htaken]; rfl
    · intro q hq
      cases q with
      | network | firmware | stewards => simp at hq
      | _ => rfl

section
variable {n : Nat} (hctl : ctlOp p = 2) (hn : n ≠ c) (hcheck : s.ctlCheck c true (nfld p.w2 63 16) = .ok (.conn n, 0))
include hctl hn hcheck

/-- A write of NET_CONN_CFG of another entry writes that entry, and nothing else but the answer happens (R309, R340). -/
theorem regWrite_connCfg (hkind : fld (BitVec.ofNat 64 (leAt p.ctl 0 8)) 63 61 < 5) (hgran : 0 < fld (BitVec.ofNat 64 (leAt p.ctl 0 8)) 53 48)
    (hmax : fld (BitVec.ofNat 64 (leAt p.ctl 0 8)) 53 48 ≤ 32) :
    Runs (.regWrite rx) s fun t => CtlAnswered s t c p 0 0 ∧
      t.conn n = { s.conn n with cfg := at_ 63 34 (fld (BitVec.ofNat 64 (leAt p.ctl 0 8)) 63 34) } ∧
      (∀ k, k ≠ c → k ≠ n → t.conn k = s.conn k) ∧
      Keeps [.network, .stewards] s t := by
  have hsame : (s.ctlTaken c rx p).conn n = s.conn n := ctlTaken_conn_ne _ _ _ _ hn
  have hwrite := writeReg_conn (s.ctlTaken c rx p) c n _ rx.errs (connWrite_cfg ((s.ctlTaken c rx p).conn n) _ hkind hgran hmax)
  obtain ⟨t, ht, htx, hans⟩ := regWrite_acts h hop hspray hctl hcheck (by simp) 0 _ hwrite (updConn_conn_ne _ _ _ hn.symm)
    (sprayNow_updConn_ne _ _ hn)
  refine ⟨t, ht, hans, ?_, ?_, ((ctlTaken_keeps s c rx p).trans (keeps_withNet _ _)).trans htx.keeps⟩
  · rw [htx.other n hn, updConn_conn_same, hsame]
  · intro k hkc hkn
    rw [htx.other k hkc, updConn_conn_ne _ _ _ hkn, ctlTaken_conn_ne _ _ _ _ hkc]

/-- A write of a reserved KIND is answered with 0x0E and leaves the entry (R13, R309). -/
theorem regWrite_connCfg_reserved (hkind : 5 ≤ fld (BitVec.ofNat 64 (leAt p.ctl 0 8)) 63 61) :
    Runs (.regWrite rx) s fun t => CtlAnswered s t c p 0xE 0 ∧ t.conn n = s.conn n := by
  have hwrite := writeReg_conn_rejected (s.ctlTaken c rx p) c n _ rx.errs (connWrite_cfg_reserved ((s.ctlTaken c rx p).conn n) _ hkind)
  obtain ⟨t, ht, htx, hans⟩ := regWrite_acts h hop hspray hctl hcheck (by simp) 0xE _ hwrite rfl rfl
  refine ⟨t, ht, hans, ?_⟩
  rw [htx.other n hn, ctlTaken_conn_ne _ _ _ _ hn]

end

end

end Sys2Proof.Machine

/-! ## Slots written by their controlling session -/

namespace Sys2Proof.Machine

/-- The write of a control row on a connection over which its originator may write, and its answer (R303, R542). -/
theorem viaWrite_open {s : State} {v : Via} {kind : Nat} (h : ViaOpen s v kind) (a : Nat) (w : W64) (errs : List MemErr) :
    s.viaWrite v a w errs = (s.ctlWrite v.conn a w errs).2.answer v.conn (ctlRequest v a) (s.ctlWrite v.conn a w errs).1 0 := by
  obtain ⟨hbased, -, -, hst, -⟩ := h
  simp [State.viaWrite, hbased, hst, ctlRequest]

/-- Recovery and the interface level hold no write back on a connection over which its originator may write (R539). -/
theorem gates_of_viaOpen {s : State} {v : Via} {kind : Nat} (h : ViaOpen s v kind) (a : Nat) :
    s.recoveryGate (s.conn v.conn) true a = none ∧ s.levelGate (s.conn v.conn) true a = true := by
  obtain ⟨-, hservice, hrom, -, -, hlevel⟩ := h
  simp [State.recoveryGate, State.levelGate, hservice, hrom, hlevel]

theorem slotStateWrite_allowed (q : Slot) (w : W64) (hscale : stScale w ≠ 255)
    (hlevel : cfgFloor q.cfg ≤ stLevel w ∧ stLevel w ≤ cfgCeil q.cfg)
    (hbase : cfgFloor q.cfg ≤ stBase w ∧ stBase w ≤ cfgCeil q.cfg) (hbias : stBias w ≤ cfgBiasMax q.cfg) (hvalid : stValid w ≤ 16)
    (hlow : fld w 23 0 = 0) : slotStateWrite q w = some { q with state := w } := by
  simp [slotStateWrite, hscale, hlevel, hbase, Nat.not_lt.mpr hbias, Nat.not_lt.mpr hvalid, hlow]

theorem slotStateWrite_rejected (q : Slot) (w : W64) (h : stScale w = 255 ∨ 16 < stValid w ∨ fld w 23 0 ≠ 0) : slotStateWrite q w = none := by
  unfold slotStateWrite
  exact if_pos (by tauto)

section
variable {s : State} {v : Via} {n : Nat} (hvia : ViaOpen s v 2) (hn : n < 65536)
  (hown : s.blockPart (.slot n) = some (connPart (s.conn v.conn))) (hin : s.inService (n / 4096) = true)
  {a off : Nat} (ha : a = 0x10000000 + 0x100 * n + off) (hoff : off = 0 ∨ off = 8)
include hvia hn hown hin ha hoff

/-- A session's write of a slot of its partition meets the check of the job that runs, and no other (R173, R539). -/
theorem ctlCheck_slot : s.ctlCheck v.conn true a =
      if jobRuns (s.part (connPart (s.conn v.conn))) then .error 4 else .ok (.slot n, off) := by
  obtain ⟨hrec, hlev⟩ := gates_of_viaOpen hvia a
  have ha8 : a % 8 = 0 := by omega
  have hloc : locate a = some (.slot n, off) := ha ▸ locate_slot n off hn (by omega)
  obtain ⟨-, -, -, -, hkind, -⟩ := hvia
  have hrole : s.roleMay (s.conn v.conn) true (.slot n) off = true := by simp [State.roleMay, hkind, hown]
  have hwritable : slotWritable off = true := by simp [slotWritable]; omega
  have hstate : s.stateMay true (.slot n) off = !jobRuns (s.part (connPart (s.conn v.conn))) := by
    simp [State.stateMay, blockCol, hin, hown, hwritable]
  split
  · next hjob => exact ctlCheck_state hrec hlev ha8 hloc hrole (by rw [hstate, hjob]; rfl)
  · next hjob => exact ctlCheck_passes hrec hlev ha8 hloc hrole (by rw [hstate]; simpa using hjob)

/-- A slot written under a job is answered with 0x04, and the slot stays (R173). -/
theorem viaWrite_slot_underJob (w : W64) (hjob : jobRuns (s.part (connPart (s.conn v.conn))) = true) :
    Answered v a 4 s (s.viaWrite v a w []) := by
  rw [viaWrite_open hvia, ctlWrite_error w [] ((ctlCheck_slot hvia hn hown hin ha hoff).trans (if_pos hjob))]
  rfl

variable (hjob : jobRuns (s.part (connPart (s.conn v.conn))) = false)
include hjob

/-- While no job runs, a slot's write goes to the slot. -/
theorem ctlWrite_slot (w : W64) :
    s.ctlWrite v.conn a w [] = s.writeReg v.conn (.slot n) off w [] := by
  have hcheck := (ctlCheck_slot hvia hn hown hin ha hoff).trans (if_neg (by simp [hjob]))
  obtain ⟨-, -, -, hst, -⟩ := hvia
  exact ctlWrite_ok w [] hst hcheck (by simp)

/-- A value that the slot allows is written, and answered with 0x00 (R176, R177). -/
theorem viaWrite_slot (w : W64) {q : Slot} (hq : slotWrite (s.slot n) off w = some q) :
    Answered v a 0 (s.updSlot n fun _ => q) (s.viaWrite v a w []) := by
  rw [viaWrite_open hvia, ctlWrite_slot hvia hn hown hin ha hoff hjob, writeReg_slot s v.conn n off w [] hq]
  rfl

/-- A value that the slot does not allow is answered with 0x0E, and the slot stays (R176, R177). -/
theorem viaWrite_slot_rejected (w : W64) (hq : slotWrite (s.slot n) off w = none) :
    Answered v a 0xE s (s.viaWrite v a w []) := by
  rw [viaWrite_open hvia, ctlWrite_slot hvia hn hown hin ha hoff hjob, writeReg_slot_rejected s v.conn n off w [] hq]
  rfl

end

/-- The row of a slot's CAD_SLOT_CFG, for a slot that the module has. -/
theorem runs_cadSlotCfgWrite {s : State} {v : Via} {n : Nat} {w : W64} {P : State → Prop} (hn : n < 65536)
    (h : P (s.viaWrite v (0x10000000 + 0x100 * n) w [])) : Runs (.cadSlotCfgWrite v n w) s P :=
  ⟨_, congrArg Host.Outcome.next (if_pos hn), h⟩

/-- The row of a slot's CAD_SLOT_STATE, for a slot that the module has. -/
theorem runs_cadSlotStateWrite {s : State} {v : Via} {n : Nat} {w : W64} {P : State → Prop} (hn : n < 65536)
    (h : P (s.viaWrite v (0x10000008 + 0x100 * n) w [])) : Runs (.cadSlotStateWrite v n w) s P :=
  ⟨_, congrArg Host.Outcome.next (if_pos hn), h⟩

end Sys2Proof.Machine

/-! ## The obligations on register accesses, slots and event counters -/

namespace Sys2Proof.Machine

/-- A frame that does not reach the transport leaves the module as it is (R292). -/
theorem idles_of_not_arrives {s : State} {rx : Rx} (h : s.arrives rx = false) : Idles (.regRead rx) s ∧ Idles (.regWrite rx) s := by
  have hidle : ∀ row, s.receive rx row = s := fun row => by simp [State.receive, h]
  exact ⟨congrArg Host.Outcome.next (hidle _), congrArg Host.Outcome.next (hidle _)⟩

/-- A member's access of a register that exists is refused for its role (R433, R539). -/
theorem ctlCheck_member {s : State} {c a off : Nat} {w : Bool} {b : RegBlock} (hg : s.recoveryGate (s.conn c) w a = none)
    (hk : connKind (s.conn c) = 1) (ha : a % 8 = 0) (hloc : locate a = some (b, off)) : s.ctlCheck c w a = .error 3 := by
  have hl : s.levelGate (s.conn c) w a = true := by simp [State.levelGate, levelMay_member s _ hk]
  exact ctlCheck_role hg hl ha hloc (roleMay_member s _ w b off hk)

/-- A driver of another interface level writes nothing but FW_STAGE and FW_ACTIVATE (R470, R539). -/
theorem ctlCheck_otherLevel {s : State} {c a : Nat} (hg : s.recoveryGate (s.conn c) true a = none) (hl : s.levelMay (s.conn c) = false)
    (h20 : locate a ≠ some (.fw, 0x20)) (h30 : locate a ≠ some (.fw, 0x30)) : s.ctlCheck c true a = .error 0xB :=
  ctlCheck_level hg (by simp [State.levelGate, hl, h20, h30])

/-- Settles O49: an access that arrives in order is carried out in a state that differs from the module's at its port's counters and its
connection only (`access_answered`), which its checks, its register and its answer do not see; a slot's write meets the checks of R539 at the
slot's address. -/
theorem registersAndSlots : Obligations.RegistersAndSlots := by
  unfold Obligations.RegistersAndSlots
  refine ⟨?reads, ?readFails, ?writeFails, ?fw, fun s c a w hservice hkind => ctlCheck_gated (recoveryGate_recovery s _ w a hservice hkind),
    fun s c a off w b => ctlCheck_member, fun s c a => ctlCheck_otherLevel,
    fun s c a w hg hl => ⟨ctlCheck_unaligned hg hl, ctlCheck_absent hg hl, fun _ _ => ctlCheck_role hg hl, fun _ _ => ctlCheck_state hg hl,
      fun _ _ => ctlCheck_passes hg hl⟩, ?connCfg, fun s rx => idles_of_not_arrives, ?slots⟩
  case reads =>
    intro s rx p c off b h hop hctl hspray hcheck hb
    refine (regRead_reads h hop hspray hctl hcheck hb).mono ?_
    rintro t ⟨⟨⟨x, hsends, hx, hst, hw2, hw3, hval⟩, hdone⟩, hkeeps⟩
    exact ⟨⟨x, hsends, hx, hst, hw2, hw3, hval⟩, hdone, hkeeps⟩
  case readFails =>
    intro s rx p c st h hop hctl hspray hcheck
    refine (regRead_fails h hop hspray hctl hcheck).mono ?_
    rintro t ⟨⟨⟨x, hsends, hx, hst, -, -, hval⟩, hdone⟩, hkeeps⟩
    exact ⟨⟨x, hsends, hx, hst, hval⟩, hdone, hkeeps⟩
  case writeFails =>
    intro s rx p c st h hop hctl hspray hcheck
    refine (regWrite_fails h hop hspray hctl hcheck).mono ?_
    rintro t ⟨⟨⟨x, hsends, hx, hst, -, -, hval⟩, hdone⟩, hkeeps⟩
    exact ⟨⟨x, hsends, hx, hst, hval⟩, hdone, hkeeps⟩
  case fw =>
    intro s rx p c off h hop hctl hspray hcheck hoff
    refine (regWrite_fw h hop hspray hctl hcheck hoff).mono ?_
    rintro t ⟨⟨⟨x, hsends, hx, hst, -⟩, hdone⟩, hfw, hkeeps⟩
    exact ⟨⟨x, hsends, hx, hst⟩, hdone, hfw, hkeeps⟩
  case connCfg =>
    rintro s rx p c n v h hop hctl hspray hn hcheck rfl
    refine ⟨fun hkind hgran hmax => (regWrite_connCfg h hop hspray hctl hn hcheck hkind hgran hmax).mono ?_,
      fun hkind => (regWrite_connCfg_reserved h hop hspray hctl hn hcheck hkind).mono ?_⟩
    · rintro t ⟨⟨⟨x, hsends, hx, hst, -⟩, hdone⟩, hconn, hother, hkeeps⟩
      exact ⟨⟨x, hsends, hx, hst⟩, hdone, hconn, hother, hkeeps⟩
    · rintro t ⟨⟨⟨x, hsends, hx, hst, -⟩, hdone⟩, hconn⟩
      exact ⟨⟨x, hsends, hx, hst⟩, hdone, hconn⟩
  case slots =>
    intro s v n w hvia hn hown hin
    have hcfg : 0x10000000 + 0x100 * n = 0x10000000 + 0x100 * n + 0 := rfl
    have hstate : 0x10000008 + 0x100 * n = 0x10000000 + 0x100 * n + 8 := by omega
    exact ⟨fun x hjob hx => runs_cadSlotCfgWrite hn (viaWrite_slot hvia hn hown hin hcfg (.inl rfl) hjob w hx),
      fun hjob hx => runs_cadSlotCfgWrite hn (viaWrite_slot_rejected hvia hn hown hin hcfg (.inl rfl) hjob w hx),
      fun hjob => ⟨runs_cadSlotCfgWrite hn (viaWrite_slot_underJob hvia hn hown hin hcfg (.inl rfl) w hjob),
        runs_cadSlotStateWrite hn (viaWrite_slot_underJob hvia hn hown hin hstate (.inr rfl) w hjob)⟩,
      fun hjob hscale hfloor hceil hfloor' hceil' hbias hvalid hlow => runs_cadSlotStateWrite hn (viaWrite_slot hvia hn hown hin hstate
        (.inr rfl) hjob w (slotStateWrite_allowed _ w hscale ⟨hfloor, hceil⟩ ⟨hfloor', hceil'⟩ hbias hvalid hlow)),
      fun hjob hbad => runs_cadSlotStateWrite hn (viaWrite_slot_rejected hvia hn hown hin hstate (.inr rfl) hjob w
        (slotStateWrite_rejected _ w hbad))⟩

/-! ### Event counters (R12) -/

/-- A counter counts one event below all ones, and stays there. -/
theorem inc_toNat (c : W64) : (inc c).toNat = min (c.toNat + 1) (2 ^ 64 - 1) := by
  have hlt := c.isLt
  unfold inc
  split
  · next h => rw [h]; decide
  · next h =>
    have hne : c.toNat ≠ 2 ^ 64 - 1 := fun hc => h (BitVec.eq_of_toNat_eq (hc.trans (by decide)))
    have hsum : (c + 1).toNat = c.toNat + 1 := by
      rw [BitVec.toNat_add]
      exact Nat.mod_eq_of_lt (by change c.toNat + 1 < 2 ^ 64; omega)
    omega

/-- Counting n events at once: the sum, or all ones where it does not fit. -/
theorem incBy_toNat (c : W64) (n : Nat) : (incBy c n).toNat = min (c.toNat + n) (2 ^ 64 - 1) := by
  unfold incBy
  split
  · next h => rw [BitVec.toNat_ofNat, Nat.mod_eq_of_lt h]; omega
  · next h =>
    have hall : (BitVec.allOnes 64).toNat = 2 ^ 64 - 1 := by decide
    omega

/-- Settles O58: a counter below all ones has room for one more, and the sum of many is cut at all ones. -/
theorem eventCountersSaturate : Obligations.EventCountersSaturate :=
  ⟨inc_toNat, incBy_toNat, if_pos rfl⟩

end Sys2Proof.Machine

/-! ## Fields of a word put together -/

namespace Sys2Proof.Machine

theorem fld_or (a b : W64) (hi lo : Nat) : fld (a ||| b) hi lo = fld a hi lo ||| fld b hi lo := by
  simp only [fld, BitVec.toNat_or, ← Nat.shiftRight_eq_div_pow, Nat.shiftRight_or_distrib, Nat.or_mod_two_pow]

theorem fld_zero (hi lo : Nat) : fld 0 hi lo = 0 := by simp [fld]

theorem at_toNat {hi lo : Nat} (v : Nat) (hlo : lo ≤ hi) (hhi : hi < 64) : (at_ hi lo v).toNat = v % 2 ^ (hi - lo + 1) * 2 ^ lo := by
  rw [at_, BitVec.toNat_ofNat]
  apply Nat.mod_eq_of_lt
  calc v % 2 ^ (hi - lo + 1) * 2 ^ lo < 2 ^ (hi - lo + 1) * 2 ^ lo :=
        Nat.mul_lt_mul_of_pos_right (Nat.mod_lt _ (Nat.two_pow_pos _)) (Nat.two_pow_pos _)
    _ = 2 ^ (hi + 1) := by rw [← Nat.pow_add]; congr 1; omega
    _ ≤ 2 ^ 64 := Nat.pow_le_pow_right (by decide) (by omega)

/-- A field reads as the number put into it, cut to its width. -/
theorem fld_at {hi lo : Nat} (v : Nat) (hlo : lo ≤ hi) (hhi : hi < 64) : fld (at_ hi lo v) hi lo = v % 2 ^ (hi - lo + 1) := by
  rw [fld, at_toNat v hlo hhi, Nat.mul_div_cancel _ (Nat.two_pow_pos _), Nat.mod_mod]

/-- A field above another reads zero of it. -/
theorem fld_at_above {hi lo hi' lo' : Nat} (v : Nat) (hlo' : lo' ≤ hi') (hhi' : hi' < 64) (h : hi' < lo) : fld (at_ hi' lo' v) hi lo = 0 := by
  have hlt : v % 2 ^ (hi' - lo' + 1) * 2 ^ lo' < 2 ^ lo := by
    calc v % 2 ^ (hi' - lo' + 1) * 2 ^ lo' < 2 ^ (hi' - lo' + 1) * 2 ^ lo' :=
          Nat.mul_lt_mul_of_pos_right (Nat.mod_lt _ (Nat.two_pow_pos _)) (Nat.two_pow_pos _)
      _ = 2 ^ (hi' + 1) := by rw [← Nat.pow_add]; congr 1; omega
      _ ≤ 2 ^ lo := Nat.pow_le_pow_right (by decide) (by omega)
  rw [fld, at_toNat v hlo' hhi', Nat.div_eq_of_lt hlt, Nat.zero_mod]

/-- A field below another reads zero of it. -/
theorem fld_at_below {hi lo hi' lo' : Nat} (v : Nat) (hlo : lo ≤ hi) (hlo' : lo' ≤ hi') (hhi' : hi' < 64) (h : hi < lo') :
    fld (at_ hi' lo' v) hi lo = 0 := by
  obtain ⟨d, rfl⟩ : ∃ d, lo' = hi - lo + 1 + d + lo := ⟨lo' - hi - 1, by omega⟩
  rw [fld, at_toNat v hlo' hhi']
  generalize v % _ = x
  rw [Nat.pow_add, ← Nat.mul_assoc, Nat.mul_div_cancel _ (Nat.two_pow_pos _), Nat.pow_add, Nat.mul_left_comm, Nat.mul_mod_right]

/-- A flag in another bit reads zero. -/
theorem fld_flag_ne {hi lo n : Nat} (b : Bool) (hlo : lo ≤ hi) (hn : n < 64) (h : n < lo ∨ hi < n) : fld (flag n b) hi lo = 0 := by
  cases b with
  | false => exact fld_zero hi lo
  | true =>
    obtain h | h := h
    · exact fld_at_above 1 (Nat.le_refl n) hn h
    · exact fld_at_below 1 hlo (Nat.le_refl n) hn h


/-- A field of a word put together is the fields of its parts put together. -/
theorem fld_fields (l : List W64) (hi lo : Nat) : fld (fields l) hi lo = (l.map (fld · hi lo)).foldl (· ||| ·) 0 := by
  have hfold : ∀ w : W64, fld (l.foldl (· ||| ·) w) hi lo = (l.map (fld · hi lo)).foldl (· ||| ·) (fld w hi lo) := by
    induction l with
    | nil => intro w; rfl
    | cons a l ih => intro w; rw [List.foldl_cons, ih, fld_or, List.map_cons, List.foldl_cons]
  rw [fields, hfold, fld_zero]

end Sys2Proof.Machine

/-! ## The pieces that an operation leaves alone -/

namespace Sys2Proof

open Sys2Proof.Machine

/-- State s with the pieces of a list as they are in t. -/
def patch (l : List Piece) (s t : State) : State where
  tm := bif l.contains .time then t.tm else s.tm
  pwr := bif l.contains .power then t.pwr else s.pwr
  dev := bif l.contains .faults then t.dev else s.dev
  stew := bif l.contains .stewards then t.stew else s.stew
  cols := bif l.contains .columns then t.cols else s.cols
  flash := bif l.contains .flash then t.flash else s.flash
  fw := bif l.contains .firmware then t.fw else s.fw
  xsi := bif l.contains .structure_ then t.xsi else s.xsi
  mem := bif l.contains .memory then t.mem else s.mem
  net := bif l.contains .network then t.net else s.net
  parts := bif l.contains .partitions then t.parts else s.parts
  slots := bif l.contains .slots then t.slots else s.slots
  pos := bif l.contains .positions then t.pos else s.pos
  cls := bif l.contains .clusters then t.cls else s.cls
  free := bif l.contains .freeCount then t.free else s.free
  pending := bif l.contains .queue then t.pending else s.pending

/-- A state that is s but for the pieces of l keeps the others. -/
theorem Keeps.of_patch {l : List Piece} {s t : State} (h : t = patch l s t) : Keeps l s t := by
  intro p hp
  have hc : l.contains p = false := by simpa using hp
  cases p <;> (rw [h]; simp only [Piece.same, patch, hc, cond_false])

theorem Keeps.refl (l : List Piece) (s : State) : Keeps l s s := by
  intro p _
  cases p <;> rfl

/-- A fold of operations that each keep the pieces outside a list keeps them. -/
theorem Keeps.foldl {α : Type} {l : List Piece} (as : List α) (g : State → α → State) (s : State) (h : ∀ s a, Keeps l s (g s a)) :
    Keeps l s (as.foldl g s) := by
  induction as generalizing s with
  | nil => exact Keeps.refl l s
  | cons a as ih => exact (h s a).trans (ih (g s a))

end Sys2Proof

namespace Sys2Proof.Machine

/-! ### The log -/

theorem trace_keeps (s : State) (col part k point : Nat) (args : List Nat) : Keeps [.stewards] s (s.trace col part k point args) := by
  unfold State.trace
  split
  · exact .of_patch rfl
  · exact .refl _ s

theorem logP_keeps (s : State) (col event unit part : Nat) (payload : List W64) :
    Keeps [.stewards, .firmware] s (s.logP col event unit part payload) := by
  unfold State.logP
  dsimp only
  split <;> exact .of_patch rfl

theorem logLead_keeps (s : State) (event : Nat) (payload : W64) : Keeps [.stewards, .firmware] s (s.logLead event payload) :=
  logP_keeps s s.leadNow event 0xFFFF 0xFF [payload]

/-- A log entry changes nothing of the firmware but the entries that wait for the persistent log (R474). -/
theorem logP_fw (s : State) (col event unit part : Nat) (payload : List W64) :
    (s.logP col event unit part payload).fw = { s.fw with plogWait := (s.logP col event unit part payload).fw.plogWait } := by
  unfold State.logP
  dsimp only
  split <;> rfl

/-- The entry that an event makes (R473). -/
def State.entryOf (s : State) (col event unit part : Nat) (payload : List W64) : LogEntry :=
  ⟨s.tm.now, (s.steward col).head % 2 ^ 32, event, severity event, col, unit, part, 0, payload⟩

/-- An event logged is put into the ring of its column. -/
theorem logP_steward (s : State) (col event unit part : Nat) (payload : List W64) (d : Nat) :
    (s.logP col event unit part payload).steward d =
      (s.updSteward col fun w => w.append (s.entryOf col event unit part payload)).steward d := by
  unfold State.logP
  dsimp only
  split <;> rfl

theorem logP_steward_ne (s : State) (event unit part : Nat) (payload : List W64) {c d : Nat} (h : d ≠ c) :
    (s.logP c event unit part payload).steward d = s.steward d := by
  rw [logP_steward, updSteward_steward_ne _ _ _ h]

/-- An event logged is the newest entry of its column's log (R473). -/
theorem logP_logged (s : State) (col event unit part : Nat) (payload : List W64) : Logged (s.logP col event unit part payload) col event payload := by
  refine ⟨{ s.entryOf col event unit part payload with seq := (s.steward col).head % 2 ^ 32 }, ?_, rfl, rfl⟩
  simp [logP_steward, Steward.append]

/-- The lead logs the event of the whole module, as the state stands (R472). -/
theorem logLead_logged (s : State) (event : Nat) (payload : W64) : Logged (s.logLead event payload) s.leadNow event [payload] :=
  logP_logged s s.leadNow event 0xFFFF 0xFF [payload]

theorem logged_of_stew {s t : State} {c event : Nat} {payload : List W64} (h : Logged s c event payload) (hstew : t.stew = s.stew) :
    Logged t c event payload := by
  unfold Logged State.steward at h ⊢
  rwa [hstew]

end Sys2Proof.Machine

/-! ## What traffic, the log and closing connections leave alone -/

namespace Sys2Proof.Machine

/-- State s without what sending, logging, measuring, closing a connection and clearing memory change: the network but for MGMT, the
stewards, positions, clusters and memory, the log's and the staging claims' part of the firmware, and the staging claim of structure images. -/
def State.calm (s : State) : State :=
  { s with
    stew := [], pos := [], cls := [], mem := .reset
    net := { Net.reset with mgmtUp := s.net.mgmtUp }
    fw := { s.fw with plogWait := [], stage := .reset, mlog := [], digest := [], digestCopy := [], dropped := 0 }
    xsi := { s.xsi with stage := .reset } }

theorem foldl_calm {α : Type} (l : List α) (g : State → α → State) (s : State) (h : ∀ s a, (g s a).calm = s.calm) :
    (l.foldl g s).calm = s.calm := by
  induction l generalizing s with
  | nil => rfl
  | cons a l ih => rw [List.foldl_cons, ih, h]

/-- What has the same calm state has the same partitions. -/
theorem parts_of_calm {s t : State} (h : t.calm = s.calm) : t.parts = s.parts := by
  change t.calm.parts = s.calm.parts
  rw [h]

theorem part_of_calm {s t : State} (h : t.calm = s.calm) (p : Nat) : t.part p = s.part p := by
  rw [State.part, parts_of_calm h, State.part]

/-- The load registers of calm states that agree there differ in the claim alone. -/
theorem xsi_of_calm {s t : State} (h : t.calm.xsi = s.calm.xsi) : t.xsi = { s.xsi with stage := t.xsi.stage } := by
  change { t.calm.xsi with stage := t.xsi.stage } = _
  rw [h]
  rfl

/-! ### The log -/

@[simp] theorem updSteward_calm (s : State) (c : Nat) (f : Steward → Steward) : (s.updSteward c f).calm = s.calm := rfl

@[simp] theorem trace_calm (s : State) (col part k point : Nat) (args : List Nat) : (s.trace col part k point args).calm = s.calm := by
  unfold State.trace; split <;> rfl

@[simp] theorem traceLead_calm (s : State) (part k point : Nat) (args : List Nat) : (s.traceLead part k point args).calm = s.calm :=
  trace_calm ..

@[simp] theorem traceConn_calm (s : State) (c k point : Nat) (args : List Nat) : (s.traceConn c k point args).calm = s.calm :=
  trace_calm ..

@[simp] theorem logP_calm (s : State) (col event unit part : Nat) (payload : List W64) : (s.logP col event unit part payload).calm = s.calm := by
  unfold State.logP
  dsimp only
  split <;> rfl

@[simp] theorem logEv_calm (s : State) (col event : Nat) (payload : W64) : (s.logEv col event payload).calm = s.calm := logP_calm ..

@[simp] theorem logLead_calm (s : State) (event : Nat) (payload : W64) : (s.logLead event payload).calm = s.calm := logEv_calm ..

@[simp] theorem measure_calm (s : State) (kind part seq id : Nat) (digest : Bytes) : (s.measure kind part seq id digest).calm = s.calm := by
  unfold State.measure State.updFw
  dsimp only
  split <;> rfl

/-! ### Sending -/

@[simp] theorem updConn_calm (s : State) (c : Nat) (f : Conn → Conn) : (s.updConn c f).calm = s.calm := rfl

@[simp] theorem emit_calm (s : State) (c : Nat) (p : Pkt) (at' : Nat × Nat) : (s.emit c p at').calm = s.calm := rfl

@[simp] theorem movePlane_calm (s : State) (c : Nat) : (s.movePlane c).calm = s.calm := by simp [State.movePlane]

@[simp] theorem moveIfEmpty_calm (s : State) (c : Nat) : (s.moveIfEmpty c).calm = s.calm := by
  unfold State.moveIfEmpty; split <;> simp

@[simp] theorem sendNow_calm (s : State) (c : Nat) (p : Pkt) : (s.sendNow c p).calm = s.calm := by
  unfold State.sendNow
  dsimp only
  split <;> simp

@[simp] theorem send_calm (s : State) (c : Nat) (p : Pkt) : (s.send c p).calm = s.calm := by
  rw [send_eq]; split <;> simp

@[simp] theorem sendAck_calm (s : State) (c : Nat) (done : Option (Nat × Nat)) : (s.sendAck c done).calm = s.calm := by
  unfold State.sendAck
  dsimp only
  split <;> simp

theorem flushTx_calm (n : Nat) (s : State) (c : Nat) : (State.flushTx n s c).calm = s.calm := by
  induction n generalizing s with
  | zero => rfl
  | succ n ih =>
    unfold State.flushTx
    dsimp only
    split
    · split
      · simp
      · simp [ih]
    · simp

@[simp] theorem flush_calm (s : State) (c : Nat) : (s.flush c).calm = s.calm := flushTx_calm ..

@[simp] theorem sendCtl_calm (s : State) (c ctlop part role tgen : Nat) (payload : Bytes) : (s.sendCtl c ctlop part role tgen payload).calm = s.calm := by
  have hstart : ∀ u : State, (u.startOp c .ctl).2.calm = u.calm := fun _ => rfl
  simp [State.sendCtl, hstart]

/-! ### Ports that go down -/

@[simp] theorem updPort_calm (s : State) (n : Nat) (f : Port → Port) : (s.updPort n f).calm = s.calm := rfl

@[simp] theorem respray_calm (s : State) (q : Queued) : (s.respray q).calm = s.calm := by
  have hdrop : ∀ n, (s.fwdDrop n).calm = s.calm := by
    intro n; unfold State.fwdDrop State.countPort; split <;> rfl
  unfold State.respray
  split
  · dsimp only
    split
    · simp
    · exact moveIfEmpty_calm ..
  · exact hdrop _
  · rfl

@[simp] theorem resprayAll_calm (s : State) : s.resprayAll.calm = s.calm := foldl_calm _ _ _ respray_calm

@[simp] theorem flushAll_calm (s : State) : s.flushAll.calm = s.calm := foldl_calm _ _ _ fun s e => flush_calm s e.1

@[simp] theorem moveAll_calm (s : State) : s.moveAll.calm = s.calm := foldl_calm _ _ _ fun s e => moveIfEmpty_calm s e.1

@[simp] theorem portDown_calm (s : State) (n : Nat) : (s.portDown n).calm = s.calm := by
  unfold State.portDown
  dsimp only
  split
  · rfl
  · rw [foldl_calm _ _ _ fun s _ => logP_calm ..]
    simp

/-! ### Closing -/

@[simp] theorem finishRx_calm (s : State) (c status : Nat) : (s.finishRx c status).calm = s.calm := by
  have hend : ∀ (u : State) (o : RxOp), (u.endRx c status o).calm = u.calm := by
    intro u o; unfold State.endRx; split <;> simp
  simp [State.finishRx, foldl_calm _ _ _ hend]

@[simp] theorem lapseClaims_calm (s : State) (c : Nat) : (s.lapseClaims c).calm = s.calm := rfl

@[simp] theorem closeConn_calm (s : State) (c : Nat) : (s.closeConn c).calm = s.calm := by simp [State.closeConn]

/-! ### Positions and memory -/

@[simp] theorem bookFill_calm (s : State) (pos : Nat) : (s.bookFill pos).calm = s.calm := rfl

@[simp] theorem updCluster_calm (s : State) (k : Nat) (f : Cluster → Cluster) : (s.updCluster k f).calm = s.calm := rfl

@[simp] theorem updRegion_calm (s : State) (r : Nat) (f : Region → Region) : (s.updRegion r f).calm = s.calm := rfl

@[simp] theorem clearAlloc_calm (s : State) (r : Region) : (s.clearAlloc r).calm = s.calm := rfl

@[simp] theorem startInit_calm (s : State) (r : Nat) : (s.startInit r).calm = s.calm := rfl

@[simp] theorem traceRegion_calm (s : State) (r point : Nat) : (s.traceRegion r point).calm = s.calm := traceLead_calm ..

@[simp] theorem wipeRegion_calm (s : State) (r : Nat) : (s.wipeRegion r).2.calm = s.calm := by
  unfold State.wipeRegion State.nextGen
  dsimp only
  (repeat' split) <;> simp

/-! ### Teardowns -/

/-- Between s and t partition p changes, which then has the state given, and beside it no more than traffic, the log and memory. -/
structure PartOnly (p : Nat) (st : PState) (s t : State) : Prop where
  calm : t.calm = { s.calm with parts := t.parts }
  other : ∀ q, q ≠ p → t.part q = s.part q
  st : (t.part p).st = st

namespace PartOnly

variable {p : Nat} {st st' : PState} {s t u : State}

theorem trans (h₁ : PartOnly p st s t) (h₂ : PartOnly p st' t u) : PartOnly p st' s u where
  calm := by rw [h₂.calm, h₁.calm]
  other q hq := (h₂.other q hq).trans (h₁.other q hq)
  st := h₂.st

/-- What traffic, the log and memory change leaves every partition. -/
theorem of_calm (h : t.calm = s.calm) : PartOnly p (s.part p).st s t where
  calm := by rw [h, parts_of_calm h]; rfl
  other q _ := part_of_calm h q
  st := by rw [part_of_calm h]

theorem of_updPart {f : Part → Part} (hf : (f (s.part p)).st = st) : PartOnly p st s (s.updPart p f) where
  calm := rfl
  other _ hq := updPart_part_ne _ _ _ hq
  st := by rw [updPart_part_same, hf]

theorem thenCalm (h : PartOnly p st s t) (hu : u.calm = t.calm) : PartOnly p st s u := by
  have hsame := of_calm (p := p) hu
  rw [h.st] at hsame
  exact h.trans hsame

theorem thenUpdPart (h : PartOnly p st s t) {f : Part → Part} (hf : ∀ q, (f q).st = q.st) : PartOnly p st s (t.updPart p f) :=
  h.trans (of_updPart ((hf _).trans h.st))

end PartOnly

/-- Steps 1 and 2 of a teardown change one partition, which then tears (R436). -/
theorem startTear_partOnly (s : State) (p : Nat) (remove : Bool) : PartOnly p .tearing s (s.startTear p remove) := by
  have hclosed : ∀ (u : State) (cs : List Nat) (g : Part → Part), PartOnly p .tearing s u → (∀ q, (g q).st = q.st) →
      PartOnly p .tearing s ((cs.foldl (fun s c => s.closeConn c) ((u.traceTear p 1).traceTear p 2)).updPart p g) := by
    intro u cs g hu hg
    refine .thenUpdPart (hu.thenCalm ?_) hg
    rw [foldl_calm _ _ _ closeConn_calm]
    simp [State.traceTear]
  unfold State.startTear
  split
  · next h => exact .of_updPart h
  · dsimp only
    apply hclosed
    · exact .of_updPart rfl
    · intro _; rfl

/-- Steps 3 and 4 of a teardown change one partition, and not its state (R436). -/
theorem tearOn_partOnly (s : State) (p : Nat) : PartOnly p (s.part p).st s (s.tearOn p) := by
  have hsteps : ∀ (u : State) (cs : List Nat) (rs : List (Nat × Region)) (f g : Part → Part) (h : Conn → Conn), u.calm = s.calm →
      (∀ q, (f q).st = q.st) → (∀ q, (g q).st = q.st) → PartOnly p (s.part p).st s
        ((rs.foldl (fun s e => (s.wipeRegion e.1).2) (cs.foldl (fun s c => s.updConn c h) (u.updPart p f))).updPart p g) := by
    intro u cs rs f g h hu hf hg
    have hconns := foldl_calm cs (fun s c => s.updConn c h) (u.updPart p f) fun _ _ => rfl
    have hregions := foldl_calm rs (fun s e => (s.wipeRegion e.1).2) (cs.foldl (fun s c => s.updConn c h) (u.updPart p f))
      fun s e => wipeRegion_calm s e.1
    exact .thenUpdPart (.thenCalm (.thenUpdPart (.of_calm hu) hf) (hregions.trans hconns)) hg
  unfold State.tearOn
  dsimp only
  split
  · split
    all_goals
      split
      · apply hsteps
        · simp [State.traceTear]
        · intro _; rfl
        · intro _; rfl
      · exact .of_calm rfl
  · exact .of_calm rfl

/-- A teardown begun changes one partition, which tears (R435, R436). -/
theorem teardown_partOnly (s : State) (p : Nat) (remove : Bool) : PartOnly p .tearing s (s.teardown p remove) := by
  have hstart := startTear_partOnly s p remove
  have hon := tearOn_partOnly (s.startTear p remove) p
  rw [hstart.st] at hon
  exact hstart.trans hon

end Sys2Proof.Machine

/-! ## A structure image applied (R428 to R431) -/

namespace Sys2Proof.Machine

/-- Between s and t an image may have been applied in part: the module's fault state, its pending zeroisation and the count of loads are the
same, and every partition that exists is what it was but for its sequence number. -/
structure Applied (s t : State) : Prop where
  dev : t.dev = s.dev
  zeroDue : t.fw.zeroDue = s.fw.zeroDue
  loads : t.xsi.loads = s.xsi.loads
  part : ∀ p, (s.part p).st ≠ .absent → t.part p = { s.part p with seq := (t.part p).seq }

namespace Applied

variable {s t u : State}

theorem trans (h₁ : Applied s t) (h₂ : Applied t u) : Applied s u where
  dev := h₂.dev.trans h₁.dev
  zeroDue := h₂.zeroDue.trans h₁.zeroDue
  loads := h₂.loads.trans h₁.loads
  part p hp := by
    have hst : (t.part p).st = (s.part p).st := by rw [h₁.part p hp]
    rw [h₂.part p (hst ▸ hp), h₁.part p hp]

/-- An operation that leaves the partitions, the fault state, the pending zeroisation and the count of loads. -/
theorem of_parts (hparts : t.parts = s.parts) (hdev : t.dev = s.dev) (hzero : t.fw.zeroDue = s.fw.zeroDue)
    (hloads : t.xsi.loads = s.xsi.loads) : Applied s t :=
  ⟨hdev, hzero, hloads, fun p _ => by unfold State.part; rw [hparts]⟩

theorem of_calm (h : t.calm = s.calm) : Applied s t := by
  refine of_parts (parts_of_calm h) ?_ ?_ ?_
  · change t.calm.dev = s.calm.dev
    rw [h]
  · change t.calm.fw.zeroDue = s.calm.fw.zeroDue
    rw [h]
  · change t.calm.xsi.loads = s.calm.xsi.loads
    rw [h]

theorem refl (s : State) : Applied s s := of_calm rfl

theorem foldl {α : Type} (l : List α) (g : State → α → State) (s : State) (h : ∀ s a, Applied s (g s a)) : Applied s (l.foldl g s) := by
  induction l generalizing s with
  | nil => exact refl s
  | cons a l ih => exact (h s a).trans (ih (g s a))

/-- A new sequence number of a partition. -/
theorem of_seq (s : State) (p n : Nat) : Applied s (s.updPart p fun q => { q with seq := n }) := by
  refine ⟨rfl, rfl, rfl, fun i _ => ?_⟩
  by_cases hi : i = p
  · rw [hi, updPart_part_same]
  · rw [updPart_part_ne _ _ _ hi]

end Applied

theorem writeSeq_keeps (s : State) : Keeps [.flash] s s.writeSeq := by
  unfold State.writeSeq
  dsimp only
  split
  · exact .refl _ s
  · split <;> exact .of_patch rfl

theorem writeSec_keeps (s : State) (f : SecRec → SecRec) : Keeps [.flash] s (s.writeSec f) := by
  unfold State.writeSec
  dsimp only
  split
  · exact .refl _ s
  · split <;> exact .of_patch rfl

/-- A state that differs in its flash only. -/
theorem Applied.of_flash {s t : State} (h : Keeps [.flash] s t) : Applied s t := by
  have hfw : t.fw = s.fw := h .firmware (by decide)
  have hxsi : t.xsi = s.xsi := h .structure_ (by decide)
  exact .of_parts (h .partitions (by decide)) (h .faults (by decide)) (by rw [hfw]) (by rw [hxsi])

theorem writePort_applied (s : State) (rs : List XRec) (n : Nat) : Applied s (s.writePort rs n) := by
  unfold State.writePort
  dsimp only
  split
  · exact .refl s
  · exact .of_calm (by simp)

theorem tracePower_calm (s t : State) : (s.tracePower t).calm = t.calm := by
  unfold State.tracePower
  dsimp only
  refine (foldl_calm _ _ _ fun u c => ?_).trans ?_
  · split <;> simp
  · split <;> simp

/-- The module sections change no partition (R430). -/
theorem writeModule_applied (s : State) (rs : List XRec) : Applied s (s.writeModule rs) := by
  have hports : Applied s ((List.range 16).foldl (fun s n => s.writePort rs n) s) := .foldl _ _ _ fun u n => writePort_applied u rs n
  unfold State.writeModule
  dsimp only
  generalize (List.range 16).foldl (fun s n => s.writePort rs n) s = u at hports
  refine Applied.trans ?power (Applied.foldl _ _ _ ?ramps)
  case ramps => exact fun v k => .of_calm ((updCluster_calm _ _ _).trans (foldl_calm _ _ _ fun u i => bookFill_calm u _))
  refine Applied.trans ?limits (.of_calm (tracePower_calm _ _))
  refine Applied.trans ?registers (Applied.foldl _ _ _ ?limit)
  case limit => exact fun v c => .of_parts rfl rfl rfl rfl
  exact hports.trans (.of_parts rfl rfl rfl rfl)

/-- A partition created changes no other (R431). -/
theorem Applied.thenCreate {s t : State} (h : Applied s t) (rs : List XRec) (r : XRec) (habs : (s.part (r.byte 0)).st = .absent) :
    Applied s (t.createPart rs r) := by
  have hnew : ∀ (f : Part → Part) (slots : Table Slot), Applied s { t.updPart (r.byte 0) f with slots := slots } := by
    refine fun f slots => ⟨h.dev, h.zeroDue, h.loads, fun p hp => ?_⟩
    have hne : p ≠ r.byte 0 := fun hpr => hp (hpr ▸ habs)
    have hsame : ({ t.updPart (r.byte 0) f with slots := slots } : State).part p = t.part p := updPart_part_ne t _ f hne
    rw [hsame]
    exact h.part p hp
  unfold State.createPart
  dsimp only
  refine Applied.trans ?new (Applied.foldl _ _ _ ?region)
  case region => exact fun u x => .of_calm ((startInit_calm _ _).trans (updRegion_calm _ _ _))
  exact hnew _ _

theorem writeGrants_applied (s : State) (img : Bytes) (rs : List XRec) : Applied s (s.writeGrants img rs) := by
  unfold State.writeGrants
  refine .foldl _ _ _ fun u p => ?_
  split
  · exact .of_parts rfl rfl rfl rfl
  · split
    · exact .refl u
    · exact .of_parts rfl rfl rfl rfl

theorem seqAfter_applied (s : State) (img : Bytes) (rs : List XRec) (old : Nat → Option Bytes) : Applied s (s.seqAfter img rs old) := by
  have hfold : ∀ hit : Nat → Bool, Applied s ((List.range 16).foldl (fun s p => if hit p then s.updPart p fun q => { q with seq := 0 } else s) s) := by
    refine fun hit => .foldl _ _ _ fun u p => ?_
    split
    · exact .of_seq u p 0
    · exact .refl u
  unfold State.seqAfter
  dsimp only
  split
  · exact (hfold _).trans (.of_flash (writeSeq_keeps _))
  · exact hfold _


theorem seqAfter_keeps (s : State) (img : Bytes) (rs : List XRec) (old : Nat → Option Bytes) :
    Keeps [.partitions, .flash] s (s.seqAfter img rs old) := by
  have hfold : ∀ hit : Nat → Bool, Keeps [.partitions, .flash] s
      ((List.range 16).foldl (fun s p => if hit p then s.updPart p fun q => { q with seq := 0 } else s) s) := by
    refine fun hit => .foldl _ _ _ fun u p => ?_
    split
    · exact .of_patch rfl
    · exact .refl _ u
  unfold State.seqAfter
  dsimp only
  split
  · exact (hfold _).trans ((writeSeq_keeps _).mono (by simp))
  · exact hfold _

theorem storeImage_keeps (s : State) (img : Bytes) : Keeps [.flash] s (s.storeImage img) := by
  unfold State.storeImage
  split <;> exact .of_patch rfl

/-- The partitions of an image and its grants (R428 steps 3 and 4, R431). -/
theorem createParts_applied (s t : State) (h : Applied s t) (rs fresh : List XRec) (habs : ∀ r ∈ fresh, (s.part (r.byte 0)).st = .absent) :
    Applied s (fresh.foldl (fun s r => if s.columnsServe rs r then s.createPart rs r else s) t) := by
  induction fresh generalizing t with
  | nil => exact h
  | cons r fresh ih =>
    refine ih _ ?_ fun x hx => habs x (List.mem_cons_of_mem r hx)
    change Applied s (if t.columnsServe rs r then t.createPart rs r else t)
    split
    · exact h.thenCreate rs r (habs r List.mem_cons_self)
    · exact h

/-- The end of an apply (R428 step 5, R416): the load's registers, its log entry, the image stored, and a zeroisation that waited for it. -/
def State.xsiEnd (s : State) (img : Bytes) (cause : Nat) (store : Bool) : State :=
  let s := s.updXsi fun x =>
    { x with st := 3, cause := cause, sect := 0, offset := noOffset, loads := inc x.loads, image := none,
             tornWait := [], stage := x.loader.elim x.stage x.stage.lapse, loader := none }
  let s := s.logLead 0x09 s.xsiLoadStatus
  let s := if store then s.storeImage img else s
  if s.fw.zeroDue then s.zeroise else s

/-- The sequence number of an owner image in force (R425, R451). -/
theorem ownerNumber_applied (s : State) (img : Bytes) (rs : List XRec) (key : Nat → Option Bytes) (t : State)
    (ht : t = (s.updXsi fun x => { x with ownerSeq := xSeq img, ownerImage := true }).writeSec fun r => { r with ownerSeq := xSeq img }) :
    Applied s (if t.xsi.loader.isSome then t.seqAfter img rs key else t) ∧
      (if t.xsi.loader.isSome then t.seqAfter img rs key else t).xsi.ownerSeq = xSeq img ∧
      (if t.xsi.loader.isSome then t.seqAfter img rs key else t).xsi.ownerImage = true := by
  have hsec : Keeps [.flash] (s.updXsi fun x => { x with ownerSeq := xSeq img, ownerImage := true }) t := ht ▸ writeSec_keeps _ _
  have hxsi : t.xsi = { s.xsi with ownerSeq := xSeq img, ownerImage := true } := hsec .structure_ (by decide)
  have happ : Applied s t := by
    refine .trans ?_ (.of_flash hsec)
    exact .of_parts rfl rfl rfl rfl
  split
  · have hafter : (t.seqAfter img rs key).xsi = t.xsi := seqAfter_keeps t img rs key .structure_ (by decide)
    rw [hafter, hxsi]
    exact ⟨happ.trans (seqAfter_applied t img rs key), rfl, rfl⟩
  · rw [hxsi]
    exact ⟨happ, rfl, rfl⟩

/-- An apply goes through its steps, which leave the partitions that exist, and ends (R428). -/
theorem xsiFinish_ends (s : State) (img : Bytes) (rs : List XRec) :
    ∃ u cause store, Applied s u ∧ (xTenant img = false → u.xsi.ownerSeq = xSeq img ∧ u.xsi.ownerImage = true) ∧
      s.xsiFinish img rs = u.xsiEnd img cause store := by
  unfold State.xsiFinish
  dsimp only
  generalize hmodule : (if xModule img then s.writeModule rs else s) = t₁
  have h₁ : Applied s t₁ := by
    rw [← hmodule]
    split
    · exact writeModule_applied s rs
    · exact .refl s
  generalize hfresh : (rs.filter fun r => r.sect = 1 && (t₁.part (r.byte 0)).st = .absent) = fresh
  have habs : ∀ r ∈ fresh, (t₁.part (r.byte 0)).st = .absent := by
    intro r hr
    rw [← hfresh] at hr
    have hr := (List.mem_filter.mp hr).2
    simp only [Bool.and_eq_true, decide_eq_true_eq] at hr
    exact hr.2
  generalize hcreate : fresh.foldl (fun s r => if s.columnsServe rs r then s.createPart rs r else s) t₁ = t₂
  have h₂ : Applied s (t₂.writeGrants img rs) :=
    h₁.trans ((hcreate ▸ createParts_applied t₁ t₁ (.refl t₁) rs fresh habs).trans (writeGrants_applied t₂ img rs))
  by_cases htenant : xTenant img = true
  · refine ⟨_, _, _, ?app, ?owner, rfl⟩
    case app =>
      rw [if_pos htenant]
      exact (h₂.trans ((Applied.of_seq _ _ _).trans (.of_flash (writeSeq_keeps _)))).trans (.of_calm (measure_calm ..))
    case owner => simp [htenant]
  · obtain ⟨happ, hseq, himage⟩ := ownerNumber_applied (t₂.writeGrants img rs) img rs (fun p => s.tenantKey p) _ rfl
    refine ⟨_, _, _, ?app, ?owner, rfl⟩
    case app =>
      rw [if_neg htenant]
      exact (h₂.trans happ).trans (.of_calm (measure_calm ..))
    case owner =>
      rw [if_neg htenant]
      exact fun _ => ⟨hseq, himage⟩

/-- The end of an apply: the load is applied, counted and logged, and no more than the flash changes beside it (R428, R416). -/
theorem xsiEnd_ends (s : State) (img : Bytes) (cause : Nat) (store : Bool) (hzero : s.fw.zeroDue = false) :
    (s.xsiEnd img cause store).xsi = { s.xsi with
      st := 3, cause := cause, sect := 0, offset := noOffset, loads := inc s.xsi.loads, image := none, tornWait := [],
      stage := s.xsi.loader.elim s.xsi.stage s.xsi.stage.lapse, loader := none } ∧
    (s.xsiEnd img cause store).parts = s.parts ∧
    Logged (s.xsiEnd img cause store) s.leadNow 0x09 [(s.xsiEnd img cause store).xsiLoadStatus] := by
  unfold State.xsiEnd
  dsimp only
  generalize hu : (s.updXsi fun x =>
    { x with st := 3, cause := cause, sect := 0, offset := noOffset, loads := inc x.loads, image := none, tornWait := [],
             stage := x.loader.elim x.stage x.stage.lapse, loader := none }) = u
  generalize hw : (if store then (u.logLead 0x09 u.xsiLoadStatus).storeImage img else u.logLead 0x09 u.xsiLoadStatus) = w
  have hlog : Keeps [.stewards, .firmware] u (u.logLead 0x09 u.xsiLoadStatus) := logLead_keeps _ _ _
  have hstore : Keeps [.flash] (u.logLead 0x09 u.xsiLoadStatus) w := by
    rw [← hw]
    split
    · exact storeImage_keeps _ img
    · exact .refl _ _
  have hxsi : w.xsi = u.xsi := (hstore .structure_ (by decide)).trans (hlog .structure_ (by decide))
  have hparts : w.parts = u.parts := (hstore .partitions (by decide)).trans (hlog .partitions (by decide))
  have hfw : w.fw.zeroDue = false := by
    have hsame : w.fw = (u.logLead 0x09 u.xsiLoadStatus).fw := hstore .firmware (by decide)
    rw [hsame, State.logLead, State.logEv, logP_fw, ← hu]
    exact hzero
  have hlogged : Logged w s.leadNow 0x09 [w.xsiLoadStatus] := by
    have hlead : s.leadNow = u.leadNow := by rw [← hu]; rfl
    have hstatus : w.xsiLoadStatus = u.xsiLoadStatus := by unfold State.xsiLoadStatus; rw [hxsi]
    rw [hlead, hstatus]
    exact logged_of_stew (logLead_logged u 0x09 u.xsiLoadStatus) (hstore .stewards (by decide))
  rw [hfw]
  refine ⟨hxsi.trans ?_, hparts.trans ?_, hlogged⟩ <;> rw [← hu] <;> rfl

/-- With no partition to wait for, an apply that is under way finishes (R428). -/
theorem xsiOn_finishes (s : State) (img : Bytes) (rs : List XRec) (himg : s.xsi.image = some img) (hst : s.xsi.st = 2)
    (htorn : s.xsi.tornWait = []) (hrs : xsiRecs img = .ok rs) : s.xsiOn = s.xsiFinish img rs := by
  simp [State.xsiOn, himg, hst, htorn, hrs]

/-- A partition that has not torn down holds an apply up (R428). -/
theorem xsiOn_waits (s : State) (p : Nat) (hp : p ∈ s.xsi.tornWait) (hst : (s.part p).st ≠ .absent) : s.xsiOn = s := by
  have hnot : ¬(s.xsi.st = 2 ∧ s.xsi.tornWait.all (fun p => decide ((s.part p).st = .absent)) = true) :=
    fun h => hst (of_decide_eq_true (List.all_eq_true.mp h.2 p hp))
  unfold State.xsiOn
  split
  · rw [if_neg hnot]
  · rfl

/-- The changed partitions of a load tear down; no other changes its state, and the load waits with its image (R428 step 1). -/
theorem teardowns_partsTear (s : State) (l : List Nat) :
    (l.foldl (fun s p => s.teardown p true) s).xsi = { s.xsi with stage := (l.foldl (fun s p => s.teardown p true) s).xsi.stage } ∧
      (∀ p ∈ l, ((l.foldl (fun s p => s.teardown p true) s).part p).st = .tearing) ∧
      ∀ p, p ∉ l → (l.foldl (fun s p => s.teardown p true) s).part p = s.part p := by
  induction l generalizing s with
  | nil => exact ⟨rfl, by simp, fun _ _ => rfl⟩
  | cons a l ih =>
    have htear := teardown_partOnly s a true
    obtain ⟨hxsi, hin, hout⟩ := ih (s.teardown a true)
    rw [List.foldl_cons]
    refine ⟨?_, ?_, ?_⟩
    · have hone : (s.teardown a true).xsi = { s.xsi with stage := (s.teardown a true).xsi.stage } :=
        xsi_of_calm (by rw [htear.calm])
      rw [hxsi, hone]
    · intro p hp
      by_cases hl : p ∈ l
      · exact hin p hl
      · obtain rfl : p = a := by simpa [hl] using hp
        rw [hout p hl, htear.st]
    · intro p hp
      obtain ⟨hpa, hl⟩ : p ≠ a ∧ p ∉ l := by simpa using hp
      rw [hout p hl, htear.other p hpa]


theorem runs_xsiApply {s : State} {P : State → Prop} (h : P s.opXsiApply) : Runs .xsiApply s P := ⟨_, rfl, h⟩

/-- An apply that may begin tears the changed partitions down and goes on as far as it can (R428). -/
theorem opXsiApply_begins {s : State} {img : Bytes} {rs : List XRec} (hbased : s.based = true) (himg : s.xsi.image = some img)
    (hst : s.xsi.st = 1) (hrs : xsiRecs img = .ok rs) :
    s.opXsiApply = ((s.xsiTorn img rs).foldl (fun s p => s.teardown p true)
      (s.updXsi fun x => { x with st := 2, tornWait := s.xsiTorn img rs })).xsiOn := by
  simp [State.opXsiApply, State.whenBased, hbased, himg, hst, hrs]

/-- An apply with no changed partition (R428, R431, R425). -/
theorem opXsiApply_unchanged {s : State} {img : Bytes} {rs : List XRec} (hbased : s.based = true) (himg : s.xsi.image = some img)
    (hst : s.xsi.st = 1) (hrs : xsiRecs img = .ok rs) (htorn : s.xsiTorn img rs = []) (hzero : s.fw.zeroDue = false) :
    ∃ u cause store, Applied s u ∧ (xTenant img = false → u.xsi.ownerSeq = xSeq img ∧ u.xsi.ownerImage = true) ∧
      s.opXsiApply = u.xsiEnd img cause store ∧ u.fw.zeroDue = false := by
  have hon := xsiOn_finishes (s.updXsi fun x => { x with st := 2, tornWait := [] }) img rs himg rfl rfl hrs
  rw [opXsiApply_begins hbased himg hst hrs, htorn, List.foldl_nil, hon]
  obtain ⟨u, cause, store, happ, howner, hend⟩ := xsiFinish_ends (s.updXsi fun x => { x with st := 2, tornWait := [] }) img rs
  refine ⟨u, cause, store, .trans ?_ happ, howner, hend, happ.zeroDue.trans hzero⟩
  exact .of_parts rfl rfl rfl rfl

/-- Settles O22: the steps of an apply leave the partitions that exist (`xsiFinish_ends`), and a teardown changes its own alone
(`teardowns_partsTear`). -/
theorem structureImageIsApplied : Obligations.StructureImageIsApplied := by
  refine ⟨?unchanged, ?changed, ?none⟩
  case unchanged =>
    intro s img rs hbased himg hst hrs htorn hzero
    obtain ⟨u, cause, store, happ, howner, hend, hzero'⟩ := opXsiApply_unchanged hbased himg hst hrs htorn hzero
    obtain ⟨hxsi, hparts, hlogged⟩ := xsiEnd_ends u img cause store hzero'
    have hlead : u.leadNow = s.leadNow := by unfold State.leadNow; rw [happ.dev]
    have hpart : ∀ p, (u.xsiEnd img cause store).part p = u.part p := fun p => by unfold State.part; rw [hparts]
    apply runs_xsiApply
    rw [hend]
    rw [hlead] at hlogged
    refine ⟨by rw [hxsi], by rw [hxsi], by rw [hxsi, happ.loads], by rw [hxsi], fun ht => ?_, fun p hp => ?_, hlogged⟩
    · rw [hxsi]
      exact howner ht
    · rw [hpart p]
      exact happ.part p hp
  case changed =>
    intro s img rs hbased himg hst hrs htorn
    obtain ⟨hxsi, hin, hout⟩ := teardowns_partsTear (s.updXsi fun x => { x with st := 2, tornWait := s.xsiTorn img rs }) (s.xsiTorn img rs)
    apply runs_xsiApply
    rw [opXsiApply_begins hbased himg hst hrs]
    generalize (s.xsiTorn img rs).foldl (fun (s : State) p => s.teardown p true) _ = t at hxsi hin hout ⊢
    obtain ⟨p, hp⟩ := List.exists_mem_of_ne_nil _ htorn
    have hwait : t.xsiOn = t := by
      refine xsiOn_waits t p ?_ (by rw [hin p hp]; decide)
      rw [hxsi]
      exact hp
    rw [hwait, hxsi]
    exact ⟨rfl, rfl, himg, hin, fun q hq => by rw [hout q hq]; rfl⟩
  case none =>
    intro s hst
    have hnot : s.opXsiApply = s := by
      unfold State.opXsiApply State.whenBased
      dsimp only
      split
      · split
        · rfl
        · rfl
      · rfl
    exact congrArg Host.Outcome.next hnot

end Sys2Proof.Machine

/-! ## Self-tests (R18 to R21, R445) -/

namespace Sys2Proof.Machine

/-- The lowest column of a mask. -/
theorem lowestOf_eq {m k : Nat} (hk : k < 16) (hbit : testBit m k = true) (hmin : ∀ j, j < k → testBit m j = false) : lowestOf m = k := by
  have hfind : (List.range 16).find? (testBit m ·) = some k := by
    rw [List.find?_range_eq_some]
    exact ⟨hbit, List.mem_range.mpr hk, fun j hj => by simp [hmin j hj]⟩
  rw [lowestOf, bitsOf, List.headD_eq_head?_getD, List.head?_filter, hfind]
  rfl

/-- Between s and t TRIAL has returned to 0, and no more than the flash and the firmware has changed. -/
def TrialPassed (s t : State) : Prop := t.flash.trial = 0 ∧ Keeps [.flash, .firmware] s t

theorem TrialPassed.thenSec {s t : State} (h : TrialPassed s t) (f : SecRec → SecRec) : TrialPassed s (t.writeSec f) := by
  refine ⟨Eq.trans ?_ h.1, h.2.trans ((writeSec_keeps t f).mono (by simp))⟩
  unfold State.writeSec
  dsimp only
  split
  · rfl
  · split <;> rfl

theorem TrialPassed.thenSeq {s t : State} (h : TrialPassed s t) : TrialPassed s t.writeSeq := by
  refine ⟨Eq.trans ?_ h.1, h.2.trans ((writeSeq_keeps t).mono (by simp))⟩
  unfold State.writeSeq
  dsimp only
  split
  · rfl
  · split <;> rfl

theorem TrialPassed.thenFw {s t : State} (h : TrialPassed s t) (f : Fw → Fw) : TrialPassed s (t.updFw f) :=
  ⟨h.1, h.2.trans (.of_patch rfl)⟩

/-- The first column that passes returns TRIAL to 0 and brings the records up (R445, R450, R451). -/
theorem startPassed_trialPassed (s : State) : TrialPassed s s.startPassed := by
  have htrial : TrialPassed s { s with flash := { s.flash with trial := 0 } } := ⟨rfl, .of_patch rfl⟩
  unfold State.startPassed
  dsimp only
  apply TrialPassed.thenFw
  split
  · split
    · exact (htrial.thenSec _).thenSeq
    · exact htrial.thenSec _
  · split
    · exact htrial.thenSeq
    · exact htrial

/-- A column whose self-test is still to come is tested (R18 to R21, R445): what it leaves of the fault state, TRIAL and the rest. -/
theorem opSelftest_tests {s : State} {c : Nat} {pass : Bool} (hup : s.up = true) (hc : c < 16) (hnew : testBit s.dev.tested c = false)
    (hstart : s.fw.service = .starting) :
    (s.opSelftest c pass).dev = (s.noteSelftest c (pass && testBit s.fw.romOk c)).dev ∧
      ((pass && testBit s.fw.romOk c) = true → s.fw.latch = false → (s.opSelftest c pass).flash.trial = 0) ∧
      Keeps [.faults, .flash, .firmware, .power] s (s.opSelftest c pass) := by
  generalize hok : (pass && testBit s.fw.romOk c) = ok
  have hnote : Keeps [.faults] s (s.noteSelftest c ok) := .of_patch rfl
  have hgate : ¬(16 ≤ c ∨ testBit s.dev.tested c = true ∨ (s.fw.service ≠ .starting ∧ s.fw.service ≠ .recovery)) := by
    simp [hnew, hstart, hc]
  unfold State.opSelftest State.whenUp
  rw [if_pos hup]
  dsimp only
  rw [if_neg hgate, hok]
  generalize hv : (if ok = true ∧ (!(s.noteSelftest c ok).fw.latch) = true then (s.noteSelftest c ok).startPassed else s.noteSelftest c ok) = v
  have hkeeps : Keeps [.flash, .firmware] (s.noteSelftest c ok) v := by
    rw [← hv]
    split
    · exact (startPassed_trialPassed _).2
    · exact .refl _ _
  have htrial : ok = true → s.fw.latch = false → v.flash.trial = 0 := by
    intro h hlatch
    have hlatch' : (s.noteSelftest c ok).fw.latch = false := hlatch
    have hgo : ok = true ∧ (!(s.noteSelftest c ok).fw.latch) = true := ⟨h, by rw [hlatch']; rfl⟩
    rw [← hv, if_pos hgo]
    exact (startPassed_trialPassed _).1
  have hall : Keeps [.faults, .flash, .firmware, .power] s v := (hnote.mono (by simp)).trans (hkeeps.mono (by simp))
  have hdev : v.dev = (s.noteSelftest c ok).dev := hkeeps .faults (by decide)
  split
  · exact ⟨hdev, htrial, hall.trans (.of_patch rfl)⟩
  · exact ⟨hdev, htrial, hall⟩

end Sys2Proof.Machine

/-! ## SECURITY_ALARM and zeroisation (R476, R477) -/

namespace Sys2Proof.Machine

/-- The calm state without the partitions, and of the firmware only the count of alarms and the last one. -/
def State.bare (s : State) : State :=
  { s.calm with parts := [], fw := { Fw.reset with alarms := s.calm.fw.alarms, alarmLast := s.calm.fw.alarmLast } }

theorem bare_of_calm {s t : State} (h : t.calm = s.calm) : t.bare = s.bare := by
  unfold State.bare
  rw [h]

theorem xsiSt_bare (s : State) : s.bare.xsi.st = s.xsi.st := rfl

theorem foldl_bare {α : Type} (l : List α) (g : State → α → State) (s : State) (h : ∀ s a, (g s a).bare = s.bare) :
    (l.foldl g s).bare = s.bare := by
  induction l generalizing s with
  | nil => rfl
  | cons a l ih => rw [List.foldl_cons, ih, h]

theorem teardown_bare (s : State) (p : Nat) (remove : Bool) : (s.teardown p remove).bare = s.bare := by
  unfold State.bare
  rw [(teardown_partOnly s p remove).calm]

theorem measure_keeps (s : State) (kind part seq id : Nat) (digest : Bytes) : Keeps [.firmware] s (s.measure kind part seq id digest) :=
  .of_patch rfl

/-- Between s and t an image may have been rolled back: no more has changed than the operational image, the stage of stewards and the log. -/
structure Rolled (s t : State) : Prop where
  bare : t.bare = s.bare
  keeps : Keeps [.stewards, .firmware] s t
  held : ∀ c, (t.steward c).held = (s.steward c).held
  fires : ∀ c, (t.steward c).fires = (s.steward c).fires

namespace Rolled

variable {s t u : State}

theorem refl (s : State) : Rolled s s := ⟨rfl, .refl _ s, fun _ => rfl, fun _ => rfl⟩

theorem trans (h₁ : Rolled s t) (h₂ : Rolled t u) : Rolled s u where
  bare := h₂.bare.trans h₁.bare
  keeps := h₁.keeps.trans h₂.keeps
  held c := (h₂.held c).trans (h₁.held c)
  fires c := (h₂.fires c).trans (h₁.fires c)

/-- A steward changes in neither its watchdog's state nor its count of fires. -/
theorem of_updSteward (s : State) (c : Nat) {f : Steward → Steward} (hheld : ∀ w, (f w).held = w.held) (hfires : ∀ w, (f w).fires = w.fires) :
    Rolled s (s.updSteward c f) := by
  have hsame : ∀ {β : Type} (g : Steward → β), (∀ w, g (f w) = g w) → ∀ d, g ((s.updSteward c f).steward d) = g (s.steward d) := by
    intro β g hg d
    by_cases hd : d = c
    · rw [hd, updSteward_steward_same, hg]
    · rw [updSteward_steward_ne _ _ _ hd]
  exact ⟨rfl, .of_patch rfl, hsame Steward.held hheld, hsame Steward.fires hfires⟩

/-- The firmware changes, but for the alarms. -/
theorem of_updFw (s : State) {f : Fw → Fw} (halarms : ∀ x, (f x).alarms = x.alarms) (hlast : ∀ x, (f x).alarmLast = x.alarmLast) :
    Rolled s (s.updFw f) := by
  refine ⟨?_, .of_patch rfl, fun _ => rfl, fun _ => rfl⟩
  simp only [State.bare, State.calm, State.updFw, halarms, hlast]

theorem of_measure (s : State) (kind part seq id : Nat) (digest : Bytes) : Rolled s (s.measure kind part seq id digest) :=
  ⟨bare_of_calm (measure_calm ..), (measure_keeps s kind part seq id digest).mono (by simp), fun _ => rfl, fun _ => rfl⟩

theorem of_logP (s : State) (col event unit part : Nat) (payload : List W64) : Rolled s (s.logP col event unit part payload) := by
  have hring := of_updSteward s col (f := fun w => w.append (s.entryOf col event unit part payload)) (fun _ => rfl) fun _ => rfl
  refine ⟨bare_of_calm (logP_calm ..), logP_keeps s col event unit part payload, fun c => ?_, fun c => ?_⟩
  · rw [logP_steward, hring.held]
  · rw [logP_steward, hring.fires]

theorem of_logLead (s : State) (event : Nat) (payload : W64) : Rolled s (s.logLead event payload) := of_logP ..

theorem of_trace (s : State) (col part k point : Nat) (args : List Nat) : Rolled s (s.trace col part k point args) := by
  unfold State.trace
  split
  · exact of_updSteward s col (fun _ => rfl) fun _ => rfl
  · exact refl s

theorem of_traceAct (s : State) (build : W64) : Rolled s (s.traceAct build) := of_trace ..

theorem foldl {α : Type} (l : List α) (g : State → α → State) (s : State) (h : ∀ s a, Rolled s (g s a)) : Rolled s (l.foldl g s) := by
  induction l generalizing s with
  | nil => exact refl s
  | cons a l ih => exact (h s a).trans (ih (g s a))

end Rolled

/-- A rollback changes the operational image, the stage of stewards and the log (R468). -/
theorem rollback_rolled (s : State) : Rolled s s.rollback := by
  unfold State.rollback
  split
  · dsimp only
    refine Rolled.trans ?_ (Rolled.of_logLead _ _ _)
    cases s.fw.oldOp with
    | some i =>
      refine Rolled.trans (Rolled.trans (Rolled.of_updFw s ?_ ?_) (Rolled.of_traceAct _ _)) (Rolled.of_measure _ _ _ _ _ _)
      · exact fun _ => rfl
      · exact fun _ => rfl
    | none =>
      refine Rolled.trans (Rolled.trans (Rolled.of_updFw s ?_ ?_) (Rolled.of_traceAct _ _)) (Rolled.foldl _ _ _ ?_)
      · exact fun _ => rfl
      · exact fun _ => rfl
      · intro u c
        split
        · exact .of_updSteward u c (fun _ => rfl) fun _ => rfl
        · exact .refl u
  · exact .refl s

/-- The end of a zeroisation: the load that has not begun to apply abandoned, the keys erased, recovery (R477). -/
def State.intoRecovery (s : State) : State :=
  (s.updXsi fun x => if x.st = 1 then { x with st := 0, image := none, loader := none } else x).updFw fun f =>
    { f with op := none, newOp := none, oldOp := none, iface := 0, aliasKeys := false, service := .recovery, latch := true,
             act := if f.act = .awaiting ∨ f.act = .deferred then .idle else f.act, zeroDue := false, stage := .reset }

/-- What zeroisation does after the teardowns, with the connections still open given (R477). -/
def State.shutDown (s : State) (conns : List Nat) : State :=
  (columns.foldl (fun s c => s.updSteward c fun w => { w with stage := if w.stage = 0 then 0 else 3 })
    (conns.foldl (fun s c => s.closeConn c) s)).intoRecovery

/-- The partitions that exist torn down (R477). -/
def State.tearAll (s : State) (parts : List Nat) : State :=
  parts.foldl (fun s p => if (s.part p).st = .absent then s else s.teardown p false) s

theorem zeroise_eq (s : State) : s.zeroise = (s.rollback.tearAll (List.range 16)).shutDown
    (((s.rollback.tearAll (List.range 16)).net.conns.filter fun e => e.2.st ≠ 0 && e.2.st ≠ 4).map (·.1)) := by
  unfold State.zeroise State.shutDown State.intoRecovery State.tearAll
  rfl

theorem tearAll_bare (s : State) (parts : List Nat) : (s.tearAll parts).bare = s.bare := by
  refine foldl_bare _ _ _ fun u p => ?_
  split
  · rfl
  · exact teardown_bare u p false

theorem shutDown_service (s : State) (conns : List Nat) : (s.shutDown conns).fw.service = .recovery := rfl

theorem intoRecovery_bare {s : State} (hst : s.xsi.st ≠ 1) : s.intoRecovery.bare = s.bare := by
  have hidle : s.updXsi (fun x => if x.st = 1 then { x with st := 0, image := none, loader := none } else x) = s := by
    simp [State.updXsi, hst]
  unfold State.intoRecovery
  rw [hidle]
  rfl

theorem shutDown_bare (s : State) (conns : List Nat) (hst : s.xsi.st ≠ 1) : (s.shutDown conns).bare = s.bare := by
  unfold State.shutDown
  generalize hu : columns.foldl _ (conns.foldl _ s) = u
  have hbare : u.bare = s.bare := by
    rw [← hu]
    exact bare_of_calm ((foldl_calm _ _ _ fun u c => updSteward_calm u c _).trans (foldl_calm _ _ _ closeConn_calm))
  rw [intoRecovery_bare (by rwa [← xsiSt_bare, hbare, xsiSt_bare]), hbare]

/-- Zeroisation leaves what the bare state keeps, and the module is in recovery (R477). -/
theorem zeroise_bare (s : State) (hst : s.xsi.st ≠ 1) : s.zeroise.bare = s.bare ∧ s.zeroise.fw.service = .recovery := by
  have htorn := (tearAll_bare s.rollback (List.range 16)).trans (rollback_rolled s).bare
  have htornSt : (s.rollback.tearAll (List.range 16)).xsi.st ≠ 1 := by rwa [← xsiSt_bare, htorn, xsiSt_bare]
  rw [zeroise_eq]
  exact ⟨(shutDown_bare _ _ htornSt).trans htorn, shutDown_service _ _⟩

/-- The policy depends on the POLY records in force (R476). -/
theorem zeroisePolicy_of_poly {s t : State} (h : t.xsi.poly = s.xsi.poly) : t.zeroisePolicy = s.zeroisePolicy := by
  unfold State.zeroisePolicy
  rw [h]

/-- The bare state with one alarm more, and `last` the last one. -/
def State.bareAlarmed (s : State) (last : W64) : State := { s.bare with fw := { s.bare.fw with alarms := inc s.fw.alarms, alarmLast := last } }

/-- The word that SECURITY_ALARM shows (R476). -/
def State.alarmWord (s : State) (source : Nat) : W64 := fields [at_ 63 60 source, at_ 59 56 s.leadNow, at_ 47 0 s.tm.now.toNat]

theorem alarmWord_source (s : State) (source : Nat) : fld (s.alarmWord source) 63 60 = source % 16 := by
  simp [State.alarmWord, fld_fields, fld_at, fld_at_above]

theorem logLead_service (s : State) (event : Nat) (payload : W64) : (s.logLead event payload).fw.service = s.fw.service := by
  rw [State.logLead, State.logEv, logP_fw]

/-- SECURITY_ALARM counted, shown and logged, before the policy is asked (R476). -/
def State.alarmed (s : State) (source : Nat) : State :=
  (s.updFw fun f => { f with alarms := inc f.alarms, alarmLast := s.alarmWord source, alarm := true }).logLead 0x05 (s.alarmWord source)

theorem alarm_eq (s : State) (source : Nat) : s.alarm source =
    if source = 5 ∨ !(s.alarmed source).zeroisePolicy ∨ (s.alarmed source).fw.latch then s.alarmed source
    else if (s.alarmed source).xsi.st = 2 then (s.alarmed source).updFw fun f => { f with zeroDue := true }
    else (s.alarmed source).zeroise := rfl

theorem alarmed_bare (s : State) (source : Nat) : (s.alarmed source).bare = s.bareAlarmed (s.alarmWord source) :=
  bare_of_calm (logLead_calm _ _ _)

theorem alarmed_service (s : State) (source : Nat) : (s.alarmed source).fw.service = s.fw.service := logLead_service _ _ _

theorem logLead_latch (s : State) (event : Nat) (payload : W64) : (s.logLead event payload).fw.latch = s.fw.latch := by
  rw [State.logLead, State.logEv, logP_fw]

theorem alarmed_latch (s : State) (source : Nat) : (s.alarmed source).fw.latch = s.fw.latch := logLead_latch _ _ _

/-- SECURITY_ALARM outside a load and outside recovery (R476, R480): it counts and shows its source, and zeroises by policy. -/
theorem alarm_raises (s : State) (source : Nat) (hsource : source ≠ 5) (hlatch : s.fw.latch = false) (h₁ : s.xsi.st ≠ 1) (h₂ : s.xsi.st ≠ 2) :
    (s.alarm source).bare = s.bareAlarmed (s.alarmWord source) ∧
      (s.alarm source).fw.service = if s.zeroisePolicy then .recovery else s.fw.service := by
  have hbare := alarmed_bare s source
  have hst : (s.alarmed source).xsi.st = s.xsi.st := by rw [← xsiSt_bare, hbare]; rfl
  have hpolicy : (s.alarmed source).zeroisePolicy = s.zeroisePolicy := by
    apply zeroisePolicy_of_poly
    change (s.alarmed source).bare.xsi.poly = _
    rw [hbare]
    rfl
  rw [alarm_eq, hpolicy, alarmed_latch, hlatch, hst, if_neg h₂]
  cases s.zeroisePolicy with
  | true =>
    obtain ⟨hzero, hrecovery⟩ := zeroise_bare (s.alarmed source) (by rwa [hst])
    simp [hsource, hzero, hbare, hrecovery]
  | false => simp [hbare, alarmed_service]

end Sys2Proof.Machine

namespace Sys2Proof.Machine

/-! ## The stored image (R447, R480) -/

/-- The bare state after a forged image is rejected, where `last` is the alarm's word. -/
def State.bareForged (s : State) (last : W64) : State :=
  { s.bareAlarmed last with
    xsi := { s.bare.xsi with st := 4, cause := 5, sect := 0, offset := noOffset, rejects := inc s.xsi.rejects, image := none, loader := none } }

/-- What the bare state shows of a rejection. -/
theorem forged_of_bare {s t : State} {last : W64} (h : t.bare = s.bareForged last) :
    t.xsi.st = 4 ∧ t.xsi.cause = 5 ∧ t.xsi.rejects = inc s.xsi.rejects ∧ t.fw.alarms = inc s.fw.alarms ∧ t.fw.alarmLast = last ∧
      t.net.mgmtUp = s.net.mgmtUp ∧ t.flash = s.flash :=
  ⟨congrArg (·.xsi.st) h, congrArg (·.xsi.cause) h, congrArg (·.xsi.rejects) h, congrArg (·.fw.alarms) h, congrArg (·.fw.alarmLast) h,
    congrArg (·.net.mgmtUp) h, congrArg (·.flash) h⟩

/-- The load registers once a forged image is rejected (R426). -/
def State.forgedLoad (s : State) : State := s.updXsi fun x =>
  { x with st := 4, cause := 5, sect := 0, offset := noOffset, rejects := inc x.rejects, image := none,
           stage := x.loader.elim x.stage x.stage.lapse, loader := none }

theorem xsiReject_forged_eq (s : State) :
    s.xsiReject ⟨5, 0, noOffset⟩ = (s.forgedLoad.logLead 0x08 s.forgedLoad.xsiLoadStatus).alarm 1 := rfl

/-- A forged image is rejected with cause 0x05, and the alarm is raised (R426, R480). -/
theorem xsiReject_forged (s : State) (hlatch : s.fw.latch = false) : ∃ last, fld last 63 60 = 1 ∧
    (s.xsiReject ⟨5, 0, noOffset⟩).bare = s.bareForged last ∧
    (s.xsiReject ⟨5, 0, noOffset⟩).fw.service = if s.zeroisePolicy then .recovery else s.fw.service := by
  rw [xsiReject_forged_eq]
  have hlog : (s.forgedLoad.logLead 0x08 s.forgedLoad.xsiLoadStatus).bare = s.forgedLoad.bare := bare_of_calm (logLead_calm _ _ _)
  have hlatch' : (s.forgedLoad.logLead 0x08 s.forgedLoad.xsiLoadStatus).fw.latch = false := (logLead_latch _ _ _).trans hlatch
  have hservice' : (s.forgedLoad.logLead 0x08 s.forgedLoad.xsiLoadStatus).fw.service = s.fw.service := logLead_service _ _ _
  generalize s.forgedLoad.logLead 0x08 s.forgedLoad.xsiLoadStatus = u at hlog hlatch' hservice'
  have hst : u.xsi.st = 4 := congrArg (·.xsi.st) hlog
  have halarms : u.fw.alarms = s.fw.alarms := congrArg (·.fw.alarms) hlog
  have hpoly : u.xsi.poly = s.xsi.poly := congrArg (·.xsi.poly) hlog
  obtain ⟨hbare, hservice⟩ := alarm_raises u 1 (by decide) hlatch' (by rw [hst]; decide) (by rw [hst]; decide)
  refine ⟨_, alarmWord_source u 1, ?_, ?_⟩
  · rw [hbare, State.bareForged, State.bareAlarmed, State.bareAlarmed, halarms, hlog]
    rfl
  · rw [hservice, zeroisePolicy_of_poly hpoly, hservice']

/-- Whether every column that may be tested has been, one passed, and MGMT is still down (R447 step 3). -/
structure StoredReady (s : State) : Prop where
  up : s.up = true
  tested : ∀ c ∈ bitsOf 16 s.fw.romOk, testBit s.dev.tested c = true
  passed : s.dev.selftest ≠ 0
  mgmtDown : s.net.mgmtUp = false

/-- The step from starting to standby (R447 step 5). -/
def State.toStandby (s : State) : State :=
  (s.updFw fun f => { f with service := .standby }).logLead 0x01 (s.updFw fun f => { f with service := .standby }).fwStatus

/-- The stored image, where one half of flash may be in force (R447 step 4, R480). -/
def State.applyStored (s : State) : State :=
  match s.storedHalf with
  | some h =>
    let img := if h then s.flash.half1 else s.flash.half0
    let img := img.take (xLen img)
    (match s.xsiCheck img true with
    | .error e => s.xsiReject e
    | .ok rs => (s.xsiFinish img rs).restoreSeqs s.seqNow)
  | none => if s.storedForged then s.xsiReject ⟨5, 0, noOffset⟩ else s

/-- The module is ready for the stored image: MGMT comes up, and outside recovery the image is applied. -/
theorem opStored_ready {s : State} (h : StoredReady s) (hservice : s.fw.service = .starting ∨ s.fw.service = .recovery) : s.opStored =
    if s.raiseMgmt.fw.service = .recovery then s.raiseMgmt
    else if s.raiseMgmt.applyStored.fw.service = .starting then s.raiseMgmt.applyStored.toStandby else s.raiseMgmt.applyStored := by
  obtain ⟨hup, htested, hpassed, hmgmt⟩ := h
  have hready : ¬((!((bitsOf 16 s.fw.romOk).all (fun c => testBit s.dev.tested c) && decide (s.dev.selftest ≠ 0) && !s.net.mgmtUp)) = true ∨
      (s.fw.service ≠ .starting ∧ s.fw.service ≠ .recovery)) := by
    rw [List.all_eq_true.mpr htested, hmgmt, decide_eq_true hpassed]
    simpa [imp_iff_not_or] using hservice
  exact (if_pos hup).trans (if_neg hready)

theorem raiseMgmt_secNow (s : State) : s.raiseMgmt.secNow = s.secNow := by
  simp only [State.secNow, State.secRec, raiseMgmt_flash, raiseMgmt_fw]

theorem raiseMgmt_xsiKey (s : State) (b : Bytes) : s.raiseMgmt.xsiKey b = s.xsiKey b := by
  simp only [State.xsiKey, State.tenantKeyFor, raiseMgmt_secNow, raiseMgmt_xsi]

theorem raiseMgmt_xsiHead (s : State) (b : Bytes) : s.raiseMgmt.xsiHead b = s.xsiHead b := by
  simp only [State.xsiHead, raiseMgmt_xsiKey]

theorem raiseMgmt_halfOk (s : State) (b : Bytes) : s.raiseMgmt.halfOk b = s.halfOk b := by
  simp only [State.halfOk, raiseMgmt_xsiHead]

theorem raiseMgmt_storedHalf (s : State) : s.raiseMgmt.storedHalf = s.storedHalf := by
  unfold State.storedHalf
  rw [raiseMgmt_flash, raiseMgmt_halfOk, raiseMgmt_halfOk]

theorem raiseMgmt_storedForged (s : State) : s.raiseMgmt.storedForged = s.storedForged := by
  simp only [State.storedForged, raiseMgmt_xsiHead, raiseMgmt_flash]

theorem applyStored_none {s : State} (hhalf : s.storedHalf = none) (hforged : s.storedForged = false) : s.applyStored = s := by
  unfold State.applyStored
  rw [hhalf]
  exact if_neg (by simp [hforged])

theorem applyStored_forged {s : State} (hhalf : s.storedHalf = none) (hforged : s.storedForged = true) :
    s.applyStored = s.xsiReject ⟨5, 0, noOffset⟩ := by
  unfold State.applyStored
  rw [hhalf]
  exact if_pos hforged

theorem raiseMgmt_leadNow (s : State) : s.raiseMgmt.leadNow = s.leadNow := by
  simp only [State.leadNow, raiseMgmt_dev]

theorem mgmtPlane_cfg : mgmtPlane.cfg = BitVec.ofNat 64 mgmtMac := by rw [mgmtPlane]

theorem mgmtPlane_ip6Lo : mgmtPlane.ip6Lo = BitVec.ofNat 64 (linkLocal mgmtMac) := by rw [mgmtPlane]

theorem toStandby_service (s : State) : s.toStandby.fw.service = .standby := logLead_service _ _ _

theorem toStandby_bare (s : State) : s.toStandby.bare = s.bare :=
  Eq.trans (bare_of_calm (logLead_calm _ _ _)) rfl

/-- From starting the step to standby is made, from recovery not. -/
theorem toStandby_unless_recovery {s : State} {recovers : Bool} (h : s.fw.service = if recovers then .recovery else .starting) :
    (if s.fw.service = .starting then s.toStandby else s).bare = s.bare ∧
      (if s.fw.service = .starting then s.toStandby else s).fw.service = if recovers then .recovery else .standby := by
  cases recovers with
  | true =>
    replace h : s.fw.service = .recovery := h
    rw [if_neg (by simp [h])]
    exact ⟨rfl, h⟩
  | false =>
    replace h : s.fw.service = .starting := h
    rw [if_pos h]
    exact ⟨toStandby_bare s, toStandby_service s⟩

theorem toStandby_logged (s : State) : Logged s.toStandby s.leadNow 0x01 [s.toStandby.fwStatus] := by
  have hstatus : s.toStandby.fwStatus = (s.updFw fun f => { f with service := .standby }).fwStatus := by
    unfold State.toStandby State.logLead State.logEv State.fwStatus
    rw [logP_fw]
  rw [hstatus]
  exact logLead_logged _ _ _

theorem toStandby_keeps (s : State) : Keeps [.firmware, .stewards] s s.toStandby :=
  have hservice : Keeps [.firmware] s (s.updFw fun f => { f with service := .standby }) := .of_patch rfl
  (hservice.mono (by simp)).trans ((logLead_keeps _ _ _).mono (by simp))

theorem raiseMgmt_keeps (s : State) : Keeps [.network] s s.raiseMgmt := .of_patch rfl

end Sys2Proof.Machine

/-! ## SELFTEST_DONE and STORED_IMAGE_APPLY -/

namespace Sys2Proof

open Sys2Proof.Machine

/-- A column's self-test puts it in service and elects the lead (R18 to R21). -/
theorem runs_selftestDone {s : State} {c : Nat} {pass : Bool} (hup : s.up = true) (hc : c < 16) (hnew : testBit s.dev.tested c = false)
    (hstart : s.fw.service = .starting) :
    Runs (.selftestDone c pass) s fun t =>
      t.dev.tested = setBit s.dev.tested c ∧
        t.dev.selftest = (if pass && testBit s.fw.romOk c then setBit s.dev.selftest c else s.dev.selftest) ∧
        t.dev.inService = (if pass && testBit s.fw.romOk c then setBit s.dev.inService c else s.dev.inService) ∧
        (∀ k, k < 16 → testBit t.dev.selftest k = true → (∀ j, j < k → testBit t.dev.selftest j = false) → t.dev.lead = k) ∧
        ((pass && testBit s.fw.romOk c) = true → s.fw.latch = false → t.flash.trial = 0) ∧
        Keeps [.faults, .flash, .firmware, .power] s t := by
  obtain ⟨hdev, htrial, hkeeps⟩ := opSelftest_tests (pass := pass) hup hc hnew hstart
  refine ⟨_, rfl, ?_⟩
  dsimp only
  rw [hdev]
  exact ⟨rfl, rfl, rfl, fun k hk hbit hmin => (lowestOf_eq hk hbit hmin), htrial, hkeeps⟩

/-- A column already tested is not tested again. -/
theorem idles_selftestDone {s : State} {c : Nat} {pass : Bool} (hdone : testBit s.dev.tested c = true) : Idles (.selftestDone c pass) s := by
  refine congrArg Host.Outcome.next ?_
  unfold State.opSelftest State.whenUp
  split
  · exact if_pos (.inr (.inl hdone))
  · rfl

/-- Without a stored image the module is in standby (R447). -/
theorem runs_storedImageApply_none {s : State} (h : StoredReady s) (hstart : s.fw.service = .starting) (hhalf : s.storedHalf = none)
    (hforged : s.storedForged = false) :
    Runs .storedImageApply s fun t =>
      t.fw.service = .standby ∧ t.net.mgmtUp = true ∧ t.net.mgmt.cfg = BitVec.ofNat 64 mgmtMac ∧
        t.net.mgmt.ip6Lo = BitVec.ofNat 64 (linkLocal mgmtMac) ∧ Logged t s.leadNow 0x01 [t.fwStatus] ∧
        Keeps [.network, .firmware, .stewards] s t := by
  have happly : s.raiseMgmt.applyStored = s.raiseMgmt :=
    applyStored_none ((raiseMgmt_storedHalf s).trans hhalf) ((raiseMgmt_storedForged s).trans hforged)
  have hop : s.opStored = s.raiseMgmt.toStandby := by
    rw [opStored_ready h (.inl hstart), happly, raiseMgmt_fw, hstart, if_neg (by decide), if_pos rfl]
  have hkeeps := toStandby_keeps s.raiseMgmt
  have hlogged := toStandby_logged s.raiseMgmt
  rw [raiseMgmt_leadNow] at hlogged
  have hnet : s.raiseMgmt.toStandby.net = s.raiseMgmt.net := hkeeps .network (by decide)
  refine ⟨_, rfl, ?_⟩
  dsimp only
  rw [hop, hnet, raiseMgmt_net]
  exact ⟨toStandby_service _, rfl, mgmtPlane_cfg, mgmtPlane_ip6Lo, hlogged, ((raiseMgmt_keeps s).mono (by simp)).trans (hkeeps.mono (by simp))⟩

/-- A forged stored image is rejected and raises the alarm (R480). -/
theorem runs_storedImageApply_forged {s : State} (h : StoredReady s) (hstart : s.fw.service = .starting) (hlatch : s.fw.latch = false)
    (hhalf : s.storedHalf = none) (hforged : s.storedForged = true) :
    Runs .storedImageApply s fun t =>
      t.xsi.st = 4 ∧ t.xsi.cause = 5 ∧ t.xsi.rejects = inc s.xsi.rejects ∧ t.fw.alarms = inc s.fw.alarms ∧ fld t.fw.alarmLast 63 60 = 1 ∧
        t.fw.service = (if s.zeroisePolicy then .recovery else .standby) ∧ t.net.mgmtUp = true ∧ t.flash.half0 = s.flash.half0 := by
  have happly : s.raiseMgmt.applyStored = s.raiseMgmt.xsiReject ⟨5, 0, noOffset⟩ :=
    applyStored_forged ((raiseMgmt_storedHalf s).trans hhalf) ((raiseMgmt_storedForged s).trans hforged)
  obtain ⟨last, hsource, hbare, hservice⟩ := xsiReject_forged s.raiseMgmt (by rwa [raiseMgmt_fw])
  rw [zeroisePolicy_of_poly (congrArg Xsi.poly (raiseMgmt_xsi s)), raiseMgmt_fw, hstart] at hservice
  have hend : s.opStored.bare = (s.raiseMgmt.xsiReject ⟨5, 0, noOffset⟩).bare ∧
      s.opStored.fw.service = if s.zeroisePolicy then .recovery else .standby := by
    rw [opStored_ready h (.inl hstart), happly, raiseMgmt_fw, hstart, if_neg (by decide)]
    exact toStandby_unless_recovery hservice
  obtain ⟨hbareEnd, hserviceEnd⟩ := hend
  obtain ⟨hst, hcause, hrejects, halarms, hlast, hmgmt, hflash⟩ := forged_of_bare (hbareEnd.trans hbare)
  rw [raiseMgmt_xsi] at hrejects
  rw [raiseMgmt_fw] at halarms
  rw [raiseMgmt_net] at hmgmt
  rw [raiseMgmt_flash] at hflash
  exact ⟨_, rfl, hst, hcause, hrejects, halarms, hlast ▸ hsource, hserviceEnd, hmgmt, congrArg Flash.half0 hflash⟩

/-- In recovery only MGMT comes up (R478). -/
theorem runs_storedImageApply_recovery {s : State} (h : StoredReady s) (hrecovery : s.fw.service = .recovery) :
    Runs .storedImageApply s fun t => t.net.mgmtUp = true ∧ t.fw = s.fw ∧ Keeps [.network, .stewards] s t := by
  refine ⟨_, rfl, ?_⟩
  rw [opStored_ready h (.inr hrecovery), raiseMgmt_fw, if_pos hrecovery]
  exact ⟨rfl, raiseMgmt_fw s, (raiseMgmt_keeps s).mono (by simp)⟩

/-- With no column passed nothing happens. -/
theorem idles_storedImageApply {s : State} (hnone : s.dev.selftest = 0) : Idles .storedImageApply s := by
  refine congrArg Host.Outcome.next ?_
  unfold State.opStored State.whenUp
  split
  · exact if_pos (.inl (by simp [hnone]))
  · rfl

/-- Settles O14: each column's test is one update of the fault state, and the stored image's outcome is read off the bare state. -/
theorem selfTestAndStandby : Obligations.SelfTestAndStandby :=
  ⟨fun _ _ _ hup hc hnew hstart => runs_selftestDone hup hc hnew hstart, fun _ _ _ hdone => idles_selftestDone hdone,
    fun _ hup hstart htested hpassed hmgmt hhalf hforged => runs_storedImageApply_none ⟨hup, htested, hpassed, hmgmt⟩ hstart hhalf hforged,
    fun _ hup hstart hlatch htested hpassed hmgmt hhalf hforged =>
      runs_storedImageApply_forged ⟨hup, htested, hpassed, hmgmt⟩ hstart hlatch hhalf hforged,
    fun _ hup hrecovery htested hpassed hmgmt => runs_storedImageApply_recovery ⟨hup, htested, hpassed, hmgmt⟩ hrecovery,
    fun _ hnone => idles_storedImageApply hnone⟩

end Sys2Proof

/-! ## One bit of a mask cleared -/

namespace Sys2Proof.Machine

/-- The part of a number above a clear bit i is what it is with the bit set. -/
theorem add_two_pow_div {x i j : Nat} (hclear : x / 2 ^ i % 2 = 0) (hij : i < j) : (x + 2 ^ i) / 2 ^ j = x / 2 ^ j := by
  obtain ⟨k, rfl⟩ : ∃ k, j = i + (1 + k) := ⟨j - i - 1, by omega⟩
  rw [Nat.pow_add, ← Nat.div_div_eq_div_mul, ← Nat.div_div_eq_div_mul x, Nat.add_div_right _ (Nat.two_pow_pos i), Nat.pow_add,
    ← Nat.div_div_eq_div_mul, ← Nat.div_div_eq_div_mul (x / 2 ^ i)]
  congr 1
  omega

theorem testBit_eq (m i : Nat) : testBit m i = m.testBit i := Nat.testBit_eq_decide_div_mod_eq.symm

/-- A bit cleared reads 0, and the others read as they were. -/
theorem testBit_clearBit (m i j : Nat) : testBit (clearBit m i) j = (testBit m j && decide (j ≠ i)) := by
  unfold clearBit
  split
  · next hset =>
    have hle : 2 ^ i ≤ m := Nat.le_of_not_lt fun hlt => by simp [Nat.div_eq_of_lt hlt] at hset
    obtain ⟨x, rfl⟩ : ∃ x, m = x + 2 ^ i := ⟨m - 2 ^ i, by omega⟩
    have hclear : x / 2 ^ i % 2 = 0 := by
      rw [Nat.add_div_right _ (Nat.two_pow_pos i)] at hset
      omega
    rw [Nat.add_sub_cancel]
    obtain hlt | rfl | hgt := Nat.lt_trichotomy j i
    · rw [testBit_eq, testBit_eq, Nat.add_comm, Nat.testBit_two_pow_add_gt hlt]
      simp [Nat.ne_of_lt hlt]
    · simp [testBit, hclear]
    · simp [testBit, add_two_pow_div hclear hgt, Nat.ne_of_gt hgt]
  · next hclear =>
    by_cases hj : j = i
    · simp [testBit, hj, hclear]
    · simp [hj]

theorem inService_eq (s : State) (c : Nat) : s.inService c = (decide (c < 16) && testBit s.dev.inService c) := rfl

end Sys2Proof.Machine

/-! ## WD_FIRE and STANDBY_TAKEOVER (R471, R472) -/

namespace Sys2Proof.Machine

theorem whenBased_of_based {s : State} {f : State → State} (h : s.based = true) : s.whenBased f = f s := if_pos h

/-- A trigger of a crash dump changes the fault state and the free values (R493). -/
theorem dumpTrigger_keeps (s : State) (event unit : Nat) (reset : List Nat) : Keeps [.faults, .freeCount] s (s.dumpTrigger event unit reset) := by
  unfold State.dumpTrigger
  dsimp only
  split
  · exact .of_patch rfl
  · split <;> exact .of_patch rfl

/-- Of the fault state a trigger changes the dump, its skip count and the resets due (R493). -/
theorem dumpTrigger_dev (s : State) (event unit : Nat) (reset : List Nat) : (s.dumpTrigger event unit reset).dev = { s.dev with
    dump := (s.dumpTrigger event unit reset).dev.dump, dumpSkipped := (s.dumpTrigger event unit reset).dev.dumpSkipped,
    resetDue := (s.dumpTrigger event unit reset).dev.resetDue } := by
  unfold State.dumpTrigger
  dsimp only
  split
  · rfl
  · split <;> rfl

/-- With no dump held, a trigger takes one (R493). -/
theorem dumpTrigger_takes {s : State} {event unit : Nat} {reset : List Nat} (h : s.dev.dump.state = 0 ∨ s.dev.dump.state = 4) :
    (s.dumpTrigger event unit reset).dev.dump.state = 1 ∧ (s.dumpTrigger event unit reset).dev.dump.trigger = event ∧
      (s.dumpTrigger event unit reset).dev.dump.triggerUnit = unit := by
  unfold State.dumpTrigger
  dsimp only
  rw [if_neg (by omega), if_neg (by omega)]
  exact ⟨rfl, rfl, rfl⟩

theorem rollback_of_act {s : State} (h : s.fw.act ≠ .probation) : s.rollback = s := if_neg h

theorem takeover_covered {s : State} {c : Nat} (h : s.inService ((c + 8) % 16) = true) : s.takeover c =
    (s.updDev fun d => { d with standbyActive := setBit d.standbyActive c }).updSteward ((c + 8) % 16) fun w => { w with carrying := true } :=
  if_pos h

theorem takeover_uncovered {s : State} {c : Nat} (h : s.inService ((c + 8) % 16) = false) :
    s.takeover c = s.updDev fun d => { d with inService := clearBit d.inService c } := if_neg (by simp [h])

theorem opTakeover_takes {s : State} {c : Nat} (hbased : s.based = true) (hheld : (s.steward c).held = true) (hin : s.inService c = true)
    (hactive : testBit s.dev.standbyActive c = false) : s.opTakeover c = s.takeover c :=
  (whenBased_of_based hbased).trans (if_pos ⟨hheld, hin, by simp [hactive]⟩)

/-- The steward of column c held, and its fire counted (R471). -/
def State.wdHeld (s : State) (c : Nat) : State :=
  s.updSteward c fun w => { w with held := true, fires := inc w.fires, kickAt := s.tm.clk - 100000000 }

/-- What a fire does before the dump: the steward is held and counted, and its column logs (R471). -/
def State.wdFired (s : State) (c : Nat) : State := (s.wdHeld c).logEv c 0x06 (s.wdHeld c).fwStatus

theorem opWdFire_fires {s : State} {c : Nat} (hbased : s.based = true) (hc : c < 16) (hheld : (s.steward c).held = false) :
    s.opWdFire c = ((s.wdFired c).dumpTrigger 0x06 (c * 4096 + 294) []).rollback :=
  (whenBased_of_based hbased).trans (if_neg (by simp [hheld, hc]))

theorem wdFired_keeps (s : State) (c : Nat) : Keeps [.stewards, .firmware] s (s.wdFired c) :=
  have hheld : Keeps [.stewards] s (s.wdHeld c) := .of_patch rfl
  (hheld.mono (by simp)).trans (logP_keeps _ _ _ _ _ _)

/-- The steward that fired is held, and its fire is counted. -/
theorem wdFired_steward (s : State) (c : Nat) :
    ((s.wdFired c).steward c).held = true ∧ ((s.wdFired c).steward c).fires = inc (s.steward c).fires := by
  have hlog := Rolled.of_logP (s.wdHeld c) c 0x06 0xFFFF 0xFF [(s.wdHeld c).fwStatus]
  refine ⟨(hlog.held c).trans ?_, (hlog.fires c).trans ?_⟩ <;> rw [State.wdHeld, updSteward_steward_same]

theorem wdFired_steward_ne (s : State) {c d : Nat} (h : d ≠ c) : (s.wdFired c).steward d = s.steward d := by
  unfold State.wdFired State.logEv
  rw [logP_steward_ne _ _ _ _ _ h, State.wdHeld, updSteward_steward_ne _ _ _ h]

theorem wdFired_fw (s : State) (c : Nat) : (s.wdFired c).fw.act = s.fw.act ∧ (s.wdFired c).fw.service = s.fw.service := by
  unfold State.wdFired State.logEv
  rw [logP_fw]
  exact ⟨rfl, rfl⟩

end Sys2Proof.Machine

namespace Sys2Proof

open Sys2Proof.Machine

/-- A watchdog fires (R471, R493). -/
theorem runs_wdFire {s : State} {c : Nat} (hbased : s.based = true) (hc : c < 16) (hheld : (s.steward c).held = false) :
    Runs (.wdFire c) s fun t =>
      (t.steward c).held = true ∧ (t.steward c).fires = inc (s.steward c).fires ∧
        (s.dev.dump.state = 0 ∨ s.dev.dump.state = 4 → t.dev.dump.state = 1 ∧ t.dev.dump.trigger = 6 ∧ t.dev.dump.triggerUnit = c * 4096 + 294) ∧
        (s.fw.act ≠ .probation → t.fw.act = s.fw.act ∧ t.fw.service = s.fw.service ∧ ∀ d, d ≠ c → t.steward d = s.steward d) ∧
        Keeps [.stewards, .firmware, .faults, .freeCount] s t := by
  refine ⟨_, rfl, ?_⟩
  dsimp only
  rw [opWdFire_fires hbased hc hheld]
  have hfired := wdFired_keeps s c
  have hdump := dumpTrigger_keeps (s.wdFired c) 0x06 (c * 4096 + 294) []
  have hroll := rollback_rolled ((s.wdFired c).dumpTrigger 0x06 (c * 4096 + 294) [])
  have hstew : ((s.wdFired c).dumpTrigger 0x06 (c * 4096 + 294) []).stew = (s.wdFired c).stew := hdump .stewards (by decide)
  have hfw : ((s.wdFired c).dumpTrigger 0x06 (c * 4096 + 294) []).fw = (s.wdFired c).fw := hdump .firmware (by decide)
  have hsteward : ∀ d, ((s.wdFired c).dumpTrigger 0x06 (c * 4096 + 294) []).steward d = (s.wdFired c).steward d := by
    intro d
    rw [State.steward, hstew, State.steward]
  obtain ⟨hheld', hfires⟩ := wdFired_steward s c
  obtain ⟨hact, hservice⟩ := wdFired_fw s c
  refine ⟨?_, ?_, fun hnone => ?_, fun hprob => ?_, ?_⟩
  · rw [hroll.held, hsteward, hheld']
  · rw [hroll.fires, hsteward, hfires]
  · have hdev : (((s.wdFired c).dumpTrigger 0x06 (c * 4096 + 294) []).rollback).dev = _ := hroll.keeps .faults (by decide)
    have hdevFired : (s.wdFired c).dev = s.dev := hfired .faults (by decide)
    rw [hdev]
    exact dumpTrigger_takes (by rwa [hdevFired])
  · rw [rollback_of_act (by rw [hfw, hact]; exact hprob), hfw]
    exact ⟨hact, hservice, fun d hd => (hsteward d).trans (wdFired_steward_ne s hd)⟩
  · exact (hfired.mono (by simp)).trans ((hdump.mono (by simp)).trans (hroll.keeps.mono (by simp)))

/-- A steward that is held does not fire again. -/
theorem idles_wdFire {s : State} {c : Nat} (hheld : (s.steward c).held = true) : Idles (.wdFire c) s := by
  refine congrArg Host.Outcome.next ?_
  unfold State.opWdFire State.whenBased
  split
  · exact if_pos (.inr hheld)
  · rfl

/-- The standby carries on (R472). -/
theorem runs_standbyTakeover_covered {s : State} {c : Nat} (hbased : s.based = true) (hheld : (s.steward c).held = true)
    (hin : s.inService c = true) (hactive : testBit s.dev.standbyActive c = false) (hstandby : s.inService ((c + 8) % 16) = true) :
    Runs (.standbyTakeover c) s fun t =>
      t.dev = { s.dev with standbyActive := setBit s.dev.standbyActive c } ∧
        t.steward ((c + 8) % 16) = { s.steward ((c + 8) % 16) with carrying := true } ∧ Keeps [.faults, .stewards] s t := by
  refine ⟨_, rfl, ?_⟩
  dsimp only
  rw [opTakeover_takes hbased hheld hin hactive, takeover_covered hstandby]
  refine ⟨rfl, ?_, .of_patch rfl⟩
  rw [updSteward_steward_same]
  rfl

/-- Without a standby the column leaves service (R20, R472). -/
theorem runs_standbyTakeover_uncovered {s : State} {c : Nat} (hbased : s.based = true) (hheld : (s.steward c).held = true)
    (hin : s.inService c = true) (hactive : testBit s.dev.standbyActive c = false) (hstandby : s.inService ((c + 8) % 16) = false) :
    Runs (.standbyTakeover c) s fun t => t.inService c = false ∧ (∀ d, d ≠ c → t.inService d = s.inService d) ∧ Keeps [.faults] s t := by
  refine ⟨_, rfl, ?_⟩
  dsimp only
  rw [opTakeover_takes hbased hheld hin hactive, takeover_uncovered hstandby]
  have hbit : ∀ d, (s.updDev fun d => { d with inService := clearBit d.inService c }).inService d =
      (decide (d < 16) && (testBit s.dev.inService d && decide (d ≠ c))) := by
    intro d
    rw [inService_eq, ← testBit_clearBit]
    rfl
  refine ⟨?_, fun d hd => ?_, .of_patch rfl⟩
  · simp [hbit]
  · simp [hbit, hd, inService_eq]

end Sys2Proof

/-! ## HEARTBEAT_SAMPLE (R490, R491) -/

namespace Sys2Proof.Machine

/-- The heartbeat register of a unit. -/
def State.beatOf (s : State) (id : Nat) : Beat := Table.get Beat.reset s.dev.beats id

/-- The samples of one value in a row, once the counter reads v (R490). -/
def State.runOf (s : State) (id v : Nat) : Nat := if (s.beatOf id).value = v ∧ (s.beatOf id).same ≠ 0 then (s.beatOf id).same + 1 else 1

/-- A heartbeat register once the counter reads v (R490). -/
def State.nextBeat (s : State) (id v : Nat) : Beat := ⟨v, s.runOf id v, if s.runOf id v = 1 then s.tm.now.toNat else (s.beatOf id).at_⟩

/-- A heartbeat register written. -/
def State.setBeat (s : State) (id : Nat) (b : Beat) : State := s.updDev fun d => { d with beats := Table.set Beat.reset d.beats id b }

theorem setBeat_beatOf_same (s : State) (id : Nat) (b : Beat) : (s.setBeat id b).beatOf id = b := Table.get_set_same _ _ _ _

theorem setBeat_beatOf_ne (s : State) {id i : Nat} (b : Beat) (h : i ≠ id) : (s.setBeat id b).beatOf i = s.beatOf i := Table.get_set_ne _ _ _ h

theorem beat_eq (s : State) (c u v : Nat) : s.beat c u v =
    if s.dev.heldUnits.contains (c * 4096 + u) then s
    else if (s.nextBeat (c * 4096 + u) v).same = 10 then (s.setBeat (c * 4096 + u) (s.nextBeat (c * 4096 + u) v)).unitHang c u
    else s.setBeat (c * 4096 + u) (s.nextBeat (c * 4096 + u) v) := rfl

/-- What the steward reads of unit u of column c (R490). -/
def State.shown (s : State) (c : Nat) (beats : List (Nat × Nat)) (u : Nat) : Nat :=
  match beats.find? fun e => e.1 = u with
  | some e => e.2 % 65536
  | none => (s.beatOf (c * 4096 + u)).value

/-- A list of units of column c sampled. -/
def State.sampleAll (s : State) (c : Nat) (beats : List (Nat × Nat)) (us : List Nat) : State :=
  us.foldl (fun s u => s.beat c u (s.shown c beats u)) s

/-- The units that a heartbeat is sampled of (R490). -/
def sampled : List Nat := (List.range 296).filter (· ≠ 294)

theorem mem_sampled {u : Nat} : u ∈ sampled ↔ u < 296 ∧ u ≠ 294 := by simp [sampled]

theorem sampled_nodup : sampled.Nodup := List.nodup_range.filter _

theorem opHeartbeat_samples {s : State} {c : Nat} (beats : List (Nat × Nat)) (hbased : s.based = true) (hin : s.inService c = true) :
    s.opHeartbeat c beats = s.sampleAll c beats sampled :=
  (whenBased_of_based hbased).trans (if_neg (by simp [hin]))

theorem shown_listed {s : State} {c u v : Nat} {beats : List (Nat × Nat)} (h : beats.find? (fun e => e.1 = u) = some (u, v)) :
    s.shown c beats u = v % 65536 := by
  unfold State.shown
  rw [h]

/-- A counter that has changed starts a new run of samples. -/
theorem nextBeat_changed {s : State} {id v : Nat} (h : v ≠ (s.beatOf id).value) : s.nextBeat id v = ⟨v, 1, s.tm.now.toNat⟩ := by
  simp [State.nextBeat, State.runOf, Ne.symm h]

/-- A sample of the same value makes the run longer by one. -/
theorem nextBeat_same_le (s : State) (id v : Nat) : (s.nextBeat id v).same ≤ (s.beatOf id).same + 1 := by
  change s.runOf id v ≤ _
  unfold State.runOf
  split <;> omega

/-- What a unit's sample depends on. -/
theorem nextBeat_congr {s t : State} {id : Nat} (v : Nat) (hbeat : t.beatOf id = s.beatOf id) (htm : t.tm = s.tm) :
    t.nextBeat id v = s.nextBeat id v := by
  unfold State.nextBeat State.runOf
  rw [hbeat, htm]

theorem shown_congr {s t : State} {c u : Nat} (beats : List (Nat × Nat)) (hbeat : t.beatOf (c * 4096 + u) = s.beatOf (c * 4096 + u)) :
    t.shown c beats u = s.shown c beats u := by
  unfold State.shown
  rw [hbeat]

/-- The next register of unit u of column c, as the steward's counters stand. -/
def State.sampleOf (s : State) (c : Nat) (beats : List (Nat × Nat)) (u : Nat) : Beat := s.nextBeat (c * 4096 + u) (s.shown c beats u)

theorem sampleOf_congr {s t : State} {c u : Nat} (beats : List (Nat × Nat)) (hbeat : t.beatOf (c * 4096 + u) = s.beatOf (c * 4096 + u))
    (htm : t.tm = s.tm) : t.sampleOf c beats u = s.sampleOf c beats u := by
  rw [State.sampleOf, shown_congr beats hbeat, nextBeat_congr _ hbeat htm, State.sampleOf]

/-- t is s but for the heartbeat registers. -/
def BeatsOnly (s t : State) : Prop := t = { s with dev := { s.dev with beats := t.dev.beats } }

theorem BeatsOnly.dev {s t : State} (h : BeatsOnly s t) : t.dev = { s.dev with beats := t.dev.beats } := congrArg State.dev h

theorem BeatsOnly.setBeat {s t : State} (h : BeatsOnly s t) (id : Nat) (b : Beat) : BeatsOnly s (t.setBeat id b) := by
  unfold BeatsOnly
  rw [h]
  rfl

theorem BeatsOnly.keeps {s t : State} (h : BeatsOnly s t) : Keeps [.faults] s t := by
  rw [h]
  exact .of_patch rfl

/-- Between s and t the heartbeat registers of the units of a list are sampled, and nothing else changes. -/
structure Sampled (c : Nat) (beats : List (Nat × Nat)) (us : List Nat) (s t : State) : Prop where
  only : BeatsOnly s t
  listed : ∀ u ∈ us, t.beatOf (c * 4096 + u) = s.sampleOf c beats u
  others : ∀ u, u ∉ us → t.beatOf (c * 4096 + u) = s.beatOf (c * 4096 + u)

/-- Samples that raise nothing are no more than their registers (R490). -/
theorem sampleAll_quiet {c : Nat} {beats : List (Nat × Nat)} {us : List Nat} {s : State} (hnodup : us.Nodup)
    (hfree : ∀ u ∈ us, s.dev.heldUnits.contains (c * 4096 + u) = false) (hquiet : ∀ u ∈ us, (s.sampleOf c beats u).same ≠ 10) :
    Sampled c beats us s (s.sampleAll c beats us) := by
  induction us generalizing s with
  | nil => exact ⟨rfl, by simp, fun _ _ => rfl⟩
  | cons u us ih =>
    obtain ⟨hu, hus⟩ := List.nodup_cons.mp hnodup
    have hbeat : s.beat c u (s.shown c beats u) = s.setBeat (c * 4096 + u) (s.sampleOf c beats u) := by
      rw [beat_eq, if_neg (by simpa using hfree u (by simp))]
      exact if_neg (hquiet u (by simp))
    have hstep : s.sampleAll c beats (u :: us) = (s.setBeat (c * 4096 + u) (s.sampleOf c beats u)).sampleAll c beats us := by
      rw [← hbeat]
      rfl
    have hkept : ∀ w, w ≠ u → (s.setBeat (c * 4096 + u) (s.sampleOf c beats u)).beatOf (c * 4096 + w) = s.beatOf (c * 4096 + w) :=
      fun w hw => setBeat_beatOf_ne _ _ (by omega)
    have hsame : ∀ w ∈ us, (s.setBeat (c * 4096 + u) (s.sampleOf c beats u)).sampleOf c beats w = s.sampleOf c beats w :=
      fun w hw => sampleOf_congr beats (hkept w fun h => hu (h ▸ hw)) rfl
    obtain ⟨honly, hlisted, hothers⟩ := ih (s := s.setBeat (c * 4096 + u) (s.sampleOf c beats u)) hus
      (fun w hw => hfree w (by simp [hw])) (fun w hw => by rw [hsame w hw]; exact hquiet w (by simp [hw]))
    rw [hstep]
    refine ⟨Eq.trans honly rfl, fun w hw => ?_, fun w hw => ?_⟩
    · obtain rfl | hw := List.mem_cons.mp hw
      · rw [hothers _ hu, setBeat_beatOf_same]
      · rw [hlisted w hw, hsame w hw]
    · obtain ⟨hne, hw⟩ := not_or.mp (mt List.mem_cons.mpr hw)
      rw [hothers w hw, hkept w hne]

/-! ### UNIT_HANG of a core slot (R491, R492) -/

/-- The position that a hung core slot fills loses its core state and has failed twice. -/
def State.hangPos (s : State) (cl n : Nat) : State :=
  let s := (s.bookFill n).updPos n fun q => { coreReset q with fails := 2 }
  match s.clusterPart cl with
  | some p => s.updStn p fun t => { t with failing := if t.failing.contains ((s.part p).step, n) then t.failing
                                                      else ((s.part p).step, n) :: t.failing }
  | none => s

/-- The word that HANG_LAST shows (R491). -/
def State.hangWord (s : State) (id : Nat) : W64 := fields [at_ 63 48 id, at_ 47 0 s.tm.now.toNat]

theorem hangWord_unit (s : State) {id : Nat} (h : id < 65536) : fld (s.hangWord id) 63 48 = id := by
  simp [State.hangWord, fld_fields, fld_at, fld_at_above, Nat.mod_eq_of_lt h]

/-- A hang of unit `id`, counted and shown (R491). -/
def State.hangShown (s : State) (id : Nat) : State := s.updDev fun d => { d with hangs := inc d.hangs, hangLast := s.hangWord id }

/-- The event of a core slot's hang: counted, shown, logged, and dumped; then the unit is held (R491). -/
def State.hangNoted (s : State) (c u : Nat) : State :=
  (((s.hangShown (c * 4096 + u)).logEv c 0x90 (s.hangWord (c * 4096 + u))).dumpTrigger 0x90 (c * 4096 + u) []).updDev fun d =>
    { d with heldUnits := (c * 4096 + u) :: d.heldUnits }

theorem unitHang_core (s : State) (c : Nat) {u : Nat} (hu : u < 272) : s.unitHang c u =
    match (s.hangNoted c u).posOfSlot (16 * c + u / 17) (u % 17) with
    | some n => (s.hangNoted c u).hangPos (16 * c + u / 17) n
    | none => s.hangNoted c u := by
  have hkind : unitKind u = 1 := if_pos hu
  unfold State.unitHang
  dsimp only
  rw [hkind]
  rfl

theorem hangPos_dev (s : State) (cl n : Nat) : (s.hangPos cl n).dev = s.dev := by
  unfold State.hangPos
  dsimp only
  split <;> rfl

theorem hangPos_posn (s : State) (cl n m : Nat) :
    (s.hangPos cl n).posn m = ((s.bookFill n).updPos n fun q => { coreReset q with fails := 2 }).posn m := by
  unfold State.hangPos
  dsimp only
  split <;> rfl

/-- The hung position's core state is cleared; the other positions stay. -/
theorem hangPos_clears (s : State) (cl n : Nat) : ((s.hangPos cl n).posn n).fails = 2 ∧ ((s.hangPos cl n).posn n).set0 = [] ∧
    ((s.hangPos cl n).posn n).set1 = [] ∧ ∀ m, m ≠ n → (s.hangPos cl n).posn m = s.posn m := by
  rw [hangPos_posn, updPos_posn_same]
  refine ⟨rfl, rfl, rfl, fun m hm => ?_⟩
  rw [hangPos_posn, updPos_posn_ne _ _ _ hm]
  exact updPos_posn_ne _ _ _ hm

theorem hangNoted_keeps (s : State) (c u : Nat) : Keeps [.faults, .stewards, .firmware, .freeCount] s (s.hangNoted c u) := by
  have hshow : Keeps [.faults] s (s.hangShown (c * 4096 + u)) := .of_patch rfl
  have hheld : ∀ v : State, Keeps [.faults] v (v.updDev fun d => { d with heldUnits := (c * 4096 + u) :: d.heldUnits }) := fun v => .of_patch rfl
  unfold State.hangNoted State.logEv
  exact (hshow.mono (by simp)).trans (((logP_keeps _ _ _ _ _ _).mono (by simp)).trans
    (((dumpTrigger_keeps _ _ _ _).mono (by simp)).trans ((hheld _).mono (by simp))))

theorem hangNoted_dev (s : State) (c u : Nat) : (s.hangNoted c u).dev = { s.dev with
    hangs := inc s.dev.hangs, hangLast := s.hangWord (c * 4096 + u), heldUnits := (c * 4096 + u) :: s.dev.heldUnits,
    dump := (s.hangNoted c u).dev.dump, dumpSkipped := (s.hangNoted c u).dev.dumpSkipped, resetDue := (s.hangNoted c u).dev.resetDue } := by
  have hlog : ∀ v : State, (v.logEv c 0x90 (s.hangWord (c * 4096 + u))).dev = v.dev := fun v => (logP_keeps v _ _ _ _ _) .faults (by decide)
  have hdump := dumpTrigger_dev ((s.hangShown (c * 4096 + u)).logEv c 0x90 (s.hangWord (c * 4096 + u))) 0x90 (c * 4096 + u) []
  rw [hlog] at hdump
  exact congrArg (fun d : Dev => { d with heldUnits := (c * 4096 + u) :: d.heldUnits }) hdump

/-- The tenth sample of one value of a core slot (R491, R492). -/
theorem unitHang_raises (s : State) (c : Nat) {u : Nat} (hu : u < 272) :
    (s.unitHang c u).dev = { s.dev with
      hangs := inc s.dev.hangs, hangLast := s.hangWord (c * 4096 + u), heldUnits := (c * 4096 + u) :: s.dev.heldUnits,
      dump := (s.unitHang c u).dev.dump, dumpSkipped := (s.unitHang c u).dev.dumpSkipped, resetDue := (s.unitHang c u).dev.resetDue } ∧
    ∀ n, s.posOfSlot (16 * c + u / 17) (u % 17) = some n → ((s.unitHang c u).posn n).fails = 2 ∧ ((s.unitHang c u).posn n).set0 = [] ∧
      ((s.unitHang c u).posn n).set1 = [] ∧ ∀ m, m ≠ n → (s.unitHang c u).posn m = s.posn m := by
  have hdev := hangNoted_dev s c u
  have hpos : (s.hangNoted c u).pos = s.pos := hangNoted_keeps s c u .positions (by decide)
  have hposn : ∀ m, (s.hangNoted c u).posn m = s.posn m := fun m => by rw [State.posn, hpos, State.posn]
  have hslot : (s.hangNoted c u).posOfSlot (16 * c + u / 17) (u % 17) = s.posOfSlot (16 * c + u / 17) (u % 17) := by
    have hmargins : (s.hangNoted c u).dev.margins = s.dev.margins := by rw [hdev]
    unfold State.posOfSlot State.physSlot State.margin
    rw [hmargins]
  rw [unitHang_core s c hu, hslot]
  cases s.posOfSlot (16 * c + u / 17) (u % 17) with
  | none => exact ⟨hdev, by simp⟩
  | some n =>
    obtain ⟨hfails, hset0, hset1, hothers⟩ := hangPos_clears (s.hangNoted c u) (16 * c + u / 17) n
    dsimp only
    rw [hangPos_dev]
    refine ⟨hdev, fun n' hn => ?_⟩
    obtain rfl := Option.some.inj hn
    exact ⟨hfails, hset0, hset1, fun m hm => (hothers m hm).trans (hposn m)⟩

end Sys2Proof.Machine

/-! ### One unit hangs among the units sampled -/

namespace Sys2Proof.Machine

variable {s t : State} {c : Nat} {beats : List (Nat × Nat)} {us : List Nat}

/-- Between s and t unit u of column c has hung, and it alone; w is the word shown. -/
structure Hung (c u : Nat) (w : W64) (s t : State) : Prop where
  hangs : t.dev.hangs = inc s.dev.hangs
  held : t.dev.heldUnits = [c * 4096 + u]
  last : t.dev.hangLast = w
  position : ∀ n, s.posOfSlot (16 * c + u / 17) (u % 17) = some n → (t.posn n).fails = 2 ∧ (t.posn n).set0 = [] ∧ (t.posn n).set1 = [] ∧
    ∀ m, m ≠ n → t.posn m = s.posn m

theorem unitHang_hung {u : Nat} (hu : u < 272) (hfree : s.dev.heldUnits = []) : Hung c u (s.hangWord (c * 4096 + u)) s (s.unitHang c u) := by
  obtain ⟨hdev, hpos⟩ := unitHang_raises s c hu
  refine ⟨?_, ?_, ?_, hpos⟩ <;> rw [hdev]
  rw [hfree]

/-- The samples of other units before and after change nothing of it. -/
theorem Hung.of_sampled {u : Nat} {w : W64} {r t' : State} (hbefore : BeatsOnly s r) (h : Hung c u w r t) (hafter : BeatsOnly t t') : Hung c u w s t' := by
  obtain ⟨hhangs, hheld, hlast, hpos⟩ := h
  rw [hbefore] at hhangs hpos
  rw [hafter]
  exact ⟨hhangs, hheld, hlast, hpos⟩

/-- A unit of a list whose counter has not moved for nine samples hangs; no other unit of the list has stood so long (R491). -/
theorem sampleAll_hang {u v at' : Nat} (hnodup : us.Nodup) (hmem : u ∈ us) (hu : u < 272) (hv : v < 65536)
    (hnine : s.beatOf (c * 4096 + u) = ⟨v, 9, at'⟩) (height : ∀ w ∈ us, w ≠ u → (s.beatOf (c * 4096 + w)).same ≤ 8)
    (hfree : s.dev.heldUnits = []) : ∃ r : State, Hung c u (r.hangWord (c * 4096 + u)) s (s.sampleAll c [(u, v)] us) := by
  obtain ⟨before, after, rfl⟩ := List.append_of_mem hmem
  obtain ⟨hnodupBefore, hnodupRest, hapart⟩ := List.nodup_append.mp hnodup
  obtain ⟨huAfter, hnodupAfter⟩ := List.nodup_cons.mp hnodupRest
  have huBefore : u ∉ before := fun h => hapart u h u (by simp) rfl
  have hquiet : ∀ (t : State) (w : Nat), (t.beatOf (c * 4096 + w)).same ≤ 8 → (t.sampleOf c [(u, v)] w).same ≠ 10 := by
    intro t w hle
    have hnext := nextBeat_same_le t (c * 4096 + w) (t.shown c [(u, v)] w)
    rw [State.sampleOf]
    omega
  -- the units before u
  have hbefore := sampleAll_quiet (s := s) (c := c) (beats := [(u, v)]) hnodupBefore (fun _ _ => by rw [hfree]; rfl)
    fun w hw => hquiet s w (height w (by simp [hw]) fun h => huBefore (h ▸ hw))
  have hfold : s.sampleAll c [(u, v)] (before ++ u :: after) =
      (((s.sampleAll c [(u, v)] before).beat c u ((s.sampleAll c [(u, v)] before).shown c [(u, v)] u))).sampleAll c [(u, v)] after :=
    List.foldl_append
  rw [hfold]
  generalize s.sampleAll c [(u, v)] before = r at hbefore
  -- unit u itself
  have hrnine : r.beatOf (c * 4096 + u) = ⟨v, 9, at'⟩ := (hbefore.others u huBefore).trans hnine
  have hrfree : r.dev.heldUnits = [] := by rw [hbefore.only.dev]; exact hfree
  have htenth : (r.nextBeat (c * 4096 + u) (r.shown c [(u, v)] u)).same = 10 := by
    rw [shown_listed (v := v) (by simp), State.nextBeat, State.runOf, hrnine]
    simp [Nat.mod_eq_of_lt hv]
  rw [beat_eq, hrfree, if_neg (by simp), if_pos htenth]
  generalize r.nextBeat (c * 4096 + u) (r.shown c [(u, v)] u) = b
  have hhung := unitHang_hung (s := r.setBeat (c * 4096 + u) b) (c := c) hu hrfree
  have hbeats : ((r.setBeat (c * 4096 + u) b).unitHang c u).dev.beats = (r.setBeat (c * 4096 + u) b).dev.beats := by
    rw [(unitHang_raises (r.setBeat (c * 4096 + u) b) c hu).1]
  generalize (r.setBeat (c * 4096 + u) b).unitHang c u = t at hhung hbeats
  -- the units after u
  have hafter := sampleAll_quiet (s := t) (c := c) (beats := [(u, v)]) hnodupAfter
    (fun w hw => by
      have hwu : w ≠ u := fun h => huAfter (h ▸ hw)
      simp [hhung.held, hwu])
    fun w hw => by
      have hwu : w ≠ u := fun h => huAfter (h ▸ hw)
      have hwBefore : w ∉ before := fun h => hapart w h w (by simp [hw]) rfl
      have hkept : t.beatOf (c * 4096 + w) = s.beatOf (c * 4096 + w) := by
        rw [State.beatOf, hbeats]
        exact (setBeat_beatOf_ne r b (by omega)).trans (hbefore.others w hwBefore)
      exact hquiet t w (by rw [hkept]; exact height w (by simp [hw]) hwu)
  exact ⟨_, hhung.of_sampled (hbefore.only.setBeat _ _) hafter.only⟩

end Sys2Proof.Machine

namespace Sys2Proof

open Sys2Proof.Machine

/-- Counters that have changed start new runs (R490). -/
theorem runs_heartbeatSample_changed {s : State} {c : Nat} {beats : List (Nat × Nat)} (hbased : s.based = true) (hin : s.inService c = true)
    (hchanged : ∀ u, u < 296 → u ≠ 294 →
      ∃ v, beats.find? (fun e => e.1 = u) = some (u, v) ∧ v % 65536 ≠ (Table.get Beat.reset s.dev.beats (c * 4096 + u)).value)
    (hfree : s.dev.heldUnits = []) :
    Runs (.heartbeatSample c beats) s fun t =>
      (∀ u v, u < 296 → u ≠ 294 → beats.find? (fun e => e.1 = u) = some (u, v) →
        Table.get Beat.reset t.dev.beats (c * 4096 + u) = ⟨v % 65536, 1, s.tm.now.toNat⟩) ∧
      t.dev = { s.dev with beats := t.dev.beats } ∧ Keeps [.faults] s t := by
  have hnew : ∀ u v, u < 296 → u ≠ 294 → beats.find? (fun e => e.1 = u) = some (u, v) →
      s.sampleOf c beats u = ⟨v % 65536, 1, s.tm.now.toNat⟩ := by
    intro u v hu hne hfind
    obtain ⟨v', hfind', hv⟩ := hchanged u hu hne
    obtain rfl : v' = v := by simpa [hfind'] using hfind
    rw [State.sampleOf, shown_listed hfind]
    exact nextBeat_changed hv
  have hsampled := sampleAll_quiet (s := s) (c := c) (beats := beats) sampled_nodup (fun _ _ => by rw [hfree]; rfl) fun u hu => by
    obtain ⟨hlt, hne⟩ := mem_sampled.mp hu
    obtain ⟨v, hfind, -⟩ := hchanged u hlt hne
    rw [hnew u v hlt hne hfind]
    exact (by decide : (1 : Nat) ≠ 10)
  refine ⟨_, rfl, ?_⟩
  dsimp only
  rw [opHeartbeat_samples beats hbased hin]
  generalize s.sampleAll c beats sampled = t at hsampled
  exact ⟨fun u v hu hne hfind => (hsampled.listed u (mem_sampled.mpr ⟨hu, hne⟩)).trans (hnew u v hu hne hfind),
    hsampled.only.dev, hsampled.only.keeps⟩

/-- The tenth sample of one value of a core slot is a hang (R491, R492). -/
theorem runs_heartbeatSample_hang {s : State} {c u v at' : Nat} (hbased : s.based = true) (hc : c < 16) (hin : s.inService c = true)
    (hu : u < 272) (hv : v < 65536) (hnine : Table.get Beat.reset s.dev.beats (c * 4096 + u) = ⟨v, 9, at'⟩)
    (height : ∀ w, w < 296 → w ≠ 294 → w ≠ u → (Table.get Beat.reset s.dev.beats (c * 4096 + w)).same ≤ 8) (hfree : s.dev.heldUnits = []) :
    Runs (.heartbeatSample c [(u, v)]) s fun t =>
      t.dev.hangs = inc s.dev.hangs ∧ t.dev.heldUnits = [c * 4096 + u] ∧ fld t.dev.hangLast 63 48 = c * 4096 + u ∧
        (∀ n, s.posOfSlot (16 * c + u / 17) (u % 17) = some n → (t.posn n).fails = 2 ∧ (t.posn n).set0 = [] ∧ (t.posn n).set1 = [] ∧
          ∀ m, m ≠ n → t.posn m = s.posn m) := by
  have hmem : u ∈ sampled := mem_sampled.mpr ⟨by omega, by omega⟩
  obtain ⟨w, hhang⟩ := sampleAll_hang sampled_nodup hmem hu hv hnine
    (fun w hw hne => height w (mem_sampled.mp hw).1 (mem_sampled.mp hw).2 hne) hfree
  refine ⟨_, rfl, ?_⟩
  dsimp only
  rw [opHeartbeat_samples _ hbased hin, hhang.hangs, hhang.held, hhang.last, hangWord_unit _ (by omega)]
  exact ⟨rfl, rfl, rfl, hhang.position⟩

/-- A Strainer lane that fails its self-test is marked and logged (R384). -/
theorem runs_laneSelftest_fail {s : State} {k : Nat} (hup : s.up = true) (hk : k < 256) (hin : s.inService (k / 16) = true)
    (hgood : (s.cluster k).laneFailed = false) :
    Runs (.laneSelftest k false) s fun t =>
      t.cluster k = { s.cluster k with laneFailed := true } ∧ (∀ j, j ≠ k → t.cluster j = s.cluster j) ∧
        Logged t (k / 16) 0x71 [(s.cluster k).lastFail] ∧ Keeps [.clusters, .stewards, .firmware] s t := by
  have hop : s.opLaneTest k false = s.laneFail k := (if_pos hup).trans (if_neg (by simp [hin, hk]))
  have hfail : s.laneFail k = (s.updCluster k fun q => { q with laneFailed := true }).logEv (k / 16) 0x71
      ((s.updCluster k fun q => { q with laneFailed := true }).cluster k).lastFail := if_neg (by simp [hgood])
  have hmark : Keeps [.clusters] s (s.updCluster k fun q => { q with laneFailed := true }) := .of_patch rfl
  refine ⟨_, rfl, ?_⟩
  dsimp only
  rw [hop, hfail, updCluster_cluster_same]
  generalize hm : (s.updCluster k fun q => { q with laneFailed := true }) = m at hmark
  have hlog : Keeps [.stewards, .firmware] m (m.logEv (k / 16) 0x71 (s.cluster k).lastFail) := logP_keeps _ _ _ _ _ _
  have hcls : ∀ j, (m.logEv (k / 16) 0x71 (s.cluster k).lastFail).cluster j = m.cluster j := by
    intro j
    rw [State.cluster, hlog .clusters (by decide), State.cluster]
  refine ⟨?_, fun j hj => ?_, logP_logged _ _ _ _ _ _, (hmark.mono (by simp)).trans (hlog.mono (by simp))⟩
  · rw [hcls, ← hm, updCluster_cluster_same]
  · rw [hcls, ← hm, updCluster_cluster_ne _ _ _ hj]

/-- A lane that passes is untouched. -/
theorem idles_laneSelftest (s : State) (k : Nat) : Idles (.laneSelftest k true) s := by
  refine congrArg Host.Outcome.next ?_
  unfold State.opLaneTest State.whenUp
  split
  · exact if_pos (.inr (.inr rfl))
  · rfl

/-- Settles O15: a fire and a takeover are read off their updates; the samples of a column change each unit's register once, and the
tenth sample of one value hangs its unit alone. -/
theorem stewardsAndHeartbeats : Obligations.StewardsAndHeartbeats :=
  ⟨fun _ _ hbased hc hheld => runs_wdFire hbased hc hheld,
    fun _ _ hbased hheld hin hactive hstandby => runs_standbyTakeover_covered hbased hheld hin hactive hstandby,
    fun _ _ hbased hheld hin hactive hstandby => runs_standbyTakeover_uncovered hbased hheld hin hactive hstandby,
    fun _ _ hheld => idles_wdFire hheld,
    fun _ _ _ hbased hin hchanged hfree => runs_heartbeatSample_changed hbased hin hchanged hfree,
    fun _ _ _ _ _ hbased hc hin hu hv hnine height hfree => runs_heartbeatSample_hang hbased hc hin hu hv hnine height hfree,
    fun _ _ hup hk hin hgood => runs_laneSelftest_fail hup hk hin hgood, idles_laneSelftest⟩

end Sys2Proof

/-! ## Sending with or without a sub-port -/

namespace Sys2Proof.Machine

theorem moveIfEmpty_of_stay {s : State} {c : Nat} (h : canMove (s.conn c) = false) : s.moveIfEmpty c = s := by
  simp [State.moveIfEmpty, h]

/-- On a connection that cannot move, a packet ready to go is put last in line (R322). -/
theorem sendNow_stays {s : State} {c : Nat} (p : Pkt) (h : canMove (s.conn c) = false) (hw : (s.conn c).txWait = []) :
    TxOnly c s (s.sendNow c p) ∧ outList ((s.sendNow c p).conn c) = outList (s.conn c) ++ [{ p with psn := 0 }] := by
  unfold State.sendNow
  simp only [moveIfEmpty_of_stay h]
  cases pickSub (s.conn c) (s.sprayNow c) with
  | none => exact ⟨TxOnly.of_updConn _ _ _ fun _ => rfl, by simp [outList]⟩
  | some at' =>
    cases s.roomFor c p.grans.length with
    | true => exact ⟨TxOnly.of_emit_updConn _ _ _ _ _ fun _ => rfl, by simp [outList, hw]⟩
    | false => exact ⟨TxOnly.of_updConn _ _ _ fun _ => rfl, by simp [outList]⟩

/-- On a connection that cannot move, a new packet follows those it had (R322). -/
theorem send_stays {s : State} {c : Nat} (p : Pkt) (h : canMove (s.conn c) = false) :
    TxOnly c s (s.send c p) ∧ outList ((s.send c p).conn c) = outList (s.conn c) ++ [{ s.headed c p with psn := 0 }] := by
  rw [send_eq]
  split
  · next hw => exact sendNow_stays _ h (List.isEmpty_iff.mp hw)
  · exact ⟨TxOnly.of_updConn _ _ _ fun _ => rfl, by simp [outList]⟩

/-- On a connection that cannot move, an ACK goes out or stays owed, and what the connection sends stays (R319). -/
theorem sendAck_stays {s : State} {c : Nat} (done : Option (Nat × Nat)) (h : canMove (s.conn c) = false) :
    TxOnly c s (s.sendAck c done) ∧ outList ((s.sendAck c done).conn c) = outList (s.conn c) := by
  unfold State.sendAck
  simp only [moveIfEmpty_of_stay h]
  cases pickSub (s.conn c) (s.sprayNow c) with
  | none => exact ⟨TxOnly.of_updConn _ _ _ fun _ => rfl, by simp [outList]⟩
  | some at' => exact ⟨TxOnly.of_emit_updConn _ _ _ _ _ fun _ => rfl, by simp [outList]⟩

/-- Whether a connection can move does not depend on what it has sent (R330). -/
theorem TxOnly.canMove_eq {c : Nat} {s t : State} (h : TxOnly c s t) : canMove (t.conn c) = canMove (s.conn c) := by
  rw [h.own]
  rfl

/-- A packet and then an ACK, on a connection that cannot move. -/
theorem send_sendAck_stays {s : State} {c : Nat} (p : Pkt) (done : Option (Nat × Nat)) (h : canMove (s.conn c) = false) :
    TxOnly c s ((s.send c p).sendAck c done) ∧
      outList (((s.send c p).sendAck c done).conn c) = outList (s.conn c) ++ [{ s.headed c p with psn := 0 }] := by
  obtain ⟨hsend, hout⟩ := send_stays p h
  obtain ⟨hack, hkept⟩ := sendAck_stays (s := s.send c p) done (by rwa [hsend.canMove_eq])
  exact ⟨hsend.trans hack, hkept.trans hout⟩

end Sys2Proof.Machine

/-! ## An entry granted (R311) -/

namespace Sys2Proof.Machine

/-- Between s and t one connection changes, and beside it no more than what a port sends and the log. -/
structure EntryOnly (c : Nat) (s t : State) : Prop where
  other : ∀ k, k ≠ c → t.conn k = s.conn k
  keeps : Keeps [.network, .stewards] s t

namespace EntryOnly

variable {c : Nat} {s t u : State}

theorem trans (h₁ : EntryOnly c s t) (h₂ : EntryOnly c t u) : EntryOnly c s u :=
  ⟨fun k hk => (h₂.other k hk).trans (h₁.other k hk), h₁.keeps.trans h₂.keeps⟩

theorem of_updConn (s : State) (c : Nat) (f : Conn → Conn) : EntryOnly c s (s.updConn c f) :=
  ⟨fun _ hk => updConn_conn_ne _ _ _ hk, .of_patch rfl⟩

theorem of_txOnly (h : TxOnly c s t) : EntryOnly c s t := ⟨h.other, h.keeps⟩

end EntryOnly

theorem trace_conn (s : State) (col part k point : Nat) (args : List Nat) (c : Nat) : (s.trace col part k point args).conn c = s.conn c := by
  rw [State.conn, trace_keeps s col part k point args .network (by decide), State.conn]

theorem traceOpen_conn (s : State) (point c : Nat) (req : Pkt) (status k : Nat) : (s.traceOpen point c req status).conn k = s.conn k :=
  trace_conn ..

theorem traceOpen_keeps (s : State) (point c : Nat) (req : Pkt) (status : Nat) : Keeps [.stewards] s (s.traceOpen point c req status) :=
  trace_keeps _ _ _ _ _ _

theorem traceOpen_entryOnly (s : State) (point c : Nat) (req : Pkt) (status : Nat) : EntryOnly c s (s.traceOpen point c req status) :=
  ⟨fun k _ => traceOpen_conn _ _ _ _ _ k, (traceOpen_keeps _ _ _ _ _).mono (by simp)⟩

/-- The entry that enters open (R310, R331). -/
theorem enterOpen_conn (s : State) (c tgen rxNext : Nat) : ∃ rate, (s.enterOpen c tgen rxNext).conn c = { s.conn c with
    st := 2, peerTgen := tgen % 256, rxNext := rxNext % 2 ^ 32, rxGot := [], rxHeld := [], rxOps := [], rxDebt := 0, ackNow := false,
    rxCe := false, planeNow := bit (s.conn c).cfg 56, moved := false, holes := [], ackAt := s.tm.clk, cutAt := s.tm.clk, raiseAt := s.tm.clk,
    leaseAt := s.tm.clk, rate := rate } := by
  unfold State.enterOpen
  dsimp only
  split
  · exact ⟨_, by rw [updConn_conn_same, updConn_conn_same]⟩
  · exact ⟨_, by rw [updConn_conn_same]⟩

theorem enterOpen_entryOnly (s : State) (c tgen rxNext : Nat) : EntryOnly c s (s.enterOpen c tgen rxNext) := by
  unfold State.enterOpen
  dsimp only
  split
  · exact (EntryOnly.of_updConn _ _ _).trans (.of_updConn _ _ _)
  · exact .of_updConn _ _ _

/-- NET_CONN_CFG of an entry that the module writes (R311). -/
def grantCfg (rx : Rx) (req : Pkt) (kind part : Nat) : W64 :=
  fields [at_ 63 61 kind, at_ 60 57 part, at_ 56 56 (planeOfPort rx.port % 2), flag 54 rx.v4, at_ 53 48 32, at_ 47 34 req.sconn]

theorem grantCfg_kind (rx : Rx) (req : Pkt) {kind : Nat} (part : Nat) (h : kind < 8) : fld (grantCfg rx req kind part) 63 61 = kind := by
  simp [grantCfg, fld_fields, fld_at, fld_at_above, fld_flag_ne, Nat.mod_eq_of_lt h]

theorem grantCfg_part (rx : Rx) (req : Pkt) (kind : Nat) {part : Nat} (h : part < 16) : fld (grantCfg rx req kind part) 60 57 = part := by
  simp [grantCfg, fld_fields, fld_at, fld_at_above, fld_at_below, fld_flag_ne, Nat.mod_eq_of_lt h]

theorem grantCfg_peer (rx : Rx) (req : Pkt) (kind part : Nat) (h : req.sconn < 16384) : fld (grantCfg rx req kind part) 47 34 = req.sconn := by
  simp [grantCfg, fld_fields, fld_at, fld_at_below, fld_flag_ne, Nat.mod_eq_of_lt h]

theorem grantCfg_alt (rx : Rx) (req : Pkt) (kind part : Nat) : bit (grantCfg rx req kind part) 55 = false := by
  simp [bit, grantCfg, fld_fields, fld_at_above, fld_at_below, fld_flag_ne]

/-- The entry granted, as it opens: nothing of it has been sent. -/
def State.granted (s : State) (rx : Rx) (req : Pkt) (c kind part session : Nat) : State :=
  ((s.updConn c fun _ => { Conn.reset with
    cfg := grantCfg rx req kind part
    peerAHi := if planeOfPort rx.port = 1 then 0 else BitVec.ofNat 64 (rx.src / 2 ^ 64)
    peerALo := if planeOfPort rx.port = 1 then 0 else BitVec.ofNat 64 rx.src
    peerBHi := if planeOfPort rx.port = 1 then BitVec.ofNat 64 (rx.src / 2 ^ 64) else 0
    peerBLo := if planeOfPort rx.port = 1 then BitVec.ofNat 64 rx.src else 0
    level := leAt req.ctl 8 4, session := session, viaMgmt := decide (planeOfPort rx.port = 2) }).startSide c req.psn).enterOpen c
      (ctlTgen req) (req.psn + 1)

theorem grant_eq (s : State) (rx : Rx) (req : Pkt) (c kind part session : Nat) : s.grant rx req c kind part session =
    (((s.granted rx req c kind part session).traceOpen 1 c req 0).send c (openAckPkt req 0
      (if kind = 4 then 0 else ((s.granted rx req c kind part session).part part).tgen)
      ((s.granted rx req c kind part session).traceOpen 1 c req 0).fw.iface)).sendAck c (some (pktOp req, 0)) := rfl

theorem granted_entryOnly (s : State) (rx : Rx) (req : Pkt) (c kind part session : Nat) :
    EntryOnly c s (s.granted rx req c kind part session) := by
  unfold State.granted State.startSide
  exact (EntryOnly.of_updConn _ _ _).trans ((EntryOnly.of_updConn _ _ _).trans (enterOpen_entryOnly _ _ _ _))

/-- Entry k is open with the configuration, the next PSN expected and the way to its peer given, and has nothing under way. -/
structure Opened (k : Conn) (cfg : W64) (rxNext : Nat) (viaMgmt : Bool) : Prop where
  cfg : k.cfg = cfg
  st : k.st = 2
  rxNext : k.rxNext = rxNext
  viaMgmt : k.viaMgmt = viaMgmt

theorem granted_opened (s : State) (rx : Rx) (req : Pkt) (c kind part session : Nat) :
    Opened ((s.granted rx req c kind part session).conn c) (grantCfg rx req kind part) ((req.psn + 1) % 2 ^ 32)
      (decide (planeOfPort rx.port = 2)) ∧ outList ((s.granted rx req c kind part session).conn c) = [] := by
  unfold State.granted
  generalize hu : State.startSide _ c req.psn = u
  obtain ⟨rate, hopen⟩ := enterOpen_conn u c (ctlTgen req) (req.psn + 1)
  rw [hopen, ← hu, State.startSide, updConn_conn_same, updConn_conn_same]
  exact ⟨⟨rfl, rfl, rfl, rfl⟩, rfl⟩

/-- A connection that the module wrote for a session cannot move: its ALT is 0 (R311, R324). -/
theorem canMove_of_alt {k : Conn} (h : connAlt k = false) : canMove k = false := by
  simp [canMove, mayMove, h]

theorem Opened.of_txOnly {c : Nat} {s t : State} {cfg : W64} {rxNext : Nat} {viaMgmt : Bool} (h : Opened (s.conn c) cfg rxNext viaMgmt)
    (htx : TxOnly c s t) : Opened (t.conn c) cfg rxNext viaMgmt := by
  obtain ⟨hcfg, hst, hnext, hvia⟩ := h
  rw [htx.own]
  exact ⟨hcfg, hst, hnext, hvia⟩

/-- An entry granted is open, changes no other entry, and its OPEN_ACK is all that it sends (R311). -/
theorem grant_opens (s : State) (rx : Rx) (req : Pkt) (c kind part session : Nat) :
    EntryOnly c s (s.grant rx req c kind part session) ∧
      Opened ((s.grant rx req c kind part session).conn c) (grantCfg rx req kind part) ((req.psn + 1) % 2 ^ 32)
        (decide (planeOfPort rx.port = 2)) ∧
      ∃ x level, outList ((s.grant rx req c kind part session).conn c) = [x] ∧
        x.w3 = (openAckPkt req 0 (if kind = 4 then 0 else (s.part part).tgen) level).w3 ∧ x.status = 0 := by
  have hentry := granted_entryOnly s rx req c kind part session
  obtain ⟨hopened, hempty⟩ := granted_opened s rx req c kind part session
  have hpart : (s.granted rx req c kind part session).part part = s.part part := by
    rw [State.part, hentry.keeps .partitions (by decide), State.part]
  rw [grant_eq, hpart]
  have htrace := traceOpen_entryOnly (s.granted rx req c kind part session) 1 c req 0
  have hconn := traceOpen_conn (s.granted rx req c kind part session) 1 c req 0 c
  generalize (s.granted rx req c kind part session).traceOpen 1 c req 0 = u at htrace hconn
  rw [← hconn] at hopened hempty
  have hstay : canMove (u.conn c) = false := canMove_of_alt (by rw [connAlt, hopened.cfg, grantCfg_alt])
  obtain ⟨htx, hout⟩ := send_sendAck_stays (openAckPkt req 0 (if kind = 4 then 0 else (s.part part).tgen) u.fw.iface) (some (pktOp req, 0)) hstay
  rw [hempty] at hout
  exact ⟨(hentry.trans htrace).trans (.of_txOnly htx), hopened.of_txOnly htx, _, u.fw.iface, hout, rfl, rfl⟩

/-! ### OPEN_ACK -/

theorem ctlPart_lt (p : Pkt) : ctlPart p < 16 := Nat.mod_lt _ (by decide)

theorem ctlRole_lt (p : Pkt) : ctlRole p < 4 := Nat.mod_lt _ (by decide)

theorem openAckPkt_ctlOp (req : Pkt) (status tgen level : Nat) : ctlOp (openAckPkt req status tgen level) = 0x11 := by
  have hpart := ctlPart_lt req
  have hrole := ctlRole_lt req
  change (0x11 * 2 ^ 24 + ctlPart req * 2 ^ 20 + ctlRole req * 2 ^ 18 + tgen % 256 * 2 ^ 10) / 2 ^ 24 % 2 ^ 8 = 0x11
  omega

theorem openAckPkt_ctlTgen (req : Pkt) (status tgen level : Nat) : ctlTgen (openAckPkt req status tgen level) = tgen % 256 := by
  change (0x11 * 2 ^ 24 + ctlPart req * 2 ^ 20 + ctlRole req * 2 ^ 18 + tgen % 256 * 2 ^ 10) / 2 ^ 10 % 2 ^ 8 = tgen % 256
  omega

end Sys2Proof.Machine

/-! ## An OPEN at the open endpoint (R307, R311) -/

namespace Sys2Proof.Machine

/-- t is s but for counters of ports, what ports send, and the log. -/
structure SameConns (s t : State) : Prop where
  conns : t.net.conns = s.net.conns
  keeps : Keeps [.network, .stewards] s t

namespace SameConns

variable {s t u : State}

theorem trans (h₁ : SameConns s t) (h₂ : SameConns t u) : SameConns s u := ⟨h₂.conns.trans h₁.conns, h₁.keeps.trans h₂.keeps⟩

theorem conn (h : SameConns s t) (k : Nat) : t.conn k = s.conn k := by
  unfold State.conn
  rw [h.conns]

theorem part (h : SameConns s t) (p : Nat) : t.part p = s.part p := by
  rw [State.part, h.keeps .partitions (by decide), State.part]

theorem fw (h : SameConns s t) : t.fw = s.fw := h.keeps .firmware (by decide)

theorem xsi (h : SameConns s t) : t.xsi = s.xsi := h.keeps .structure_ (by decide)

theorem operational (h : SameConns s t) : t.operational = s.operational := by
  have hpwr : t.pwr = s.pwr := h.keeps .power (by decide)
  have hdev : t.dev = s.dev := h.keeps .faults (by decide)
  unfold State.operational State.up
  rw [hpwr, hdev, h.fw]

theorem sessionMask (h : SameConns s t) (p : Nat) : t.sessionMask p = s.sessionMask p := by
  unfold State.sessionMask State.sessionConns
  rw [h.conns]

theorem grantedTo (h : SameConns s t) (rx : Rx) (req : Pkt) (kind part : Nat) : t.grantedTo rx req kind part = s.grantedTo rx req kind part := by
  unfold State.grantedTo
  rw [h.conns]

theorem freeIndex (h : SameConns s t) (first count : Nat) : t.freeIndex first count = s.freeIndex first count := by
  unfold State.freeIndex State.conn
  rw [h.conns]

end SameConns

/-- An OPEN refused writes nothing: it is traced and answered (R307). -/
theorem refuseOpen_sameConns (s : State) (rx : Rx) (req : Pkt) (status : Nat) : SameConns s (s.refuseOpen rx req status) := by
  have htrace := traceOpen_keeps s 1 req.dconn req status
  have hnet : (s.traceOpen 1 req.dconn req status).net = s.net := htrace .network (by decide)
  have hreply : ∀ (u : State) (p : Pkt), SameConns u (u.reply rx p) := fun u p => ⟨rfl, .of_patch rfl⟩
  exact .trans ⟨by rw [hnet], htrace.mono (by simp)⟩ (hreply _ _)

/-- A frame with an OPEN for the open endpoint, as it is counted and traced. -/
def State.heard (s : State) (rx : Rx) (p : Pkt) : State := (s.framed rx p).traceOpen 0 p.dconn p 0

theorem heard_sameConns (s : State) (rx : Rx) (p : Pkt) : SameConns s (s.heard rx p) := by
  have hframed : SameConns s (s.framed rx p) := by
    rw [framed_rest]
    exact ⟨rfl, .of_patch rfl⟩
  have htrace := traceOpen_keeps (s.framed rx p) 0 p.dconn p 0
  have hnet : (s.heard rx p).net = (s.framed rx p).net := htrace .network (by decide)
  exact hframed.trans ⟨by rw [hnet], htrace.mono (by simp)⟩

/-- A frame that carries OPEN p to the open endpoint at a port that takes it. -/
structure Opens (s : State) (rx : Rx) (p : Pkt) : Prop where
  arrives : s.arrives rx = true
  own : s.isOwn (planeOfPort rx.port) rx.v4 rx.dst = true
  fcs : rx.fcsBad = false
  vlan : s.vlanOk rx = true
  whole : rx.fragment = false
  sum : rx.sumBad = false
  dport : rx.dport = s.eltPort rx.port
  header : rxHdrOk rx = true
  pkt : p = rxPkt rx
  endpoint : p.dconn = 0x3FFF
  op : p.op = opCtl
  ctlOp : ctlOp p = 0x10

/-- The OPEN is taken to the open endpoint. -/
theorem receive_opens {s : State} {rx : Rx} {p : Pkt} (row : Nat → Pkt → Bool) (h : Opens s rx p) (hrow : row p.op p = true) :
    s.receive rx row = (s.heard rx p).endpointOpen rx p := by
  obtain ⟨harr, hown, hfcs, hvlan, hfrag, hsum, hdport, hhdr, rfl, hend, hop, hctl⟩ := h
  have hrow' : row (nfld rx.w0 59 56) (rxPkt rx) = true := hrow
  have hhost : ∀ k, hostPkt k (rxPkt rx) = false := fun k => by simp [hostPkt, hop, opControl]
  have hframed : (s.countRx rx).countCe rx.port
      (rx.ce && !(decide ((rxPkt rx).dconn ≠ 0x3FFF) && hostPkt ((s.countRx rx).conn (rxPkt rx).dconn) (rxPkt rx))) = s.framed rx (rxPkt rx) := by
    rw [State.framed, hhost, hhost, Bool.and_false]
  have helt : (s.countRx rx).eltPort rx.port = s.eltPort rx.port := countPort_eltPort _ _ _ _
  have hmgmt : mgmtOp (rxPkt rx).op = true := by rw [hop]; rfl
  unfold State.receive
  rw [if_neg (by simp [harr, hrow']), if_neg (by simp [hown])]
  dsimp only
  rw [if_neg (by simp [hfcs, countRx_vlanOk, hvlan])]
  unfold State.ownIn
  rw [if_neg (by simp [hfrag, hsum]), if_neg (by simp [helt, hdport]), if_neg (by simp [hhdr])]
  dsimp only
  rw [hframed, if_neg (by simp [hmgmt]), if_pos hend]
  have hopen : (decide ((rxPkt rx).op = opCtl) && decide (Machine.ctlOp (rxPkt rx) = 0x10)) = true := by simp [hop, hctl]
  rw [if_pos hopen, if_pos hopen]
  rfl

/-- SESSION_OPEN of an OPEN at the open endpoint. -/
theorem runs_sessionOpen {s : State} {rx : Rx} {p : Pkt} {P : State → Prop} (h : Opens s rx p) (hP : P ((s.heard rx p).endpointOpen rx p)) :
    Runs (.sessionOpen rx) s P := by
  refine ⟨_, rfl, ?_⟩
  rwa [receive_opens _ h (by simp [isCtl, h.op, h.ctlOp, h.endpoint])]

end Sys2Proof.Machine

/-! ### The OPEN of a session (R311, R432, R505) -/

namespace Sys2Proof.Machine

theorem operational_service {s : State} (h : s.operational = true) : s.fw.service ≠ .recovery := by
  intro hrec
  simp [State.operational, hrec] at h

/-- A controlling session that the policy admits is granted the lowest free entry, and reclaims the partition (R311, R505). -/
theorem sessionOpen_grants {s : State} {rx : Rx} {p : Pkt} {c : Nat} (hport : rx.port ≠ 16) (hop : s.operational = true)
    (hst : (s.part (ctlPart p)).st = .ready ∨ (s.part (ctlPart p)).st = .running ∨ (s.part (ctlPart p)).st = .parked ∨
      (s.part (ctlPart p)).st = .orphaned)
    (hmask : testBit (s.sessionMask (ctlPart p)) 0 = false) (hnew : s.grantedTo rx p 2 (ctlPart p) = none)
    (hpoly : ∃ r ∈ s.xsi.poly, leAt r 0 1 = 3 ∧ leAt r 1 1 = ctlPart p ∧ testBit (leAt r 2 1) 0 = true ∧ polyHas r rx.v4 rx.src = true)
    (hfree : s.freeIndex (s.part (ctlPart p)).connFirst (s.part (ctlPart p)).connCount = some c) :
    s.sessionOpen rx p false = (s.reclaim (ctlPart p) c).grant rx p c 2 (ctlPart p) 0 := by
  have hadmit : (rx.port ≠ 16 && s.xsi.poly.any fun r => leAt r 0 1 = 3 && leAt r 1 1 = ctlPart p && testBit (leAt r 2 1) (b2n false)
      && polyHas r rx.v4 rx.src) = true := by
    obtain ⟨r, hr, hkind, hpart, hbit, hsrc⟩ := hpoly
    rw [Bool.and_eq_true, List.any_eq_true]
    exact ⟨by simp [hport], r, hr, by simp [hkind, hpart, hbit, hsrc, b2n]⟩
  unfold State.sessionOpen
  dsimp only
  rw [if_neg (operational_service hop), if_neg (by rw [hop]; rcases hst with h | h | h | h <;> simp [h])]
  simp only [Bool.false_eq_true, if_false, hnew, hadmit, hmask, hfree]

/-- A second controlling session, one that no record admits, and one before the operational stage are refused (R311, R432). -/
theorem sessionOpen_refuses {s : State} {rx : Rx} {p : Pkt} (hnew : s.grantedTo rx p 2 (ctlPart p) = none)
    (hwhy : testBit (s.sessionMask (ctlPart p)) 0 = true ∨ s.xsi.poly = [] ∨ s.operational = false) :
    ∃ status, s.sessionOpen rx p false = s.refuseOpen rx p status := by
  unfold State.sessionOpen
  dsimp only
  split
  · exact ⟨_, rfl⟩
  split
  · exact ⟨_, rfl⟩
  · next hup =>
    simp only [Bool.false_eq_true, if_false, hnew]
    obtain hmask | hpoly | hop := hwhy
    · refine ⟨0xA, ?_⟩
      rw [if_pos hmask]
      split
      · simp_all
      · rfl
    · refine ⟨0xA, ?_⟩
      rw [hpoly, List.any_nil, Bool.and_false]
    · simp [hop] at hup

/-- A session that comes back takes an orphaned partition up again (R505). -/
theorem reclaim_orphaned (s : State) {q : Nat} (c : Nat) (h : (s.part q).st = .orphaned) : ((s.reclaim q c).part q).holdAt = none ∧
    ((s.reclaim q c).part q).st = if (s.part q).schSt = 2 ∨ (s.part q).schSt = 3 then .parked else .ready := by
  have hgo : s.reclaim q c = _ := if_neg (by simp [h])
  rw [hgo, part_of_calm (logP_calm ..), updPart_part_same]
  exact ⟨rfl, rfl⟩

theorem reclaim_of_ne {s : State} {q : Nat} (c : Nat) (h : (s.part q).st ≠ .orphaned) : s.reclaim q c = s := if_pos h

theorem reclaim_keeps (s : State) (q c : Nat) : Keeps [.partitions, .stewards, .firmware] s (s.reclaim q c) := by
  unfold State.reclaim
  dsimp only
  split
  · exact .refl _ s
  · have hpart : ∀ f : Part → Part, Keeps [.partitions] s (s.updPart q f) := fun f => .of_patch rfl
    exact ((hpart _).mono (by simp)).trans ((logP_keeps _ _ _ _ _ _).mono (by simp))

theorem reclaim_tgen (s : State) (q c : Nat) : ((s.reclaim q c).part q).tgen = (s.part q).tgen := by
  unfold State.reclaim
  dsimp only
  split
  · rfl
  · rw [part_of_calm (logP_calm ..), updPart_part_same]

theorem reclaim_conn (s : State) (q c k : Nat) : (s.reclaim q c).conn k = s.conn k := by
  unfold State.conn
  rw [reclaim_keeps s q c .network (by decide)]

/-! ### The OPEN of a fabric manager (R292, R307, R444) -/

/-- On MGMT, before an owner image, a fabric manager is granted the lowest free of the last four entries (R307, R444). -/
theorem fmOpen_grants {s : State} {rx : Rx} {p : Pkt} {c : Nat} (hport : rx.port = 16) (himage : s.xsi.ownerImage = false)
    (hrom : s.fw.romRecovery = false) (hnone : ∀ e ∈ s.net.conns, connKind e.2 ≠ 4) (hfree : s.freeIndex 0x3FFB 4 = some c) :
    s.fmOpen rx p = s.grant rx p c 4 0 0 := by
  have hnew : s.grantedTo rx p 4 0 = none := by
    unfold State.grantedTo
    dsimp only
    rw [Option.map_eq_none_iff, List.find?_eq_none]
    intro e he
    simp [hnone e he]
  have hconns : s.fmConns = [] := List.filter_eq_nil_iff.mpr fun e he => by simp [hnone e he]
  unfold State.fmOpen
  simp [hnew, hconns, hrom, himage, hport, hfree]

end Sys2Proof.Machine

namespace Sys2Proof

open Sys2Proof.Machine

theorem rxPkt_sconn_lt (rx : Rx) : (rxPkt rx).sconn < 16384 := Nat.mod_lt _ (by decide)

/-- A controlling session admitted (R311, R505). -/
theorem runs_sessionOpen_admitted {s : State} {rx : Rx} {p : Pkt} {q c : Nat} (h : Opens s rx p) (hport : rx.port < 16)
    (hrole : ctlRole p = 1) (hq : ctlPart p = q) (hop : s.operational = true)
    (hst : (s.part q).st = .ready ∨ (s.part q).st = .running ∨ (s.part q).st = .parked ∨ (s.part q).st = .orphaned)
    (hmask : testBit (s.sessionMask q) 0 = false) (hnew : s.grantedTo rx p 2 q = none)
    (hpoly : ∃ r ∈ s.xsi.poly, leAt r 0 1 = 3 ∧ leAt r 1 1 = q ∧ testBit (leAt r 2 1) 0 = true ∧ polyHas r rx.v4 rx.src = true)
    (hfree : s.freeIndex (s.part q).connFirst (s.part q).connCount = some c) :
    Runs (.sessionOpen rx) s fun t =>
      (t.conn c).st = 2 ∧ connKind (t.conn c) = 2 ∧ connPart (t.conn c) = q ∧ connPeer (t.conn c) = p.sconn ∧
        (t.conn c).rxNext = (p.psn + 1) % 2 ^ 32 ∧
        (∃ x, outList (t.conn c) = [x] ∧ ctlOp x = 0x11 ∧ x.status = 0 ∧ ctlTgen x = (s.part q).tgen % 256) ∧
        ((s.part q).st = .orphaned → (t.part q).holdAt = none ∧
          (t.part q).st = (if (s.part q).schSt = 2 ∨ (s.part q).schSt = 3 then .parked else .ready)) ∧
        ((s.part q).st ≠ .orphaned → t.parts = s.parts) ∧ (∀ k, k ≠ c → t.conn k = s.conn k) ∧
        Keeps [.network, .partitions, .stewards, .firmware] s t := by
  subst hq
  have hheard := heard_sameConns s rx p
  refine runs_sessionOpen h ?_
  generalize s.heard rx p = u at hheard
  have hgrants : u.endpointOpen rx p = (u.reclaim (ctlPart p) c).grant rx p c 2 (ctlPart p) 0 := by
    unfold State.endpointOpen
    rw [hrole]
    exact sessionOpen_grants (by omega) (by rw [hheard.operational, hop]) (by rwa [hheard.part]) (by rwa [hheard.sessionMask])
      (by rwa [hheard.grantedTo]) (by rwa [hheard.xsi]) (by rwa [hheard.part, hheard.freeIndex])
  rw [hgrants]
  obtain ⟨hentry, hopened, x, level, hout, hw3, hstatus⟩ := grant_opens (u.reclaim (ctlPart p) c) rx p c 2 (ctlPart p) 0
  rw [if_neg (by decide), reclaim_tgen, hheard.part] at hw3
  have hreclaim := reclaim_keeps u (ctlPart p) c
  have hparts : ((u.reclaim (ctlPart p) c).grant rx p c 2 (ctlPart p) 0).parts = (u.reclaim (ctlPart p) c).parts :=
    hentry.keeps .partitions (by decide)
  generalize (u.reclaim (ctlPart p) c).grant rx p c 2 (ctlPart p) 0 = t at *
  have hpart : t.part (ctlPart p) = (u.reclaim (ctlPart p) c).part (ctlPart p) := by rw [State.part, hparts, State.part]
  have hsconn : p.sconn < 16384 := by
    rw [h.pkt]
    exact rxPkt_sconn_lt rx
  refine ⟨hopened.st, ?_, ?_, ?_, hopened.rxNext, ⟨x, hout, ?_, hstatus, ?_⟩, fun horphan => ?_, fun hnot => ?_, fun k hk => ?_, ?_⟩
  · rw [connKind, hopened.cfg, grantCfg_kind _ _ _ (by decide)]
  · rw [connPart, hopened.cfg, grantCfg_part _ _ _ (ctlPart_lt p)]
  · rw [connPeer, hopened.cfg, grantCfg_peer _ _ _ _ hsconn]
  · rw [ctlOp, hw3]
    exact openAckPkt_ctlOp _ _ _ _
  · rw [ctlTgen, hw3]
    exact openAckPkt_ctlTgen _ _ _ _
  · rw [hpart, ← hheard.part]
    exact reclaim_orphaned u c (by rwa [hheard.part])
  · rw [hparts, reclaim_of_ne c (by rwa [hheard.part])]
    exact hheard.keeps .partitions (by decide)
  · rw [hentry.other k hk, reclaim_conn, hheard.conn]
  · exact (hheard.keeps.mono (by simp)).trans ((hreclaim.mono (by simp)).trans (hentry.keeps.mono (by simp)))

/-- A controlling session refused (R311, R432). -/
theorem runs_sessionOpen_refused {s : State} {rx : Rx} {p : Pkt} {q : Nat} (h : Opens s rx p) (hrole : ctlRole p = 1) (hq : ctlPart p = q)
    (hnew : s.grantedTo rx p 2 q = none) (hwhy : testBit (s.sessionMask q) 0 = true ∨ s.xsi.poly = [] ∨ s.operational = false) :
    Runs (.sessionOpen rx) s fun t => t.net.conns = s.net.conns ∧ Keeps [.network, .stewards] s t := by
  subst hq
  have hheard := heard_sameConns s rx p
  refine runs_sessionOpen h ?_
  generalize s.heard rx p = u at hheard
  obtain ⟨status, hrefused⟩ := sessionOpen_refuses (s := u) (rx := rx) (p := p) (by rwa [hheard.grantedTo])
    (by rwa [hheard.sessionMask, hheard.xsi, hheard.operational])
  have hend : u.endpointOpen rx p = u.refuseOpen rx p status := by
    unfold State.endpointOpen
    rw [hrole]
    exact hrefused
  rw [hend]
  have hall := hheard.trans (refuseOpen_sameConns u rx p status)
  exact ⟨hall.conns, hall.keeps⟩

/-- A fabric manager on MGMT admitted before an owner image (R307, R444). -/
theorem runs_sessionOpen_manager {s : State} {rx : Rx} {p : Pkt} {c : Nat} (h : Opens s rx p) (hport : rx.port = 16) (hrole : ctlRole p = 3)
    (himage : s.xsi.ownerImage = false) (hrom : s.fw.romRecovery = false) (hnone : ∀ e ∈ s.net.conns, connKind e.2 ≠ 4)
    (hfree : s.freeIndex 0x3FFB 4 = some c) :
    Runs (.sessionOpen rx) s fun t =>
      (t.conn c).st = 2 ∧ connKind (t.conn c) = 4 ∧ (t.conn c).viaMgmt = true ∧ (∀ k, k ≠ c → t.conn k = s.conn k) ∧
        Keeps [.network, .stewards] s t := by
  have hheard := heard_sameConns s rx p
  refine runs_sessionOpen h ?_
  generalize s.heard rx p = u at hheard
  have hgrants : u.endpointOpen rx p = u.grant rx p c 4 0 0 := by
    unfold State.endpointOpen
    rw [hrole]
    exact fmOpen_grants hport (by rwa [hheard.xsi]) (by rwa [hheard.fw]) (by rwa [hheard.conns]) (by rwa [hheard.freeIndex])
  rw [hgrants]
  obtain ⟨hentry, hopened, -⟩ := grant_opens u rx p c 4 0 0
  refine ⟨hopened.st, ?_, ?_, fun k hk => (hentry.other k hk).trans (hheard.conn k), hheard.keeps.trans hentry.keeps⟩
  · rw [connKind, hopened.cfg, grantCfg_kind _ _ _ (by decide)]
  · rw [hopened.viaMgmt, hport]
    rfl

/-- Settles O51: an OPEN is taken to the open endpoint; a grant writes one entry whose OPEN_ACK is all it sends, a refusal writes none. -/
theorem sessionsAreAdmitted : Obligations.SessionsAreAdmitted :=
  ⟨fun _ _ _ _ _ harr hport hown hfcs hvlan hfrag hsum hdport hhdr hp hend hopc hctl hrole hq hop hst hmask hnew hpoly hfree =>
      runs_sessionOpen_admitted ⟨harr, hown, hfcs, hvlan, hfrag, hsum, hdport, hhdr, hp, hend, hopc, hctl⟩ hport hrole hq hop hst hmask hnew
        hpoly hfree,
    fun _ _ _ _ harr hown hfcs hvlan hfrag hsum hdport hhdr hp hend hopc hctl hrole hq hnew hwhy =>
      runs_sessionOpen_refused ⟨harr, hown, hfcs, hvlan, hfrag, hsum, hdport, hhdr, hp, hend, hopc, hctl⟩ hrole hq hnew hwhy,
    fun s rx _ _ harr hport hown hfcs hvlan hfrag hsum hdport hhdr hp hend hopc hctl hrole himage hrom hnone hfree =>
      have hplane : planeOfPort rx.port = 2 := by rw [hport]; rfl
      have helt : s.eltPort rx.port = 47320 := by rw [hport]; rfl
      runs_sessionOpen_manager ⟨harr, hplane ▸ hown, hfcs, hvlan, hfrag, hsum, hdport.trans helt.symm, hhdr, hp, hend, hopc, hctl⟩ hport hrole
        himage hrom hnone hfree⟩

end Sys2Proof

namespace Sys2Proof.Machine

/-! ## Bits put over other bits -/

/-- Numbers without a common bit add up to their union. -/
theorem add_eq_or_of_disjoint {a b : Nat} (h : ∀ j, ¬(a.testBit j = true ∧ b.testBit j = true)) : a + b = a ||| b := by
  have hlt : a + b < 2 ^ (a + b) := Nat.lt_two_pow_self
  have ha : a < 2 ^ (a + b) := by omega
  have hb : b < 2 ^ (a + b) := by omega
  have hbv := BitVec.add_eq_or_of_and_eq_zero (BitVec.ofNat (a + b) a) (BitVec.ofNat (a + b) b) (by
    apply BitVec.eq_of_getLsbD_eq
    intro j _
    have hj := h j
    simp only [BitVec.getLsbD_and, BitVec.getLsbD_ofNat]
    grind)
  have hnat := congrArg BitVec.toNat hbv
  rwa [BitVec.toNat_add, BitVec.toNat_or, BitVec.toNat_ofNat, BitVec.toNat_ofNat, Nat.mod_eq_of_lt ha, Nat.mod_eq_of_lt hb,
    Nat.mod_eq_of_lt hlt] at hnat

/-- The bits of a number under a mask replaced by those of a number that lies within the mask. -/
theorem testBit_overlay {a m v : Nat} (hv : ∀ j, v.testBit j = true → m.testBit j = true) (i : Nat) :
    (a - (a &&& m) + v).testBit i = if m.testBit i then v.testBit i else a.testBit i := by
  have hsplit : a = (a ^^^ (a &&& m)) + (a &&& m) := by
    rw [add_eq_or_of_disjoint (by intro j; simp only [Nat.testBit_xor, Nat.testBit_and]; grind)]
    apply Nat.eq_of_testBit_eq
    intro j
    simp only [Nat.testBit_or, Nat.testBit_xor, Nat.testBit_and]
    cases a.testBit j <;> cases m.testBit j <;> rfl
  have hclear : a - (a &&& m) = a ^^^ (a &&& m) := Nat.sub_eq_of_eq_add hsplit
  rw [hclear, add_eq_or_of_disjoint (by intro j; have := hv j; simp only [Nat.testBit_xor, Nat.testBit_and]; grind)]
  have := hv i
  simp only [Nat.testBit_or, Nat.testBit_xor, Nat.testBit_and]
  cases hm : m.testBit i <;> grind

/-! ## Numbers as bytes -/

theorem natLE_eq_map (n v : Nat) : natLE n v = (List.range n).map fun i => BitVec.ofNat 8 (v / 256 ^ i) := by
  induction n generalizing v with
  | zero => rfl
  | succ n ih => simp [natLE, ih, List.range_succ_eq_map, Nat.pow_succ', Nat.div_div_eq_div_mul]

@[simp] theorem natLE_length (n v : Nat) : (natLE n v).length = n := by simp [natLE_eq_map]

theorem natLE_getD {n i : Nat} (v : Nat) (h : i < n) : (natLE n v).getD i 0 = BitVec.ofNat 8 (v / 256 ^ i) := by
  simp [natLE_eq_map, h]

@[simp] theorem slice_length (bs : Bytes) (o n : Nat) : (slice bs o n).length = n := by
  simp only [slice, zeros, List.length_append, List.length_replicate, List.length_take, List.length_drop]
  omega

theorem slice_getD (bs : Bytes) {o n i : Nat} (h : i < n) : (slice bs o n).getD i 0 = bs.getD (o + i) 0 := by
  simp only [slice, zeros, List.getD_eq_getElem?_getD, List.getElem?_append, List.length_take, List.length_drop, List.getElem?_take,
    List.getElem?_drop, List.getElem?_replicate]
  split
  · simp
  · have : bs.length ≤ o + i := by omega
    simp [List.getElem?_eq_none this]; split <;> rfl

/-! ## Bytes put into memory -/

theorem get_pokeCells (c : List Host.Cell) (a : Nat) (bs : Bytes) (k : Nat) :
    Table.get 0 (pokeCells c a bs) k = if a ≤ k ∧ k < a + bs.length then bs.getD (k - a) 0 else Table.get 0 c k := by
  induction bs generalizing c a with
  | nil => simp [pokeCells]
  | cons b bs ih =>
    rw [pokeCells, ih, Table.get_set, List.length_cons]
    by_cases hk : k = a
    · subst hk; simp
    · by_cases hin : a + 1 ≤ k ∧ k < a + 1 + bs.length
      · obtain ⟨d, rfl⟩ : ∃ d, k = a + 1 + d := ⟨k - (a + 1), by omega⟩
        rw [if_pos hin, if_pos (by omega), show a + 1 + d - a = d + 1 by omega, Nat.add_sub_cancel_left, List.getD_cons_succ]
      · rw [if_neg hin, if_neg hk, if_neg (by omega)]

theorem byteAt_poke (s : State) (a : Nat) (bs : Bytes) (k : Nat) :
    byteAt (s.poke a bs) k = if a ≤ k ∧ k < a + bs.length then bs.getD (k - a) 0 else byteAt s k := get_pokeCells s.mem.cells a bs k

@[simp] theorem byteAt_setLine (s : State) (l : Nat) (m : Option LineMeta) (k : Nat) : byteAt (s.setLine l m) k = byteAt s k := rfl
@[simp] theorem byteAt_setTag (s : State) (g : Nat) (t : BitVec 32) (k : Nat) : byteAt (s.setTag g t) k = byteAt s k := rfl

theorem peek_eq (s : State) (a n : Nat) : s.peek a n = (List.range n).map fun i => byteAt s (a + i) := rfl

/-- Memory without a change reads the same. -/
theorem byteAt_of_mem {s t : State} (h : t.mem = s.mem) (k : Nat) : byteAt t k = byteAt s k := by rw [byteAt, h, byteAt]

end Sys2Proof.Machine

namespace Sys2Proof.Machine

/-! ## The core store of a position (R242) -/

theorem rgnDbase_coreRegion (pos : Nat) : rgnDbase (coreRegion pos) = (pos / 256 * 2 ^ 16 + 0xFE00 + pos % 256) % 2 ^ 20 := by
  have hflag : fld (flag 63 true) 58 39 = 0 := fld_flag_ne true (by decide) (by decide) (.inr (by decide))
  simp [rgnDbase, coreRegion, fld_fields, hflag, fld_at]

@[simp] theorem rgnHbm_coreRegion (pos : Nat) : rgnHbm (coreRegion pos) = false := by
  rw [rgnHbm, rgnDbase_coreRegion]
  simp only [decide_eq_false_iff_not]
  omega

/-- The first physical byte of the core store that fills a position. -/
def State.coreBase (s : State) (pos : Nat) : Nat := 2 ^ 40 + (pos / 16 * 17 + s.physSlot pos) * 2 ^ 20

/-- A core store stands in one piece at its physical slot. -/
theorem phys_coreRegion (s : State) {pos a : Nat} (hpos : pos < 4096) (ha : a < 2 ^ 20) :
    s.phys (rgnDpa (coreRegion pos) a) = s.coreBase pos + a := by
  have hdpa : rgnDpa (coreRegion pos) a = pos / 256 * 2 ^ 36 + 0xFE0000000 + pos % 256 * 2 ^ 20 + a := by
    simp only [rgnDpa, rgnHbm_coreRegion, Bool.false_eq_true, if_false, rgnDbase_coreRegion]
    omega
  have hmod : rgnDpa (coreRegion pos) a % 2 ^ 36 = 0xFE0000000 + pos % 256 * 2 ^ 20 + a := by omega
  have hcol : dpaCol (rgnDpa (coreRegion pos) a) = pos / 256 := by rw [dpaCol]; omega
  have hcore : dpaCore (rgnDpa (coreRegion pos) a) = true := by
    simp only [dpaCore, hmod, decide_eq_true_eq]; omega
  have hpos' : pos / 256 * 256 + (0xFE0000000 + pos % 256 * 2 ^ 20 + a - 0xFE0000000) / 2 ^ 20 = pos := by omega
  simp only [State.phys, hcore, if_true, hmod, hcol, hpos', State.coreBase]
  omega

theorem physSlot_of_dev {s t : State} (h : t.dev = s.dev) (pos : Nat) : t.physSlot pos = s.physSlot pos := by
  simp only [State.physSlot, State.margin, h]

theorem coreBase_of_dev {s t : State} (h : t.dev = s.dev) (pos : Nat) : t.coreBase pos = s.coreBase pos := by
  rw [State.coreBase, physSlot_of_dev h, State.coreBase]

theorem phys_of_dev {s t : State} (h : t.dev = s.dev) (d : Nat) : t.phys d = s.phys d := by
  simp only [State.phys, physSlot_of_dev h]

/-! ## Reading SRAM: memory and every piece but the columns' registers and the log stay -/

/-- What a read of an SRAM may change (R272, R273): the columns' counters, the log, and the entries that wait for the persistent log. -/
abbrev readPieces : List Sys2Proof.Piece := [.columns, .stewards, .firmware]

theorem updCol_keeps (s : State) (c : Nat) (f : ColRegs → ColRegs) : Keeps readPieces s (s.updCol c f) := .of_patch rfl

theorem memCe_keeps (s : State) (access part rgn d kind : Nat) : Keeps readPieces s (s.memCe access part rgn d kind) := by
  unfold State.memCe
  dsimp only
  split
  · exact (updCol_keeps _ _ _).trans ((logP_keeps _ _ _ _ _ _).mono (by decide))
  · exact updCol_keeps _ _ _

theorem memUe_keeps (s : State) (access part rgn d kind : Nat) : Keeps readPieces s (s.memUe access part rgn d kind) :=
  (updCol_keeps _ _ _).trans ((logP_keeps _ _ _ _ _ _).mono (by decide))

section Sram

variable {r : Region} (hr : rgnHbm r = false)
include hr

theorem pcBad_sram (s : State) (a : Nat) : s.pcBad r a = false := by simp [State.pcBad, hr]
theorem rgnStrong_sram : rgnStrong r = false := by simp [rgnStrong, hr]

theorem lineNow_sram (s : State) (d : Nat) : s.lineNow r d = .data ∨ s.lineNow r d = .poisoned := by
  unfold State.lineNow
  split
  · simp [hr]
  · simp only [hr, Bool.false_and, Bool.false_eq_true, if_false]
    split <;> simp

theorem readLine_keeps (s : State) (rmw : Bool) (access part rgn : Nat) (a : Nat) (errs : List MemErr) :
    Keeps readPieces s (s.readLine rmw access part rgn r a errs).2.2 := by
  unfold State.readLine
  simp only [pcBad_sram hr, rgnStrong_sram hr, Bool.false_eq_true, if_false]
  obtain h | h := lineNow_sram hr s (rgnDpa r a) <;> simp only [h]
  · split
    · exact memUe_keeps _ _ _ _ _ _
    · split
      · exact memCe_keeps _ _ _ _ _ _
      · exact .refl _ s
  · exact memUe_keeps _ _ _ _ _ _

theorem granLines_keeps (s : State) (rmw : Bool) (access part rgn : Nat) (g : Nat) (errs : List MemErr) :
    Keeps readPieces s (s.granLines rmw access part rgn r g errs).2.2 := by
  suffices h : ∀ (is : List Nat) (acc : Bytes × Bool × State), Keeps readPieces acc.2.2 (is.foldl (fun acc i =>
      let x := acc.2.2.readLine rmw access part rgn r (g + 64 * i) errs
      (acc.1 ++ x.1, acc.2.1 || x.2.1, x.2.2)) acc).2.2 from h (List.range 4) ([], false, s)
  intro is
  induction is with
  | nil => exact fun acc => .refl _ _
  | cons i is ih => exact fun acc => (readLine_keeps hr _ _ _ _ _ _ _).trans (ih _)

theorem granIn_keeps (s : State) (rmw : Bool) (access part rgn : Nat) (a : Nat) (errs : List MemErr) :
    Keeps readPieces s (s.granIn rmw access part rgn r a errs).2 := by
  have hlines := granLines_keeps hr s rmw access part rgn (a / 256 * 256) errs
  have htag : ∀ u : State, (u.readTag access part rgn r (a / 256 * 256) errs).2.2 = u := by
    intro u; simp [State.readTag, hr]
  unfold State.granIn
  dsimp only
  split
  · exact hlines
  · split
    · rw [htag]; exact hlines
    · split
      · rw [htag]; exact hlines.trans (memUe_keeps _ _ _ _ _ _)
      · rw [htag]; exact hlines

end Sram

theorem granLoad_keeps {l : List Sys2Proof.Piece} {rd : State → Nat → Gran × State} (hrd : ∀ s g, Keeps l s (rd s g).2) (gs : List Nat)
    (s : State) : Keeps l s (granLoad rd gs s).2 := by
  unfold granLoad
  generalize hacc : (([], s) : Grans × State) = acc
  obtain rfl : acc.2 = s := by rw [← hacc]
  clear hacc
  induction gs generalizing acc with
  | nil => exact .refl l _
  | cons g gs ih =>
    rw [List.foldl_cons]
    split
    · exact (hrd acc.2 g).trans (ih _)
    · exact ih acc

theorem coreGran_keeps (p pos first : Nat) (errs : List MemErr) (s : State) (g : Nat) :
    Keeps readPieces s (State.coreGran p pos first errs s g).2 := by
  unfold State.coreGran State.readGranAt
  exact granIn_keeps (rgnHbm_coreRegion pos) _ _ _ _ _ _ _

/-- Granules loaded from a core store (R102, R269). -/
theorem loadGrans_keeps (s : State) (p pos : Nat) (gs : List Nat) (errs : List MemErr) :
    Keeps readPieces s (s.loadGrans p pos gs errs).2 := by
  unfold State.loadGrans
  exact granLoad_keeps (coreGran_keeps p pos 0 errs) (dedup gs) s

theorem loadPrm_keeps (s : State) (p pos : Nat) (ws : List W64) (c : Ctl) (errs : List MemErr) :
    Keeps readPieces s (s.loadPrm p pos ws c errs).2.2.2 := by
  unfold State.loadPrm
  exact (loadGrans_keeps _ _ _ _ _).trans (loadGrans_keeps _ _ _ _ _)

/-- The operands of a VEC entry read. -/
theorem vecLoad_keeps (s : State) (p pos : Nat) (ws : List W64) (op : VecOp) (errs : List MemErr) :
    Keeps readPieces s (s.vecLoad p pos ws op errs).2 := by
  unfold State.vecLoad
  exact (loadGrans_keeps _ _ _ _ _).trans (loadGrans_keeps _ _ _ _ _)

end Sys2Proof.Machine

namespace Sys2Proof.Machine

/-! ## Granules stored in a core store -/

/-- What an entry that writes its core store may change beside the registers of its position and partition. -/
abbrev storePieces : List Sys2Proof.Piece := [.memory, .columns, .stewards, .firmware]

theorem storeLine_sram {r : Region} (hr : rgnHbm r = false) (s : State) (a : Nat) (new : Bytes) (poison : Bool) (v : Cover) :
    s.storeLine r a new poison v =
      (s.poke (s.phys (rgnDpa r a)) new).setLine (s.phys (rgnDpa r a) / 64) (if poison then some ⟨0, true⟩ else none) := by
  simp [State.storeLine, pcBad_sram hr, rgnStrong_sram hr, hr]

theorem storeTag_sram {r : Region} (hr : rgnHbm r = false) (s : State) (g : Nat) (data : Bytes) (v : Cover) :
    s.storeTag r g data v = s.setTag (s.phys (rgnDpa r g) / 256) (BitVec.ofNat 32 (crc32c data)) := by
  simp [State.storeTag, hr]

theorem storeLine_keeps {r : Region} (hr : rgnHbm r = false) (s : State) (a : Nat) (new : Bytes) (poison : Bool) (v : Cover) :
    Keeps [.memory] s (s.storeLine r a new poison v) := by
  rw [storeLine_sram hr]; exact .of_patch rfl

theorem storeGran_keeps {r : Region} (hr : rgnHbm r = false) (s : State) (g : Nat) (x : Gran) (v : Cover) :
    Keeps [.memory] s (s.storeGran r g x v) := by
  unfold State.storeGran
  rw [storeTag_sram hr]
  exact (Keeps.foldl _ _ s fun s i => storeLine_keeps hr s _ _ _ v).trans (.of_patch rfl)

/-- The first n lines of a granule stored: their bytes stand in it. -/
theorem byteAt_storeLines (s : State) {pos g n : Nat} (hpos : pos < 4096) (hg : g < 4096) (hn : n ≤ 4) (x : Gran) (v : Cover) (k : Nat) :
    byteAt ((List.range n).foldl (fun s i => s.storeLine (coreRegion pos) (256 * g + 64 * i) (slice x.data (64 * i) 64) x.poison v) s) k =
      if s.coreBase pos + 256 * g ≤ k ∧ k < s.coreBase pos + 256 * g + 64 * n then x.data.getD (k - (s.coreBase pos + 256 * g)) 0
      else byteAt s k := by
  induction n with
  | zero => rw [if_neg (by omega)]; rfl
  | succ n ih =>
    rw [List.range_succ, List.foldl_append, List.foldl_cons, List.foldl_nil]
    have hkeep := Keeps.foldl (List.range n) (fun (s : State) i =>
      s.storeLine (coreRegion pos) (256 * g + 64 * i) (slice x.data (64 * i) 64) x.poison v) s
      fun s i => storeLine_keeps (rgnHbm_coreRegion pos) s _ _ _ v
    have ih := ih (by omega)
    generalize (List.range n).foldl _ s = u at ih hkeep
    have hbase : u.coreBase pos = s.coreBase pos := coreBase_of_dev (hkeep .faults (by decide)) pos
    rw [storeLine_sram (rgnHbm_coreRegion pos), byteAt_setLine, byteAt_poke, slice_length, phys_coreRegion u hpos (by omega), hbase, ih]
    generalize s.coreBase pos = B
    by_cases hk : B + (256 * g + 64 * n) ≤ k ∧ k < B + (256 * g + 64 * n) + 64
    · rw [if_pos hk, if_pos (by omega), slice_getD _ (by omega)]
      congr 1; omega
    · rw [if_neg hk]
      by_cases hlow : B + 256 * g ≤ k ∧ k < B + 256 * g + 64 * n
      · rw [if_pos hlow, if_pos (by omega)]
      · rw [if_neg hlow, if_neg (by omega)]

/-- A granule stored in a core store: its bytes stand there, and every other byte is the same. -/
theorem byteAt_storeGran (s : State) {pos g : Nat} (hpos : pos < 4096) (hg : g < 4096) (x : Gran) (v : Cover) (k : Nat) :
    byteAt (s.storeGran (coreRegion pos) (256 * g) x v) k =
      if s.coreBase pos + 256 * g ≤ k ∧ k < s.coreBase pos + 256 * g + 256 then x.data.getD (k - (s.coreBase pos + 256 * g)) 0
      else byteAt s k := by
  rw [State.storeGran, storeTag_sram (rgnHbm_coreRegion pos), byteAt_setTag]
  exact byteAt_storeLines s hpos hg (Nat.le_refl 4) x v k

/-! ## The bits that an entry writes -/

/-- Whether a write covers bit b of core store. -/
abbrev Wr.Covers (x : Wr) (b : Nat) : Prop := x.bit ≤ b ∧ b < x.bit + x.w

/-- The bits that a write takes in granule g, counted from the granule's first. -/
theorem over_bits {x : Wr} {g : Nat} (hx : x.meets g = true) {i : Nat} (hi : i < 2048) :
    (x.bit - 2048 * g ≤ i ∧ i - (x.bit - 2048 * g) < min (x.w - (2048 * g - x.bit)) (2048 - (x.bit - 2048 * g))) ↔
      x.Covers (2048 * g + i) := by
  simp only [Wr.meets, Bool.and_eq_true, decide_eq_true_eq] at hx
  simp only [Wr.Covers]
  omega

/-- The values of a pair (bits written, their values) lie within its bits. -/
abbrev BitsWithin (m : Nat × Nat) : Prop := ∀ j, m.2.testBit j = true → m.1.testBit j = true

theorem testBit_over_fst (g : Nat) (m : Nat × Nat) {x : Wr} (hx : x.meets g = true) {i : Nat} (hi : i < 2048) :
    (Wr.over g m x).1.testBit i = true ↔ m.1.testBit i = true ∨ x.Covers (2048 * g + i) := by
  rw [← over_bits hx hi]
  simp [Wr.over, Nat.testBit_mul_two_pow]

theorem testBit_over_snd (g : Nat) (m : Nat × Nat) (x : Wr) (j : Nat) :
    (Wr.over g m x).2.testBit j =
      if x.bit - 2048 * g ≤ j ∧ j - (x.bit - 2048 * g) < min (x.w - (2048 * g - x.bit)) (2048 - (x.bit - 2048 * g)) then
        x.code.testBit (j - (x.bit - 2048 * g) + (2048 * g - x.bit))
      else m.2.testBit j := by
  unfold Wr.over
  dsimp only
  rw [testBit_overlay]
  · simp only [Nat.testBit_mul_two_pow, Nat.testBit_two_pow_sub_one, Bool.and_eq_true, decide_eq_true_eq]
    split
    · next h => simp [h.1, h.2, Nat.testBit_div_two_pow]
    · rfl
  · intro j
    simp only [Nat.testBit_mul_two_pow, Nat.testBit_two_pow_sub_one, Nat.testBit_mod_two_pow, Bool.and_eq_true, decide_eq_true_eq]
    exact fun h => ⟨h.1, h.2.1⟩

theorem over_within (g : Nat) {m : Nat × Nat} (x : Wr) (hm : BitsWithin m) : BitsWithin (Wr.over g m x) := by
  intro j hj
  rw [testBit_over_snd] at hj
  simp only [Wr.over, Nat.testBit_or, Nat.testBit_mul_two_pow, Nat.testBit_two_pow_sub_one, Bool.or_eq_true, Bool.and_eq_true,
    decide_eq_true_eq]
  split at hj
  · next h => exact .inr h
  · exact .inl (hm j hj)

/-- A pair (bits written, their values) holds value v at bit i, if anything is written there. -/
abbrev BitHolds (i : Nat) (v : Bool) (m : Nat × Nat) : Prop := m.1.testBit i = true → m.2.testBit i = v

theorem over_holds {g : Nat} {m : Nat × Nat} {x : Wr} {i : Nat} {v : Bool} (hx : x.meets g = true) (hi : i < 2048) (hm : BitHolds i v m)
    (hv : x.Covers (2048 * g + i) → x.code.testBit (2048 * g + i - x.bit) = v) : BitHolds i v (Wr.over g m x) := by
  intro hw
  rw [testBit_over_snd]
  have hcov := over_bits hx hi
  split
  · next h =>
    rw [← hv (hcov.mp h)]
    obtain ⟨hlo, hhi⟩ := hcov.mp h
    congr 1; omega
  · next h =>
    have hmask := (testBit_over_fst g m hx hi).mp hw
    exact hm (hmask.resolve_right fun hc => h (hcov.mpr hc))

theorem foldl_over_within (g : Nat) (xs : List Wr) {m : Nat × Nat} (hm : BitsWithin m) : BitsWithin (xs.foldl (Wr.over g) m) := by
  induction xs generalizing m with
  | nil => exact hm
  | cons x xs ih => exact ih (over_within g x hm)

theorem foldl_over_bit {g i : Nat} {v : Bool} (xs : List Wr) (m : Nat × Nat) (hxs : ∀ x ∈ xs, x.meets g = true) (hi : i < 2048)
    (hm : BitHolds i v m) (hv : ∀ x ∈ xs, x.Covers (2048 * g + i) → x.code.testBit (2048 * g + i - x.bit) = v) :
    BitHolds i v (xs.foldl (Wr.over g) m) ∧
      ((xs.foldl (Wr.over g) m).1.testBit i = true ↔ m.1.testBit i = true ∨ ∃ x ∈ xs, x.Covers (2048 * g + i)) := by
  induction xs generalizing m with
  | nil => exact ⟨hm, by simp⟩
  | cons x xs ih =>
    rw [List.forall_mem_cons] at hxs hv
    obtain ⟨hholds, hmask⟩ := ih (Wr.over g m x) hxs.2 (over_holds hxs.1 hi hm hv.1) hv.2
    refine ⟨hholds, hmask.trans ?_⟩
    rw [testBit_over_fst g m hxs.1 hi, List.exists_mem_cons_iff, or_assoc]

/-- A write that covers a bit of a granule reaches the granule. -/
theorem meets_of_covers {x : Wr} {g i : Nat} (hi : i < 2048) (h : x.Covers (2048 * g + i)) : x.meets g = true := by
  simp only [Wr.Covers] at h
  simp only [Wr.meets, Bool.and_eq_true, decide_eq_true_eq]
  omega

theorem overGran_within (xs : List Wr) (g : Nat) : BitsWithin (overGran xs g) := foldl_over_within g _ (by simp [BitsWithin])

/-- What writes put into bit i of granule g, where some of them cover it and all that do agree on its value. -/
theorem overGran_bit {xs : List Wr} {g i : Nat} {v : Bool} (hi : i < 2048) (hsome : ∃ x ∈ xs, x.Covers (2048 * g + i))
    (hv : ∀ x ∈ xs, x.Covers (2048 * g + i) → x.code.testBit (2048 * g + i - x.bit) = v) :
    (overGran xs g).1.testBit i = true ∧ (overGran xs g).2.testBit i = v := by
  obtain ⟨hholds, hmask⟩ := foldl_over_bit (v := v) (xs.filter (·.meets g)) (0, 0) (fun x hx => (List.mem_filter.mp hx).2) hi
    (by simp [BitHolds]) fun x hx => hv x (List.mem_filter.mp hx).1
  obtain ⟨x, hx, hc⟩ := hsome
  have hw := hmask.mpr (.inr ⟨x, List.mem_filter.mpr ⟨hx, meets_of_covers hi hc⟩, hc⟩)
  exact ⟨hw, hholds hw⟩

/-! ## What stands in a core store after an entry's writes -/

/-- Bit b of a position's core store. -/
def State.coreBit (s : State) (pos b : Nat) : Bool := (byteAt s (s.coreBase pos + b / 8)).getLsbD (b % 8)

theorem natLE_getLsbD {n i : Nat} (v : Nat) (hi : i < 8 * n) : ((natLE n v).getD (i / 8) 0).getLsbD (i % 8) = v.testBit i := by
  have h256 : 256 ^ (i / 8) = 2 ^ (8 * (i / 8)) := by rw [Nat.pow_mul]
  rw [natLE_getD v (by omega), BitVec.getLsbD_ofNat, h256, Nat.testBit_div_two_pow, Nat.mod_add_div]
  simp [Nat.mod_lt]

theorem leNat_testBit (bs : Bytes) (i : Nat) : (leNat bs).testBit i = (bs.getD (i / 8) 0).getLsbD (i % 8) := by
  induction bs generalizing i with
  | nil => simp [leNat]
  | cons b bs ih =>
    have hb : b.toNat < 2 ^ 8 := b.isLt
    rw [leNat, Nat.add_comm, show (256 : Nat) = 2 ^ 8 from rfl, Nat.testBit_two_pow_mul_add _ hb]
    split
    · next h => rw [Nat.div_eq_of_lt h, Nat.mod_eq_of_lt h]; rfl
    · next h =>
      obtain ⟨j, rfl⟩ : ∃ j, i = j + 8 := ⟨i - 8, by omega⟩
      rw [Nat.add_sub_cancel, ih, show (j + 8) / 8 = j / 8 + 1 by omega, Nat.add_mod_right, List.getD_cons_succ]

/-- The code at an address of core store, from the bits that stand there. -/
theorem codeAt_eq {s : State} {pos a c : Nat} (hpos : pos < 4096) (ha : a < 2 ^ 20)
    (h : ∀ i, i < 32 → s.coreBit pos (8 * a + i) = c.testBit i) : codeAt s pos a = c % 2 ^ 32 := by
  apply Nat.eq_of_testBit_eq
  intro i
  rw [codeAt, leNat_testBit, Nat.testBit_mod_two_pow, phys_coreRegion s hpos ha, peek_eq]
  by_cases hi : i < 32
  · have hbit := h i hi
    rw [State.coreBit, show (8 * a + i) / 8 = a + i / 8 by omega, show (8 * a + i) % 8 = i % 8 by omega] at hbit
    have hrange : i / 8 < 4 := by omega
    simp [hi, ← hbit, hrange, Nat.add_assoc]
  · have hrange : ¬i / 8 < 4 := by omega
    simp [hi, hrange]

theorem patchGran_keeps (p pos : Nat) (xs : List Wr) (errs : List MemErr) (s : State) (g : Nat) :
    Keeps storePieces s (State.patchGran p pos xs errs s g) := by
  unfold State.patchGran
  dsimp only
  refine Keeps.trans ?_ ((storeGran_keeps (rgnHbm_coreRegion pos) _ _ _ _).mono (by decide))
  split
  · exact .refl _ s
  · exact (granIn_keeps (rgnHbm_coreRegion pos) _ _ _ _ _ _ _).mono (by decide)

/-- One granule's writes: the bits written stand in it, and every byte outside it is the same. -/
theorem patchGran_bytes (s : State) {p pos g : Nat} (hpos : pos < 4096) (hg : g < 4096) (xs : List Wr) (errs : List MemErr) :
    (∀ i, i < 2048 → (overGran xs g).1.testBit i = true →
      (State.patchGran p pos xs errs s g).coreBit pos (2048 * g + i) = (overGran xs g).2.testBit i) ∧
    (∀ k, k < s.coreBase pos + 256 * g ∨ s.coreBase pos + 256 * g + 256 ≤ k →
      byteAt (State.patchGran p pos xs errs s g) k = byteAt s k) := by
  have hbase := coreBase_of_dev (patchGran_keeps p pos xs errs s g .faults (by decide)) pos
  unfold State.coreBit
  rw [hbase]
  unfold State.patchGran
  dsimp only
  generalize hold : (if (overGran xs g).1 = 2 ^ 2048 - 1 then ((⟨zeros 256, false⟩, s) : Gran × State)
    else s.granIn true accOperand p (s.coreIndex pos) (coreRegion pos) (256 * g) errs) = old
  have hkeep : Keeps readPieces s old.2 := by
    rw [← hold]
    split
    · exact .refl _ s
    · exact granIn_keeps (rgnHbm_coreRegion pos) _ _ _ _ _ _ _
  have hold := coreBase_of_dev (hkeep .faults (by decide)) pos
  constructor
  · intro i hi hw
    rw [byteAt_storeGran _ hpos hg, hold, if_pos (by omega), show s.coreBase pos + (2048 * g + i) / 8 - (s.coreBase pos + 256 * g) = i / 8 by omega,
      show (2048 * g + i) % 8 = i % 8 by omega, natLE_getLsbD _ (by omega), testBit_overlay (overGran_within xs g), if_pos hw]
  · intro k hk
    rw [byteAt_storeGran _ hpos hg, hold, if_neg (by omega)]
    exact byteAt_of_mem (hkeep .memory (by decide)) k

theorem mem_dedup (l : List Nat) (n : Nat) : n ∈ dedup l ↔ n ∈ l := by
  suffices h : ∀ acc : List Nat, n ∈ l.foldl (fun acc n => if acc.contains n then acc else n :: acc) acc ↔ n ∈ acc ∨ n ∈ l by
    rw [dedup, List.mem_reverse, h]; simp
  induction l with
  | nil => simp
  | cons a l ih =>
    intro acc
    rw [List.foldl_cons, ih, List.mem_cons]
    split
    · next h => simp only [List.contains_iff_mem] at h; grind
    · rw [List.mem_cons]; tauto

theorem mem_grans_of_covers {x : Wr} {b : Nat} (h : x.Covers b) : b / 2048 ∈ x.grans := by
  obtain ⟨hlo, hhi⟩ := h
  rw [Wr.grans, List.mem_map]
  exact ⟨b / 2048 - x.bit / 2048, List.mem_range.mpr (by omega), by omega⟩

theorem storeWrs_keeps (s : State) (p pos : Nat) (xs : List Wr) (errs : List MemErr) : Keeps storePieces s (s.storeWrs p pos xs errs) := by
  unfold State.storeWrs
  exact Keeps.foldl _ _ s (patchGran_keeps p pos xs errs)

/-- Granules written one after another: each that is among them holds its bits. -/
theorem foldl_patchGran {p pos : Nat} (hpos : pos < 4096) (xs : List Wr) (errs : List MemErr) (gs : List Nat) (hgs : ∀ g ∈ gs, g < 4096) (s : State) :
    (∀ g i, i < 2048 → (overGran xs g).1.testBit i = true →
      g ∈ gs ∨ (g < 4096 ∧ s.coreBit pos (2048 * g + i) = (overGran xs g).2.testBit i) →
      (gs.foldl (State.patchGran p pos xs errs) s).coreBit pos (2048 * g + i) = (overGran xs g).2.testBit i) ∧
    (∀ k, k < s.coreBase pos ∨ s.coreBase pos + 2 ^ 20 ≤ k → byteAt (gs.foldl (State.patchGran p pos xs errs) s) k = byteAt s k) := by
  induction gs generalizing s with
  | nil => exact ⟨fun g i _ _ h => (h.resolve_left (by simp)).2, fun _ _ => rfl⟩
  | cons a gs ih =>
    rw [List.forall_mem_cons] at hgs
    obtain ⟨ha, hgs⟩ := hgs
    obtain ⟨hbits, hrest⟩ := ih hgs (State.patchGran p pos xs errs s a)
    obtain ⟨hpatch, hother⟩ := patchGran_bytes s (p := p) hpos ha xs errs
    have hbase := coreBase_of_dev (patchGran_keeps p pos xs errs s a .faults (by decide)) pos
    rw [hbase] at hrest
    refine ⟨fun g i hi hw h => hbits g i hi hw ?_, fun k hk => (hrest k hk).trans (hother k (by omega))⟩
    by_cases hga : g = a
    · subst hga; exact .inr ⟨ha, hpatch i hi hw⟩
    · rw [List.mem_cons, or_iff_right hga] at h
      refine h.imp_right fun h => ⟨h.1, ?_⟩
      rw [← h.2, State.coreBit, State.coreBit, hbase, hother _ (by omega)]

/-- A bit of core store that writes cover, where all that cover it agree on its value, holds that value once they are stored. -/
theorem storeWrs_bit (s : State) {p pos b : Nat} {v : Bool} (hpos : pos < 4096) (hb : b < 2 ^ 23) {xs : List Wr} (errs : List MemErr)
    (hsome : ∃ x ∈ xs, x.Covers b) (hv : ∀ x ∈ xs, x.Covers b → x.code.testBit (b - x.bit) = v) :
    (s.storeWrs p pos xs errs).coreBit pos b = v := by
  have hsplit : 2048 * (b / 2048) + b % 2048 = b := Nat.div_add_mod b 2048
  have hi : b % 2048 < 2048 := Nat.mod_lt _ (by decide)
  obtain ⟨hw, hval⟩ := overGran_bit (g := b / 2048) (v := v) hi (by rwa [hsplit]) (by rwa [hsplit])
  obtain ⟨x, hx, hc⟩ := hsome
  have hmem : b / 2048 ∈ (dedup (xs.flatMap Wr.grans)).filter (· < 4096) := by
    rw [List.mem_filter, mem_dedup, List.mem_flatMap]
    exact ⟨⟨x, hx, mem_grans_of_covers hc⟩, by simp; omega⟩
  have hbits := (foldl_patchGran hpos xs errs ((dedup (xs.flatMap Wr.grans)).filter (· < 4096))
    (fun g hg => by simpa using (List.mem_filter.mp hg).2) s (p := p)).1 (b / 2048) (b % 2048) hi hw (.inl hmem)
  rwa [hsplit, hval] at hbits

/-- An entry's writes stay within its core store (R242). -/
theorem storeWrs_other (s : State) {p pos : Nat} (hpos : pos < 4096) (xs : List Wr) (errs : List MemErr) (k : Nat)
    (hk : k < s.coreBase pos ∨ s.coreBase pos + 2 ^ 20 ≤ k) : byteAt (s.storeWrs p pos xs errs) k = byteAt s k :=
  (foldl_patchGran hpos xs errs _ (fun g hg => by simpa using (List.mem_filter.mp hg).2) s).2 k hk

/-- The codes of 32 bits that writes leave, where no two of them differ on a bit. -/
theorem storeWrs_code (s : State) {p pos a c : Nat} (hpos : pos < 4096) (ha : a + 4 ≤ 2 ^ 20) {xs : List Wr} (errs : List MemErr) {bad : Bool}
    (hx : ⟨8 * a, 32, c, bad⟩ ∈ xs)
    (hapart : ∀ y ∈ xs, (y.bit = 8 * a ∧ y.code = c) ∨ y.bit + y.w ≤ 8 * a ∨ 8 * a + 32 ≤ y.bit) :
    codeAt (s.storeWrs p pos xs errs) pos a = c % 2 ^ 32 := by
  refine codeAt_eq hpos (by omega) fun i hi => storeWrs_bit s hpos (by omega) errs ⟨_, hx, Nat.le_add_right _ _, Nat.add_lt_add_left hi _⟩ fun y hy hc => ?_
  obtain ⟨hlo, hhi⟩ := hc
  obtain ⟨hbit, hcode⟩ | h | h := hapart y hy
  · rw [hbit, hcode, Nat.add_sub_cancel_left]
  · omega
  · omega

end Sys2Proof.Machine

namespace Sys2Proof.Machine

/-! ## An entry that issues, and one that R218 or its unit holds (R218, R279, R491) -/

theorem part_of_keeps {l : List Sys2Proof.Piece} {s t : State} (h : Keeps l s t) (hl : .partitions ∉ l) (p : Nat) : t.part p = s.part p := by
  rw [State.part, show t.parts = s.parts from h .partitions hl, State.part]

theorem posn_of_keeps {l : List Sys2Proof.Piece} {s t : State} (h : Keeps l s t) (hl : .positions ∉ l) (n : Nat) : t.posn n = s.posn n := by
  rw [State.posn, show t.pos = s.pos from h .positions hl, State.posn]

theorem updPart_keeps (s : State) (p : Nat) (f : Part → Part) : Keeps [.partitions] s (s.updPart p f) := .of_patch rfl
theorem updPos_keeps (s : State) (n : Nat) (f : Pos → Pos) : Keeps [.positions] s (s.updPos n f) := .of_patch rfl

/-- State s in which entry i of a position's stream has issued. -/
def State.issued (s : State) (p sid i : Nat) : State := s.updPart p fun q => markIssue q sid i

theorem issued_keeps (s : State) (p sid i : Nat) : Keeps [.partitions] s (s.issued p sid i) := updPart_keeps _ _ _

@[simp] theorem issued_part_same (s : State) (p sid i : Nat) : (s.issued p sid i).part p = markIssue (s.part p) sid i := updPart_part_same _ _ _

theorem issued_part_ne (s : State) {p q : Nat} (sid i : Nat) (h : q ≠ p) : (s.issued p sid i).part q = s.part q := updPart_part_ne _ _ _ h

/-- An entry that may issue, and that its unit takes, does what its kind does. -/
theorem issue_of_mayIssue {s : State} {p sid i kind : Nat} {ws : List W64} {errs : List MemErr} (h : MayIssue s p sid i ws kind errs)
    {also : State → Nat → List W64 → Bool} (f : State → Nat → List W64 → State) (ha : also s i ws = true) :
    s.issue p sid (· = kind) errs also f = f (s.issued p sid i) i ws := by
  obtain ⟨hop, hmay, hnext, hkind, hdue, hwaits⟩ := h
  simp [State.issue, hop, hmay, hnext, hkind, hdue, hwaits, ha, State.issued]

/-- An entry that its unit does not take yet changes nothing. -/
theorem issue_of_not_taken {s : State} {p sid i kind : Nat} {ws : List W64} {errs : List MemErr} (h : MayIssue s p sid i ws kind errs)
    {also : State → Nat → List W64 → Bool} (f : State → Nat → List W64 → State) (ha : also s i ws = false) :
    s.issue p sid (· = kind) errs also f = s := by
  obtain ⟨hop, hmay, hnext, hkind, hdue, hwaits⟩ := h
  simp [State.issue, hop, hmay, hnext, ha]

/-! ## The marks of an issue and of a completion -/

@[simp] theorem markIssue_step (q : Part) (sid i : Nat) : (markIssue q sid i).step = q.step := by
  unfold markIssue; dsimp only; (repeat' split) <;> rfl

@[simp] theorem markIssue_stn (q : Part) (sid i : Nat) : (markIssue q sid i).stn = q.stn := by
  unfold markIssue; dsimp only; (repeat' split) <;> rfl

theorem releaseTok_stn (q : Part) (addr m : Nat) (prov : Bool) : (releaseTok q addr m prov).stn = q.stn := by
  unfold releaseTok; dsimp only; split <;> rfl

@[simp] theorem completeEntry_stn (q : Part) (sid step : Nat) (ws : List W64) : (completeEntry q sid step ws).stn = q.stn := by
  have hrel : ∀ q : Part, (releaseRel q step ws).stn = q.stn := by
    intro q; unfold releaseRel; split
    · rfl
    · exact releaseTok_stn ..
  unfold completeEntry
  split
  · dsimp only
    split
    · exact hrel _
    · rfl
  · exact hrel q

theorem complete_keeps (s : State) (p sid step : Nat) (ws : List W64) : Keeps [.partitions] s (s.complete p sid step ws) := updPart_keeps _ _ _

@[simp] theorem complete_part_same (s : State) (p sid step : Nat) (ws : List W64) :
    (s.complete p sid step ws).part p = completeEntry (s.part p) sid step ws := updPart_part_same _ _ _

theorem complete_part_ne (s : State) {p q : Nat} (sid step : Nat) (ws : List W64) (h : q ≠ p) :
    (s.complete p sid step ws).part q = s.part q := updPart_part_ne _ _ _ h

/-- An entry that has issued and now completes: its partition holds the marks of both, and the others are as they were. -/
theorem complete_issued {s w : State} {p sid i : Nat} (hw : ∀ q, w.part q = (s.issued p sid i).part q) (ws : List W64) :
    (w.complete p sid (s.part p).step ws).part p = completeEntry (markIssue (s.part p) sid i) sid (s.part p).step ws ∧
      ∀ q, q ≠ p → (w.complete p sid (s.part p).step ws).part q = s.part q := by
  refine ⟨?_, fun q hq => ?_⟩
  · rw [complete_part_same, hw, issued_part_same]
  · rw [complete_part_ne _ _ _ _ hq, hw, issued_part_ne _ _ _ hq]

/-! ## MERGE_ISSUE (R164 to R168) -/

/-- A write of a whole granule of an SRAM reads nothing first (R270). -/
theorem mergeGran_whole {r : Region} (hr : rgnHbm r = false) (s : State) (access part rgn g : Nat) {bs : Bytes} (hlen : bs.length = 256)
    (poison : Bool) (v : Cover) : s.mergeGran access part rgn r (256 * g) bs poison v = (⟨bs, poison⟩, false, s) := by
  have hold : ∀ a, oldLines r a v = [] := by simp [oldLines, rgnStrong_sram hr]
  have hdrop : bs.drop 256 = [] := List.drop_of_length_le (by omega)
  simp [State.mergeGran, hlen, hold, hdrop]

/-- A whole granule written into a core store. -/
theorem coreStore_granule (s : State) (p pos : Nat) {g : Nat} (hg : g < 4096) {bs : Bytes} (hlen : bs.length = 256) (bad : Bool)
    (errs : List MemErr) :
    s.coreStore p pos (256 * g) bs bad errs = s.storeGran (coreRegion pos) (256 * g) ⟨bs, bad⟩ ⟨256 * g, 256 * g + 256, errs⟩ := by
  have hne : bs.isEmpty = false := by cases bs with | nil => simp at hlen | cons b bs => rfl
  have hsplit : splitGrans (256 / 256 + 2) (256 * g) bs = [(256 * g, bs)] := by
    have htake : bs.take 256 = bs := List.take_of_length_le (by omega)
    have hdrop : bs.drop 256 = [] := List.drop_of_length_le (by omega)
    simp [splitGrans, hne, htake, hdrop]
  have hround : 256 * g / 256 * 256 = 256 * g := by omega
  rw [State.coreStore, hlen, if_pos (by omega), State.coreWrite, State.writeAlloc, hlen, hsplit, List.foldl_cons, List.foldl_nil, State.writeIn,
    mergeGran_whole (rgnHbm_coreRegion pos) _ _ _ _ _ hlen, hround]

theorem topBytes_length (l : TopList) : (topBytes l).length = 256 := by
  simp [topBytes, List.length_flatMap, zeros]
  omega

theorem logTimes_keeps (s : State) (p pos event n : Nat) : Keeps [.stewards, .firmware] s (s.logTimes p pos event n) :=
  Keeps.foldl _ _ s fun s _ => logP_keeps s _ _ _ _ _

theorem logTimes_logged (s : State) (p pos event : Nat) {n : Nat} (h : 0 < n) : Logged (s.logTimes p pos event n) (pos / 256) event [0] := by
  obtain ⟨n, rfl⟩ := Nat.exists_eq_succ_of_ne_zero h.ne'
  rw [State.logTimes, List.range_succ, List.foldl_append, List.foldl_cons, List.foldl_nil]
  exact logP_logged _ _ _ _ _ _

theorem peek_of_bytes {s : State} {a n : Nat} {bs : Bytes} (hlen : bs.length = n) (h : ∀ i, i < n → byteAt s (a + i) = bs.getD i 0) :
    s.peek a n = bs := by
  rw [peek_eq]
  refine List.ext_getElem (by simp [hlen]) fun i h1 h2 => ?_
  have hi : i < n := by simpa using h1
  rw [List.getElem_map, List.getElem_range, h i hi, List.getD_eq_getElem?_getD, List.getElem?_eq_getElem h2, Option.getD_some]

/-- The list of a MERGE entry stored, and its duplicates counted, once its inputs are read. -/
def State.mergeStore (s : State) (p pos : Nat) (ws : List W64) (bad : Bool) (m : TopMerge) (errs : List MemErr) : State :=
  (s.coreStore p pos (256 * ef ws 2 51 40) (topBytes m.out) bad errs).updPos pos fun q => { q with topkDup := incBy q.topkDup m.dups }

/-- What a MERGE entry leaves: its list stored, its TOPK_BAD events logged, and its release (R164 to R168). -/
def State.merged (s : State) (p pos : Nat) (ws : List W64) (bad : Bool) (m : TopMerge) (errs : List MemErr) : State :=
  ((s.mergeStore p pos ws bad m errs).logTimes p pos 0x14 m.bads).complete p pos ((s.mergeStore p pos ws bad m errs).part p).step ws

theorem opMerge_eq {s u : State} {p pos i : Nat} {ws : List W64} {gs : List Nat} {l : Grans} {errs : List MemErr}
    (h : MayIssue s p pos i ws kMerge errs) (hroom : s.unitRoom p pos ws = true) (hgs : gs = (List.range (ef ws 2 39 32)).map (ef ws 2 63 52 + ·))
    (hload : (s.issued p pos i).loadGrans p pos gs errs = (l, u)) :
    s.opMerge p pos errs =
      u.merged p pos ws (gs.any fun g => (granOf l (256 * g)).poison) (topMerge (gs.map fun g => (granOf l (256 * g)).data)) errs := by
  subst hgs
  rw [State.opMerge, issue_of_mayIssue h _ hroom]
  dsimp only
  rw [hload]
  dsimp only [State.merged, State.mergeStore]

section MergeStore

variable (s : State) {p pos : Nat} {ws : List W64} {bad : Bool} {m : TopMerge} {errs : List MemErr}

theorem ef_outGran_lt (ws : List W64) : ef ws 2 51 40 < 4096 := Nat.mod_lt _ (by decide)

theorem mergeStore_eq : s.mergeStore p pos ws bad m errs =
    (s.storeGran (coreRegion pos) (256 * ef ws 2 51 40) ⟨topBytes m.out, bad⟩ ⟨256 * ef ws 2 51 40, 256 * ef ws 2 51 40 + 256, errs⟩).updPos pos
      fun q => { q with topkDup := incBy q.topkDup m.dups } := by
  rw [State.mergeStore, coreStore_granule _ _ _ (ef_outGran_lt ws) (topBytes_length _)]

theorem mergeStore_keeps : Keeps [.positions, .memory] s (s.mergeStore p pos ws bad m errs) := by
  rw [mergeStore_eq]
  exact ((storeGran_keeps (rgnHbm_coreRegion pos) s _ _ _).mono (by decide)).trans ((updPos_keeps _ _ _).mono (by decide))

theorem mergeStore_byteAt (hpos : pos < 4096) (k : Nat) :
    byteAt (s.mergeStore p pos ws bad m errs) k =
      if s.coreBase pos + 256 * ef ws 2 51 40 ≤ k ∧ k < s.coreBase pos + 256 * ef ws 2 51 40 + 256 then
        (topBytes m.out).getD (k - (s.coreBase pos + 256 * ef ws 2 51 40)) 0
      else byteAt s k := by
  rw [mergeStore_eq, byteAt_of_mem ((updPos_keeps _ _ _) .memory (by decide)) k, byteAt_storeGran s hpos (ef_outGran_lt ws)]

theorem mergeStore_posn_same :
    (s.mergeStore p pos ws bad m errs).posn pos = { s.posn pos with topkDup := incBy (s.posn pos).topkDup m.dups } := by
  rw [mergeStore_eq, updPos_posn_same, posn_of_keeps (storeGran_keeps (rgnHbm_coreRegion pos) s _ _ _) (by decide)]

theorem mergeStore_posn_ne {q : Nat} (hq : q ≠ pos) : (s.mergeStore p pos ws bad m errs).posn q = s.posn q := by
  rw [mergeStore_eq, updPos_posn_ne _ _ _ hq, posn_of_keeps (storeGran_keeps (rgnHbm_coreRegion pos) s _ _ _) (by decide)]

end MergeStore

theorem loadGrans_keeps_of_eq {s u : State} {p pos : Nat} {gs : List Nat} {l : Grans} {errs : List MemErr}
    (h : s.loadGrans p pos gs errs = (l, u)) : Keeps readPieces s u := by
  have hu : (s.loadGrans p pos gs errs).2 = u := congrArg Prod.snd h
  rw [← hu]
  exact loadGrans_keeps _ _ _ _ _

/-- A MERGE entry that runs (R164 to R168). -/
theorem runs_mergeIssue {s u : State} {p pos i : Nat} {ws : List W64} {gs : List Nat} {l : Grans} {m : TopMerge} {errs : List MemErr}
    (h : MayIssue s p pos i ws kMerge errs) (hroom : s.unitRoom p pos ws = true) (hpos : pos < 4096)
    (hgs : gs = (List.range (ef ws 2 39 32)).map (ef ws 2 63 52 + ·)) (hload : (s.issued p pos i).loadGrans p pos gs errs = (l, u))
    (hm : m = topMerge (gs.map fun g => (granOf l (256 * g)).data)) :
    Runs (.mergeIssue p pos errs) s fun t =>
      t.peek (t.phys (rgnDpa (coreRegion pos) (256 * ef ws 2 51 40))) 256 = topBytes m.out ∧
        (∀ a, a < s.phys (rgnDpa (coreRegion pos) (256 * ef ws 2 51 40)) ∨ s.phys (rgnDpa (coreRegion pos) (256 * ef ws 2 51 40)) + 256 ≤ a →
          byteAt t a = byteAt s a) ∧
        t.posn pos = { s.posn pos with topkDup := incBy (s.posn pos).topkDup m.dups } ∧ (∀ q, q ≠ pos → t.posn q = s.posn q) ∧
        t.part p = completeEntry (markIssue (s.part p) pos i) pos (s.part p).step ws ∧ (∀ q, q ≠ p → t.part q = s.part q) ∧
        (0 < m.bads → Logged t (pos / 256) 0x14 [0]) ∧ Keeps [.positions, .memory, .partitions, .columns, .stewards, .firmware] s t := by
  refine ⟨_, congrArg Host.Outcome.next (opMerge_eq h hroom hgs hload), ?_⟩
  subst hm
  generalize (gs.any fun g => (granOf l (256 * g)).poison) = bad
  generalize topMerge (gs.map fun g => (granOf l (256 * g)).data) = m
  have hread : Keeps [.partitions, .columns, .stewards, .firmware] s u :=
    ((issued_keeps s p pos i).mono (by decide)).trans ((loadGrans_keeps_of_eq hload).mono (by decide))
  have hstore := mergeStore_keeps u (p := p) (pos := pos) (ws := ws) (bad := bad) (m := m) (errs := errs)
  have hlog := logTimes_keeps (u.mergeStore p pos ws bad m errs) p pos 0x14 m.bads
  have hstored : ∀ q, (u.mergeStore p pos ws bad m errs).part q = (s.issued p pos i).part q := fun q =>
    (part_of_keeps hstore (by decide) q).trans (part_of_keeps (loadGrans_keeps_of_eq hload) (by decide) q)
  have hpart := complete_issued (fun q => (part_of_keeps hlog (by decide) q).trans (hstored q)) ws
  have hstep : ((u.mergeStore p pos ws bad m errs).part p).step = (s.part p).step := by rw [hstored, issued_part_same, markIssue_step]
  rw [State.merged, hstep]
  have hdone := complete_keeps ((u.mergeStore p pos ws bad m errs).logTimes p pos 0x14 m.bads) p pos (s.part p).step ws
  have hbyte : ∀ k, byteAt (((u.mergeStore p pos ws bad m errs).logTimes p pos 0x14 m.bads).complete p pos (s.part p).step ws) k =
      byteAt (u.mergeStore p pos ws bad m errs) k := fun k =>
    (byteAt_of_mem (hdone .memory (by decide)) k).trans (byteAt_of_mem (hlog .memory (by decide)) k)
  have hposn : ∀ q, (((u.mergeStore p pos ws bad m errs).logTimes p pos 0x14 m.bads).complete p pos (s.part p).step ws).posn q =
      (u.mergeStore p pos ws bad m errs).posn q := fun q =>
    (posn_of_keeps hdone (by decide) q).trans (posn_of_keeps hlog (by decide) q)
  have hkeep : Keeps [.positions, .memory, .partitions, .columns, .stewards, .firmware] s
      (((u.mergeStore p pos ws bad m errs).logTimes p pos 0x14 m.bads).complete p pos (s.part p).step ws) :=
    ((hread.mono (by decide)).trans (hstore.mono (by decide))).trans ((hlog.mono (by decide)).trans (hdone.mono (by decide)))
  have hbase : u.coreBase pos = s.coreBase pos := coreBase_of_dev (hread .faults (by decide)) pos
  have hgran := ef_outGran_lt ws
  rw [phys_of_dev (hkeep .faults (by decide)), phys_coreRegion s hpos (by omega)]
  refine ⟨peek_of_bytes (topBytes_length _) fun j hj => ?_, fun a ha => ?_, ?_, fun q hq => ?_, hpart.1, hpart.2, fun hbads => ?_, hkeep⟩
  · rw [hbyte, mergeStore_byteAt u hpos, hbase, if_pos (by omega), Nat.add_sub_cancel_left]
  · rw [hbyte, mergeStore_byteAt u hpos, hbase, if_neg (by omega), byteAt_of_mem (hread .memory (by decide))]
  · rw [hposn, mergeStore_posn_same, posn_of_keeps hread (by decide)]
  · rw [hposn, mergeStore_posn_ne _ hq, posn_of_keeps hread (by decide)]
  · exact logged_of_stew (logTimes_logged _ _ _ _ hbads) (hdone .stewards (by decide))

theorem idles_mergeIssue {s : State} {p pos i : Nat} {ws : List W64} {errs : List MemErr} (h : MayIssue s p pos i ws kMerge errs)
    (hroom : s.unitRoom p pos ws = false) : Idles (.mergeIssue p pos errs) s :=
  congrArg Host.Outcome.next (issue_of_not_taken h _ hroom)

end Sys2Proof.Machine

namespace Sys2Proof.Machine

/-! ## The results of a VEC entry and where they are written (R130, R131) -/

theorem vecElemOp_length (op : VecOp) (p : VecParams) (i0 i1 i2 g : Elem) : (vecElemOp op p i0 i1 i2 g).length = (vecShape op).2.2 := by
  cases op <;> rfl

/-- Input d of element t of a VEC entry. -/
def vecInput (views : List View) (l : Grans) (t d : Nat) : Elem :=
  match views[d]? with | some v => v.elem l (v.seq t).1 (v.seq t).2 | none => default

/-- The results of element t of a VEC entry, from the values before it. -/
def vecValues (op : VecOp) (prms : VecParams) (views : List View) (l : Grans) (t : Nat) : List VecVal :=
  vecElemOp op prms (vecInput views l t 0) (vecInput views l t 1) (vecInput views l t 2) (vecInput views l t 3)

/-- A result as a VEC entry writes it: a poisoned parameter block makes it NaN (R67). -/
def vecWritten (op : VecOp) (bad : Bool) (r : VecVal) : VecVal := if bad && vecUsesPrm op then ⟨0x7FC00000, true⟩ else r

theorem vecResults_eq (op : VecOp) (prms : VecParams) (bad : Bool) (views : List View) (l : Grans) (n : Nat) :
    vecResults op prms bad views l n = (List.range n).flatMap fun t =>
      ((vecValues op prms views l t).zip (List.range (vecValues op prms views l t).length)).map fun e => (4 + e.2, t, vecWritten op bad e.1) := rfl

/-- Each result of a VEC entry is one of its operation, for one of its elements. -/
theorem exists_of_mem_vecResults {op : VecOp} {prms : VecParams} {bad : Bool} {views : List View} {l : Grans} {n : Nat} {e : Nat × Nat × VecVal}
    (h : e ∈ vecResults op prms bad views l n) :
    ∃ t j, t < n ∧ j < (vecShape op).2.2 ∧ e = (4 + j, t, vecWritten op bad ((vecValues op prms views l t).getD j default)) := by
  rw [vecResults_eq, List.mem_flatMap] at h
  obtain ⟨t, ht, he⟩ := h
  obtain ⟨x, hx, rfl⟩ := List.mem_map.mp he
  obtain ⟨j, hj, rfl⟩ := List.mem_iff_getElem.mp hx
  have hlen : j < (vecValues op prms views l t).length := List.lt_length_left_of_zip hj
  refine ⟨t, j, List.mem_range.mp ht, ?_, ?_⟩
  · rwa [vecValues, vecElemOp_length] at hlen
  · rw [List.getElem_zip, List.getElem_range, List.getD_eq_getElem?_getD, List.getElem?_eq_getElem hlen, Option.getD_some]

/-- A view as a result of a VEC entry has it: dense FP32 (R132). -/
abbrev View.PlainF32 (v : View) : Prop := v.f = .fp32 ∧ v.l = .dense

/-- Element t of a plain view, taken in order, stands t places from its first. -/
theorem bitOf_seq {v : View} (hv : v.PlainF32) (hlen : v.d.vlen ≠ 0) (t : Nat) : v.bitOf (v.seq t).1 (v.seq t).2 = 8 * (256 * v.d.base + 4 * t) := by
  obtain ⟨hf, hl⟩ := hv
  have hmax : max 1 v.d.vlen = v.d.vlen := by omega
  have hsplit : t / (32 * v.d.vlen) * (v.d.vlen * 32) + t % (32 * v.d.vlen) = t := by
    rw [Nat.mul_comm v.d.vlen 32]; exact Nat.div_add_mod' t (32 * v.d.vlen)
  rw [View.bitOf, View.seq, hf, hl, hmax]
  simp only [elemBit, hsplit, fmtWidth]
  omega

/-- The results of a VEC entry stand in plain views. -/
theorem vecLoad_views {s u : State} {p pos : Nat} {ws : List W64} {op : VecOp} {x : VecIn} {errs : List MemErr}
    (h : s.vecLoad p pos ws op errs = (x, u)) {j : Nat} {v : View} (hv : x.views[4 + j]? = some v) : v.PlainF32 := by
  have hx : (s.vecLoad p pos ws op errs).1 = x := congrArg Prod.fst h
  rw [← hx] at hv
  unfold State.vecLoad at hv
  dsimp only at hv
  rw [List.getElem?_append_right (by simp)] at hv
  simp only [List.length_map, List.length_range, Nat.add_sub_cancel_left, List.getElem?_map, Option.map_eq_some_iff] at hv
  obtain ⟨i, -, rfl⟩ := hv
  exact ⟨rfl, rfl⟩

section Writes

variable {op : VecOp} {x : VecIn} {n : Nat} {b : Nat → Nat}
  (hview : ∀ j, j < (vecShape op).2.2 → 256 * b j + 4 * n ≤ 2 ^ 20 ∧ ∃ v, x.views[4 + j]? = some v ∧ v.d.base = b j ∧ v.d.vlen ≠ 0)
  (hplain : ∀ j v, x.views[4 + j]? = some v → v.PlainF32)
include hview hplain

/-- The writes of a VEC entry: each result at its element's place from its descriptor's base. -/
theorem mem_vecWrites {y : Wr} :
    y ∈ vecWrites x.views (vecResults op x.prms x.bad x.views x.l n) ↔
      ∃ e ∈ vecResults op x.prms x.bad x.views x.l n, y = ⟨8 * (256 * b (e.1 - 4) + 4 * e.2.1), 32, e.2.2.code, e.2.2.poison⟩ := by
  rw [vecWrites, List.mem_filterMap]
  refine exists_congr fun e => and_congr_right fun he => ?_
  obtain ⟨t, j, -, hj, rfl⟩ := exists_of_mem_vecResults he
  obtain ⟨-, v, hv, hbase, hlen⟩ := hview j hj
  dsimp only
  rw [hv, Option.map_some, bitOf_seq (hplain j v hv) hlen, hbase, Nat.add_sub_cancel_left, Option.some_inj, eq_comm]

/-- The codes that a VEC entry's results leave in its core store. -/
theorem storeWrs_vecWrites (s : State) {p pos : Nat} (hpos : pos < 4096) (errs : List MemErr)
    (hapart : ∀ j k, j < k → k < (vecShape op).2.2 → 256 * b j + 4 * n ≤ 256 * b k ∨ 256 * b k + 4 * n ≤ 256 * b j)
    {e : Nat × Nat × VecVal} (he : e ∈ vecResults op x.prms x.bad x.views x.l n) :
    codeAt (s.storeWrs p pos (vecWrites x.views (vecResults op x.prms x.bad x.views x.l n)) errs) pos (256 * b (e.1 - 4) + 4 * e.2.1) =
      e.2.2.code % 2 ^ 32 := by
  have hmem := (mem_vecWrites hview hplain).mpr ⟨e, he, rfl⟩
  obtain ⟨t, j, ht, hj, rfl⟩ := exists_of_mem_vecResults he
  have hroom := (hview j hj).1
  refine storeWrs_code s hpos (by simp; omega) errs hmem fun y hy => ?_
  obtain ⟨e', he', rfl⟩ := (mem_vecWrites hview hplain).mp hy
  obtain ⟨t', j', ht', hj', rfl⟩ := exists_of_mem_vecResults he'
  dsimp only
  simp only [Nat.add_sub_cancel_left]
  obtain hlt | rfl | hlt := Nat.lt_trichotomy j j'
  · have := hapart j j' hlt hj'
    omega
  · by_cases htt : t' = t
    · subst htt; exact .inl ⟨rfl, rfl⟩
    · omega
  · have := hapart j' j hlt hj
    omega

end Writes

end Sys2Proof.Machine

namespace Sys2Proof.Machine

/-! ## VEC_ISSUE (R128 to R133, R135, R388, R409) -/

/-- The results of a VEC entry stored, and its NaN results counted (R131, R135). -/
def State.vecStore (s : State) (p pos : Nat) (x : VecIn) (res : List (Nat × Nat × VecVal)) (errs : List MemErr) : State :=
  (s.storeWrs p pos (vecWrites x.views res) errs).updPos pos fun q => { q with vecNan := incBy q.vecNan (res.countP fun e => vecIsNan e.2.2) }

/-- A poisoned update of a step counted, and the step marked (R409). -/
def Stn.poison (step : Nat) (t : Stn) : Stn :=
  { t with poisoned := inc t.poisoned, poisonSteps := if t.poisonSteps.contains step then t.poisonSteps else step :: t.poisonSteps }

/-- A poisoned update of a step counted and logged (R409). -/
def State.notePoison (s : State) (p pos : Nat) : State :=
  (s.updStn p (Stn.poison (s.part p).step)).logPos p pos 0x75 (stnState ((s.updStn p (Stn.poison (s.part p).step)).part p))

/-- As `vecStore`, with a poisoned update noted (R409). -/
def State.vecNoted (s : State) (p pos : Nat) (op : VecOp) (x : VecIn) (res : List (Nat × Nat × VecVal)) (errs : List MemErr) : State :=
  if vecIsUpd op && res.any (fun e => e.2.2.poison) then (s.vecStore p pos x res errs).notePoison p pos else s.vecStore p pos x res errs

/-- What a VEC entry leaves: its results stored, a poisoned update noted, and its release (R131, R215, R409). -/
def State.vecDone (s : State) (p pos : Nat) (ws : List W64) (op : VecOp) (x : VecIn) (res : List (Nat × Nat × VecVal)) (errs : List MemErr) : State :=
  (s.vecNoted p pos op x res errs).complete p pos ((s.vecNoted p pos op x res errs).part p).step ws

theorem heldNext_eq {s : State} {p pos i : Nat} {ws : List W64} {errs : List MemErr} (h : MayIssue s p pos i ws kVec errs) :
    s.heldNext p pos errs = vecHeld (s.part p) ws := by
  obtain ⟨hop, hmay, hnext, hkind, hdue, hwaits⟩ := h
  simp [State.heldNext, hop, hmay, hnext, hkind, hdue, hwaits]

theorem opVec_eq {s u : State} {p pos i : Nat} {ws : List W64} {op : VecOp} {x : VecIn} {errs : List MemErr}
    (h : MayIssue s p pos i ws kVec errs) (hroom : s.unitRoom p pos ws = true) (hheld : vecHeld (s.part p) ws = false) (hop : vecOp ws = some op)
    (hload : (s.issued p pos i).vecLoad p pos ws op errs = (x, u)) :
    s.opVec p pos errs = u.vecDone p pos ws op x (vecResults op x.prms x.bad x.views x.l (vecCount ws)) errs := by
  rw [State.opVec, heldNext_eq h, hheld, issue_of_mayIssue h _ (by simp [hroom, hheld])]
  rw [if_neg Bool.false_ne_true, hop]
  dsimp only
  unfold State.runVec
  rw [hload]
  rfl

theorem vecStore_keeps (s : State) (p pos : Nat) (x : VecIn) (res : List (Nat × Nat × VecVal)) (errs : List MemErr) :
    Keeps [.positions, .memory, .columns, .stewards, .firmware] s (s.vecStore p pos x res errs) :=
  ((storeWrs_keeps _ _ _ _ _).mono (by decide)).trans ((updPos_keeps _ _ _).mono (by decide))

theorem vecStore_byteAt (s : State) (p pos : Nat) (x : VecIn) (res : List (Nat × Nat × VecVal)) (errs : List MemErr) (k : Nat) :
    byteAt (s.vecStore p pos x res errs) k = byteAt (s.storeWrs p pos (vecWrites x.views res) errs) k :=
  byteAt_of_mem ((updPos_keeps _ _ _) .memory (by decide)) k

theorem vecStore_posn_same (s : State) (p pos : Nat) (x : VecIn) (res : List (Nat × Nat × VecVal)) (errs : List MemErr) :
    (s.vecStore p pos x res errs).posn pos =
      { s.posn pos with vecNan := incBy (s.posn pos).vecNan (res.countP fun e => vecIsNan e.2.2) } := by
  rw [State.vecStore, updPos_posn_same, posn_of_keeps (storeWrs_keeps _ _ _ _ _) (by decide)]

theorem vecStore_posn_ne (s : State) (p : Nat) {pos q : Nat} (x : VecIn) (res : List (Nat × Nat × VecVal)) (errs : List MemErr) (hq : q ≠ pos) :
    (s.vecStore p pos x res errs).posn q = s.posn q := by
  rw [State.vecStore, updPos_posn_ne _ _ _ hq, posn_of_keeps (storeWrs_keeps _ _ _ _ _) (by decide)]

theorem stnState_of_stn {q r : Part} (h : q.stn = r.stn) : stnState q = stnState r := by
  simp only [stnState, oldestStep, verdictOf, attemptOf, h]

theorem stnState_poison (q : Part) (step : Nat) : stnState { q with stn := q.stn.poison step } = stnState q := rfl

theorem notePoison_keeps (s : State) (p pos : Nat) : Keeps [.partitions, .stewards, .firmware] s (s.notePoison p pos) :=
  Keeps.trans (.of_patch rfl) ((logP_keeps _ _ _ _ _ _).mono (by decide))

theorem notePoison_part_same (s : State) (p pos : Nat) :
    (s.notePoison p pos).part p = { s.part p with stn := (s.part p).stn.poison (s.part p).step } := by
  rw [State.notePoison, State.logPos, part_of_keeps (logP_keeps _ _ _ _ _ _) (by decide), updStn_part_same]

theorem notePoison_part_ne (s : State) {p q : Nat} (pos : Nat) (hq : q ≠ p) : (s.notePoison p pos).part q = s.part q := by
  rw [State.notePoison, State.logPos, part_of_keeps (logP_keeps _ _ _ _ _ _) (by decide), updStn_part_ne _ _ _ hq]

theorem notePoison_logged (s : State) (p pos : Nat) : Logged (s.notePoison p pos) (pos / 256) 0x75 [stnState (s.part p)] := by
  have hstate : stnState ((s.updStn p (Stn.poison (s.part p).step)).part p) = stnState (s.part p) := by rw [updStn_part_same, stnState_poison]
  rw [← hstate]
  exact logP_logged _ _ _ _ _ _

theorem mem_poisonSteps (step : Nat) (t : Stn) : step ∈ (t.poison step).poisonSteps := by
  rw [Stn.poison]
  dsimp only
  split
  · next hin => exact List.contains_iff_mem.mp hin
  · exact List.mem_cons_self

section Noted

variable {s : State} {p pos : Nat} {op : VecOp} {x : VecIn} {res : List (Nat × Nat × VecVal)} {errs : List MemErr}

/-- No update that a VEC entry writes is poisoned. -/
theorem vecNoted_of_clean (h : vecIsUpd op = false ∨ ∀ e ∈ res, e.2.2.poison = false) :
    s.vecNoted p pos op x res errs = s.vecStore p pos x res errs := by
  refine if_neg fun hbad => ?_
  rw [Bool.and_eq_true, List.any_eq_true] at hbad
  obtain ⟨hupd, e, he, hpoison⟩ := hbad
  obtain hno | hall := h
  · exact Bool.false_ne_true (hno.symm.trans hupd)
  · exact Bool.false_ne_true ((hall e he).symm.trans hpoison)

theorem vecNoted_of_poison (hupd : vecIsUpd op = true) (hbad : ∃ e ∈ res, e.2.2.poison = true) :
    s.vecNoted p pos op x res errs = (s.vecStore p pos x res errs).notePoison p pos := by
  refine if_pos ?_
  rw [Bool.and_eq_true, List.any_eq_true]
  exact ⟨hupd, hbad⟩

theorem vecNoted_keeps : Keeps [.partitions, .stewards, .firmware] (s.vecStore p pos x res errs) (s.vecNoted p pos op x res errs) := by
  unfold State.vecNoted
  split
  · exact notePoison_keeps _ _ _
  · exact .refl _ _

theorem vecNoted_part_ne {q : Nat} (hq : q ≠ p) : (s.vecNoted p pos op x res errs).part q = s.part q := by
  rw [← part_of_keeps (vecStore_keeps s p pos x res errs) (by decide)]
  unfold State.vecNoted
  split
  · exact notePoison_part_ne _ _ hq
  · rfl

theorem vecDone_keeps (ws : List W64) :
    Keeps [.positions, .memory, .partitions, .columns, .stewards, .firmware] s (s.vecDone p pos ws op x res errs) :=
  ((vecStore_keeps _ _ _ _ _ _).mono (by decide)).trans ((vecNoted_keeps.mono (by decide)).trans ((complete_keeps _ _ _ _ _).mono (by decide)))

theorem vecDone_byteAt (ws : List W64) (k : Nat) :
    byteAt (s.vecDone p pos ws op x res errs) k = byteAt (s.storeWrs p pos (vecWrites x.views res) errs) k :=
  (byteAt_of_mem (complete_keeps _ _ _ _ _ .memory (by decide)) k).trans
    ((byteAt_of_mem (vecNoted_keeps .memory (by decide)) k).trans (vecStore_byteAt s p pos x res errs k))

theorem vecDone_posn (ws : List W64) (q : Nat) : (s.vecDone p pos ws op x res errs).posn q = (s.vecStore p pos x res errs).posn q :=
  (posn_of_keeps (complete_keeps _ _ _ _ _) (by decide) q).trans (posn_of_keeps vecNoted_keeps (by decide) q)

end Noted

end Sys2Proof.Machine

namespace Sys2Proof.Machine

theorem vecLoad_keeps_of_eq {s u : State} {p pos : Nat} {ws : List W64} {op : VecOp} {x : VecIn} {errs : List MemErr}
    (h : s.vecLoad p pos ws op errs = (x, u)) : Keeps readPieces s u := by
  have hu : (s.vecLoad p pos ws op errs).2 = u := congrArg Prod.snd h
  rw [← hu]
  exact vecLoad_keeps _ _ _ _ _ _

/-- An entry's writes stay within its core store, whatever else of the state has changed (R242). -/
theorem otherBytesSame_storeWrs {s u t : State} {p pos : Nat} {xs : List Wr} {errs : List MemErr} (hpos : pos < 4096) (hdev : u.dev = s.dev)
    (hmem : u.mem = s.mem) (ht : ∀ k, byteAt t k = byteAt (u.storeWrs p pos xs errs) k) : OtherBytesSame s t pos := by
  intro a ha
  rw [phys_coreRegion s hpos (by decide), Nat.add_zero, ← coreBase_of_dev hdev] at ha
  rw [ht, storeWrs_other u hpos xs errs a ha, byteAt_of_mem hmem]

/-- Core stores that hold the same bytes at the same slots hold the same codes. -/
theorem codeAt_congr {s t : State} (hdev : t.dev = s.dev) (h : ∀ k, byteAt t k = byteAt s k) (pos a : Nat) : codeAt t pos a = codeAt s pos a := by
  simp only [codeAt, peek_eq, h, phys_of_dev hdev]

/-- A VEC entry that runs (R128 to R133, R135, R409). -/
theorem runs_vecIssue {s u : State} {p pos i : Nat} {ws : List W64} {op : VecOp} {x : VecIn} {b : Nat → Nat} {errs : List MemErr}
    (h : MayIssue s p pos i ws kVec errs) (hroom : s.unitRoom p pos ws = true) (hpos : pos < 4096) (hheld : vecHeld (s.part p) ws = false)
    (hop : vecOp ws = some op) (hload : (s.issued p pos i).vecLoad p pos ws op errs = (x, u))
    (hview : ∀ j, j < (vecShape op).2.2 → 256 * b j + 4 * vecCount ws ≤ 2 ^ 20 ∧ ∃ v, x.views[4 + j]? = some v ∧ v.d.base = b j ∧ v.d.vlen ≠ 0)
    (hapart : ∀ j k, j < k → k < (vecShape op).2.2 → 256 * b j + 4 * vecCount ws ≤ 256 * b k ∨ 256 * b k + 4 * vecCount ws ≤ 256 * b j) :
    Runs (.vecIssue p pos errs) s fun t =>
      (∀ e ∈ vecResults op x.prms x.bad x.views x.l (vecCount ws), codeAt t pos (256 * b (e.1 - 4) + 4 * e.2.1) = e.2.2.code % 2 ^ 32) ∧
        t.posn pos = { s.posn pos with vecNan := (incBy (s.posn pos).vecNan
          ((vecResults op x.prms x.bad x.views x.l (vecCount ws)).countP fun e => vecIsNan e.2.2)) } ∧
        (∀ q, q ≠ pos → t.posn q = s.posn q) ∧ OtherBytesSame s t pos ∧ (∀ q, q ≠ p → t.part q = s.part q) ∧
        (vecIsUpd op = false ∨ (∀ e ∈ vecResults op x.prms x.bad x.views x.l (vecCount ws), e.2.2.poison = false) →
          t.part p = completeEntry (markIssue (s.part p) pos i) pos (s.part p).step ws) ∧
        (vecIsUpd op = true → (∃ e ∈ vecResults op x.prms x.bad x.views x.l (vecCount ws), e.2.2.poison = true) →
          (t.part p).stn.poisoned = inc (s.part p).stn.poisoned ∧ (s.part p).step ∈ (t.part p).stn.poisonSteps ∧
            Logged t (pos / 256) 0x75 [stnState (s.part p)]) ∧
        Keeps [.positions, .memory, .partitions, .columns, .stewards, .firmware] s t := by
  refine ⟨_, congrArg Host.Outcome.next (opVec_eq h hroom hheld hop hload), ?_⟩
  have hplain : ∀ j v, x.views[4 + j]? = some v → v.PlainF32 := fun j v => vecLoad_views hload
  have hcodes := fun e => storeWrs_vecWrites hview hplain u (p := p) hpos errs hapart (e := e)
  clear hview hplain hapart
  generalize vecResults op x.prms x.bad x.views x.l (vecCount ws) = res at hcodes ⊢
  have hread : Keeps [.partitions, .columns, .stewards, .firmware] s u :=
    ((issued_keeps s p pos i).mono (by decide)).trans ((vecLoad_keeps_of_eq hload).mono (by decide))
  have hpart : ∀ q, u.part q = (s.issued p pos i).part q := part_of_keeps (vecLoad_keeps_of_eq hload) (by decide)
  have hstored : ∀ q, (u.vecStore p pos x res errs).part q = (s.issued p pos i).part q := fun q =>
    (part_of_keeps (vecStore_keeps u p pos x res errs) (by decide) q).trans (hpart q)
  have hdone := vecDone_keeps (s := u) (p := p) (pos := pos) (op := op) (x := x) (res := res) (errs := errs) ws
  have hdev : (u.vecDone p pos ws op x res errs).dev = (u.storeWrs p pos (vecWrites x.views res) errs).dev :=
    (hdone .faults (by decide)).trans (storeWrs_keeps _ _ _ _ _ .faults (by decide)).symm
  refine ⟨fun e he => ?_, ?_, fun q hq => ?_, ?_, fun q hq => ?_, fun hclean => ?_, fun hupd hbad => ?_, (hread.mono (by decide)).trans hdone⟩
  · rw [codeAt_congr hdev (vecDone_byteAt ws), hcodes e he]
  · rw [vecDone_posn, vecStore_posn_same, posn_of_keeps hread (by decide)]
  · rw [vecDone_posn, vecStore_posn_ne _ _ _ _ _ hq, posn_of_keeps hread (by decide)]
  · exact otherBytesSame_storeWrs hpos (hread .faults (by decide)) (hread .memory (by decide)) (vecDone_byteAt ws)
  · rw [State.vecDone, complete_part_ne _ _ _ _ hq, vecNoted_part_ne hq, hpart, issued_part_ne _ _ _ hq]
  · rw [State.vecDone, vecNoted_of_clean hclean, hstored, issued_part_same, markIssue_step]
    exact (complete_issued hstored ws).1
  · have hstn : ((u.vecDone p pos ws op x res errs).part p).stn = (s.part p).stn.poison (s.part p).step := by
      rw [State.vecDone, complete_part_same, completeEntry_stn, vecNoted_of_poison hupd hbad, notePoison_part_same, hstored, issued_part_same,
        markIssue_step, markIssue_stn]
    have hlog := notePoison_logged (u.vecStore p pos x res errs) p pos
    rw [hstored, issued_part_same, stnState_of_stn (markIssue_stn _ _ _), ← vecNoted_of_poison hupd hbad] at hlog
    refine ⟨by rw [hstn]; rfl, by rw [hstn]; exact mem_poisonSteps _ _, logged_of_stew hlog (complete_keeps _ _ _ _ _ .stewards (by decide))⟩

/-- An UPD entry that the step before holds back is counted once, and does not run (R388). -/
theorem runs_vecIssue_held {s : State} {p pos i : Nat} {ws : List W64} {errs : List MemErr} (h : MayIssue s p pos i ws kVec errs)
    (hheld : vecHeld (s.part p) ws = true) (honce : (streamOf (s.part p) pos).heldUpd = false) :
    Runs (.vecIssue p pos errs) s fun t =>
      (t.part p).stn = { (s.part p).stn with heldUpd := inc (s.part p).stn.heldUpd } ∧ (streamOf (t.part p) pos).heldUpd = true ∧
        (streamOf (t.part p) pos).next = (streamOf (s.part p) pos).next ∧ (∀ q, q ≠ p → t.part q = s.part q) ∧ Keeps [.partitions] s t := by
  refine ⟨s.noteHeld p pos, congrArg Host.Outcome.next ?_, ?_⟩
  · rw [State.opVec, heldNext_eq h, hheld, if_pos rfl]
  · rw [State.noteHeld, honce, if_neg Bool.false_ne_true]
    refine ⟨?_, ?_, ?_, fun q hq => updPart_part_ne _ _ _ hq, updPart_keeps _ _ _⟩ <;> rw [updPart_part_same]
    · simp [streamOf, updStream]
    · simp [streamOf, updStream]

/-- An UPD entry held and counted already, or a VEC entry that its unit does not take, changes nothing (R279, R388). -/
theorem idles_vecIssue {s : State} {p pos i : Nat} {ws : List W64} {errs : List MemErr} (h : MayIssue s p pos i ws kVec errs)
    (hwhy : (vecHeld (s.part p) ws = true ∧ (streamOf (s.part p) pos).heldUpd = true) ∨
      (vecHeld (s.part p) ws = false ∧ s.unitRoom p pos ws = false)) : Idles (.vecIssue p pos errs) s := by
  refine congrArg Host.Outcome.next (?_ : s.opVec p pos errs = s)
  rw [State.opVec, heldNext_eq h]
  obtain ⟨hheld, honce⟩ | ⟨hheld, hroom⟩ := hwhy
  · rw [hheld, if_pos rfl, State.noteHeld, honce, if_pos rfl]
  · rw [hheld, if_neg Bool.false_ne_true]
    exact issue_of_not_taken h _ (by simp [hroom])

/-- Settles O36: the writes of a VEC entry lie apart, so each result stands at its place, and a MERGE entry writes one whole granule. -/
theorem vectorAndMergeEntriesWrite : Obligations.VectorAndMergeEntriesWrite :=
  ⟨fun _ _ _ _ _ _ _ _ _ _ h hroom hpos hheld hop hload hview hapart => runs_vecIssue h hroom hpos hheld hop hload hview hapart,
    fun _ _ _ _ _ _ h hheld honce => runs_vecIssue_held h hheld honce,
    fun _ _ _ _ _ _ h hwhy => idles_vecIssue h hwhy,
    fun _ _ _ _ _ _ _ _ _ _ h hroom hpos hgs hload hm => runs_mergeIssue h hroom hpos hgs hload hm,
    fun _ _ _ _ _ _ h hroom => idles_mergeIssue h hroom⟩

end Sys2Proof.Machine

namespace Sys2Proof.Machine

/-! ## Codes written and counted (R170) -/

theorem inc_eq_incBy (c : W64) : inc c = incBy c 1 := BitVec.eq_of_toNat_eq ((inc_toNat c).trans (incBy_toNat c 1).symm)

theorem incBy_zero (c : W64) : incBy c 0 = c := by
  have hlt := c.isLt
  exact BitVec.eq_of_toNat_eq (by rw [incBy_toNat]; omega)

theorem incBy_incBy (c : W64) (m n : Nat) : incBy (incBy c m) n = incBy c (m + n) :=
  BitVec.eq_of_toNat_eq (by simp only [incBy_toNat]; omega)

/-- Between s and t position pos counts n codes and keeps its accumulators and blocks; of the rest of the state no more than the pieces of l
changes, and no other position. -/
structure Counted (l : List Sys2Proof.Piece) (pos n : Nat) (s t : State) : Prop where
  keeps : Keeps l s t
  other : ∀ q, q ≠ pos → t.posn q = s.posn q
  converted : (t.posn pos).converted = incBy (s.posn pos).converted n
  set0 : (t.posn pos).set0 = (s.posn pos).set0
  set1 : (t.posn pos).set1 = (s.posn pos).set1
  blocks : (t.posn pos).blocks = (s.posn pos).blocks

namespace Counted

variable {l l' : List Sys2Proof.Piece} {pos m n : Nat} {s t u : State}

theorem mono (h : Counted l pos n s t) (hl : ∀ p ∈ l, p ∈ l') : Counted l' pos n s t := { h with keeps := h.keeps.mono hl }

theorem trans (h : Counted l pos m s t) (h' : Counted l pos n t u) : Counted l pos (m + n) s u where
  keeps := h.keeps.trans h'.keeps
  other q hq := (h'.other q hq).trans (h.other q hq)
  converted := by rw [h'.converted, h.converted, incBy_incBy]
  set0 := h'.set0.trans h.set0
  set1 := h'.set1.trans h.set1
  blocks := h'.blocks.trans h.blocks

theorem of_keeps (h : Keeps l s t) (hl : .positions ∉ l) : Counted l pos 0 s t := by
  have hposn := posn_of_keeps h hl
  exact ⟨h, fun q _ => hposn q, by rw [hposn, incBy_zero], by rw [hposn], by rw [hposn], by rw [hposn]⟩

theorem refl (l : List Sys2Proof.Piece) (pos : Nat) (s : State) : Counted l pos 0 s s := by
  exact ⟨.refl l s, fun _ _ => rfl, (incBy_zero _).symm, rfl, rfl, rfl⟩

theorem of_updPos {f : Pos → Pos} (hc : (f (s.posn pos)).converted = incBy (s.posn pos).converted n) (h0 : (f (s.posn pos)).set0 = (s.posn pos).set0)
    (h1 : (f (s.posn pos)).set1 = (s.posn pos).set1) (hb : (f (s.posn pos)).blocks = (s.posn pos).blocks) :
    Counted [.positions] pos n s (s.updPos pos f) := by
  refine ⟨updPos_keeps _ _ _, fun q hq => updPos_posn_ne _ _ _ hq, ?_, ?_, ?_, ?_⟩ <;> rwa [updPos_posn_same]

end Counted

/-! ## One element in plain FP32 (R138, R139, R148) -/

/-- An entry converts with a plain FP32 control into a dense tensor, and its parameter block is not poisoned. -/
abbrev OutCtx.Plain (c : OutCtx) : Prop := plainCtl c.ctl ∧ c.ctl.format = .fp32 ∧ c.ctl.layout = .dense ∧ c.prmBad = false

/-- The write of a plain element at its place in its output tensor (R51, R148). -/
def OutCtx.plainWr (c : OutCtx) (vec e : Nat) (val : Elem) : Wr :=
  ⟨8 * denseAddr c.base c.vlen vec e, 32, plainOut c.ctl c.prm val, false⟩

@[simp] theorem see_s (r : OutRun) (y : Elem) : (r.see y).s = r.s := by unfold OutRun.see; (repeat' split) <;> rfl
@[simp] theorem see_wr (r : OutRun) (y : Elem) : (r.see y).wr = r.wr := by unfold OutRun.see; (repeat' split) <;> rfl
@[simp] theorem see_closed (r : OutRun) (y : Elem) : (r.see y).closed = r.closed := by unfold OutRun.see; (repeat' split) <;> rfl

/-- An unscaled element joins no block while none is open (R156). -/
theorem blockFor_eq_none {q : Pos} {c : OutCtx} (hb : q.blocks = []) (hf : c.ctl.format = .fp32) (vec e : Nat) : blockFor q c vec e = none := by
  simp [blockFor, findBlock, hb, hf, fmtScaled]

/-- Between two runs of an entry one code is written and counted. -/
structure WroteOne (pos : Nat) (x : Wr) (r r' : OutRun) : Prop where
  counted : Counted [.positions] pos 1 r.s r'.s
  wr : r'.wr = x :: r.wr
  closed : r'.closed = r.closed

/-- An element written straight into an unscaled tensor. -/
theorem write_plain (r : OutRun) {c : OutCtx} (hb : (r.s.posn c.pos).blocks = []) (hf : c.ctl.format = .fp32) (hl : c.ctl.layout = .dense)
    (vec e : Nat) (h : Held) :
    WroteOne c.pos ⟨8 * denseAddr c.base c.vlen vec e, 32, (narrow .fp32 h.round h.ovf false 0 h.r h.y).code, h.y.poison⟩ r (r.write c vec e h) := by
  have hbit : 2048 * c.base + elemBit .dense .fp32 c.vlen vec e = 8 * denseAddr c.base c.vlen vec e := by
    simp only [elemBit, fmtWidth, denseAddr]; omega
  have hcount : ∀ (s : State) (n : Narrowed), Counted [.positions] c.pos 1 s (s.updPos c.pos fun q => countCode q n h.vanished) := fun s n =>
    .of_updPos (inc_eq_incBy _) rfl rfl rfl
  unfold OutRun.write
  rw [blockFor_eq_none hb hf, hf, hl, ← hbit]
  dsimp only
  split
  · have hraise : Counted [.positions] c.pos 0 r.s (r.s.updPos c.pos fun q => { q with rangeOvf := inc q.rangeOvf }) :=
      .of_updPos (incBy_zero _).symm rfl rfl rfl
    exact ⟨hraise.trans (hcount _ _), rfl, rfl⟩
  · exact ⟨hcount _ _, rfl, rfl⟩

theorem decodeScaled_fp32_poison (code scode : Nat) (bad : Bool) : (decodeScaled .fp32 code scode bad).poison = bad := by
  have hplain : (decodeElement .fp32 code).poison = false := by
    unfold decodeElement
    simp only [reduceCtorEq, if_false]
    (repeat' split) <;> rfl
  unfold decodeScaled
  dsimp only
  split
  · next h => exact h.symm
  · next h =>
    rw [Bool.eq_false_iff.mpr h]
    simp only [decodeScale, fmtScaled, Bool.false_eq_true, if_false]
    split <;> exact hplain

theorem product_poison (a b : Elem) : (product a b).poison = (a.poison || b.poison) := by
  unfold product; dsimp only; (repeat' split) <;> rfl

/-- One element through the pipeline with a plain control: its narrowed value written and counted. -/
theorem elem_plain (r : OutRun) {c : OutCtx} (hc : c.Plain) (hb : (r.s.posn c.pos).blocks = []) (seq vec e row col idx : Nat) {val : Elem}
    (hval : val.poison = false) : WroteOne c.pos (c.plainWr vec e val) r (r.elem c seq vec e row col idx val) := by
  obtain ⟨⟨-, -, hact, htopk, -, -, hround⟩, hf, hl, hbad⟩ := hc
  have hclean : (product val (decodeScaled .fp32 c.prm.scale 127 false)).poison = false := by
    rw [product_poison, decodeScaled_fp32_poison, hval]; rfl
  have hpad : padding (r.s.posn c.pos) c vec e col = false := by simp [padding, blockFor_eq_none hb hf]
  unfold OutRun.elem
  simp only [hbad, hclean, htopk, hround, hact, hpad, Nat.lt_irrefl, Bool.false_eq_true, if_false, if_true]
  have hw := write_plain (r.see (product val (decodeScaled .fp32 c.prm.scale 127 false))) (c := c) (by rwa [see_s]) hf hl vec e
    ⟨0, product val (decodeScaled .fp32 c.prm.scale 127 false), 0, seq % 64, false, true, c.ctl.round, c.ctl.ovf, c.entry, c.step, seq⟩
  obtain ⟨hcounted, hwr, hclosed⟩ := hw
  rw [see_s] at hcounted
  rw [see_wr] at hwr
  rw [see_closed] at hclosed
  refine ⟨hcounted, hwr.trans ?_, hclosed⟩
  rw [OutCtx.plainWr, plainOut, hclean]

end Sys2Proof.Machine

namespace Sys2Proof.Machine

/-! ## CONV_ISSUE (R132, R138, R148, R214) -/

/-- Element t of the vector of a CONV entry (R213, R214). -/
def convElem (ws : List W64) (v : View) (l : Grans) (t : Nat) : Elem :=
  v.elem l (v.place (ef ws 3 39 24) (ef ws 3 23 8) 0 t).1 (v.place (ef ws 3 39 24) (ef ws 3 23 8) 0 t).2

/-- The first n elements of a CONV entry through the pipeline (R214). -/
def convRun (cx : OutCtx) (ws : List W64) (v : View) (l : Grans) (s : State) (n : Nat) : OutRun :=
  (List.range n).foldl (fun r t => r.elem cx t (eOrow ws) (16 * eOcol ws + t) cx.prm.row0 (cx.prm.col0 + t) (cx.prm.row0 * cx.prm.ncols + cx.prm.col0 + t)
    (convElem ws v l t)) (OutRun.start s)

/-- The write of element t of a CONV entry. -/
def convWr (cx : OutCtx) (ws : List W64) (v : View) (l : Grans) (t : Nat) : Wr := cx.plainWr (eOrow ws) (16 * eOcol ws + t) (convElem ws v l t)

theorem convRun_plain {cx : OutCtx} (hc : cx.Plain) {ws : List W64} {v : View} {l : Grans} (hl : ∀ t, (convElem ws v l t).poison = false) {s : State}
    (hb : (s.posn cx.pos).blocks = []) (n : Nat) :
    Counted [.positions] cx.pos n s (convRun cx ws v l s n).s ∧
      (convRun cx ws v l s n).wr.reverse = (List.range n).map (convWr cx ws v l) ∧ (convRun cx ws v l s n).closed = [] := by
  induction n with
  | zero => exact ⟨.refl _ _ _, rfl, rfl⟩
  | succ n ih =>
    obtain ⟨hcounted, hwr, hclosed⟩ := ih
    have hstep : convRun cx ws v l s (n + 1) = (convRun cx ws v l s n).elem cx n (eOrow ws) (16 * eOcol ws + n) cx.prm.row0 (cx.prm.col0 + n)
        (cx.prm.row0 * cx.prm.ncols + cx.prm.col0 + n) (convElem ws v l n) := by
      rw [convRun, List.range_succ, List.foldl_append]; rfl
    have hone := elem_plain (convRun cx ws v l s n) hc (hcounted.blocks.trans hb) n (eOrow ws) (16 * eOcol ws + n) cx.prm.row0 (cx.prm.col0 + n)
      (cx.prm.row0 * cx.prm.ncols + cx.prm.col0 + n) (hl n)
    rw [← hstep] at hone
    refine ⟨hcounted.trans hone.counted, ?_, hone.closed.trans hclosed⟩
    rw [hone.wr, List.reverse_cons, hwr, List.range_succ, List.map_append]
    rfl

/-- Elements of granules that are not poisoned are not poisoned (R67). -/
theorem elem_poison_of_clean {v : View} (hv : v.f = .fp32) {l : Grans} (hl : ∀ e ∈ l, e.2.poison = false) (vec e : Nat) : (v.elem l vec e).poison = false := by
  have hgran : ∀ a, (granOf l a).poison = false := by
    intro a
    unfold granOf
    cases hfind : l.find? fun e => e.1 = a / 256 with
    | none => rfl
    | some x => exact hl x (List.mem_of_find?_eq_some hfind)
  rw [View.elem]
  simp only [View.codes, hv, fmtScaled, Bool.false_eq_true, if_false, decodeScaled_fp32_poison]
  simp [bitsAt, hgran]

/-- What an entry's end leaves where its run has closed no block and none is open: its release, and no report (R162, R215). -/
theorem entryEnd_plain {s : State} {cx : OutCtx} {run : OutRun} (hslot : cx.ctl.slotEn = false) (hb : (s.posn cx.pos).blocks = [])
    (hclosed : run.closed = []) (amax top low : Nat) (ws : List W64) :
    s.entryEnd cx run amax top low ws = s.complete cx.p cx.pos cx.step ws := by
  have hholds : holdsOf (s.posn cx.pos) cx.entry cx.step = false := by simp [holdsOf, hb]
  simp [State.entryEnd, State.tellSlot, hslot, hholds, hclosed]

theorem rangeOvf_counted (s : State) (p pos : Nat) (w : W64) : Counted [.positions, .stewards, .firmware] pos 0 s (s.rangeOvf p pos w) := by
  have hlast : Counted [.positions] pos 0 s (s.updPos pos fun q => { q with lastOvf := w }) := .of_updPos (incBy_zero _).symm rfl rfl rfl
  have hlog : Counted [.stewards, .firmware] pos 0 (s.updPos pos fun q => { q with lastOvf := w }) (s.rangeOvf p pos w) :=
    .of_keeps (logP_keeps _ _ _ _ _ _) (by decide)
  exact (hlast.mono (by decide)).trans (hlog.mono (by decide))

/-- The writes of an entry stored, and its own RANGE_OVF raised (R152, R171). -/
theorem done_counted (r : OutRun) (c : OutCtx) (errs : List MemErr) :
    Counted [.positions, .memory, .columns, .stewards, .firmware] c.pos 0 r.s (r.done c errs) ∧
      ∀ k, byteAt (r.done c errs) k = byteAt (r.s.storeWrs c.p c.pos r.wr.reverse errs) k := by
  have hstore : Counted [.positions, .memory, .columns, .stewards, .firmware] c.pos 0 r.s (r.s.storeWrs c.p c.pos r.wr.reverse errs) :=
    (Counted.of_keeps (storeWrs_keeps _ _ _ _ _) (by decide)).mono (by decide)
  unfold OutRun.done
  dsimp only
  split
  · next w _ =>
    have hovf := rangeOvf_counted (r.s.storeWrs c.p c.pos r.wr.reverse errs) c.p c.pos w
    exact ⟨hstore.trans (hovf.mono (by decide)), byteAt_of_mem (hovf.keeps .memory (by decide))⟩
  · exact ⟨hstore, fun _ => rfl⟩

/-- The check of a sampled CONV entry queued at its cluster (R376, R380). -/
def State.sampleConv (s : State) (sampled : Bool) (p step pos i : Nat) : State :=
  if sampled then s.updCluster (pos / 16) fun k => { k with queue := k.queue ++ [⟨p, step, pos, i, true, false, none⟩] } else s

theorem sampleConv_keeps (s : State) (sampled : Bool) (p step pos i : Nat) : Keeps [.clusters] s (s.sampleConv sampled p step pos i) := by
  unfold State.sampleConv
  split
  · exact .of_patch rfl
  · exact .refl _ s

theorem ctlNow_of_noLayer (s : State) (q : Part) {ws : List W64} {c : Ctl} (hctl : ctlOf (ws.getD 7 0) = some c) (hlidx : eLidx ws = lidxNone) :
    s.ctlNow q ws = c := by
  simp only [State.ctlNow, hctl, hlidx, layerOf, if_true, Option.getD_some]

theorem upsets_nil (r : OutRun) (q : Pos) (c : OutCtx) : r.upsets q c [] = r := rfl

theorem topClose_off (r : OutRun) {c : OutCtx} (h : c.ctl.topkClose = false) (rows : Nat) : r.topClose c rows = r := by
  simp [OutRun.topClose, h]

/-- What a CONV entry converts with (R138, R156, R214). -/
def convCtx (p pos i step : Nat) (ws : List W64) (c : Ctl) (prm : OutPrm) (lp : Grans) (x : Int) : OutCtx :=
  ⟨p, pos, i, step, c, prm, false, lp, eOut ws, eOutVlen ws, x, eLidx ws⟩

/-- What a CONV entry leaves, but for its check: its elements written and counted, and its end (R214, R215). -/
def State.convDone (s : State) (cx : OutCtx) (ws : List W64) (v : View) (l : Grans) (n : Nat) (errs : List MemErr) : State :=
  ((convRun cx ws v l s n).done cx errs).entryEnd cx (convRun cx ws v l s n) (convRun cx ws v l s n).amax noBit noBit ws

theorem opConv_eq {s u u2 : State} {p pos i hcount : Nat} {sampled : Bool} {ws : List W64} {c : Ctl} {prm : OutPrm} {l lp : Grans} {errs : List MemErr}
    (h : MayIssue s p pos i ws kConv errs) (hroom : s.unitRoom p pos ws = true) (hctl : ctlOf (ws.getD 7 0) = some c) (hclose : c.topkClose = false)
    (hlidx : eLidx ws = lidxNone) (hcd : countdown (fractionD (s.part p).stn.cfg) (s.posn pos).h = (sampled, hcount))
    (hload : ((s.issued p pos i).updPos pos fun q => { q with h := hcount }).loadGrans p pos
      ((viewF32 (ws.getD 2 0)).allGrans (ef ws 3 39 24) (ef ws 3 23 8) 1 (ef ws 3 63 40)) errs = (l, u))
    (hprm : u.loadPrm p pos ws c errs = (prm, false, lp, u2)) :
    ∃ x, s.opConv p pos errs [] =
      (u2.convDone (convCtx p pos i (s.part p).step ws c prm lp x) ws (viewF32 (ws.getD 2 0)) l (ef ws 3 63 40) errs).sampleConv sampled p
        (s.part p).step pos i := by
  refine ⟨((s.issued p pos i).updPos pos fun q => { q with h := hcount }).xNow c, ?_⟩
  rw [State.opConv, issue_of_mayIssue h _ hroom]
  dsimp only
  rw [issued_part_same, markIssue_stn, markIssue_step, posn_of_keeps (issued_keeps s p pos i) (by decide), hcd]
  dsimp only
  rw [ctlNow_of_noLayer _ _ hctl hlidx, hload]
  dsimp only
  rw [hprm]
  dsimp only
  simp only [List.filter_nil, List.map_nil, List.foldl_nil, upsets_nil, topClose_off, hclose, Nat.lt_irrefl, decide_false, Bool.and_false,
    Bool.false_eq_true, if_false, State.convDone, State.sampleConv, convRun, convElem, convCtx]

theorem updPos_congr (s : State) (n : Nat) {f g : Pos → Pos} (h : f (s.posn n) = g (s.posn n)) : s.updPos n f = s.updPos n g := by
  simp only [State.updPos, h]

/-- The codes of a CONV entry's writes stand at their elements' places. -/
theorem storeWrs_convWr (s : State) {p pos n k : Nat} (hpos : pos < 4096) {cx : OutCtx} {ws : List W64} {v : View} {l : Grans} (errs : List MemErr)
    (hfits : denseAddr cx.base cx.vlen (eOrow ws) (16 * eOcol ws + n) ≤ 2 ^ 20) (hk : k < n) :
    codeAt (s.storeWrs p pos ((List.range n).map (convWr cx ws v l)) errs) pos (denseAddr cx.base cx.vlen (eOrow ws) (16 * eOcol ws + k)) =
      plainOut cx.ctl cx.prm (convElem ws v l k) % 2 ^ 32 := by
  have hplace : ∀ j, denseAddr cx.base cx.vlen (eOrow ws) (16 * eOcol ws + j) =
      denseAddr cx.base cx.vlen (eOrow ws) (16 * eOcol ws) + 4 * j := by
    intro j; simp only [denseAddr]; omega
  rw [hplace] at hfits ⊢
  refine storeWrs_code s hpos (by omega) errs (bad := false) (List.mem_map.mpr ⟨k, List.mem_range.mpr hk, ?_⟩) fun y hy => ?_
  · rw [convWr, OutCtx.plainWr, hplace]
  · obtain ⟨j, -, rfl⟩ := List.mem_map.mp hy
    simp only [convWr, OutCtx.plainWr, hplace]
    by_cases hjk : j = k
    · subst hjk; exact .inl ⟨rfl, rfl⟩
    · omega

/-- A CONV entry's elements written and counted, and its release (R138, R148, R214, R215). -/
theorem convDone_plain {s : State} {cx : OutCtx} (hc : cx.Plain) {ws : List W64} {v : View} {l : Grans}
    (hl : ∀ t, (convElem ws v l t).poison = false) (hb : (s.posn cx.pos).blocks = []) (n : Nat) (errs : List MemErr) :
    Counted [.positions, .memory, .partitions, .columns, .stewards, .firmware] cx.pos n s (s.convDone cx ws v l n errs) ∧
      (∃ w, Keeps [.positions] s w ∧ ∀ k, byteAt (s.convDone cx ws v l n errs) k =
        byteAt (w.storeWrs cx.p cx.pos ((List.range n).map (convWr cx ws v l)) errs) k) ∧
      (∀ q, (s.convDone cx ws v l n errs).part q = (s.complete cx.p cx.pos cx.step ws).part q) := by
  obtain ⟨hrun, hwr, hclosed⟩ := convRun_plain hc hl hb n
  obtain ⟨hdone, hbytes⟩ := done_counted (convRun cx ws v l s n) cx errs
  have hall := (hrun.mono (l' := [.positions, .memory, .columns, .stewards, .firmware]) (by decide)).trans hdone
  obtain ⟨⟨-, -, -, -, -, hslot, -⟩, -⟩ := hc
  have hend : s.convDone cx ws v l n errs = ((convRun cx ws v l s n).done cx errs).complete cx.p cx.pos cx.step ws :=
    entryEnd_plain hslot (hall.blocks.trans hb) hclosed _ _ _ ws
  have hfin : Counted [.partitions] cx.pos 0 ((convRun cx ws v l s n).done cx errs) (s.convDone cx ws v l n errs) :=
    .of_keeps (hend ▸ complete_keeps _ _ _ _ _) (by decide)
  refine ⟨(hall.mono (by decide)).trans (hfin.mono (by decide)), ⟨(convRun cx ws v l s n).s, hrun.keeps, fun k => ?_⟩, fun q => ?_⟩
  · rw [byteAt_of_mem (hfin.keeps .memory (by decide)), hbytes, hwr]
  · have hpart := part_of_keeps hall.keeps (by decide)
    rw [hend]
    by_cases hq : q = cx.p
    · rw [hq, complete_part_same, complete_part_same, hpart]
    · rw [complete_part_ne _ _ _ _ hq, complete_part_ne _ _ _ _ hq, hpart]

end Sys2Proof.Machine

namespace Sys2Proof.Machine

/-- The operands and parameters of a CONV entry read: nothing but the countdown of its position, the columns' registers and the log differs. -/
theorem convLoad_counted {s u u2 : State} {p pos i hcount : Nat} {gs : List Nat} {ws : List W64} {c : Ctl} {prm : OutPrm} {bad : Bool} {l lp : Grans}
    {errs : List MemErr} (hload : ((s.issued p pos i).updPos pos fun q => { q with h := hcount }).loadGrans p pos gs errs = (l, u))
    (hprm : u.loadPrm p pos ws c errs = (prm, bad, lp, u2)) :
    Counted [.positions, .partitions, .columns, .stewards, .firmware] pos 0 s u2 ∧ ∀ q, u2.part q = (s.issued p pos i).part q := by
  have hu2 : (u.loadPrm p pos ws c errs).2.2.2 = u2 := by rw [hprm]
  have hread : Keeps readPieces ((s.issued p pos i).updPos pos fun q => { q with h := hcount }) u2 :=
    (loadGrans_keeps_of_eq hload).trans (hu2 ▸ loadPrm_keeps _ _ _ _ _ _)
  have hissue : Counted [.partitions] pos 0 s (s.issued p pos i) := .of_keeps (issued_keeps _ _ _ _) (by decide)
  have hcount' : Counted [.positions] pos 0 (s.issued p pos i) ((s.issued p pos i).updPos pos fun q => { q with h := hcount }) :=
    .of_updPos (incBy_zero _).symm rfl rfl rfl
  have hload' : Counted readPieces pos 0 ((s.issued p pos i).updPos pos fun q => { q with h := hcount }) u2 := .of_keeps hread (by decide)
  exact ⟨((hissue.mono (by decide)).trans (hcount'.mono (by decide))).trans (hload'.mono (by decide)),
    fun q => part_of_keeps hread (by decide) q⟩

/-- What a CONV entry with a plain control leaves, from the state u in which its operands have been read. -/
theorem convDone_leaves {s u : State} {cx : OutCtx} {i n : Nat} {ws : List W64} {v : View} {l : Grans} (sampled : Bool) (errs : List MemErr)
    (hc : cx.Plain) (hpos : cx.pos < 4096) (hstep : cx.step = (s.part cx.p).step)
    (hread : Counted [.positions, .partitions, .columns, .stewards, .firmware] cx.pos 0 s u)
    (hpart : ∀ q, u.part q = (s.issued cx.p cx.pos i).part q) (hblocks : (s.posn cx.pos).blocks = [])
    (hl : ∀ t, (convElem ws v l t).poison = false) (hfits : denseAddr cx.base cx.vlen (eOrow ws) (16 * eOcol ws + n) ≤ 2 ^ 20) {t : State}
    (ht : (u.convDone cx ws v l n errs).sampleConv sampled cx.p cx.step cx.pos i = t) :
    (∀ k, k < n → codeAt t cx.pos (denseAddr cx.base cx.vlen (eOrow ws) (16 * eOcol ws + k)) =
        plainOut cx.ctl cx.prm (convElem ws v l k) % 2 ^ 32) ∧
      Counted [.positions, .memory, .partitions, .clusters, .columns, .stewards, .firmware] cx.pos n s t ∧ OtherBytesSame s t cx.pos ∧
      t.part cx.p = completeEntry (markIssue (s.part cx.p) cx.pos i) cx.pos (s.part cx.p).step ws ∧ ∀ q, q ≠ cx.p → t.part q = s.part q := by
  obtain ⟨hdone, ⟨w, hw, hbytes⟩, hparts⟩ := convDone_plain hc hl (hread.blocks.trans hblocks) n errs
  have hsample := sampleConv_keeps (u.convDone cx ws v l n errs) sampled cx.p cx.step cx.pos i
  rw [ht] at hsample
  have hall := ((hread.mono (l' := [.positions, .memory, .partitions, .clusters, .columns, .stewards, .firmware]) (by decide)).trans
    (hdone.mono (by decide))).trans ((Counted.of_keeps hsample (by decide)).mono (by decide))
  rw [Nat.zero_add, Nat.add_zero] at hall
  have hbyte : ∀ k, byteAt t k = byteAt (w.storeWrs cx.p cx.pos ((List.range n).map (convWr cx ws v l)) errs) k := fun k =>
    (byteAt_of_mem (hsample .memory (by decide)) k).trans (hbytes k)
  have hwdev : w.dev = s.dev := (hw .faults (by decide)).trans (hread.keeps .faults (by decide))
  have hwmem : w.mem = s.mem := (hw .memory (by decide)).trans (hread.keeps .memory (by decide))
  have hdev : t.dev = (w.storeWrs cx.p cx.pos ((List.range n).map (convWr cx ws v l)) errs).dev :=
    (hall.keeps .faults (by decide)).trans (hwdev.symm.trans (storeWrs_keeps _ _ _ _ _ .faults (by decide)).symm)
  have htpart : ∀ q, t.part q = (u.complete cx.p cx.pos (s.part cx.p).step ws).part q := fun q => by
    rw [part_of_keeps hsample (by decide), hparts, hstep]
  obtain ⟨hsame, hother⟩ := complete_issued hpart ws
  refine ⟨fun k hk => ?_, hall, otherBytesSame_storeWrs hpos hwdev hwmem hbyte, (htpart cx.p).trans hsame, fun q hq => (htpart q).trans (hother q hq)⟩
  rw [codeAt_congr hdev hbyte, storeWrs_convWr w hpos errs hfits hk]

/-- A CONV entry that runs with a plain dense FP32 control (R132, R138, R148, R214). -/
theorem runs_convIssue {s u u2 : State} {p pos i n : Nat} {ws : List W64} {c : Ctl} {prm : OutPrm} {l lp : Grans} {errs : List MemErr} {v : View}
    (h : MayIssue s p pos i ws kConv errs) (hroom : s.unitRoom p pos ws = true) (hpos : pos < 4096) (hctl : ctlOf (ws.getD 7 0) = some c)
    (hplain : plainCtl c) (hf : c.format = .fp32) (hlay : c.layout = .dense) (hlidx : eLidx ws = lidxNone) (hn : n = ef ws 3 63 40)
    (hv : v = viewF32 (ws.getD 2 0)) (hblocks : (s.posn pos).blocks = [])
    (hload : ((s.issued p pos i).updPos pos fun q => { q with h := (countdown (fractionD (s.part p).stn.cfg) q.h).2 }).loadGrans p pos
      (v.allGrans (ef ws 3 39 24) (ef ws 3 23 8) 1 n) errs = (l, u))
    (hprm : u.loadPrm p pos ws c errs = (prm, false, lp, u2)) (hclean : ∀ e ∈ l, e.2.poison = false)
    (hfits : denseAddr (eOut ws) (eOutVlen ws) (eOrow ws) (16 * eOcol ws + n) ≤ 2 ^ 20) :
    Runs (.convIssue p pos errs []) s fun t =>
      (∀ k, k < n → codeAt t pos (denseAddr (eOut ws) (eOutVlen ws) (eOrow ws) (16 * eOcol ws + k)) =
          plainOut c prm (v.elem l (v.place (ef ws 3 39 24) (ef ws 3 23 8) 0 k).1 (v.place (ef ws 3 39 24) (ef ws 3 23 8) 0 k).2) % 2 ^ 32) ∧
        (t.posn pos).converted = incBy (s.posn pos).converted n ∧ (t.posn pos).set0 = (s.posn pos).set0 ∧ (t.posn pos).set1 = (s.posn pos).set1 ∧
        (∀ q, q ≠ pos → t.posn q = s.posn q) ∧ OtherBytesSame s t pos ∧
        t.part p = completeEntry (markIssue (s.part p) pos i) pos (s.part p).step ws ∧ (∀ q, q ≠ p → t.part q = s.part q) ∧
        Keeps [.positions, .memory, .partitions, .clusters, .columns, .stewards, .firmware] s t := by
  subst hn hv
  obtain ⟨sampled, hcount, hcd⟩ : ∃ sampled hcount, countdown (fractionD (s.part p).stn.cfg) (s.posn pos).h = (sampled, hcount) := ⟨_, _, rfl⟩
  have hissued : (s.issued p pos i).posn pos = s.posn pos := posn_of_keeps (issued_keeps _ _ _ _) (by decide) pos
  rw [updPos_congr _ _ (g := fun q => { q with h := hcount }) (by rw [hissued, hcd])] at hload
  obtain ⟨x, hrun⟩ := opConv_eq h hroom hctl hplain.2.2.2.2.1 hlidx hcd hload hprm
  refine ⟨_, congrArg Host.Outcome.next hrun, ?_⟩
  obtain ⟨hread, hpart⟩ := convLoad_counted hload hprm
  obtain ⟨hcode, hcounted, hbytes, hsame, hother⟩ := convDone_leaves sampled errs (cx := convCtx p pos i (s.part p).step ws c prm lp x)
    ⟨hplain, hf, hlay, rfl⟩ hpos rfl hread hpart hblocks (fun t => elem_poison_of_clean (v := viewF32 (ws.getD 2 0)) rfl hclean _ _) hfits rfl
  exact ⟨hcode, hcounted.converted, hcounted.set0, hcounted.set1, hcounted.other, hbytes, hsame, hother, hcounted.keeps⟩

theorem idles_convIssue {s : State} {p pos i : Nat} {ws : List W64} {errs : List MemErr} (h : MayIssue s p pos i ws kConv errs)
    (hroom : s.unitRoom p pos ws = false) (upset : List Nat) : Idles (.convIssue p pos errs upset) s :=
  congrArg Host.Outcome.next (issue_of_not_taken h _ hroom)

/-- Settles O35: element after element, a plain control writes one code at the element's own place, and no two places meet. -/
theorem convWritesItsVector : Obligations.ConvWritesItsVector :=
  ⟨fun _ _ _ _ _ _ _ _ _ _ _ _ _ _ h hroom hpos hctl hplain hf hlay hlidx hn hv hblocks hload hprm hclean hfits =>
      runs_convIssue h hroom hpos hctl hplain hf hlay hlidx hn hv hblocks hload hprm hclean hfits,
    fun _ _ _ _ _ _ upset h hroom => idles_convIssue h hroom upset⟩

end Sys2Proof.Machine

/-! ## A change of every entry of a table -/

namespace Sys2Proof.Table

/-- What a change of every entry leaves of an entry stands in the table after it. -/
theorem get_map {α β : Type} (g : α → β) {f : α → α} (hf : ∀ v, g (f v) = g v) (d : α) (t : Table α) (i : Nat) :
    g (get d (t.map fun e => (e.1, f e.2)) i) = g (get d t i) := by
  induction t with
  | nil => rfl
  | cons e t ih =>
    obtain ⟨j, v⟩ := e
    by_cases hj : j = i
    · simp [get, hj, hf]
    · simpa [get, hj] using ih

end Sys2Proof.Table

/-! ## Folds over the slots and the positions that a command names -/

namespace Sys2Proof.Machine

/-- An update of slots, one after the other, changes each slot listed once and no other. -/
theorem foldl_slot {f : Slot → Slot} {g : State → Nat → State} (hg : ∀ s n m, (g s n).slot m = if m = n then f (s.slot n) else s.slot m)
    {ns : List Nat} (hnodup : ns.Nodup) (s : State) (m : Nat) : (ns.foldl g s).slot m = if m ∈ ns then f (s.slot m) else s.slot m := by
  induction ns generalizing s with
  | nil => simp
  | cons n ns ih =>
    obtain ⟨hn, hrest⟩ := List.nodup_cons.mp hnodup
    rw [List.foldl_cons, ih hrest, hg]
    by_cases hm : m = n
    · subst hm; simp [hn]
    · simp [hm]

theorem updSlot_slot (s : State) (n : Nat) (f : Slot → Slot) (m : Nat) : (s.updSlot n f).slot m = if m = n then f (s.slot n) else s.slot m := by
  split
  · next h => rw [h, updSlot_slot_same]
  · next h => exact updSlot_slot_ne _ _ _ h

theorem updSlot_keeps (s : State) (n : Nat) (f : Slot → Slot) : Keeps [.slots] s (s.updSlot n f) := .of_patch rfl

theorem slot_of_keeps {l : List Sys2Proof.Piece} {s t : State} (h : Keeps l s t) (hl : .slots ∉ l) (n : Nat) : t.slot n = s.slot n := by
  rw [State.slot, show t.slots = s.slots from h .slots hl, State.slot]

theorem col_of_keeps {l : List Sys2Proof.Piece} {s t : State} (h : Keeps l s t) (hl : .columns ∉ l) (c : Nat) : t.col c = s.col c := by
  rw [State.col, show t.cols = s.cols from h .columns hl, State.col]

/-- The positions of the streams that take part in a layer, updated. -/
def State.updLayerPos (s : State) (l : Layer) (f : Pos → Pos) : State := l.streams.foldl (fun s x => s.updPos x.stream f) s

theorem updLayerPos_keeps (s : State) (l : Layer) (f : Pos → Pos) : Keeps [.positions] s (s.updLayerPos l f) :=
  Keeps.foldl _ _ s fun s x => updPos_keeps s x.stream f

/-- What the update leaves of a position, it leaves of every position. -/
theorem updLayerPos_posn {β : Type} (g : Pos → β) (s : State) (l : Layer) {f : Pos → Pos} (hf : ∀ q, g (f q) = g q) (n : Nat) :
    g ((s.updLayerPos l f).posn n) = g (s.posn n) := by
  unfold State.updLayerPos
  induction l.streams generalizing s with
  | nil => rfl
  | cons x xs ih =>
    rw [List.foldl_cons, ih]
    by_cases hn : n = x.stream
    · rw [hn, updPos_posn_same, hf]
    · rw [updPos_posn_ne _ _ _ hn]

/-! ## The layers of a partition (R186, R189) -/

theorem lidx_of_layerOf {q : Part} {lidx : Nat} {l : Layer} (h : layerOf q lidx = some l) : l.lidx = lidx := by
  unfold layerOf at h
  split at h
  · cases h
  · simpa using List.find?_some h

/-- An open layer changed, and not its index, is still the layer of that index. -/
theorem layerOf_updLayer {q : Part} {lidx : Nat} {l : Layer} (h : layerOf q lidx = some l) {f : Layer → Layer} (hf : ∀ x, (f x).lidx = x.lidx) :
    layerOf (updLayer q lidx f) lidx = some (f l) := by
  have hl := lidx_of_layerOf h
  unfold layerOf at h ⊢
  split at h
  · cases h
  · next hnone =>
    have hsame : ((fun x : Layer => decide (x.lidx = lidx)) ∘ fun x => if x.lidx = lidx then f x else x) = fun x => decide (x.lidx = lidx) := by
      funext x
      by_cases hx : x.lidx = lidx <;> simp [hx, hf]
    rw [if_neg hnone, updLayer, List.find?_map, hsame, h, Option.map_some, if_pos hl]

theorem layerOf_closed {q : Part} {lidx : Nat} (h : ∀ x ∈ q.layers, x.lidx ≠ lidx) : layerOf q lidx = none := by
  unfold layerOf
  split
  · rfl
  · simpa using h

theorem releaseTok_layers (q : Part) (addr m : Nat) (prov : Bool) : (releaseTok q addr m prov).layers = q.layers := by
  unfold releaseTok; dsimp only; split <;> rfl

/-- A partition in which a layer is accepted: the layer is closed, and the releases that it withheld go out (R186). -/
def Part.accepted (l : Layer) (q : Part) : Part :=
  l.rels.foldl (fun q rel => releaseTok q rel q.step (provStep q q.step)) { q with layers := q.layers.filter fun x => x.lidx ≠ l.lidx }

theorem accepted_layers (l : Layer) (q : Part) : (q.accepted l).layers = q.layers.filter fun x => x.lidx ≠ l.lidx := by
  have hrels : ∀ r : Part, (l.rels.foldl (fun q rel => releaseTok q rel q.step (provStep q q.step)) r).layers = r.layers := by
    induction l.rels with
    | nil => intro r; rfl
    | cons rel rels ih => intro r; rw [List.foldl_cons, ih, releaseTok_layers]
  exact hrels _

theorem layerOf_accepted (l : Layer) (q : Part) : layerOf (q.accepted l) l.lidx = none := by
  refine layerOf_closed fun x hx => ?_
  rw [accepted_layers, List.mem_filter] at hx
  exact of_decide_eq_true hx.2

/-! ## LAYER_CLOSE: an attempt accepted (R186, R190) -/

/-- An accepted attempt once its RANGE_AT_CEILING, if any, has its record: the saved lists go, and the layer is closed. -/
def State.layerTaken (s : State) (p : Nat) (l : Layer) : State := (s.updLayerPos l (acceptAttempt l.lidx)).updPart p (Part.accepted l)

theorem layerAccept_quiet (s : State) (p : Nat) {l : Layer} (h : l.ceilRaised = false) : s.layerAccept p l = s.layerTaken p l := by
  unfold State.layerAccept
  rw [h]
  rfl

/-- An event of a layer logged by the column of its slot, which shows its last record (R193, R194). -/
def State.layerLogged (s : State) (p : Nat) (l : Layer) (event unit : Nat) (w : List W64) (f : ColRegs → ColRegs) : State :=
  (s.logP (l.slot / 4096) event unit p w).updCol (l.slot / 4096) f

theorem layerAccept_ceiling (s : State) (p : Nat) {l : Layer} (h : l.ceilRaised = true) :
    ∃ unit w f, s.layerAccept p l = (s.layerLogged p l 0x21 unit w f).layerTaken p l := by
  unfold State.layerAccept
  rw [h]
  exact ⟨_, _, _, rfl⟩

theorem layerLogged_keeps (s : State) (p : Nat) (l : Layer) (event unit : Nat) (w : List W64) (f : ColRegs → ColRegs) :
    Keeps [.columns, .stewards, .firmware] s (s.layerLogged p l event unit w f) :=
  ((logP_keeps _ _ _ _ _ _).mono (by decide)).trans (updCol_keeps _ _ _)

theorem layerLogged_col_same (s : State) (p : Nat) (l : Layer) (event unit : Nat) (w : List W64) (f : ColRegs → ColRegs) :
    (s.layerLogged p l event unit w f).col (l.slot / 4096) = f (s.col (l.slot / 4096)) := by
  rw [State.layerLogged, updCol_col_same, col_of_keeps (logP_keeps _ _ _ _ _ _) (by decide)]

theorem layerLogged_logged (s : State) (p : Nat) (l : Layer) (event unit : Nat) (w : List W64) (f : ColRegs → ColRegs) :
    Logged (s.layerLogged p l event unit w f) (l.slot / 4096) event w := logged_of_stew (logP_logged _ _ _ _ _ _) rfl

theorem layerTaken_keeps (s : State) (p : Nat) (l : Layer) : Keeps [.partitions, .positions] s (s.layerTaken p l) :=
  ((updLayerPos_keeps _ _ _).mono (by decide)).trans ((updPart_keeps _ _ _).mono (by decide))

theorem layerTaken_part_same (s : State) (p : Nat) (l : Layer) : (s.layerTaken p l).part p = (s.part p).accepted l := by
  rw [State.layerTaken, updPart_part_same, part_of_keeps (updLayerPos_keeps _ _ _) (by decide)]

theorem layerTaken_part_ne (s : State) {p q : Nat} (l : Layer) (h : q ≠ p) : (s.layerTaken p l).part q = s.part q := by
  rw [State.layerTaken, updPart_part_ne _ _ _ h, part_of_keeps (updLayerPos_keeps _ _ _) (by decide)]

/-- An acceptance leaves everything of a position but the lists saved for the attempt. -/
theorem layerTaken_posn (s : State) (p : Nat) (l : Layer) (n : Nat) :
    (s.layerTaken p l).posn n = { s.posn n with saves := ((s.layerTaken p l).posn n).saves } :=
  congrArg (fun q : Pos => { q with saves := ((s.layerTaken p l).posn n).saves })
    (updLayerPos_posn (fun q => { q with saves := [] }) s l (f := acceptAttempt l.lidx) (fun _ => rfl) n)

/-! ## LAYER_CLOSE: a replay ordered (R188, R189, R193) -/

/-- The slot of a layer when a replay is ordered: LEVEL raised where an overflow asks for it, and the replay counted (R189). -/
def State.slotReplays (s : State) (l : Layer) (up : Bool) : State :=
  s.updSlot l.slot fun q => { (if up then raiseLevel q l.amax else q) with replays := inc q.replays }

/-- A layer whose next attempt waits for its 1,024 cycles from a moment on (R189, R191). -/
def Layer.again (now : Nat) (l : Layer) : Layer :=
  { l with attempt := l.attempt + 1, la := l.la || l.lost, lost := false, lostPos := 0xFFF, lostTiles := 0, ovf := false, ovfPos := 0xFFF,
           ovfEntries := 0, amax := 0, sa := false, rels := [], ceilRaised := false, waiting := true, closedAt := now }

/-- The leavings of an attempt undone at its positions, and the layer made to wait for its next attempt. -/
def State.layerAgain (s : State) (p : Nat) (l : Layer) : State :=
  (s.updLayerPos l (undoAttempt l.lidx)).updPart p fun q => updLayer q l.lidx (Layer.again (s.updLayerPos l (undoAttempt l.lidx)).tm.clk)

theorem layerReplay_eq (s : State) (p : Nat) (l : Layer) (up : Bool) : ∃ unit w v, s.layerReplay p l up =
    ((s.slotReplays l up).layerLogged p l 0x20 unit w fun c => { c with cadReplays := inc c.cadReplays, cadLast := v }).layerAgain p l :=
  ⟨_, _, _, rfl⟩

theorem layerAgain_keeps (s : State) (p : Nat) (l : Layer) : Keeps [.partitions, .positions] s (s.layerAgain p l) :=
  ((updLayerPos_keeps _ _ _).mono (by decide)).trans ((updPart_keeps _ _ _).mono (by decide))

theorem layerAgain_part_same (s : State) (p : Nat) (l : Layer) :
    (s.layerAgain p l).part p = updLayer (s.part p) l.lidx (Layer.again s.tm.clk) := by
  have hpos := updLayerPos_keeps s l (undoAttempt l.lidx)
  rw [State.layerAgain, updPart_part_same, part_of_keeps hpos (by decide), show (s.updLayerPos l _).tm = s.tm from hpos .time (by decide)]

theorem layerAgain_part_ne (s : State) {p q : Nat} (l : Layer) (h : q ≠ p) : (s.layerAgain p l).part q = s.part q := by
  rw [State.layerAgain, updPart_part_ne _ _ _ h, part_of_keeps (updLayerPos_keeps _ _ _) (by decide)]

/-- A replay leaves everything of a position but what the attempt left there (R160, R545). -/
theorem layerAgain_posn (s : State) (p : Nat) (l : Layer) (n : Nat) :
    (s.layerAgain p l).posn n = { s.posn n with
      blocks := ((s.layerAgain p l).posn n).blocks, owed := ((s.layerAgain p l).posn n).owed,
      tops := ((s.layerAgain p l).posn n).tops, saves := ((s.layerAgain p l).posn n).saves } :=
  congrArg (fun q : Pos => { q with
      blocks := ((s.layerAgain p l).posn n).blocks, owed := ((s.layerAgain p l).posn n).owed,
      tops := ((s.layerAgain p l).posn n).tops, saves := ((s.layerAgain p l).posn n).saves })
    (updLayerPos_posn (fun q => { q with blocks := [], owed := [], tops := [], saves := [] }) s l (f := undoAttempt l.lidx) (fun _ => rfl) n)

theorem slotWord_level (scale : Nat) (anchor : Int) (saOk : Bool) (level base bias head clean valid : Nat) :
    stLevel (slotWord scale anchor saOk level base bias head clean valid) = level % 8 := by
  simp [stLevel, slotWord, fld_fields, fld_at, fld_at_above, fld_at_below, fld_flag_ne]

/-- Below the ceiling LEVEL rises by one (R189). -/
theorem raiseLevel_level {q : Slot} (amax : Nat) (h : atCeiling q = false) : stLevel (raiseLevel q amax).state = stLevel q.state + 1 := by
  have hlt : stLevel q.state < cfgCeil q.cfg := by
    simp only [atCeiling, Bool.or_eq_false_iff, decide_eq_false_iff_not] at h
    exact Nat.lt_of_not_le h.2
  have hceil : cfgCeil q.cfg < 8 := Nat.mod_lt _ (by decide)
  rw [raiseLevel, slotWord_level, Nat.mod_eq_of_lt (by omega)]

/-! ## LAYER_CLOSE and LAYER_REPLAY_ISSUE run -/

theorem whenOp_of_operational {s : State} {f : State → State} (h : s.operational = true) : s.whenOp f = f s := if_pos h

/-- What does nothing while the module runs changes nothing at all (log 4). -/
theorem whenOp_of_idle {s : State} {f : State → State} (h : f s = s) : s.whenOp f = s := by
  unfold State.whenOp
  split
  · exact h
  · rfl

/-- The attempt of layer l of partition p is complete, and no retraction holds its close (R188). -/
structure Closes (s : State) (p lidx : Nat) (l : Layer) : Prop where
  operational : s.operational = true
  layer : layerOf (s.part p) lidx = some l
  waiting : l.waiting = false
  closed : l.npos ≤ (l.streams.filter (·.closed)).length
  st : (s.part p).stn.st = 1

section Close

variable {s : State} {p lidx : Nat} {l : Layer}

theorem opLayerClose_closes (h : Closes s p lidx l) : s.opLayerClose p lidx =
    if l.lost ∨ (l.ovf && !atCeiling (s.slot l.slot)) then s.layerReplay p l (l.ovf && !atCeiling (s.slot l.slot)) else s.layerAccept p l := by
  obtain ⟨hop, hlayer, hwait, hclosed, hst⟩ := h
  rw [State.opLayerClose, whenOp_of_operational hop]
  simp [hlayer, hwait, hst, Nat.not_lt.mpr hclosed]

theorem opLayerClose_accepts (h : Closes s p lidx l) (hlost : l.lost = false) (hovf : l.ovf = false ∨ atCeiling (s.slot l.slot) = true) :
    s.opLayerClose p lidx = s.layerAccept p l := by
  have hup : (l.ovf && !atCeiling (s.slot l.slot)) = false := by
    obtain h | h := hovf <;> simp [h]
  rw [opLayerClose_closes h, if_neg (by simp [hlost, hup])]

/-- An attempt without a loss or an overflow is accepted (R186). -/
theorem runs_layerClose_accepted (h : Closes s p lidx l) (hlost : l.lost = false) (hovf : l.ovf = false ∨ atCeiling (s.slot l.slot) = true)
    (hceil : l.ceilRaised = false) :
    Runs (.layerClose p lidx) s fun t =>
      t.part p = (s.part p).accepted l ∧ (∀ n, t.posn n = { s.posn n with saves := (t.posn n).saves }) ∧ (∀ q, q ≠ p → t.part q = s.part q) ∧
        Keeps [.partitions, .positions] s t := by
  refine ⟨s.layerTaken p l, congrArg Host.Outcome.next ?_, ?_⟩
  · rw [opLayerClose_accepts h hlost hovf, layerAccept_quiet s p hceil]
  · exact ⟨layerTaken_part_same s p l, layerTaken_posn s p l, fun q => layerTaken_part_ne s l, layerTaken_keeps s p l⟩

/-- An attempt whose overflow stands at the ceiling is accepted with its record (R190, R193). -/
theorem runs_layerClose_atCeiling (h : Closes s p lidx l) (hlost : l.lost = false) (hceil : atCeiling (s.slot l.slot) = true)
    (hraised : l.ceilRaised = true) :
    Runs (.layerClose p lidx) s fun t =>
      (∃ w, Logged t (l.slot / 4096) 0x21 w) ∧ layerOf (t.part p) lidx = none ∧
        Keeps [.partitions, .positions, .columns, .stewards, .firmware] s t := by
  obtain ⟨unit, w, f, haccept⟩ := layerAccept_ceiling s p hraised
  refine ⟨(s.layerLogged p l 0x21 unit w f).layerTaken p l, congrArg Host.Outcome.next ?_, ⟨w, ?_⟩, ?_, ?_⟩
  · rw [opLayerClose_accepts h hlost (.inr hceil), haccept]
  · exact logged_of_stew (layerLogged_logged s p l _ _ _ _) (layerTaken_keeps _ p l .stewards (by decide))
  · rw [layerTaken_part_same, ← lidx_of_layerOf h.layer, layerOf_accepted]
  · exact ((layerLogged_keeps s p l _ _ _ _).mono (by decide)).trans ((layerTaken_keeps _ p l).mono (by decide))

/-- An attempt that lost exactness, or overflowed below the ceiling, is replayed (R188, R189, R193). -/
theorem runs_layerClose_replayed (h : Closes s p lidx l) {up : Bool} (hup : up = (l.ovf && !atCeiling (s.slot l.slot)))
    (hwhy : l.lost = true ∨ up = true) :
    Runs (.layerClose p lidx) s fun t =>
      layerOf (t.part p) lidx = some (l.again s.tm.clk) ∧ (t.part p).streams = (s.part p).streams ∧
        t.slot l.slot = { (if up then raiseLevel (s.slot l.slot) l.amax else s.slot l.slot) with replays := inc (s.slot l.slot).replays } ∧
        (t.col (l.slot / 4096)).cadReplays = inc (s.col (l.slot / 4096)).cadReplays ∧ (∃ w, Logged t (l.slot / 4096) 0x20 w) ∧
        (∀ n, n ≠ l.slot → t.slot n = s.slot n) ∧ (∀ q, q ≠ p → t.part q = s.part q) ∧
        (∀ n, t.posn n = { s.posn n with blocks := (t.posn n).blocks, owed := (t.posn n).owed, tops := (t.posn n).tops, saves := (t.posn n).saves }) ∧
        Keeps [.partitions, .positions, .slots, .columns, .stewards, .firmware] s t := by
  obtain ⟨unit, w, v, hreplay⟩ := layerReplay_eq s p l up
  generalize hu : (s.slotReplays l up).layerLogged p l 0x20 unit w (fun c => { c with cadReplays := inc c.cadReplays, cadLast := v }) = u at hreplay
  have hslot : Keeps [.slots] s (s.slotReplays l up) := updSlot_keeps _ _ _
  have hlog : Keeps [.columns, .stewards, .firmware] (s.slotReplays l up) u := hu ▸ layerLogged_keeps _ _ _ _ _ _ _
  have hbefore : Keeps [.slots, .columns, .stewards, .firmware] s u := (hslot.mono (by decide)).trans (hlog.mono (by decide))
  have hagain := layerAgain_keeps u p l
  have hpart : ∀ q, u.part q = s.part q := part_of_keeps hbefore (by decide)
  have hslots : ∀ n, (u.layerAgain p l).slot n = (s.slotReplays l up).slot n := fun n =>
    (slot_of_keeps hagain (by decide) n).trans (slot_of_keeps hlog (by decide) n)
  refine ⟨u.layerAgain p l, congrArg Host.Outcome.next ?_, ?_, ?_, ?_, ?_, ⟨w, ?_⟩, fun n hn => ?_, fun q hq => ?_, fun n => ?_, ?_⟩
  · rw [opLayerClose_closes h, ← hup, if_pos hwhy, hreplay]
  · rw [layerAgain_part_same, hpart, lidx_of_layerOf h.layer, show u.tm = s.tm from hbefore .time (by decide)]
    exact layerOf_updLayer h.layer fun _ => rfl
  · rw [layerAgain_part_same, hpart, updLayer]
  · rw [hslots, State.slotReplays, updSlot_slot_same]
  · rw [col_of_keeps hagain (by decide), ← hu, layerLogged_col_same, col_of_keeps hslot (by decide)]
  · exact logged_of_stew (hu ▸ layerLogged_logged _ p l _ _ _ _) (hagain .stewards (by decide))
  · rw [hslots, State.slotReplays, updSlot_slot_ne _ _ _ hn]
  · rw [layerAgain_part_ne _ _ hq, hpart]
  · have hpos := layerAgain_posn u p l n
    rwa [posn_of_keeps hbefore (by decide)] at hpos
  · exact (hbefore.mono (by decide)).trans (hagain.mono (by decide))

theorem idles_layerClose (hlayer : layerOf (s.part p) lidx = some l) (hwhy : l.waiting = true ∨ (l.streams.filter (·.closed)).length < l.npos) :
    Idles (.layerClose p lidx) s := by
  refine congrArg Host.Outcome.next (whenOp_of_idle ?_)
  simp only [hlayer]
  rw [if_pos (by simpa [or_assoc] using Or.inl hwhy)]

/-- A layer whose next attempt reissues its entries from the first (R189). -/
def Layer.reissued (l : Layer) : Layer :=
  { l with waiting := false, streams := l.streams.map fun x => { x with cursor := some x.first, closed := false } }

theorem runs_layerReplayIssue (hop : s.operational = true) (hlayer : layerOf (s.part p) lidx = some l) (hwait : l.waiting = true)
    (hst : (s.part p).stn.st = 1) (hready : ∀ x ∈ l.streams, 1024000 ≤ s.since l.closedAt * s.clusterMhz (x.stream / 16)) :
    Runs (.layerReplayIssue p lidx) s fun t =>
      layerOf (t.part p) lidx = some l.reissued ∧ (t.part p).streams = (s.part p).streams ∧ (∀ q, q ≠ p → t.part q = s.part q) ∧
        Keeps [.partitions] s t := by
  refine ⟨s.updPart p fun q => updLayer q lidx Layer.reissued, congrArg Host.Outcome.next ?_, ?_, ?_, fun q => updPart_part_ne _ _ _,
    updPart_keeps _ _ _⟩
  · rw [State.opLayerReplay, whenOp_of_operational hop]
    simp only [hlayer]
    rw [if_neg (by simpa [hwait, hst] using hready)]
    rfl
  · rw [updPart_part_same]
    exact layerOf_updLayer hlayer fun _ => rfl
  · rw [updPart_part_same, updLayer]

theorem idles_layerReplayIssue (hlayer : layerOf (s.part p) lidx = some l)
    (hearly : ∃ x ∈ l.streams, s.since l.closedAt * s.clusterMhz (x.stream / 16) < 1024000) : Idles (.layerReplayIssue p lidx) s := by
  refine congrArg Host.Outcome.next (whenOp_of_idle ?_)
  simp only [hlayer]
  rw [if_pos (.inr (.inl (by simpa using hearly)))]

end Close

/-! ## STEP_BOUNDARY (R182, R183, R226, R229) -/

theorem slotsOf_nodup (q : Part) : (slotsOf q).Nodup := List.nodup_range.map fun _ _ => Nat.add_left_cancel

theorem slotStep_keeps (s : State) (p n : Nat) : Keeps [.slots, .columns, .stewards, .firmware] s (s.slotStep p n) := by
  have hslot := (updSlot_keeps s n fun _ => (slotBoundary (s.slot n)).1).mono (m := [.slots, .columns, .stewards, .firmware]) (by decide)
  have htrace : ∀ (u : State) col part k point args, Keeps [.slots, .columns, .stewards, .firmware] u (u.trace col part k point args) :=
    fun u _ _ _ _ _ => (trace_keeps u _ _ _ _ _).mono (by decide)
  unfold State.slotStep
  dsimp only
  split
  · exact hslot.trans ((htrace _ _ _ _ _ _).trans (((updCol_keeps _ _ _).mono (by decide)).trans ((logP_keeps _ _ _ _ _ _).mono (by decide))))
  · exact hslot.trans (htrace _ _ _ _ _ _)

/-- The boundary of one slot decides that slot and no other (R183). -/
theorem slotStep_slot (s : State) (p n m : Nat) : (s.slotStep p n).slot m = if m = n then (slotBoundary (s.slot n)).1 else s.slot m := by
  have htrace : ∀ (u : State) col part k point args m, (u.trace col part k point args).slot m = u.slot m :=
    fun u _ _ _ _ _ => slot_of_keeps (trace_keeps u _ _ _ _ _) (by decide)
  have hlog : ∀ (u : State) col event unit part w m, (u.logP col event unit part w).slot m = u.slot m :=
    fun u _ _ _ _ _ => slot_of_keeps (logP_keeps u _ _ _ _ _) (by decide)
  unfold State.slotStep
  dsimp only
  split
  · rw [hlog, updCol_slot, htrace, updSlot_slot]
  · rw [htrace, updSlot_slot]

theorem boundaryParts_keeps (s : State) (p : Nat) :
    Keeps [.slots, .positions, .columns, .stewards, .firmware] s (s.boundaryParts p) := by
  have hslots : Keeps [.slots, .columns, .stewards, .firmware] s (s.slotsStep p) := Keeps.foldl _ _ s fun s n => slotStep_keeps s p n
  refine (hslots.mono (by decide)).trans (.trans (Keeps.foldl _ _ _ fun u n => ?_) (Keeps.foldl _ _ _ fun u n => ?_))
  · exact (updSlot_keeps u n _).mono (by decide)
  · exact (updPos_keeps u n _).mono (by decide)

/-- What the boundary makes of a slot: its decision, which is the state at the start of the step that follows. -/
def Slot.bounded (q : Slot) : Slot := { (slotBoundary q).1 with startState := (slotBoundary q).1.state }

/-- The boundary decides every slot of the partition, and no other (R182). -/
theorem boundaryParts_slot (s : State) (p m : Nat) :
    (s.boundaryParts p).slot m = if m ∈ slotsOf (s.part p) then (s.slot m).bounded else s.slot m := by
  have hnodup := slotsOf_nodup (s.part p)
  have hstep : Keeps [.slots, .columns, .stewards, .firmware] s (s.slotsStep p) := Keeps.foldl _ _ s fun s n => slotStep_keeps s p n
  have hdecide := foldl_slot (f := fun q => (slotBoundary q).1) (fun s n m => slotStep_slot s p n m) hnodup s m
  have hstart := foldl_slot (f := fun x => { x with startState := x.state }) (g := fun s i => s.updSlot i fun x => { x with startState := x.state }) 
    (fun s n m => updSlot_slot s n _ m) hnodup (s.slotsStep p) m
  unfold State.boundaryParts
  rw [slot_of_keeps (Keeps.foldl _ _ _ fun u n => updPos_keeps u n _) (by decide), part_of_keeps hstep (by decide), hstart, State.slotsStep, hdecide]
  split <;> rfl

/-- Partition q in its next step: the streams at their first entries, what collectives of past steps have left dropped, and the SLIPs of the
step applied (R226, R229). -/
def Part.stepped (q : Part) : Part :=
  applySlips { q with
    step := q.step + 1
    streams := q.streams.map fun e => (e.1, { e.2 with next := 0, ended := false, timedOut := false, heldUpd := false })
    colls := q.colls.filter fun x => !x.done || decide (q.step ≤ x.step)
    collIn := q.collIn.filter fun x => decide (q.step ≤ x.step + 1)
    collAsk := q.collAsk.filter fun x => decide (q.step ≤ x.step + 1)
    collRes := q.collRes.filter fun x => decide (q.step ≤ x.step + 1)
    spill := Table.drop (fun c => !q.colls.any fun x => !x.done && ef x.words 2 63 48 = c) q.spill } (q.step + 1)

/-- The SLIPs that the next step applies, traced (R475). -/
def State.slipsTraced (s : State) (p : Nat) : State :=
  if Table.get 0 (s.part p).slipBest ((s.part p).step + 1) = 0 then s
  else s.traceLead p 3 2 [(s.part p).step + 1, Table.get 0 (s.part p).slipBest ((s.part p).step + 1), memberNo (s.part p)]

theorem slipsTraced_keeps (s : State) (p : Nat) : Keeps [.stewards] s (s.slipsTraced p) := by
  unfold State.slipsTraced
  split
  · exact .refl _ s
  · exact trace_keeps _ _ _ _ _ _

theorem opBoundary_ready {s : State} {p : Nat} (hop : s.operational = true) (h : s.boundaryReady p = true) :
    s.opBoundary p = (((s.slipsTraced p).boundaryParts p).updPart p Part.stepped).updFw fun f => { f with actBounds := f.actBounds.filter (· ≠ p) } := by
  rw [State.opBoundary, whenOp_of_operational hop]
  dsimp only
  rw [h]
  rfl

/-- A boundary that is ready takes slots, shift and streams of its partition into the next step (R182, R226, R229). -/
theorem runs_stepBoundary {s : State} {p : Nat} (hop : s.operational = true) (h : s.boundaryReady p = true) :
    Runs (.stepBoundary p) s fun t =>
      t.part p = (s.part p).stepped ∧ (∀ n, t.slot n = if n ∈ slotsOf (s.part p) then (s.slot n).bounded else s.slot n) ∧
        p ∉ t.fw.actBounds ∧ (∀ q, q ≠ p → t.part q = s.part q) ∧
        Keeps [.partitions, .slots, .positions, .columns, .stewards, .firmware] s t := by
  have htrace := slipsTraced_keeps s p
  have hparts : ∀ q, ((s.slipsTraced p).boundaryParts p).part q = s.part q := fun q =>
    (part_of_keeps (boundaryParts_keeps _ _) (by decide) q).trans (part_of_keeps htrace (by decide) q)
  refine ⟨_, congrArg Host.Outcome.next (opBoundary_ready hop h), ?_, fun n => ?_, ?_, fun q hq => ?_, ?_⟩
  · rw [updFw_part, updPart_part_same, hparts]
  · rw [updFw_slot, updPart_slot, boundaryParts_slot, part_of_keeps htrace (by decide), slot_of_keeps htrace (by decide)]
  · simp [State.updFw]
  · rw [updFw_part, updPart_part_ne _ _ _ hq, hparts]
  · exact (htrace.mono (by decide)).trans (((boundaryParts_keeps _ _).mono (by decide)).trans (.of_patch rfl))

theorem idles_stepBoundary {s : State} {p : Nat} (h : s.boundaryReady p = false) : Idles (.stepBoundary p) s := by
  refine congrArg Host.Outcome.next (whenOp_of_idle ?_)
  rw [h]
  rfl

/-- An open layer holds the boundary (R182, R196). -/
theorem boundaryReady_of_layer {s : State} {p : Nat} {l : Layer} (h : l ∈ (s.part p).layers) : s.boundaryReady p = false := by
  have hopen : (s.part p).layers.isEmpty = false := by
    rw [List.isEmpty_eq_false_iff]
    exact List.ne_nil_of_mem h
  simp [State.boundaryReady, hopen]

/-! ## What sending, closing and notices may change -/

theorem updConn_keeps (s : State) (c : Nat) (f : Conn → Conn) : Keeps [.network] s (s.updConn c f) := .of_patch rfl
theorem lapseClaims_keeps (s : State) (c : Nat) : Keeps [.firmware, .structure_] s (s.lapseClaims c) := .of_patch rfl

theorem moveIfEmpty_keeps (s : State) (c : Nat) : Keeps [.network, .stewards] s (s.moveIfEmpty c) := by
  unfold State.moveIfEmpty
  split
  · exact ((trace_keeps _ _ _ _ _ _).mono (by decide)).trans (.of_patch rfl)
  · exact .refl _ s

theorem sendNow_keeps (s : State) (c : Nat) (p : Pkt) : Keeps [.network, .stewards] s (s.sendNow c p) := by
  have hmove := moveIfEmpty_keeps s c
  unfold State.sendNow
  dsimp only
  split <;> exact hmove.trans (.of_patch rfl)

theorem send_keeps (s : State) (c : Nat) (p : Pkt) : Keeps [.network, .stewards] s (s.send c p) := by
  rw [send_eq]
  split
  · exact sendNow_keeps s c _
  · exact .of_patch rfl

theorem sendAck_keeps (s : State) (c : Nat) (done : Option (Nat × Nat)) : Keeps [.network, .stewards] s (s.sendAck c done) := by
  have hmove := moveIfEmpty_keeps s c
  unfold State.sendAck
  dsimp only
  split <;> exact hmove.trans (.of_patch rfl)

theorem startOp_keeps (s : State) (c : Nat) (kind : OpKind) : Keeps [.network, .stewards] s (s.startOp c kind).2 := .of_patch rfl

theorem sendMsg_keeps (s : State) (c op : Nat) (payload : Bytes) : Keeps [.network, .stewards] s (s.sendMsg c op payload) :=
  (startOp_keeps s c _).trans (send_keeps _ _ _)

theorem sendCtl_keeps (s : State) (c ctlop part role tgen : Nat) (payload : Bytes) :
    Keeps [.network, .stewards] s (s.sendCtl c ctlop part role tgen payload) :=
  ((trace_keeps _ _ _ _ _ _).mono (by decide)).trans ((startOp_keeps _ c _).trans (send_keeps _ _ _))

theorem finishRx_keeps (s : State) (c status : Nat) : Keeps [.network, .stewards] s (s.finishRx c status) := by
  refine (Keeps.foldl _ _ s fun u o => ?_).trans (.of_patch rfl)
  unfold State.endRx
  split
  · exact send_keeps _ _ _
  · exact sendAck_keeps _ _ _

/-- A connection that closes ends its operations and its claims (R312). -/
theorem closeConn_keeps (s : State) (c : Nat) : Keeps [.network, .stewards, .firmware, .structure_] s (s.closeConn c) := by
  unfold State.closeConn
  dsimp only
  refine .trans ?_ ((updConn_keeps _ c _).mono (by decide))
  refine .trans ?_ ((lapseClaims_keeps _ c).mono (by decide))
  refine .trans ?_ ((sendCtl_keeps _ c _ _ _ _ _).mono (by decide))
  exact ((finishRx_keeps s c 7).mono (by decide)).trans ((updConn_keeps _ c _).mono (by decide))

theorem notice_keeps (s : State) (e : LogEntry) : Keeps [.network, .stewards, .firmware, .faults] s (s.notice e) := by
  unfold State.notice
  split
  · exact ((startOp_keeps _ _ _).trans (send_keeps _ _ _)).mono (by decide)
  · split
    · exact .of_patch rfl
    · exact .trans (.of_patch rfl) ((logLead_keeps _ _ _).mono (by decide))

theorem sendAborts_keeps (s : State) (p : Nat) (but : Option Nat) (payload : Bytes) : Keeps [.network, .stewards] s (s.sendAborts p but payload) := by
  refine Keeps.foldl _ _ s fun u c => ?_
  split
  · exact .refl _ u
  · exact sendMsg_keeps _ _ _ _

/-! ## A partition fault, and the abort that may follow (R496, R500) -/

/-- Two partitions have the same fault record, and the same timeouts counted and noted (R222, R496). -/
structure SameFaults (q r : Part) : Prop where
  timeouts : r.tokenTimeout = q.tokenTimeout
  event : r.faultEvent = q.faultEvent
  count : r.faults = q.faults
  timedOut : ∀ sid, (streamOf r sid).timedOut = (streamOf q sid).timedOut

namespace SameFaults

theorem refl (q : Part) : SameFaults q q := ⟨rfl, rfl, rfl, fun _ => rfl⟩

theorem trans {q r t : Part} (h₁ : SameFaults q r) (h₂ : SameFaults r t) : SameFaults q t :=
  ⟨h₂.timeouts.trans h₁.timeouts, h₂.event.trans h₁.event, h₂.count.trans h₁.count, fun sid => (h₂.timedOut sid).trans (h₁.timedOut sid)⟩

/-- A change of every stream, and of nothing that the record shows. -/
theorem of_map {q r : Part} {f : Stream → Stream} (hf : ∀ x, (f x).timedOut = x.timedOut)
    (hstreams : r.streams = q.streams.map fun e => (e.1, f e.2)) (htimeouts : r.tokenTimeout = q.tokenTimeout)
    (hevent : r.faultEvent = q.faultEvent) (hcount : r.faults = q.faults) : SameFaults q r := by
  refine ⟨htimeouts, hevent, hcount, fun sid => ?_⟩
  rw [streamOf, hstreams]
  exact Table.get_map Stream.timedOut hf _ _ _

end SameFaults

/-- What a job's abort may change (R500). -/
abbrev abortPieces : List Sys2Proof.Piece := [.partitions, .network, .stewards, .firmware, .structure_]

theorem jobAbort_keeps (s : State) (p : Nat) (payload : Bytes) : Keeps abortPieces s (s.jobAbort p payload) :=
  .trans ((updPart_keeps _ _ _).mono (by decide)) (.trans (Keeps.foldl _ _ _ fun u c => (closeConn_keeps u c).mono (by decide))
    (.trans ((updPart_keeps _ _ _).mono (by decide)) ((logP_keeps _ _ _ _ _ _).mono (by decide))))

theorem jobAbort_sameFaults (s : State) (p : Nat) (payload : Bytes) : SameFaults (s.part p) ((s.jobAbort p payload).part p) := by
  have hclose : ∀ (u : State) (cs : List Nat), (cs.foldl (fun s c => s.closeConn c) u).part p = u.part p := fun u cs =>
    part_of_keeps (Keeps.foldl cs _ u closeConn_keeps) (by decide) p
  have hfence : SameFaults (s.part p) (fence (s.part p)) :=
    .of_map (f := fun x => { x with stopped := true }) (fun _ => rfl) rfl rfl rfl rfl
  unfold State.jobAbort
  dsimp only
  rw [part_of_keeps (logP_keeps _ _ _ _ _ _) (by decide), updPart_part_same, hclose, updPart_part_same]
  exact hfence.trans (.of_map (f := fun x => { x with tokens := [] }) (fun _ => rfl) rfl rfl rfl rfl)

/-- Partition q with a fault counted and recorded (R496). -/
def Part.faulted (event : Nat) (q : Part) : Part := { q with faults := inc q.faults, faultEvent := event, faultStep := q.step % 2 ^ 40 }

/-- A partition fault counted, recorded, logged and told (R496, R497). -/
def State.faultTold (s : State) (p event : Nat) : State :=
  let u := s.updPart p (Part.faulted event)
  (u.logP u.leadNow 0x92 0xFFFF p [partFaultWord (u.part p)]).notice ⟨u.tm.now, (u.steward u.leadNow).head % 2 ^ 32, 0x92, 3, u.leadNow, 0xFFFF, p, 0,
    [partFaultWord (u.part p)]⟩

theorem partFault_eq (s : State) (p event : Nat) (abort : Bool) : s.partFault p event abort = s.faultTold p event ∨
    ∃ payload, s.partFault p event abort = ((s.faultTold p event).sendAborts p none payload).jobAbort p payload := by
  show (if _ then _ else s.faultTold p event) = _ ∨ _
  split
  · next h => exact .inr ⟨_, if_pos h⟩
  · exact .inl rfl

/-- What a partition fault may change (R496 to R500). -/
abbrev faultPieces : List Sys2Proof.Piece := [.partitions, .network, .stewards, .firmware, .faults, .structure_]

theorem faultTold_keeps (s : State) (p event : Nat) : Keeps [.partitions, .network, .stewards, .firmware, .faults] s (s.faultTold p event) :=
  .trans ((updPart_keeps _ _ _).mono (by decide)) (.trans ((logP_keeps _ _ _ _ _ _).mono (by decide)) ((notice_keeps _ _).mono (by decide)))

theorem faultTold_part_same (s : State) (p event : Nat) : (s.faultTold p event).part p = (s.part p).faulted event := by
  unfold State.faultTold
  dsimp only
  rw [part_of_keeps (notice_keeps _ _) (by decide), part_of_keeps (logP_keeps _ _ _ _ _ _) (by decide), updPart_part_same]

theorem partFault_keeps (s : State) (p event : Nat) (abort : Bool) : Keeps faultPieces s (s.partFault p event abort) := by
  have htold := (faultTold_keeps s p event).mono (m := faultPieces) (by decide)
  obtain h | ⟨payload, h⟩ := partFault_eq s p event abort <;> rw [h]
  · exact htold
  · exact htold.trans (((sendAborts_keeps _ _ _ _).mono (by decide)).trans ((jobAbort_keeps _ _ _).mono (by decide)))

/-- A partition fault leaves its record, whether or not the job is aborted (R496, R500). -/
theorem partFault_sameFaults (s : State) (p event : Nat) (abort : Bool) :
    SameFaults ((s.part p).faulted event) ((s.partFault p event abort).part p) := by
  rw [← faultTold_part_same]
  obtain h | ⟨payload, h⟩ := partFault_eq s p event abort <;> rw [h]
  · exact .refl _
  · have habort := jobAbort_sameFaults ((s.faultTold p event).sendAborts p none payload) p payload
    rwa [part_of_keeps (sendAborts_keeps _ _ _ _) (by decide)] at habort

/-! ## TOKEN_TIMEOUT (R222) -/

/-- Partition q with a timeout of a stream counted and noted. -/
def Part.timedOut (sid : Nat) (q : Part) : Part :=
  { updStream q sid (fun st => { st with timedOut := true }) with tokenTimeout := inc q.tokenTimeout }

theorem timedOut_streamOf (sid : Nat) (q : Part) : (streamOf (q.timedOut sid) sid).timedOut = true := by
  simp [streamOf, Part.timedOut, updStream]

/-- A timeout of a stream counted, noted and logged by the lead (R222). -/
def State.timeoutLogged (s : State) (p sid : Nat) : State :=
  let u := s.updPart p (Part.timedOut sid)
  u.logP u.leadNow 0x31 0xFFFF p [schLoadStatus (u.part p)]

theorem noteTimeout_eq (s : State) (p sid : Nat) : s.noteTimeout p sid = (s.timeoutLogged p sid).partFault p 0x31 true := rfl

theorem timeoutLogged_keeps (s : State) (p sid : Nat) : Keeps [.partitions, .stewards, .firmware] s (s.timeoutLogged p sid) :=
  ((updPart_keeps _ _ _).mono (by decide)).trans ((logP_keeps _ _ _ _ _ _).mono (by decide))

theorem timeoutLogged_part_same (s : State) (p sid : Nat) : (s.timeoutLogged p sid).part p = (s.part p).timedOut sid := by
  rw [State.timeoutLogged, part_of_keeps (logP_keeps _ _ _ _ _ _) (by decide), updPart_part_same]

theorem noteTimeout_sameFaults (s : State) (p sid : Nat) :
    SameFaults (((s.part p).timedOut sid).faulted 0x31) ((s.noteTimeout p sid).part p) := by
  rw [noteTimeout_eq, ← timeoutLogged_part_same]
  exact partFault_sameFaults _ _ _ _

theorem noteTimeout_keeps (s : State) (p sid : Nat) : Keeps faultPieces s (s.noteTimeout p sid) := by
  rw [noteTimeout_eq]
  exact ((timeoutLogged_keeps s p sid).mono (by decide)).trans (partFault_keeps _ _ _ _)

section Timeout

variable {s : State} {p sid i : Nat} {ws : List W64} {h : Sched} {errs : List MemErr}

/-- A wait that stays unmet WAIT_LIMIT rounds after its planned round is counted and is a partition fault (R222). -/
theorem runs_tokenTimeout (hop : s.operational = true) (hmay : mayIssue (s.part p) sid = true) (honce : (streamOf (s.part p) sid).timedOut = false)
    (hnext : s.nextEntry p sid errs = (some (i, ws), s)) (hsched : (s.part p).sched = some h)
    (hlate : planned (s.part p) (s.part p).step (eRound ws) + (h.waitLimit : Int) ≤ s.roundNow (s.part p))
    (hunmet : waitsMet (s.part p) sid ws = false) :
    Runs (.tokenTimeout p sid errs) s fun t =>
      (t.part p).tokenTimeout = inc (s.part p).tokenTimeout ∧ (streamOf (t.part p) sid).timedOut = true ∧ (t.part p).faultEvent = 0x31 ∧
        (t.part p).faults = inc (s.part p).faults ∧ t.mem = s.mem ∧ t.pos = s.pos ∧ t.tm = s.tm := by
  have hsame := noteTimeout_sameFaults s p sid
  have hkeeps := noteTimeout_keeps s p sid
  refine ⟨s.noteTimeout p sid, congrArg Host.Outcome.next ?_, hsame.timeouts, (hsame.timedOut sid).trans (timedOut_streamOf sid _), hsame.event,
    hsame.count, hkeeps .memory (by decide), hkeeps .positions (by decide), hkeeps .time (by decide)⟩
  rw [State.opTokenDue, State.opTokenTimeout, whenOp_of_operational hop]
  simp [hmay, honce, hnext, hsched, hlate, hunmet]

theorem idles_tokenTimeout_again (hdone : (streamOf (s.part p) sid).timedOut = true) : Idles (.tokenTimeout p sid errs) s := by
  refine congrArg Host.Outcome.next ?_
  rw [State.opTokenDue, State.opTokenTimeout, whenOp_of_idle]
  simp [hdone]

theorem idles_tokenTimeout_early (hnext : s.nextEntry p sid errs = (some (i, ws), s)) (hsched : (s.part p).sched = some h)
    (hearly : s.roundNow (s.part p) < planned (s.part p) (s.part p).step (eRound ws) + (h.waitLimit : Int)) :
    Idles (.tokenTimeout p sid errs) s := by
  refine congrArg Host.Outcome.next ?_
  rw [State.opTokenDue, State.opTokenTimeout, whenOp_of_idle]
  simp [hnext, hsched, Int.not_le.mpr hearly]

end Timeout

/-! ## The obligation on layers, step boundaries and waits -/

/-- Settles O39, clause by clause: an attempt is accepted or replayed at its close, a replay reissues the layer's entries, a boundary that is
ready takes the partition into its next step, and a wait unmet WAIT_LIMIT rounds is a fault once. -/
theorem layersCloseAndStepsEnd : Obligations.LayersCloseAndStepsEnd := by
  refine ⟨fun s p lidx l hop hlayer hwait hclosed hst hlost hovf hceil => ?_,
    fun s p lidx l hop hlayer hwait hclosed hst hlost _ hceil hraised =>
      runs_layerClose_atCeiling ⟨hop, hlayer, hwait, hclosed, hst⟩ hlost hceil hraised,
    fun s p lidx l up hop hlayer hwait hclosed hst hup hwhy => ?_,
    fun s p lidx l hlayer hwhy => idles_layerClose hlayer hwhy,
    fun s p lidx l hop hlayer hwait hst hready =>
      (runs_layerReplayIssue hop hlayer hwait hst hready).mono fun t ⟨hnew, hrest⟩ => ⟨⟨_, hnew, rfl⟩, hrest⟩,
    fun s p lidx l hlayer hearly => idles_layerReplayIssue hlayer hearly,
    fun s p hop hready => ?_,
    fun s p h => idles_stepBoundary h,
    fun s p l h => idles_stepBoundary (boundaryReady_of_layer h),
    fun s p sid i ws h errs hop hmay honce hnext hsched hlate hunmet => runs_tokenTimeout hop hmay honce hnext hsched hlate hunmet,
    fun s p sid errs h => idles_tokenTimeout_again h,
    fun s p sid i ws h errs _ hnext hsched hearly => idles_tokenTimeout_early hnext hsched hearly⟩
  · obtain rfl := lidx_of_layerOf hlayer
    exact runs_layerClose_accepted ⟨hop, hlayer, hwait, hclosed, hst⟩ hlost hovf hceil
  · refine (runs_layerClose_replayed ⟨hop, hlayer, hwait, hclosed, hst⟩ hup hwhy).mono fun t h => ?_
    obtain ⟨hagain, hstreams, hslot, hrest⟩ := h
    have hstate : (t.slot l.slot).state = if up then (raiseLevel (s.slot l.slot) l.amax).state else (s.slot l.slot).state := by
      rw [hslot]; split <;> rfl
    refine ⟨⟨_, hagain, rfl, rfl, rfl, rfl, rfl, rfl, rfl, rfl⟩, hstreams, by rw [hslot], hstate, fun hyes => ?_, hrest⟩
    have hbelow : atCeiling (s.slot l.slot) = false := by
      rw [hup, Bool.and_eq_true, Bool.not_eq_true'] at hyes
      exact hyes.2
    rw [hstate, if_pos hyes, raiseLevel_level l.amax hbelow]
  · refine (runs_stepBoundary hop hready).mono fun t h => ?_
    obtain ⟨hpart, hslots, hbounds, hother, hkeeps⟩ := h
    refine ⟨by rw [hpart]; rfl, by rw [hpart]; rfl, fun e he => ?_, fun n hn => by rw [hslots, if_pos hn]; rfl,
      fun n hn => by rw [hslots, if_neg hn], by rw [hpart]; rfl, hbounds, hother, hkeeps⟩
    rw [hpart] at he
    obtain ⟨x, -, rfl⟩ := List.mem_map.mp he
    exact ⟨rfl, rfl, rfl⟩

end Sys2Proof.Machine

/-! ## Module time across commands (R197 to R202): what every command but those of PPS_IN and PTP leaves as it was, or resets -/

namespace Sys2Proof.Machine

/-- What the invariant of module time speaks of: the time itself, its rate, its sources and its state; the flags, counters and moments that
registers show beside them are left out. -/
def TimeSt.core (t : TimeSt) : TimeSt :=
  { TimeSt.reset with now := t.now, drift := t.drift, acc := t.acc, st := t.st, source := t.source, everLocked := t.everLocked,
                      usable := t.usable, freq := t.freq, sides := t.sides }

theorem timeInv_core (t : TimeSt) : TimeInv t.core ↔ TimeInv t := Iff.rfl

/-- No connection and no partition is left: nothing waits that a frame brought, and no schedule runs. -/
def Vacant (s : State) : Prop := s.net.conns = [] ∧ s.parts = []

/-- Between s and t module time either stays or goes back to its reset value with every connection and every partition. -/
def TimeHeld (s t : State) : Prop := t.tm.core = s.tm.core ∨ (t.tm.core = TimeSt.reset ∧ Vacant t)

namespace TimeHeld

variable {s t u : State}

theorem of_core (h : t.tm.core = s.tm.core) : TimeHeld s t := .inl h
theorem of_tm (h : t.tm = s.tm) : TimeHeld s t := .inl (by rw [h])
theorem refl (s : State) : TimeHeld s s := of_tm rfl

/-- What follows a reset within one command finds nothing to act on. -/
theorem trans (h₁ : TimeHeld s u) (h₂ : TimeHeld u t) (hidle : Vacant u → t = u) : TimeHeld s t := by
  obtain h₁ | ⟨hreset, hvacant⟩ := h₁
  · obtain h₂ | h₂ := h₂
    · exact .inl (h₂.trans h₁)
    · exact .inr h₂
  · rw [hidle hvacant]
    exact .inr ⟨hreset, hvacant⟩

/-- An operation that leaves module time alone comes before. -/
theorem after (h₁ : u.tm = s.tm) (h₂ : TimeHeld u t) : TimeHeld s t := by
  unfold TimeHeld at h₂ ⊢
  rwa [h₁] at h₂

theorem foldl {α : Type} (l : List α) (g : State → α → State) (s : State) (h : ∀ s a, TimeHeld s (g s a))
    (hidle : ∀ s a, Vacant s → g s a = s) : TimeHeld s (l.foldl g s) := by
  induction l generalizing s with
  | nil => exact refl s
  | cons a l ih =>
    refine (h s a).trans (ih _) fun hv => ?_
    exact List.foldlRecOn l g (motive := (· = g s a)) rfl fun b hb x _ => by rw [hb, hidle _ x hv]

/-- The invariant of module time holds of a module whose time is held. -/
theorem timeInv (h : TimeHeld s t) (hs : TimeInv s.tm) : TimeInv t.tm := by
  rw [← timeInv_core]
  obtain h | ⟨h, -⟩ := h
  · rwa [h, timeInv_core]
  · rw [h]
    simp [TimeInv, TimeSt.reset, FreqOk]

end TimeHeld

/-! ### Resets (R482, R483) -/

theorem vacant_conn {s : State} (h : Vacant s) (c : Nat) : s.conn c = .reset := by rw [State.conn, h.1, Table.get_nil]
theorem vacant_part {s : State} (h : Vacant s) (p : Nat) : s.part p = .reset := by rw [State.part, h.2, Table.get_nil]

theorem vacant_serves {s : State} (h : Vacant s) (c : Nat) : s.serves c = false := by
  simp [State.serves, vacant_conn h, Conn.reset]

theorem powerRemoved_timeHeld (s : State) (ph : Phase) : TimeHeld s (s.powerRemoved ph) := .inr ⟨rfl, rfl, rfl⟩
theorem coldReset_timeHeld (s : State) : TimeHeld s s.coldReset := .inr ⟨rfl, rfl, rfl⟩

/-! ## A module-warm reset (R483, R486) -/

theorem applyFloor_keeps (s : State) (cause : Nat) : Keeps [.power, .positions] s (s.applyFloor cause) := by
  have hbins : Keeps [.power] s (columns.foldl (fun s c => s.updColPwr c (lowerBin 8 cause)) s) := .foldl _ _ _ fun _ _ => .of_patch rfl
  exact (hbins.mono (by decide)).trans (.of_patch rfl)

/-- Lowering the columns' bins leaves the pins, and positions of which none is used. -/
theorem applyFloor_pins (s : State) (cause : Nat) :
    (s.applyFloor cause).pwr.pins = s.pwr.pins ∧ (s.pos = [] → (s.applyFloor cause).pos = []) := by
  have hbins : ∀ u : State, u.pwr.pins = s.pwr.pins ∧ u.pos = s.pos → ∀ c ∈ columns,
      (u.updColPwr c (lowerBin 8 cause)).pwr.pins = s.pwr.pins ∧ (u.updColPwr c (lowerBin 8 cause)).pos = s.pos := fun _ hu _ _ => hu
  obtain ⟨hpins, hpos⟩ := List.foldlRecOn columns (fun (s : State) c => s.updColPwr c (lowerBin 8 cause)) ⟨rfl, rfl⟩ hbins
  exact ⟨hpins, fun h => by simp [State.applyFloor, State.reclock, hpos, h]⟩

/-- THROT_N sampled as the module starts: held active, it keeps the floor in force (R516). -/
def State.floorSampled (s : State) : State :=
  if testBit s.pwr.pins pinThrot then (s.updPwr fun p => { p with throt := true }).applyFloor 5 else s

theorem pinsSampled_eq (s : State) : s.pinsSampled =
    if testBit s.floorSampled.pwr.pins pinReset then s.floorSampled.updDev fun d => { d with resetHeld := true } else s.floorSampled := rfl

theorem floorSampled_keeps (s : State) : Keeps [.power, .positions] s s.floorSampled := by
  unfold State.floorSampled
  split
  · exact .trans (.of_patch rfl) (applyFloor_keeps _ 5)
  · exact .refl _ s

theorem floorSampled_pins (s : State) : s.floorSampled.pwr.pins = s.pwr.pins ∧ (s.pos = [] → s.floorSampled.pos = []) := by
  unfold State.floorSampled
  split
  · exact applyFloor_pins _ 5
  · exact ⟨rfl, id⟩

/-- Pins held through a reset change power, the timers and whether the module is held (R486, R516). -/
theorem pinsSampled_keeps (s : State) : Keeps [.power, .positions, .faults] s s.pinsSampled := by
  have hfloor := (floorSampled_keeps s).mono (m := [.power, .positions, .faults]) (by decide)
  rw [pinsSampled_eq]
  split
  · exact hfloor.trans (.of_patch rfl)
  · exact hfloor

theorem pinsSampled_pins (s : State) : s.pinsSampled.pwr.pins = s.pwr.pins ∧ (s.pos = [] → s.pinsSampled.pos = []) := by
  rw [pinsSampled_eq]
  split <;> exact floorSampled_pins s

/-- RESET_REQ_N that is active holds the module that starts (R486). -/
theorem pinsSampled_dev {s : State} (h : testBit s.pwr.pins pinReset = true) : s.pinsSampled.dev = { s.dev with resetHeld := true } := by
  rw [pinsSampled_eq, if_pos (by rwa [(floorSampled_pins s).1])]
  simp [State.updDev, show s.floorSampled.dev = s.dev from floorSampled_keeps s .faults (by decide)]

/-- The ROM sequence changes power, the flash, the firmware and MGMT (R444 to R446). -/
theorem romSequence_keeps (s : State) : Keeps [.power, .flash, .firmware, .network] s s.romSequence := by
  unfold State.romSequence
  dsimp only
  split
  · exact .of_patch rfl
  · split <;> exact .of_patch rfl

theorem romSequence_conns (s : State) : s.romSequence.net.conns = s.net.conns := by
  unfold State.romSequence
  dsimp only
  split
  · rfl
  · split
    · rfl
    · simp only [updPwr_net, raiseMgmt_net, updFw_net]

theorem romSequence_pins (s : State) : s.romSequence.pwr.pins = s.pwr.pins := by
  unfold State.romSequence
  dsimp only
  split
  · rfl
  · split <;> rfl

/-- An alarm of a record counts and is logged; source 0x5 never zeroises (R476). -/
theorem alarm_five_keeps (s : State) : Keeps [.stewards, .firmware] s (s.alarm 5) := by
  rw [alarm_eq, if_pos (.inl rfl)]
  exact .trans (.of_patch rfl) (logLead_keeps _ _ _)

/-- The security record checked as the module starts (R450). -/
def State.secAlarm (s : State) : State := if s.secRec.isNone then (s.updFw fun f => { f with secBad := true }).alarm 5 else s

theorem romAlarms_eq (s : State) : s.romAlarms =
    if s.secAlarm.seqRec.isNone then (s.secAlarm.updFw fun f => { f with seqBad := true }).alarm 5 else s.secAlarm := rfl

theorem romAlarms_keeps (s : State) : Keeps [.stewards, .firmware] s s.romAlarms := by
  have hbad : ∀ (u : State) (f : Fw → Fw), Keeps [.stewards, .firmware] u ((u.updFw f).alarm 5) := fun u f =>
    .trans (.of_patch rfl) (alarm_five_keeps _)
  have hsec : Keeps [.stewards, .firmware] s s.secAlarm := by
    unfold State.secAlarm
    split
    · exact hbad s _
    · exact .refl _ s
  rw [romAlarms_eq]
  split
  · exact hsec.trans (hbad _ _)
  · exact hsec

/-- The start that ends a reset: pins sampled, the ROM sequence, the alarms of records, and the cause of the reset logged. -/
def State.restarted (u : State) (cause : W64) : State := u.pinsSampled.romSequence.romAlarms.logLead 0x98 cause

theorem restarted_keeps (u : State) (cause : W64) :
    Keeps [.power, .positions, .faults, .flash, .firmware, .network, .stewards] u (u.restarted cause) :=
  .trans ((pinsSampled_keeps u).mono (by decide)) (.trans ((romSequence_keeps _).mono (by decide))
    (.trans ((romAlarms_keeps _).mono (by decide)) ((logLead_keeps _ _ _).mono (by decide))))

/-- After the ROM sequence a start changes the log and the firmware alone. -/
theorem restarted_after_rom (u : State) (cause : W64) : Keeps [.stewards, .firmware] u.pinsSampled.romSequence (u.restarted cause) :=
  (romAlarms_keeps _).trans (logLead_keeps _ _ _)

/-- u is what a warm reset of s leaves before the module starts again (R483, R509). -/
structure WarmStart (s : State) (source : Nat) (u : State) : Prop where
  conns : u.net.conns = []
  parts : u.parts = []
  pos : u.pos = []
  tm : u.tm = { TimeSt.reset with clk := s.tm.clk }
  pins : u.pwr.pins = s.pwr.pins
  source : u.dev.source = source
  domain : u.dev.domain = 1
  count : u.dev.warmCount = s.dev.warmCount + 1
  margins : u.dev.margins = s.dev.margins

theorem warmReset_start (s : State) (source : Nat) : ∃ u cause, WarmStart s source u ∧ s.warmReset source = u.restarted cause := by
  refine ⟨_, _, ?_, rfl⟩
  constructor <;> exact List.foldlRecOn columns _ rfl fun _ h _ _ => h

section Warm

variable {s u : State} {source : Nat} (h : WarmStart s source u) (cause : W64)
include h

theorem restarted_vacant : Vacant (u.restarted cause) := by
  refine ⟨?_, ((restarted_keeps u cause) .partitions (by decide)).trans h.parts⟩
  rw [show (u.restarted cause).net = _ from restarted_after_rom u cause .network (by decide), romSequence_conns,
    show u.pinsSampled.net = _ from pinsSampled_keeps u .network (by decide), h.conns]

theorem restarted_core : (u.restarted cause).tm.core = TimeSt.reset := by
  rw [show (u.restarted cause).tm = _ from restarted_keeps u cause .time (by decide), h.tm]
  rfl

end Warm

theorem warmReset_timeHeld (s : State) (source : Nat) : TimeHeld s (s.warmReset source) := by
  obtain ⟨u, cause, hstart, heq⟩ := warmReset_start s source
  rw [heq]
  exact .inr ⟨restarted_core hstart cause, restarted_vacant hstart cause⟩

theorem startWarm_timeHeld (s : State) (source : Nat) : TimeHeld s (s.startWarm source) := by
  unfold State.startWarm
  split
  · exact .of_tm rfl
  · exact warmReset_timeHeld s source

/-! ### Commands that may reset the module, or write its time registers -/

theorem TimeHeld.whenUp {s : State} {f : State → State} (h : ∀ s, TimeHeld s (f s)) : TimeHeld s (s.whenUp f) := by
  unfold State.whenUp
  split
  · exact h s
  · exact .refl s

theorem TimeHeld.whenBased {s : State} {f : State → State} (h : ∀ s, TimeHeld s (f s)) : TimeHeld s (s.whenBased f) := by
  unfold State.whenBased
  split
  · exact h s
  · exact .refl s

theorem opRegOff_timeHeld (s : State) : TimeHeld s s.opRegOff := by
  unfold State.opRegOff
  split
  · exact powerRemoved_timeHeld s _
  · exact .refl s

theorem opBrownOut_timeHeld (s : State) (volts us : Nat) : TimeHeld s (s.opBrownOut volts us) := by
  unfold State.opBrownOut
  split
  · exact .refl s
  · split
    · exact powerRemoved_timeHeld s _
    · exact .refl s

theorem opOverVoltage_timeHeld (s : State) (volts us : Nat) : TimeHeld s (s.opOverVoltage volts us) := by
  unfold State.opOverVoltage
  split
  · exact .refl s
  · split
    · exact powerRemoved_timeHeld s _
    · exact .refl s

theorem opTrip_timeHeld (s : State) (ms regTemp : Nat) : TimeHeld s (s.opTrip ms regTemp) := by
  refine .whenUp fun s => ?_
  split
  · exact powerRemoved_timeHeld s _
  · exact .refl s

theorem opResetReq_timeHeld (s : State) (us : Nat) : TimeHeld s (s.opResetReq us) := by
  refine .whenUp fun s => ?_
  split
  · exact .refl s
  · split
    · exact .of_tm (pinFiltered_frame s _).1
    · exact .after (pinSet_frame s _ _).1 (startWarm_timeHeld _ 2)

theorem opDumpDone_timeHeld (s : State) (unreachable : List Nat) : TimeHeld s (s.opDumpDone unreachable) := by
  refine .whenUp fun s => ?_
  dsimp only
  split
  · exact .refl s
  · split
    · refine .after ?_ (warmReset_timeHeld _ _)
      simp
    · exact .of_tm (by simp)

/-- PPS_IN silent sets only its flag (R525). -/
theorem opPinHeld_timeHeld (s : State) (pin : Nat) : TimeHeld s (s.opPinHeld pin) := by
  refine .whenBased fun s => ?_
  dsimp only
  split
  all_goals
    split
    · exact .of_tm (by simp)
    · split
      · exact .of_core (by rw [logLead_tm]; rfl)
      · split <;> exact .of_tm (by simp)

theorem opDevReset_timeHeld (s : State) (domain target : Nat) : TimeHeld s (s.opDevReset domain target).2 := by
  unfold State.opDevReset
  dsimp only
  split
  · split <;> exact .of_tm (by simp)
  · split <;> exact .of_tm (by simp)
  · exact .of_tm (by simp)
  · exact .of_tm (by simp)
  · exact startWarm_timeHeld s 1
  · exact coldReset_timeHeld s
  · exact .refl s

/-! ### Structure images: PPS_IN is enabled or not (R237) -/

theorem writeModule_core (s : State) (rs : List XRec) : (s.writeModule rs).tm.core = s.tm.core := by
  have hports : ((List.range 16).foldl (fun s n => s.writePort rs n) s).tm = s.tm := foldl_tm _ _ _ fun s n => (writePort_frame s rs n).1
  have hramps : ∀ (u : State) (k : Nat) (l : List Nat) (v : W64), ((l.foldl (fun s i => s.bookFill (16 * k + i)) u).updCluster k fun q =>
      { q with ramp := v }).tm = u.tm := fun u k l v => foldl_tm _ _ _ fun s i => (bookFill_frame s _).1
  have hlimits : ∀ (u : State) (g : Nat → ColPwr → ColPwr), (columns.foldl (fun s c => s.updColPwr c (g c)) u).tm = u.tm := fun u g =>
    foldl_tm _ _ _ fun _ _ => rfl
  unfold State.writeModule
  dsimp only
  rw [foldl_tm _ _ _ fun u k => hramps u k _ _, (tracePower_frame _ _).1, hlimits]
  simp [TimeSt.core, hports]

theorem clearModule_core (s : State) : s.clearModule.tm.core = s.tm.core := by
  unfold State.clearModule
  dsimp only
  have hseqs : ∀ u : State, ((List.range 16).foldl (fun s p => s.updPart p fun q => { q with seq := 0 }) u).tm = u.tm := fun u =>
    foldl_tm _ _ _ fun _ _ => rfl
  rw [hseqs, updPwr_tm, raiseMgmt_tm, writeModule_core]

theorem ownerDoc_core (s : State) (bs : Bytes) (mgmt : Bool) : (s.ownerDoc bs mgmt).tm.core = s.tm.core := by
  unfold State.ownerDoc
  split
  · dsimp only
    split <;> simp
  · dsimp only
    rw [logLead_tm, measure_tm, traceAct_tm, updFw_tm, clearModule_core, updXsi_tm]
    exact congrArg TimeSt.core (writeSec_tm _ _)

theorem opActivate_core (s : State) (mgmt : Bool) : (s.opActivate mgmt).2.tm.core = s.tm.core := by
  unfold State.opActivate
  dsimp only
  split
  · rfl
  · split
    · rw [ownerDoc_core]; simp
    · (repeat' split) <;> simp

theorem xsiEnd_tm (s : State) (img : Bytes) (cause : Nat) (store : Bool) : (s.xsiEnd img cause store).tm = s.tm := by
  unfold State.xsiEnd
  dsimp only
  (repeat' split) <;> simp

theorem createParts_tm (s : State) (rs fresh : List XRec) :
    (fresh.foldl (fun s r => if s.columnsServe rs r then s.createPart rs r else s) s).tm = s.tm := by
  refine foldl_tm _ _ _ fun u r => ?_
  split
  · exact (createPart_frame u rs r).1
  · rfl

/-- An apply that goes through its steps writes PPS_IN's enable in the module's sections, and nothing of time after them. -/
theorem xsiFinish_core (s : State) (img : Bytes) (rs : List XRec) : (s.xsiFinish img rs).tm.core = s.tm.core := by
  have hsteps : ∃ (u : State) (cause : Nat) (store : Bool), u.tm.core = s.tm.core ∧ s.xsiFinish img rs = u.xsiEnd img cause store := by
    unfold State.xsiFinish
    dsimp only
    generalize hmodule : (if xModule img then s.writeModule rs else s) = t
    have ht : t.tm.core = s.tm.core := by
      rw [← hmodule]
      split
      · exact writeModule_core s rs
      · rfl
    refine ⟨_, _, _, ?_, rfl⟩
    rw [measure_tm, ← ht]
    split
    · simp [createParts_tm]
    · split <;> simp [createParts_tm]
  obtain ⟨u, cause, store, hu, hend⟩ := hsteps
  rw [hend, xsiEnd_tm, hu]

theorem xsiOn_core (s : State) : s.xsiOn.tm.core = s.tm.core := by
  unfold State.xsiOn
  split
  · split
    · split
      · exact xsiFinish_core s _ _
      · rfl
    · rfl
  · rfl

theorem opXsiApply_timeHeld (s : State) : TimeHeld s s.opXsiApply := by
  refine .whenBased fun s => ?_
  split
  · split
    · exact .refl s
    · split
      · refine .of_core ((xsiOn_core _).trans ?_)
        rw [foldl_tm _ _ _ fun u p => (teardown_frame u p true).1]
        rfl
      · exact .refl s
  · exact .refl s

theorem opDrainDone_timeHeld (s : State) (p : Nat) : TimeHeld s (s.opDrainDone p) :=
  .whenUp fun s => .of_core ((xsiOn_core _).trans (by rw [(tearDone_frame s p).1]))

/-- The module that a start brings to standby keeps its time. -/
theorem standby_tm (u : State) :
    (if u.fw.service = .starting then (u.updFw fun f => { f with service := .standby }).logLead 0x01 (u.updFw fun f =>
      { f with service := .standby }).fwStatus else u).tm = u.tm := by
  split
  · rw [logLead_tm, updFw_tm]
  · rfl

theorem opStored_timeHeld (s : State) : TimeHeld s s.opStored := by
  refine .whenUp fun s => ?_
  dsimp only
  split
  · exact .refl s
  · split
    · exact .of_tm (raiseMgmt_tm s)
    · refine .of_core ((congrArg TimeSt.core (standby_tm _)).trans ?_)
      rw [← raiseMgmt_tm s]
      split
      · split
        · rw [(xsiReject_frame _ _).1]
        · rw [(restoreSeqs_frame _ _).1, xsiFinish_core]
      · split
        · rw [(xsiReject_frame _ _).1]
        · rfl

end Sys2Proof.Machine

/-! ### Register accesses and packets delivered (R303, R316, R317) -/

namespace Sys2Proof.Machine

theorem clearGlobal_core (s : State) (b : RegBlock) (r : Nat) : (s.clearGlobal b r).tm.core = s.tm.core := by
  unfold State.clearGlobal
  split <;> rfl

/-- A read clears no more of module time than its counters (R11). -/
theorem clearReg_core (s : State) (b : RegBlock) (off : Nat) : (s.clearReg b off).tm.core = s.tm.core := by
  unfold State.clearReg
  dsimp only
  split
  case h_17 => exact clearGlobal_core s _ _
  all_goals first | rfl | (split <;> rfl)

theorem ctlRead_core (s : State) (c a : Nat) : (s.ctlRead c a).2.2.tm.core = s.tm.core := by
  unfold State.ctlRead
  split
  · rfl
  · dsimp only
    split
    · rfl
    · exact clearReg_core s _ _

theorem writeReg_timeHeld (s : State) (c : Nat) (b : RegBlock) (off : Nat) (v : W64) (errs : List MemErr) :
    TimeHeld s (s.writeReg c b off v errs).2 := by
  unfold State.writeReg
  split
  case h_6 =>
    split
    · exact .of_core (opActivate_core s _)
    · exact .refl s
  case h_14 => exact opDevReset_timeHeld s _ _
  all_goals exact .of_tm (by (repeat' split) <;> simp)

theorem completeOps_tm (n : Nat) (s : State) (c : Nat) : (State.completeOps n s c).tm = s.tm := by
  induction n generalizing s with
  | zero => rfl
  | succ n ih =>
    unfold State.completeOps
    split
    · simp [ih]
    · rfl

theorem ctlWrite_timeHeld (s : State) (c a : Nat) (v : W64) (errs : List MemErr) : TimeHeld s (s.ctlWrite c a v errs).2 := by
  unfold State.ctlWrite
  split
  · exact .refl s
  · split
    · exact .refl s
    · split
      · split
        · exact .refl s
        · exact .of_tm (by simp [completeOps_tm])
      · exact writeReg_timeHeld s c _ _ v errs

theorem answer_vacant {s : State} (h : Vacant s) (c : Nat) (p : Pkt) (status : Nat) (v : W64) : s.answer c p status v = s := by
  simp [State.answer, vacant_serves h]

theorem TimeHeld.answered {s u : State} (h : TimeHeld s u) (c : Nat) (p : Pkt) (status : Nat) (v : W64) :
    TimeHeld s (u.answer c p status v) :=
  h.trans (.of_tm (answer_frame u c p status v).1) fun hv => answer_vacant hv c p status v

theorem ctlIn_timeHeld (s : State) (c : Nat) (p : Pkt) (errs : List MemErr) : TimeHeld s (s.ctlIn c p errs) := by
  have hdrop := (dropRxOp_frame s c (pktOp p)).1
  have hanswer : ∀ status v, TimeHeld s ((s.dropRxOp c (pktOp p)).answer c p status v) := (TimeHeld.of_tm hdrop).answered c p
  unfold State.ctlIn
  dsimp only
  split
  · exact hanswer _ _
  · split
    · exact (TimeHeld.of_core ((ctlRead_core _ _ _).trans (congrArg TimeSt.core hdrop))).answered _ _ _ _
    · exact (TimeHeld.after hdrop (ctlWrite_timeHeld _ _ _ _ _)).answered _ _ _ _
    · split
      · exact hanswer _ _
      · exact .of_tm ((closeIn_frame _ c p).1.trans hdrop)
    · exact .of_tm hdrop
    · exact .of_tm hdrop
    · exact .of_tm hdrop
    · (repeat' split) <;> exact hanswer _ _

theorem deliverPkt_timeHeld (s : State) (c : Nat) (p : Pkt) (errs : List MemErr) : TimeHeld s (s.deliverPkt c p errs).2 := by
  unfold State.deliverPkt
  by_cases hctl : p.op = opCtl
  · simp only [hctl, show opCtl ≠ opWrite ∧ opCtl ≠ opRead ∧ opCtl ≠ opReduce ∧ opCtl ≠ opSend by decide, if_false, if_true]
    split
    · exact .of_tm (setDma_frame _ _ _).1
    · exact ctlIn_timeHeld s c p errs
  · simp only [if_neg hctl]
    exact .of_tm (by (repeat' split) <;> simp)

/-- A packet that is placed on arrival is no register access (R317). -/
theorem deliverPkt_tm_of_placed (s : State) (c : Nat) {p : Pkt} (errs : List MemErr) (h : placedNow p = true) :
    (s.deliverPkt c p errs).2.tm = s.tm := by
  have hctl : p.op ≠ opCtl := by
    rintro hctl
    rw [placedNow, hctl] at h
    exact absurd h (by decide)
  unfold State.deliverPkt
  simp only [if_neg hctl]
  (repeat' split) <;> simp

theorem deliver_vacant {s : State} (h : Vacant s) (n c : Nat) (errs : List MemErr) : State.deliver n s c errs = s := by
  cases n with
  | zero => rfl
  | succ n => simp [State.deliver, vacant_conn h, firstHeld, Conn.reset]

theorem deliver_timeHeld (n : Nat) (s : State) (c : Nat) (errs : List MemErr) : TimeHeld s (State.deliver n s c errs) := by
  induction n generalizing s with
  | zero => exact .refl s
  | succ n ih =>
    unfold State.deliver
    split
    · split
      · dsimp only
        split
        · refine .trans (.after ?_ (deliverPkt_timeHeld _ c _ errs)) (ih _) fun hv => deliver_vacant hv n c errs
          exact updConn_tm _ _ _
        · exact .refl s
      · exact .refl s
    · exact .refl s

theorem placeHeld_vacant {s : State} (h : Vacant s) (c : Nat) (errs : List MemErr) : s.placeHeld c errs = s := by
  simp [State.placeHeld, vacant_conn h, Conn.reset]

theorem placeHeld_tm (s : State) (c : Nat) (errs : List MemErr) : (s.placeHeld c errs).tm = s.tm := by
  unfold State.placeHeld
  refine List.foldlRecOn _ _ (motive := fun u : State => u.tm = s.tm) rfl fun u hu p hp => ?_
  have hplaced := (List.mem_filter.mp hp).2
  dsimp only
  split
  · exact hu
  · split
    · rw [deliverPkt_tm_of_placed _ c errs hplaced, updConn_tm, hu]
    · exact hu

theorem settleRx_vacant {s : State} (h : Vacant s) (c : Nat) (errs : List MemErr) : s.settleRx c errs = s := by
  simp [State.settleRx, placeHeld_vacant h, deliver_vacant h, vacant_serves h]

theorem settleRx_timeHeld (s : State) (c : Nat) (errs : List MemErr) : TimeHeld s (s.settleRx c errs) := by
  unfold State.settleRx
  dsimp only
  generalize hu : ((s.placeHeld c errs).deliver ((s.placeHeld c errs).conn c).rxHeld.length c errs).placeHeld c errs = u
  have h₁ : TimeHeld s u := by
    rw [← hu]
    exact .trans (.after (placeHeld_tm s c errs) (deliver_timeHeld _ _ _ _)) (.of_tm (placeHeld_tm _ _ _)) fun hv => placeHeld_vacant hv c errs
  generalize hw : u.deliver (u.conn c).rxHeld.length c errs = w
  have h₂ : TimeHeld s w := by
    rw [← hw]
    exact h₁.trans (deliver_timeHeld _ _ _ _) fun hv => deliver_vacant hv _ c errs
  split
  · next hserves => exact h₂.trans (.of_tm (completeOps_tm _ _ _)) fun hv => absurd hserves (by simp [vacant_serves hv])
  · exact h₂

theorem takeContent_tm (s : State) (c : Nat) (p : Pkt) (errs : List MemErr) : (s.takeContent c p errs).tm = s.tm := by
  unfold State.takeContent
  dsimp only
  split
  · next hplaced =>
    split
    · exact deliverPkt_tm_of_placed s c errs hplaced
    · rfl
  · split <;> rfl

theorem acceptPkt_timeHeld (s : State) (c : Nat) (rx : Rx) (p : Pkt) : TimeHeld s (s.acceptPkt c rx p) := by
  unfold State.acceptPkt
  split
  · exact .of_tm (by simp)
  · refine .after ?_ (settleRx_timeHeld _ c rx.errs)
    simp [takeContent_tm]

theorem windowIn_timeHeld (s : State) (c : Nat) (rx : Rx) (p : Pkt) : TimeHeld s (s.windowIn c rx p) := by
  have hack : ∀ u : State, TimeHeld s u → TimeHeld s (if (u.conn c).ackNow ∧ u.serves c then u.sendAck c none else u) := by
    intro u hu
    split
    · next hserves => exact hu.trans (.of_tm (sendAck_frame u c none).1) fun hv => absurd hserves.2 (by simp [vacant_serves hv])
    · exact hu
  unfold State.windowIn
  dsimp only
  generalize hu : (if rx.ce = true ∧ hostPkt (s.conn c) p = true then s.updConn c fun k => { k with rxCe := true } else s) = u
  have htm : u.tm = s.tm := by
    rw [← hu]
    split <;> rfl
  apply hack
  split
  · split
    · exact .of_tm (by rw [(countPort_frame _ _ _).1, htm])
    · exact .after htm (acceptPkt_timeHeld u c rx p)
  · split
    · exact .of_tm (by rw [updConn_tm, (countPort_frame _ _ _).1, htm])
    · exact .of_tm (by rw [(hdrDrop_frame _ _).1, htm])

theorem entryIn_timeHeld (s : State) (rx : Rx) (p : Pkt) : TimeHeld s (s.entryIn rx p) := by
  unfold State.entryIn
  dsimp only
  by_cases hs : s.serves p.dconn = true
  · simp only [hs, if_true]
    split
    · exact .of_tm (by simp)
    · split
      · exact .of_tm (by simp)
      · split
        · exact .of_tm (by simp)
        · split
          · exact .of_tm (by simp)
          · split
            · exact .of_tm (by simp)
            · split
              · exact .of_tm (by simp)
              · exact windowIn_timeHeld s _ rx p
  · simp only [if_neg hs]
    exact .of_tm (by (repeat' split) <;> simp)

theorem ownIn_timeHeld (s : State) (rx : Rx) : TimeHeld s (s.ownIn rx) := by
  unfold State.ownIn
  split
  · exact .of_tm (by simp)
  · split
    · exact .refl s
    · split
      · exact .of_tm (by simp)
      · dsimp only
        split
        · exact .of_tm (by simp)
        · split
          · exact .of_tm (by (repeat' split) <;> simp)
          · split
            · exact .of_tm (by (repeat' split) <;> simp)
            · refine .after ?_ (entryIn_timeHeld _ rx _)
              simp

/-- A frame received holds module time, whatever its packet does (R293 to R317). -/
theorem receive_timeHeld (s : State) (rx : Rx) (row : Nat → Pkt → Bool) : TimeHeld s (s.receive rx row) := by
  unfold State.receive
  split
  · exact .refl s
  · split
    · exact .refl s
    · dsimp only
      split
      · exact .of_tm (by simp)
      · exact .after (countRx_frame s rx).1 (ownIn_timeHeld _ rx)

theorem collResume_vacant {s : State} (h : Vacant s) (p : Nat) (errs : List MemErr) : s.collResume p errs = s := by
  simp [State.collResume, State.collServe, vacant_part h, Part.reset]

theorem regionOpens_timeHeld (s : State) (r : Nat) : TimeHeld s (s.regionOpens r) := by
  have hsettle : ∀ (l : List (Nat × Conn)) (u : State), TimeHeld u (l.foldl (fun s e => s.settleRx e.1 []) u) := fun l u =>
    .foldl l _ u (fun u e => settleRx_timeHeld u e.1 []) fun u e hv => settleRx_vacant hv e.1 []
  refine .whenUp fun s => ?_
  dsimp only
  refine .trans (.after (opInitDone_frame s r).1 (hsettle _ _)) (.of_tm (collResume_frame _ _ _).1) fun hv => ?_
  exact collResume_vacant hv _ _

/-- A register written by the originator of a row holds module time (R303). -/
theorem viaWrite_timeHeld (s : State) (v : Via) (a : Nat) (w : W64) (errs : List MemErr) : TimeHeld s (s.viaWrite v a w errs) := by
  unfold State.viaWrite
  split
  · exact .refl s
  · exact (ctlWrite_timeHeld s v.conn a w errs).answered _ _ _ _

theorem TimeHeld.within {s : State} {n bound : Nat} {f : State → State} (h : TimeHeld s (f s)) : TimeHeld s (s.within n bound f) := by
  unfold State.within
  split
  · exact h
  · exact .refl s

end Sys2Proof.Machine

/-! ## Time from PTP and PPS_IN: what each operation of the clock keeps (R197 to R201) -/

namespace Sys2Proof.Table

variable {α : Type}

/-- What a table holds at an index stands in it, or is the default. -/
theorem get_mem_or (d : α) (t : Table α) (i : Nat) : (i, get d t i) ∈ t ∨ get d t i = d := by
  induction t with
  | nil => exact .inr rfl
  | cons e t ih =>
    obtain ⟨j, v⟩ := e
    by_cases h : j = i
    · simp [get, h]
    · rw [show get d ((j, v) :: t) i = get d t i from if_neg h]
      exact ih.imp (List.mem_cons_of_mem _) id

theorem mem_set [DecidableEq α] {d : α} {t : Table α} {i : Nat} {v : α} {e : Nat × α} (h : e ∈ set d t i v) : e = (i, v) ∨ e ∈ t := by
  have herase : ∀ x, x ∈ erase t i → x ∈ t := fun x hx => by
    rw [erase_eq_filter] at hx
    exact (List.mem_filter.mp hx).1
  unfold set at h
  split at h
  · exact .inr (herase e h)
  · exact (mem_insert i v _ e h).imp id (herase e)

end Sys2Proof.Table

namespace Sys2Proof.Machine

theorem setBit_lt_four : ∀ m < 4, ∀ i < 2, setBit m i < 4 := by decide
theorem clearBit_lt_four : ∀ m < 4, ∀ i < 2, clearBit m i < 4 := by decide

/-- What is known of a source gives a frequency that an equipment clock follows, if it gives one (R198). -/
def PtpSide.FreqOk (d : PtpSide) : Prop := ∀ f, d.freq = some f → Sys2Proof.FreqOk f

theorem side_freqOk {s : State} (h : TimeInv s.tm) (plane : Nat) : (s.side plane).FreqOk := by
  obtain ⟨-, -, hsides, -⟩ := h
  obtain hmem | hreset := Table.get_mem_or PtpSide.reset s.tm.sides plane
  · exact fun f hf => hsides _ hmem f hf
  · intro f hf
    rw [State.side, hreset] at hf
    exact absurd hf (by simp [PtpSide.reset])

theorem updSide_timeInv {s : State} (h : TimeInv s.tm) (plane : Nat) {f : PtpSide → PtpSide} (hf : (f (s.side plane)).FreqOk) :
    TimeInv (s.updSide plane f).tm := by
  obtain ⟨hdrift, hfreq, hsides, hrest⟩ := h
  refine ⟨hdrift, hfreq, fun e he => ?_, hrest⟩
  obtain rfl | he := Table.mem_set he
  · exact hf
  · exact hsides e he

/-- A change of a side that leaves its frequency. -/
theorem updSide_timeInv_of_freq {s : State} (h : TimeInv s.tm) (plane : Nat) {f : PtpSide → PtpSide} (hf : ∀ d, (f d).freq = d.freq) :
    TimeInv (s.updSide plane f).tm := by
  refine updSide_timeInv h plane fun x hx => ?_
  rw [hf] at hx
  exact side_freqOk h plane x hx

theorem timeUnlock_timeInv {s : State} (h : TimeInv s.tm) : TimeInv s.timeUnlock.tm := by
  obtain ⟨hdrift, hfreq, hsides, hacc, -, hsource, -, husable⟩ := h
  unfold State.timeUnlock
  dsimp only
  rw [logLead_tm]
  refine ⟨hdrift, hfreq, hsides, hacc, by simp, ?_, ?_, husable⟩
  · dsimp only
    split <;> omega
  · dsimp only
    split <;> intro hthree <;> omega

theorem timeFrom_timeInv {s : State} (h : TimeInv s.tm) {plane : Nat} (hp : plane < 2) : TimeInv (s.timeFrom plane).tm := by
  have hside := side_freqOk h plane
  obtain ⟨hdrift, hfreq, hsides, hacc, hlocked, hsource, -, husable⟩ := h
  refine ⟨hdrift, ?_, hsides, hacc, hlocked, ?_, ?_, husable⟩
  · show FreqOk ((s.side plane).freq.getD s.tm.freq)
    cases hf : (s.side plane).freq with
    | none => exact hfreq
    | some f => exact hside f hf
  · show plane + 1 ≤ 3
    omega
  · show plane + 1 = 3 → _
    omega

/-- Time comes from one of the two planes (R198). -/
theorem timePlane_lt {s : State} {i : Nat} (h : s.timePlane = some i) : i < 2 := by
  have hbits : ∀ j ∈ bitsOf 2 s.tm.usable, j < 2 := fun j hj => List.mem_range.mp (List.mem_filter.mp hj).1
  unfold State.timePlane at h
  dsimp only at h
  split at h
  · next j hj =>
    obtain rfl : j = i := Option.some.inj h
    exact hbits j (List.mem_of_find?_eq_some hj)
  · exact hbits i (List.mem_of_mem_head? h)

theorem sourceUp_timeInv {s : State} (h : TimeInv s.tm) {plane : Nat} (hp : plane < 2) : TimeInv (s.sourceUp plane).tm := by
  have hmarked : TimeInv ({ s with tm := { s.tm with usable := setBit s.tm.usable plane } } : State).tm := by
    obtain ⟨hdrift, hfreq, hsides, hacc, hlocked, hsource, hpps, husable⟩ := h
    exact ⟨hdrift, hfreq, hsides, hacc, hlocked, hsource, hpps, setBit_lt_four _ husable _ hp⟩
  unfold State.sourceUp
  dsimp only
  split
  · next i hi =>
    have hi := timePlane_lt hi
    have hfrom := timeFrom_timeInv hmarked hi
    split
    · obtain ⟨hdrift, hfreq, hsides, hacc, -, hsource, -, husable⟩ := hfrom
      refine ⟨hdrift, hfreq, hsides, hacc, by simp, hsource, ?_, husable⟩
      show i + 1 = 3 → _
      omega
    · exact hfrom
  · exact hmarked

/-- The errors of at most 100 ns in a row, with one more of `err` ns (R200). -/
def TimeSt.goodRow (t : TimeSt) (err : Nat) : Nat := if err ≤ 100 then t.good + 1 else 0

/-- Whether an error of `err` ns locks the module: sixteen in a row of at most 100 ns, while it acquires or is unlocked (R200). -/
def TimeSt.locks (t : TimeSt) (err : Nat) : Bool :=
  (decide (t.st = .acquiring) || decide (t.st = .unlocked)) && decide (16 ≤ t.goodRow err)

/-- Module time once the servo has taken an offset in, stepped or not (R199, R200). -/
def TimeSt.offsetIn (t : TimeSt) (steps : Bool) (offset rate : Int) : TimeSt :=
  { t with errNs := offset.natAbs, good := t.goodRow offset.natAbs, everLocked := t.everLocked || t.locks offset.natAbs,
           st := if t.locks offset.natAbs then .locked else t.st,
           drift := if steps then 0 else max (-100) (min 100 rate),
           now := if steps then t.now + BitVec.ofInt 64 offset else t.now,
           sides := if steps then t.sides.map fun e => (e.1, e.2.step offset) else t.sides }

/-- Module time steps for an offset above 1,000 ns, and only while no schedule runs (R199). -/
def State.steps (s : State) (offset : Int) : Bool := !s.anySchedule && decide (1000 < offset.natAbs)

/-- The state in which the offset has been taken in, before the module may unlock. -/
def State.offsetTaken (s : State) (offset rate : Int) : State := { s with tm := s.tm.offsetIn (s.steps offset) offset rate }

theorem ptpOffset_eq (s : State) (offset rate : Int) : s.ptpOffset offset rate =
    if (s.offsetTaken offset rate).tm.st = .locked ∧ 1000 < offset.natAbs then (s.offsetTaken offset rate).timeUnlock
    else s.offsetTaken offset rate := rfl

/-- A module locks from the states in which no PPS_IN is a source (R200). -/
theorem st_of_locks {t : TimeSt} {err : Nat} (h : t.locks err = true) : t.st = .acquiring ∨ t.st = .unlocked := by
  simp only [TimeSt.locks, Bool.and_eq_true, Bool.or_eq_true, decide_eq_true_eq] at h
  exact h.1

theorem offsetIn_timeInv {t : TimeSt} (h : TimeInv t) (steps : Bool) (offset rate : Int) : TimeInv (t.offsetIn steps offset rate) := by
  obtain ⟨-, hfreq, hsides, hacc, hlocked, hsource, hpps, husable⟩ := h
  refine ⟨?_, hfreq, ?_, hacc, ?_, hsource, fun hthree => ?_, husable⟩
  · dsimp only [TimeSt.offsetIn]
    split <;> omega
  · dsimp only [TimeSt.offsetIn]
    split
    · intro e he
      obtain ⟨x, hx, rfl⟩ := List.mem_map.mp he
      exact hsides x hx
    · exact hsides
  · dsimp only [TimeSt.offsetIn]
    split
    · next hlocks => simp [hlocks]
    · exact fun hst => by simp [hlocked hst]
  · have hst := hpps hthree
    have hnot : t.locks offset.natAbs = false := by
      rw [← Bool.not_eq_true]
      intro hlocks
      have := st_of_locks hlocks
      simp [hst] at this
    simp [TimeSt.offsetIn, hnot, hst]

theorem ptpOffset_timeInv {s : State} (h : TimeInv s.tm) (offset rate : Int) : TimeInv (s.ptpOffset offset rate).tm := by
  have htaken : TimeInv (s.offsetTaken offset rate).tm := offsetIn_timeInv h _ offset rate
  rw [ptpOffset_eq]
  split
  · exact timeUnlock_timeInv htaken
  · exact htaken

theorem delayReq_timeInv {s : State} (h : TimeInv s.tm) (plane : Nat) (x : PtpRx) : TimeInv (s.delayReq plane x).tm := by
  unfold State.delayReq
  dsimp only
  refine updSide_timeInv_of_freq ?_ plane fun _ => rfl
  rwa [enqueue_tm]

theorem syncDone_timeInv {s : State} (h : TimeInv s.tm) (plane : Nat) (x : PtpRx) (sent arrived : Int) :
    TimeInv (s.syncDone plane x sent arrived).tm := by
  have hasked := delayReq_timeInv (updSide_timeInv_of_freq h plane (f := fun d => { d with sync := some (sent, arrived), wait := none })
    fun _ => rfl) plane x
  unfold State.syncDone
  dsimp only
  split
  · split
    · exact ptpOffset_timeInv hasked _ _
    · exact hasked
  · exact hasked

theorem clamp_freqOk (f : Int) : FreqOk (max (-4) (min 4 f)) := by
  unfold FreqOk
  omega

theorem ptpTake_timeInv {s : State} (h : TimeInv s.tm) {plane : Nat} (hp : plane < 2) (x : PtpRx) : TimeInv (s.ptpTake plane x).tm := by
  have hup : TimeInv ((s.updSide plane fun d => { d with freq := x.synce.map fun f => max (-4) (min 4 f) }).sourceUp plane).tm := by
    refine sourceUp_timeInv (updSide_timeInv h plane fun f hf => ?_) hp
    obtain ⟨g, -, rfl⟩ := Option.map_eq_some_iff.mp hf
    exact clamp_freqOk g
  unfold State.ptpTake
  dsimp only
  split
  · exact h
  · split
    · split
      · exact h
      · split
        · exact updSide_timeInv_of_freq hup plane fun _ => rfl
        · exact syncDone_timeInv hup plane x _ _
    · split
      · split
        · split
          · exact syncDone_timeInv h plane x _ _
          · exact h
        · exact h
      · split
        · split
          · split
            · exact updSide_timeInv_of_freq h plane fun _ => rfl
            · exact h
          · exact h
        · exact h

/-- What holds whether or not an operation runs holds of the module that may run it. -/
theorem whenBased_of (P : State → Prop) {s : State} {f : State → State} (h : P s) (hf : P (f s)) : P (s.whenBased f) := by
  unfold State.whenBased
  split
  · exact hf
  · exact h

theorem whenUp_of (P : State → Prop) {s : State} {f : State → State} (h : P s) (hf : P (f s)) : P (s.whenUp f) := by
  unfold State.whenUp
  split
  · exact hf
  · exact h

/-- A PTP frame counted at its port (R339). -/
def State.ptpCounted (s : State) (x : PtpRx) : State := s.countPort x.port fun q => { q with rx := inc q.rx }

/-- A PTP frame forwarded where it came on a direct port (R337). -/
def State.ptpPassed (s : State) (x : PtpRx) : State := if s.roleNow x.port = 2 then s.ptpForward (x.port / 8) x else s

/-- A PTP frame taken in by the module's own clock, where it is for that (R197). -/
def State.ptpOwn (s : State) (x : PtpRx) : State := if s.ptpMine (x.port / 8) x.frame then s.ptpTake (x.port / 8) x else s

theorem opPtp_eq (s : State) (x : PtpRx) : s.opPtp x = s.whenBased fun s =>
    if 16 ≤ x.port ∨ !s.subUp x.port x.sub then s
    else if x.fcsBad ∨ x.sumBad ∨ !(s.ptpCounted x).tagOk x.port x.vid x.stacked then s.ptpCounted x
    else ((s.ptpCounted x).ptpPassed x).ptpOwn x := rfl

theorem ptpCounted_keeps (s : State) (x : PtpRx) : Keeps [.network] s (s.ptpCounted x) := by
  unfold State.ptpCounted State.countPort
  split
  · exact .of_patch rfl
  · exact .refl _ s

theorem ptpPassed_tm (s : State) (x : PtpRx) : (s.ptpPassed x).tm = s.tm := by
  unfold State.ptpPassed
  split
  · exact (ptpForward_frame s _ x).1
  · rfl

/-- What holds of every state of the clock that a PTP frame leads through holds at the end of it. -/
theorem opPtp_of (P : State → Prop) {s : State} {x : PtpRx} (h : P s) (hcounted : P (s.ptpCounted x))
    (hown : x.port < 16 → P (((s.ptpCounted x).ptpPassed x).ptpOwn x)) : P (s.opPtp x) := by
  rw [opPtp_eq]
  refine whenBased_of P h ?_
  split
  · exact h
  · next hport =>
    split
    · exact hcounted
    · exact hown (Nat.not_le.mp (not_or.mp hport).1)

theorem opPtp_timeInv {s : State} (h : TimeInv s.tm) (x : PtpRx) : TimeInv (s.opPtp x).tm := by
  have hcounted : TimeInv (s.ptpCounted x).tm := by rwa [ptpCounted_keeps s x .time (by decide)]
  refine opPtp_of (fun t => TimeInv t.tm) h hcounted fun hport => ?_
  have hpassed : TimeInv ((s.ptpCounted x).ptpPassed x).tm := by rwa [ptpPassed_tm]
  unfold State.ptpOwn
  split
  · exact ptpTake_timeInv hpassed (by omega) x
  · exact hpassed

theorem opPtpTransit_timeInv {s : State} (h : TimeInv s.tm) (x : PtpRx) : TimeInv (s.opPtpTransit x).tm := by
  unfold State.opPtpTransit
  split
  · exact opPtp_timeInv h x
  · exact h

theorem opPtpLost_timeInv {s : State} (h : TimeInv s.tm) (plane : Nat) : TimeInv (s.opPtpLost plane).tm := by
  refine whenBased_of (fun t => TimeInv t.tm) h ?_
  dsimp only
  split
  · exact h
  · next hport =>
    have hp : plane < 2 := by
      have := not_or.mp hport
      omega
    have hcleared : TimeInv (({ s with tm := { s.tm with usable := clearBit s.tm.usable plane } } : State).updSide plane fun _ => .reset).tm := by
      obtain ⟨hdrift, hfreq, hsides, hacc, hlocked, hsource, hpps, husable⟩ := h
      have hmasked : TimeInv { s.tm with usable := clearBit s.tm.usable plane } :=
        ⟨hdrift, hfreq, hsides, hacc, hlocked, hsource, hpps, clearBit_lt_four _ husable _ hp⟩
      refine updSide_timeInv (s := { s with tm := { s.tm with usable := clearBit s.tm.usable plane } }) hmasked plane fun f hf => ?_
      exact absurd hf (by simp [PtpSide.reset])
    split
    · next i hi => exact timeFrom_timeInv hcleared (timePlane_lt hi)
    · obtain ⟨hdrift, hfreq, hsides, hacc, hlocked, -, -, husable⟩ := hcleared
      split
      · refine ⟨hdrift, hfreq, hsides, hacc, ?_, Nat.zero_le 3, by simp, husable⟩
        dsimp only
        split
        · next hever => exact fun _ => hever
        · simp
      · next hst => exact ⟨hdrift, hfreq, hsides, hacc, fun _ => hlocked (.inl hst), Nat.zero_le 3, by simp, husable⟩
      · exact ⟨hdrift, hfreq, hsides, hacc, hlocked, Nat.zero_le 3, by simp, husable⟩

theorem opHoldover_timeInv {s : State} (h : TimeInv s.tm) (err : Nat) : TimeInv (s.opHoldover err).tm := by
  refine whenBased_of (fun t => TimeInv t.tm) h ?_
  dsimp only
  split
  · exact h
  · split
    · exact timeUnlock_timeInv h
    · exact h

theorem freeDrift_range (s : State) : -100 ≤ s.freeDrift.1 ∧ s.freeDrift.1 ≤ 100 := by
  unfold State.freeDrift
  dsimp only
  omega

theorem opPps_timeInv {s : State} (h : TimeInv s.tm) (ns : Nat) : TimeInv (s.opPps ns).tm := by
  refine whenUp_of (fun t => TimeInv t.tm) h ?_
  dsimp only
  split
  · exact h
  · split
    · rwa [(pinFiltered_frame _ _).1]
    · split
      · exact h
      · split
        · next hst =>
          obtain ⟨-, hfreq, hsides, hacc, hlocked, -, -, husable⟩ := h
          exact ⟨freeDrift_range _, hfreq, hsides, hacc, hlocked, Nat.le_refl 3, fun _ => hst, husable⟩
        · exact h

/-! ### Module time under a schedule (R199) -/

/-- Between s and t module time stays while a schedule runs, and so do its gathered fraction and the partitions. -/
structure Steady (s t : State) : Prop where
  now : s.anySchedule = true → t.tm.now = s.tm.now
  acc : t.tm.acc = s.tm.acc
  parts : t.parts = s.parts

namespace Steady

variable {s t u : State}

theorem refl (s : State) : Steady s s := ⟨fun _ => rfl, rfl, rfl⟩

theorem anySchedule (h : Steady s t) : t.anySchedule = s.anySchedule := by rw [State.anySchedule, h.parts, State.anySchedule]

theorem trans (h₁ : Steady s t) (h₂ : Steady t u) : Steady s u where
  now hs := (h₂.now (by rwa [h₁.anySchedule])).trans (h₁.now hs)
  acc := h₂.acc.trans h₁.acc
  parts := h₂.parts.trans h₁.parts

/-- An operation that changes neither time nor the partitions. -/
theorem of_keeps {l : List Sys2Proof.Piece} (h : Keeps l s t) (htime : .time ∉ l) (hparts : .partitions ∉ l) : Steady s t :=
  have htm : t.tm = s.tm := h .time htime
  ⟨fun _ => by rw [htm], by rw [htm], h .partitions hparts⟩

end Steady

theorem timeUnlock_steady (s : State) : Steady s s.timeUnlock :=
  .trans (t := { s with tm := { s.tm with st := .unlocked, good := 0, unlocks := inc s.tm.unlocks,
                                          source := if s.tm.source = 3 then 0 else s.tm.source } })
    ⟨fun _ => rfl, rfl, rfl⟩ (.of_keeps (logLead_keeps _ _ _) (by decide) (by decide))

theorem sourceUp_steady (s : State) (plane : Nat) : Steady s (s.sourceUp plane) := by
  unfold State.sourceUp
  dsimp only
  split
  · split <;> exact ⟨fun _ => rfl, rfl, rfl⟩
  · exact ⟨fun _ => rfl, rfl, rfl⟩

theorem ptpOffset_steady (s : State) (offset rate : Int) : Steady s (s.ptpOffset offset rate) := by
  have htaken : Steady s (s.offsetTaken offset rate) := by
    refine ⟨fun hs => ?_, rfl, rfl⟩
    simp [State.offsetTaken, TimeSt.offsetIn, State.steps, hs]
  rw [ptpOffset_eq]
  split
  · exact htaken.trans (timeUnlock_steady _)
  · exact htaken

theorem updSide_steady (s : State) (plane : Nat) (f : PtpSide → PtpSide) : Steady s (s.updSide plane f) := ⟨fun _ => rfl, rfl, rfl⟩

theorem delayReq_steady (s : State) (plane : Nat) (x : PtpRx) : Steady s (s.delayReq plane x) := by
  unfold State.delayReq
  dsimp only
  refine .trans ?_ (updSide_steady _ _ _)
  exact ⟨fun _ => rfl, rfl, rfl⟩

theorem syncDone_steady (s : State) (plane : Nat) (x : PtpRx) (sent arrived : Int) : Steady s (s.syncDone plane x sent arrived) := by
  have hasked := (updSide_steady s plane fun d => { d with sync := some (sent, arrived), wait := none }).trans (delayReq_steady _ plane x)
  unfold State.syncDone
  dsimp only
  split
  · split
    · exact hasked.trans (ptpOffset_steady _ _ _)
    · exact hasked
  · exact hasked

theorem ptpTake_steady (s : State) (plane : Nat) (x : PtpRx) : Steady s (s.ptpTake plane x) := by
  have hup := (updSide_steady s plane fun d => { d with freq := x.synce.map fun f => max (-4) (min 4 f) }).trans (sourceUp_steady _ plane)
  unfold State.ptpTake
  dsimp only
  split
  · exact .refl s
  · split
    · split
      · exact .refl s
      · split
        · exact hup.trans (updSide_steady _ _ _)
        · exact hup.trans (syncDone_steady _ _ _ _ _)
    · split
      · split
        · split
          · exact syncDone_steady _ _ _ _ _
          · exact .refl s
        · exact .refl s
      · split
        · split
          · split
            · exact updSide_steady _ _ _
            · exact .refl s
          · exact .refl s
        · exact .refl s

theorem ptpForward_keeps (s : State) (plane : Nat) (x : PtpRx) : Keeps [.network, .freeCount] s (s.ptpForward plane x) := by
  have hdrop : ∀ (u : State) (n : Nat) (f : Port → Port), Keeps [.network, .freeCount] u (u.countPort n f) := by
    intro u n f
    unfold State.countPort
    split
    · exact .of_patch rfl
    · exact .refl _ u
  unfold State.ptpForward
  dsimp only
  split
  · split
    · exact hdrop _ _ _
    · refine .trans (.foldl _ _ _ fun u e => ?_) (hdrop _ _ _)
      exact .of_patch rfl
  · split
    · exact .refl _ s
    · split
      · exact hdrop _ _ _
      · split
        · exact hdrop _ _ _
        · split
          · exact hdrop _ _ _
          · exact .trans (.of_patch rfl) (hdrop _ _ _)

theorem ptpPassed_keeps (s : State) (x : PtpRx) : Keeps [.network, .freeCount] s (s.ptpPassed x) := by
  unfold State.ptpPassed
  split
  · exact ptpForward_keeps s _ x
  · exact .refl _ s

theorem opPtp_steady (s : State) (x : PtpRx) : Steady s (s.opPtp x) := by
  have hcounted : Steady s (s.ptpCounted x) := .of_keeps (ptpCounted_keeps s x) (by decide) (by decide)
  refine opPtp_of (Steady s) (.refl s) hcounted fun _ => ?_
  have hpassed := hcounted.trans (.of_keeps (ptpPassed_keeps _ x) (by decide) (by decide))
  unfold State.ptpOwn
  split
  · exact hpassed.trans (ptpTake_steady _ _ x)
  · exact hpassed

theorem opPtpTransit_steady (s : State) (x : PtpRx) : Steady s (s.opPtpTransit x) := by
  unfold State.opPtpTransit
  split
  · exact opPtp_steady s x
  · exact .refl s

theorem opPtpLost_steady (s : State) (plane : Nat) : Steady s (s.opPtpLost plane) := by
  refine whenBased_of (Steady s) (.refl s) ?_
  dsimp only
  split
  · exact .refl s
  · split
    · exact ⟨fun _ => rfl, rfl, rfl⟩
    · split <;> exact ⟨fun _ => rfl, rfl, rfl⟩

theorem opHoldover_steady (s : State) (err : Nat) : Steady s (s.opHoldover err) := by
  refine whenBased_of (Steady s) (.refl s) ?_
  dsimp only
  split
  · exact .refl s
  · split
    · refine .trans ?_ (timeUnlock_steady _)
      exact ⟨fun _ => rfl, rfl, rfl⟩
    · exact ⟨fun _ => rfl, rfl, rfl⟩

theorem pinFiltered_keeps (s : State) (pin : Nat) : Keeps [.power, .stewards, .firmware] s (s.pinFiltered pin) := by
  unfold State.pinFiltered
  dsimp only
  split
  · exact .refl _ s
  · split <;> split
    · exact .of_patch rfl
    · exact .trans (.of_patch rfl) ((logLead_keeps _ _ _).mono (by decide))
    · exact .of_patch rfl
    · exact .trans (.of_patch rfl) ((logLead_keeps _ _ _).mono (by decide))

theorem opPps_steady (s : State) (ns : Nat) : Steady s (s.opPps ns) := by
  refine whenUp_of (Steady s) (.refl s) ?_
  dsimp only
  split
  · exact .refl s
  · split
    · exact .of_keeps (pinFiltered_keeps s _) (by decide) (by decide)
    · split
      · exact ⟨fun _ => rfl, rfl, rfl⟩
      · split <;> exact ⟨fun _ => rfl, rfl, rfl⟩

end Sys2Proof.Machine

/-! ## A step keeps the invariant of module time, and time under a schedule (R199) -/

namespace Sys2Proof.Machine

/-- A command holds module time, or it is of PPS_IN, PTP or the drift in HOLDOVER: then it keeps the invariant, and time under a schedule. -/
def TimeStep (s t : State) : Prop := TimeHeld s t ∨ ((TimeInv s.tm → TimeInv t.tm) ∧ Steady s t)

theorem TimeHeld.timeStep {s t : State} (h : TimeHeld s t) : TimeStep s t := .inl h

/-- The rows that stand for one frame received. -/
theorem receive_timeStep (s : State) (rx : Rx) (row : Nat → Pkt → Bool) : TimeStep s (s.receive rx row) := .inl (receive_timeHeld s rx row)

/-- The rows that stand for one register write. -/
theorem viaWrite_timeStep (s : State) (v : Via) (a : Nat) (w : W64) (errs : List MemErr) : TimeStep s (s.viaWrite v a w errs) :=
  .inl (viaWrite_timeHeld s v a w errs)

/-- The rows that stand for one register write at an index. -/
theorem within_timeStep (s : State) (n bound : Nat) (v : Via) (a : Nat) (w : W64) (errs : List MemErr) :
    TimeStep s (s.within n bound fun s => s.viaWrite v a w errs) :=
  .inl (.within (viaWrite_timeHeld s v a w errs))

theorem opPtp_timeStep (s : State) (x : PtpRx) : TimeStep s (s.opPtp x) := .inr ⟨fun h => opPtp_timeInv h x, opPtp_steady s x⟩

theorem forwardPacket_timeStep (f : Transit) {s t : State} (h : exec (.forwardPacket f) s = .next t) : TimeStep s t := by
  cases f with
  | packet rx =>
    obtain rfl : s.opForward rx = t := Host.Outcome.next.inj h
    exact .inl (.of_tm (opForward_frame s rx).1)
  | ptp x =>
    obtain rfl : s.opPtpTransit x = t := Host.Outcome.next.inj h
    exact .inr ⟨fun h => opPtpTransit_timeInv h x, opPtpTransit_steady s x⟩

/-- What a command does to module time, row by row: all but those named here leave it alone. -/
theorem exec_timeStep {i : Instr} {s t : State} (h : exec i s = .next t) : TimeStep s t := by
  cases i
  case forwardPacket f => exact forwardPacket_timeStep f h
  all_goals cases h
  case storedImageApply => exact (opStored_timeHeld s).timeStep
  case regulatorsOff => exact (opRegOff_timeHeld s).timeStep
  case resetReqNAssert us => exact (opResetReq_timeHeld s us).timeStep
  case pinHeld pin => exact (opPinHeld_timeHeld s pin).timeStep
  case brownOut volts us => exact (opBrownOut_timeHeld s volts us).timeStep
  case overVoltageOff volts us => exact (opOverVoltage_timeHeld s volts us).timeStep
  case thermalTrip ms regTemp => exact (opTrip_timeHeld s ms regTemp).timeStep
  case dumpDone unreachable => exact (opDumpDone_timeHeld s unreachable).timeStep
  case xsiApply => exact (opXsiApply_timeHeld s).timeStep
  case teardownDrainDone p => exact (opDrainDone_timeHeld s p).timeStep
  case regionInitDone r => exact (regionOpens_timeHeld s r).timeStep
  case ppsInEdge ns => exact .inr ⟨fun h => opPps_timeInv h ns, opPps_steady s ns⟩
  case ptpSyncReceive => exact opPtp_timeStep s _
  case ptpSourceLost plane => exact .inr ⟨fun h => opPtpLost_timeInv h plane, opPtpLost_steady s plane⟩
  case holdoverErrorLimit err => exact .inr ⟨fun h => opHoldover_timeInv h err, opHoldover_steady s err⟩
  case pwrRemoveRequest | pwrRemoveCancel | devDumpTake | devDumpAck | devResetCore | devResetCluster | devResetColumn | devResetPort |
      devResetModuleWarm | devResetModuleCold | xsiStageClaim | xsiStageRelease | xsiLoadStart | fwStageClaim | fwStageRelease |
      fwActivateStart | fwAttestStart => exact viaWrite_timeStep s _ _ _ _
  case schLoad | memWipe | memDmaResume | memDmaAbort | cadSlotCfgWrite | cadSlotStateWrite | netConnOpen | netConnClose | devPartPark |
      devPartResume | devPartEnd | devPartAbort | devPartVacate => exact within_timeStep s _ _ _ _ _ _
  case writeReceive | readReceive | readRespReceive | sendReceive | reduceReceive | tokenReceive | regRead | regWrite | memberOpenReceive |
      sessionOpen | openAckReceive | closeReceive | closeAckReceive | ackReceive | slipReceive | verdictVoteReceive | verdictTreeVoteReceive |
      verdictDecideReceive | verdictRequestReceive | verdictRetractReceive | verdictQuiescedReceive | verdictResumeReceive |
      verdictHandoverReceive | abortReceive => exact receive_timeStep s _ _
  all_goals exact .inl (.of_tm (by simp))

end Sys2Proof.Machine

namespace Sys2Proof.Machine

/-- What a nanosecond makes of module time (R198, R199). -/
def TimeSt.ticked (t : TimeSt) (up : Bool) : TimeSt := { (if up then timeOn t else t) with clk := t.clk + 1 }

theorem tick_tm (s : State) : s.tick.tm = s.tm.ticked s.up := by
  unfold State.tick
  dsimp only
  rw [(throtDue_frame _).1, (drain_frame _).1]
  rfl

/-- In a nanosecond time advances by at most two, and what it advances by is what the rate and the gathered fraction give (R199). -/
theorem timeOn_advances (t : TimeSt) : ∃ k : Nat, k ≤ 2 ∧ (timeOn t).now = t.now + BitVec.ofNat 64 k ∧
    (k : Int) * 1000000 + (timeOn t).acc = t.acc + 1000000 + t.freq + t.drift := by
  unfold timeOn
  dsimp only
  split
  · exact ⟨2, by omega, rfl, by push_cast; omega⟩
  · split
    · exact ⟨0, by omega, (BitVec.add_zero _).symm, by push_cast; omega⟩
    · exact ⟨1, by omega, rfl, by push_cast; omega⟩

theorem timeOn_timeInv {t : TimeSt} (h : TimeInv t) : TimeInv (timeOn t) := by
  obtain ⟨hdrift, hfreq, hsides, hacc, hrest⟩ := h
  have hfreq' := hfreq
  unfold FreqOk at hfreq'
  unfold timeOn
  dsimp only
  split
  · exact ⟨hdrift, hfreq, hsides, by dsimp only; omega, hrest⟩
  · split
    · exact ⟨hdrift, hfreq, hsides, by dsimp only; omega, hrest⟩
    · exact ⟨hdrift, hfreq, hsides, by dsimp only; omega, hrest⟩

theorem tick_timeInv {s : State} (h : TimeInv s.tm) : TimeInv s.tick.tm := by
  rw [tick_tm]
  unfold TimeSt.ticked
  split
  · exact timeOn_timeInv h
  · exact h

theorem TimeStep.timeInv {s t : State} (h : TimeStep s t) (hs : TimeInv s.tm) : TimeInv t.tm :=
  h.elim (fun hheld => hheld.timeInv hs) fun hclock => hclock.1 hs

/-- Settles O4: a command holds module time or is of its clock (`exec_timeStep`), and a nanosecond keeps the fraction below one. -/
theorem timeInvariantKeptByEveryStep : Obligations.TimeInvariantKeptByEveryStep := by
  intro s t hs hstep
  cases hp : s.pending with
  | nil =>
    rw [step, hp] at hstep
    obtain rfl : s.tick = t := Host.Outcome.next.inj hstep
    exact tick_timeInv hs
  | cons c rest =>
    rw [step, hp] at hstep
    exact (exec_timeStep hstep).timeInv hs

theorem anySchedule_of_vacant {s : State} (h : Vacant s) : s.anySchedule = false := by rw [State.anySchedule, h.2]; rfl

/-- A command under a schedule that is still there after it takes no time, and keeps the fraction gathered (R199). -/
theorem TimeStep.now_under_schedule {s t : State} (h : TimeStep s t) (hs : s.anySchedule = true) (ht : t.anySchedule = true) :
    t.tm.now = s.tm.now ∧ t.tm.acc = s.tm.acc := by
  obtain (hcore | ⟨-, hvacant⟩) | ⟨-, hsteady⟩ := h
  · have hnow : t.tm.core.now = s.tm.core.now := by rw [hcore]
    have hacc : t.tm.core.acc = s.tm.core.acc := by rw [hcore]
    exact ⟨hnow, hacc⟩
  · rw [anySchedule_of_vacant hvacant] at ht
    exact absurd ht (by decide)
  · exact ⟨hsteady.now hs, hsteady.acc⟩

/-- A nanosecond moves time on by what the rate gives while the module runs, and not at all while it does not. -/
theorem tick_advances (s : State) : ∃ k : Nat, k ≤ 2 ∧ s.tick.tm.now = s.tm.now + BitVec.ofNat 64 k ∧
    (((k : Int) * 1000000 + s.tick.tm.acc = s.tm.acc) ∨
      ((k : Int) * 1000000 + s.tick.tm.acc = s.tm.acc + 1000000 + s.tm.freq + s.tm.drift)) := by
  rw [tick_tm]
  unfold TimeSt.ticked
  split
  · obtain ⟨k, hk, hnow, hacc⟩ := timeOn_advances s.tm
    exact ⟨k, hk, hnow, .inr hacc⟩
  · exact ⟨0, by omega, (BitVec.add_zero _).symm, .inl (by simp)⟩

end Sys2Proof.Machine

namespace Sys2Proof.Machine

/-! ### Time under a schedule, a nanosecond without a command, and reset -/

/-- A module whose schedules stand still, two microseconds on, that knows the path delay of plane A: a Sync sent 2,000 ns ago steps its time
back (R199). -/
def steppedBack : State :=
  let s := (tOp.tTime .acquiring 0).tSide 0 { PtpSide.reset with path := some 0 }
  { s with tm := { s.tm with now := 2000 } }

/-- Settles O60: a command under a schedule takes no time (`TimeStep.now_under_schedule`), a nanosecond what the rate gives (`tick_advances`). -/
theorem timeNeverMovesBackUnderASchedule : Obligations.TimeNeverMovesBackUnderASchedule := by
  refine ⟨fun s t hs hstep hruns hstill => ?_, ?_⟩
  · have hdrift := (timeInvariantKeptByEveryStep s t hs hstep).1
    cases hp : s.pending with
    | nil =>
      rw [step, hp] at hstep
      obtain rfl : s.tick = t := Host.Outcome.next.inj hstep
      obtain ⟨k, hk, hnow, hacc⟩ := tick_advances s
      exact ⟨k, hk, hnow, hdrift, hacc⟩
    | cons c rest =>
      rw [step, hp] at hstep
      obtain ⟨hnow, hacc⟩ := (exec_timeStep hstep).now_under_schedule hruns hstill
      exact ⟨0, by omega, hnow.trans (BitVec.add_zero _).symm, hdrift, .inl (by simpa using hacc)⟩
  · let x := tPtp ptpSync false 0 0
    exact ⟨.ptpSyncReceive x.toPtpLink x.frame x.rate x.synce, steppedBack, steppedBack.opPtp x, by decide +kernel, rfl, by decide +kernel⟩

/-- Settles O25: every table of the reset state is empty, so all it answers is the reset value of its rows. -/
theorem invariantsHoldAtReset : Obligations.InvariantsHoldAtReset := by
  refine ⟨?time, ?form, fun a => ?byte, fun r => ?region⟩
  case time => simp [TimeInv, State.reset, TimeSt.reset, FreqOk]
  case form => decide
  case byte => rfl
  case region => exact (by decide : rgnValid Region.reset = false)

theorem Line.rank_class (e : Line) (q : Queued) : e.rank q / 65536 = q.cls := by
  unfold Line.rank
  split
  · omega
  · split <;> omega

/-- A frame that is served no later stands in no later class (R297). -/
theorem Line.cls_le_of_rank_le {e : Line} {x y : Queued} (h : e.rank x ≤ e.rank y) : x.cls ≤ y.cls := by
  rw [← e.rank_class x, ← e.rank_class y]
  exact Nat.div_le_div_right h

/-- What a line may serve now. -/
def State.ready (s : State) (n b : Nat) : List Queued :=
  s.net.egress.filter fun q => q.frame.link.port = n && q.frame.link.sub = b && s.mayGo q

theorem mem_ready (s : State) (n b : Nat) (q : Queued) :
    q ∈ s.ready n b ↔ q ∈ s.net.egress ∧ (q.frame.link.port = n ∧ q.frame.link.sub = b) ∧ s.mayGo q = true := by
  simp [State.ready]

theorem nextFrame_eq_argmin (s : State) (n b : Nat) : s.nextFrame n b = (s.ready n b).argmin (s.line n).rank := by
  unfold State.nextFrame List.argmin State.ready
  congr 1
  funext best q
  cases best with
  | none => rfl
  | some y => rfl

theorem tracePower_keeps (s t : State) : Keeps [.stewards] t (s.tracePower t) := by
  unfold State.tracePower
  refine .trans ?_ (.foldl _ _ _ fun u c => ?_)
  · split
    · exact .refl _ _
    · exact trace_keeps _ _ _ _ _ _
  · split
    · exact .refl _ _
    · exact trace_keeps _ _ _ _ _ _

theorem leave_keeps (s : State) (q : Queued) : Keeps [.network] s (s.leave q) := by
  unfold State.leave State.updLine State.updPort
  dsimp only
  split <;> split <;> split <;> exact .of_patch rfl

theorem drain_keeps (s : State) : Keeps [.network] s s.drain := by
  unfold State.drain
  split
  · exact .refl _ s
  · refine .foldl _ _ _ fun u e => ?_
    split
    · exact leave_keeps u _
    · exact .refl _ u

theorem throtDue_keeps (s : State) : Keeps [.power, .stewards] s s.throtDue := by
  unfold State.throtDue
  split
  · split
    · refine .trans ?_ ((tracePower_keeps _ _).mono (by decide))
      exact .of_patch rfl
    · exact .refl _ s
  · exact .refl _ s

/-- The clock a nanosecond on, before a frame leaves and the floor goes. -/
def State.elapsed (s : State) : State := { s with tm := s.tm.ticked s.up }

theorem tick_eq (s : State) : s.tick = s.elapsed.drain.throtDue := rfl

theorem elapsed_keeps (s : State) : Keeps [.time] s s.elapsed := .of_patch rfl

theorem tick_keeps (s : State) : Keeps [.time, .power, .stewards, .network] s s.tick := by
  rw [tick_eq]
  exact ((elapsed_keeps s).mono (by decide)).trans (((drain_keeps _).mono (by decide)).trans ((throtDue_keeps _).mono (by decide)))

theorem throtDue_net (s : State) : s.throtDue.net = s.net := throtDue_keeps s .network (by decide)

theorem drain_pwr (s : State) : s.drain.pwr = s.pwr := drain_keeps s .power (by decide)

theorem drain_stew (s : State) : s.drain.stew = s.stew := drain_keeps s .stewards (by decide)

/-- With no frame waiting, or no line handled, none leaves. -/
theorem drain_of_idle {s : State} (h : s.net.egress = [] ∨ s.listens = false) : s.drain = s := by
  unfold State.drain State.linesDue
  obtain h | h := h
  · rw [h]
    exact ite_self s
  · rw [h]
    rfl

/-- The one frame that waits is the one its line serves. -/
theorem drain_of_single {s : State} {q : Queued} (hl : s.listens = true) (he : s.net.egress = [q]) (hgo : s.mayGo q = true) :
    s.drain = s.leave q := by
  have hnext : s.nextFrame q.frame.link.port q.frame.link.sub = some q := by
    rw [nextFrame_eq_argmin, State.ready, he]
    simp [hgo]
  have hlines : s.linesDue = [(q.frame.link.port, q.frame.link.sub)] := by
    rw [State.linesDue, he]
    rfl
  simp [State.drain, hl, hlines, hnext]

theorem throtDue_of_due {s : State} {a : Nat} (ha : s.pwr.throtOffAt = some a) (hd : a ≤ s.tm.clk) :
    s.throtDue.pwr.throt = false ∧ s.throtDue.pwr.throtOffAt = none := by
  have h : s.throtDue.pwr = { s.pwr with throt := false, throtOffAt := none } := by
    unfold State.throtDue
    rw [ha]
    simp only [hd, if_true]
    exact tracePower_keeps _ _ .power (by decide)
  simp [h]

theorem throtDue_of_none {s : State} (h : s.pwr.throtOffAt = none) : s.throtDue = s := by rw [State.throtDue, h]

/-- What a frame that leaves does to the queue, the line and its port's counter (R297, R339). -/
theorem leave_single {s : State} {q : Queued} (he : s.net.egress = [q]) :
    (s.leave q).net.egress = [] ∧ (s.leave q).net.out = s.net.out ++ [q.frame] ∧
      (q.frame.link.port < 16 → ((s.leave q).port q.frame.link.port).tx = inc (s.port q.frame.link.port).tx) := by
  have herase : s.net.egress.erase q = [] := by simp [he]
  unfold State.leave
  dsimp only
  refine ⟨?egress, ?out, fun hp => ?counter⟩
  case egress => split <;> split <;> split <;> exact herase
  case out => split <;> split <;> split <;> rfl
  case counter =>
    rw [if_pos hp, if_neg (by omega)]
    split <;> exact congrArg Port.tx (Table.get_set_same _ _ _ _)

theorem ticked_of_exact {t : TimeSt} (hd : t.drift = 0) (hf : t.freq = 0) (ha : -1000000 < t.acc ∧ t.acc < 1000000) :
    (t.ticked true).now = t.now + 1 := by
  have h : timeOn t = { t with now := t.now + 1, acc := t.acc + t.freq + t.drift } := by
    unfold timeOn
    rw [hd, hf]
    simp only [Int.add_zero]
    rw [if_neg (by omega), if_neg (by omega)]
  simp [TimeSt.ticked, h]

/-- Settles O2: a nanosecond is the clock's advance, the frames that leave (`drain`), and the end of the floor (`throtDue`). -/
theorem emptyQueueIsOneNanosecond : Obligations.EmptyQueueIsOneNanosecond := by
  have hstep : ∀ s : State, s.pending = [] → step s = .next s.tick := fun s hp => by rw [step, hp]
  refine ⟨fun s hp => ?nanosecond, fun s q hp hl hfloor he hgo => ?leaves, fun s n b x hx => ?order⟩
  case nanosecond =>
    have hnet : s.tick.net = s.elapsed.drain.net := throtDue_net _
    refine ⟨s.tick, hstep s hp, by rw [tick_tm]; rfl, tick_keeps s, fun hidle => ?_, fun hdown => ?_, fun hup hd hf ha => ?_,
      fun a ha hdue => ?_, fun hnone => ?_⟩
    · have hidle' : s.elapsed.net.egress = [] ∨ s.elapsed.listens = false := hidle
      rw [hnet, drain_of_idle hidle']
      rfl
    · rw [tick_tm, hdown]
      rfl
    · rw [tick_tm, hup]
      exact ticked_of_exact hd hf ha
    · have hclk : s.elapsed.drain.tm.clk = s.tm.clk + 1 := by rw [(drain_frame _).1]; rfl
      have hset : s.elapsed.drain.pwr.throtOffAt = some a := (congrArg Pwr.throtOffAt (drain_pwr s.elapsed)).trans ha
      rw [tick_eq]
      exact throtDue_of_due hset (hclk ▸ hdue)
    · rw [tick_eq, throtDue_of_none ((congrArg Pwr.throtOffAt (drain_pwr s.elapsed)).trans hnone)]
      exact ⟨drain_pwr _, drain_stew _⟩
  case leaves =>
    have hdrain : s.tick = s.elapsed.leave q := by
      have hgo' : s.elapsed.mayGo q = true := hgo
      have hone : s.elapsed.drain = s.elapsed.leave q := drain_of_single hl he hgo'
      rw [tick_eq, hone, throtDue_of_none]
      exact (congrArg Pwr.throtOffAt (leave_keeps s.elapsed q .power (by decide))).trans hfloor
    exact ⟨s.tick, hstep s hp, hdrain ▸ leave_single (s := s.elapsed) he⟩
  case order =>
    rw [nextFrame_eq_argmin] at hx
    obtain ⟨hmem, ⟨hport, hsub⟩, hgo⟩ := (mem_ready s n b x).mp (List.argmin_mem hx)
    refine ⟨hmem, hport, hsub, hgo, fun y hy hyport hysub hygo => ?_⟩
    have hrank : (s.line n).rank x ≤ (s.line n).rank y := List.le_of_mem_argmin ((mem_ready s n b y).mpr ⟨hy, ⟨hyport, hysub⟩, hygo⟩) hx
    exact ⟨hrank, Line.cls_le_of_rank_le hrank⟩

end Sys2Proof.Machine

namespace Sys2Proof.Table

/-- A read finds the first row of its index. -/
theorem get_eq_find? {α : Type} (d : α) (t : Table α) (i : Nat) :
    get d t i = ((t.find? fun e => e.1 = i).map (·.2)).getD d := by
  induction t with
  | nil => rfl
  | cons e t ih =>
    obtain ⟨j, v⟩ := e
    by_cases h : j = i
    · simp [get, h]
    · simp [get, h, ih]

end Sys2Proof.Table

namespace Sys2Proof.Machine

/-! ## The pins: RESET_REQ_N, held pins, PPS_IN (R201, R486, R525) -/

theorem testBit_setBit_same (m i : Nat) : testBit (setBit m i) i = true := by
  unfold setBit testBit
  split
  · next h => exact decide_eq_true h
  · rw [Nat.add_div_right _ (Nat.two_pow_pos i)]
    exact decide_eq_true (by omega)

theorem testBit_clearBit_same (m i : Nat) : testBit (clearBit m i) i = false := by simp [testBit_clearBit]

theorem whenUp_of_up {s : State} {f : State → State} (h : s.up = true) : s.whenUp f = f s := if_pos h

/-- An event changes nothing that the pins show. -/
theorem logLead_pinStatus (s : State) (event : Nat) (w : W64) : (s.logLead event w).pinStatus = s.pinStatus := by
  unfold State.logLead State.logEv State.logP
  dsimp only
  split <;> rfl

/-- The pins' state once a pin's long hold has been remembered (R525). -/
def State.holdSeen (s : State) (pin : Nat) : State := s.updPwr fun p => { p with held := setBit p.held pin }

theorem opPinHeld_throt {s : State} (hb : s.based = true) (hpin : testBit s.pwr.pins pinThrot = true)
    (hlong : 60000000000 ≤ s.since (Table.get 0 s.pwr.pinAt pinThrot)) (hnew : testBit s.pwr.held pinThrot = false) :
    s.opPinHeld pinThrot = (s.holdSeen pinThrot).logLead 0xC6 (s.holdSeen pinThrot).pinStatus := by
  unfold State.opPinHeld
  rw [whenBased_of_based hb]
  refine if_pos ⟨rfl, hpin, hlong.trans_eq (congrArg s.since ?_), by simp [hnew]⟩
  rw [Table.get_eq_find?]
  cases s.pwr.pinAt.find? fun e => e.1 = pinThrot <;> rfl

/-- PPS_IN silent: the hold remembered, and no edge accepted for two seconds (R525, R201). -/
def State.ppsSilent (s : State) : State :=
  { s.holdSeen pinPps with tm := { s.tm with ppsOk := false } }

theorem opPinHeld_pps {s : State} (hb : s.based = true) (hen : s.tm.ppsEn = true) (hlong : 2000000000 ≤ s.since s.tm.ppsLast)
    (hnew : testBit s.pwr.held pinPps = false) : s.opPinHeld pinPps = s.ppsSilent.logLead 0xC6 s.ppsSilent.pinStatus := by
  unfold State.opPinHeld
  rw [whenBased_of_based hb]
  dsimp only
  rw [if_neg (fun h => absurd h.1 (by decide)), if_pos ⟨rfl, hen, hlong, by simp [hnew]⟩]
  rfl

/-- The state once an edge of PPS_IN has been seen (R201). -/
def State.ppsSeen (s : State) : State :=
  ({ s with tm := { s.tm with ppsLast := s.tm.clk } } : State).updPwr fun p => { p with held := clearBit p.held pinPps }

theorem ppsSeen_keeps (s : State) : Keeps [.time, .power] s s.ppsSeen := .of_patch rfl

/-- Whether an edge came within 100 µs of a whole second (R201). -/
def State.nearSecond (s : State) : Bool :=
  decide (s.tm.now.toNat % 1000000000 ≤ 100000) || decide (999900000 ≤ s.tm.now.toNat % 1000000000)

theorem opPps_eq {s : State} {ns : Nat} (hu : s.up = true) (hen : s.tm.ppsEn = true) (hns : 100 ≤ ns) : s.opPps ns =
    if (!s.nearSecond) = true ∨ (!s.tm.everLocked) = true then
      { s.ppsSeen with tm := { s.ppsSeen.tm with ppsOk := s.nearSecond && s.tm.everLocked, ppsReject := inc s.tm.ppsReject } }
    else if s.tm.st = .holdover then
      { s.ppsSeen.freeDrift.2 with tm := { s.ppsSeen.tm with ppsOk := true, drift := s.ppsSeen.freeDrift.1, source := 3 } }
    else { s.ppsSeen with tm := { s.ppsSeen.tm with ppsOk := true } } := by
  unfold State.opPps
  rw [whenUp_of_up hu]
  dsimp only
  rw [if_neg (by simp [hen]), if_neg (by omega)]
  rfl

theorem opResetReq_eq {s : State} {us : Nat} (hu : s.up = true) (hpin : testBit s.pwr.pins pinReset = false) (hus : 10000 ≤ us)
    (hfree : s.pinFree pinReset 10000000000 = true) : s.opResetReq us = (s.pinSet pinReset true).startWarm 2 := by
  unfold State.opResetReq
  rw [whenUp_of_up hu, if_neg (by simp [hpin]), if_neg (by simp [hfree]; omega)]

section Held

variable {s u : State} {source : Nat} (h : WarmStart s source u) (cause : W64)
include h

theorem restarted_pins : (u.restarted cause).pwr.pins = s.pwr.pins := by
  rw [show (u.restarted cause).pwr = _ from restarted_after_rom u cause .power (by decide), romSequence_pins, (pinsSampled_pins u).1, h.pins]

theorem restarted_pos : (u.restarted cause).pos = [] := by
  rw [show (u.restarted cause).pos = _ from restarted_after_rom u cause .positions (by decide),
    show u.pinsSampled.romSequence.pos = _ from romSequence_keeps _ .positions (by decide)]
  exact (pinsSampled_pins u).2 h.pos

/-- A start under an active RESET_REQ_N changes the faults' state by the hold alone. -/
theorem restarted_dev_of_pin (hpin : testBit s.pwr.pins pinReset = true) : (u.restarted cause).dev = { u.dev with resetHeld := true } := by
  rw [show (u.restarted cause).dev = _ from restarted_after_rom u cause .faults (by decide),
    show u.pinsSampled.romSequence.dev = _ from romSequence_keeps _ .faults (by decide)]
  exact pinsSampled_dev (by rwa [h.pins])

end Held

/-- Settles O12: the reset by its start (`warmReset_start`), the held pins and PPS_IN by what each accepted change makes of the state. -/
theorem resetAndPpsPins : Obligations.ResetAndPpsPins := by
  refine ⟨fun s us hu hpin hus hfree hdump => ?reset, fun s us hu hpin hus hfree hdump => ?deferred, fun s hpin => ?release,
    fun s hb hpin hlong hnew => ?throttle, fun s hb hen hlong hnew => ?silent, fun s ns hu hen hns hever hst hnear => ?steers,
    fun s ns hu hen hns hwhy => ?rejected, fun s ns hen => ?disabled⟩
  case reset =>
    have hset : testBit (s.pinSet pinReset true).pwr.pins pinReset = true := testBit_setBit_same _ _
    obtain ⟨u, cause, hstart, heq⟩ := warmReset_start (s.pinSet pinReset true) 2
    have hrun : s.opResetReq us = u.restarted cause := by
      rw [opResetReq_eq hu hpin hus hfree, ← heq]
      exact if_neg hdump
    have hdev := restarted_dev_of_pin hstart cause hset
    obtain ⟨hconns, hparts⟩ := restarted_vacant hstart cause
    refine ⟨u.restarted cause, congrArg Host.Outcome.next hrun, ?_, ?_, ?_, ?_, ?_, hparts, hconns, restarted_pos hstart cause, ?_⟩
    · simp [State.up, hdev]
    · rw [restarted_pins hstart cause]
      exact hset
    · exact (congrArg Dev.source hdev).trans hstart.source
    · exact (congrArg Dev.domain hdev).trans hstart.domain
    · exact (congrArg Dev.warmCount hdev).trans hstart.count
    · exact (congrArg Dev.margins hdev).trans hstart.margins
  case deferred =>
    have hrun : s.opResetReq us = (s.pinSet pinReset true).updDev fun d => { d with warmDue := some 2 } := by
      rw [opResetReq_eq hu hpin hus hfree]
      exact if_pos hdump
    exact ⟨_, congrArg Host.Outcome.next hrun, testBit_setBit_same _ _, rfl, .of_patch rfl⟩
  case release =>
    refine ⟨s.opResetRelease, rfl, ?_⟩
    unfold State.opResetRelease
    rw [if_neg (by simp [hpin])]
    refine ⟨rfl, testBit_clearBit_same _ _, fun hlong => ?_, .of_patch rfl⟩
    have hheld : (if decide (10000000000 < s.since (Table.get 0 s.pwr.pinAt pinReset)) then setBit s.pwr.held pinReset else s.pwr.held) =
        setBit s.pwr.held pinReset := if_pos (decide_eq_true hlong)
    rw [Table.get_eq_find?] at hheld
    refine .trans (congrArg (testBit · pinReset) (Eq.trans ?_ hheld)) (testBit_setBit_same _ _)
    cases s.pwr.pinAt.find? fun e => e.1 = pinReset <;> rfl
  case throttle =>
    refine ⟨_, congrArg Host.Outcome.next (opPinHeld_throt hb hpin hlong hnew), ?_, ?_, ?_⟩
    · exact logLead_keeps _ _ _ .power (by decide)
    · rw [logLead_pinStatus]
      exact logLead_logged _ _ _
    · refine .trans ?_ ((logLead_keeps _ _ _).mono (by decide))
      exact .of_patch rfl
  case silent =>
    refine ⟨_, congrArg Host.Outcome.next (opPinHeld_pps hb hen hlong hnew), ?_, ?_, ?_⟩
    · rw [show (s.ppsSilent.logLead 0xC6 s.ppsSilent.pinStatus).pwr = _ from logLead_keeps _ _ _ .power (by decide)]
      exact testBit_setBit_same _ _
    · exact logLead_keeps _ _ _ .time (by decide)
    · refine .trans ?_ ((logLead_keeps _ _ _).mono (by decide))
      exact .of_patch rfl
  case steers =>
    have hnear' : s.nearSecond = true := by simpa [State.nearSecond] using hnear
    have hrun := opPps_eq hu hen hns
    rw [if_neg (by simp [hnear', hever]), if_pos hst] at hrun
    obtain ⟨hlo, hhi⟩ := freeDrift_range s.ppsSeen
    exact ⟨_, congrArg Host.Outcome.next hrun, rfl, hlo, hhi, .of_patch rfl⟩
  case rejected =>
    have hno : (s.nearSecond && s.tm.everLocked) = false := by
      obtain h | ⟨hlo, hhi⟩ := hwhy
      · simp [h]
      · have hfar : s.nearSecond = false := by simp [State.nearSecond]; omega
        simp [hfar]
    have hor : (!s.nearSecond) = true ∨ (!s.tm.everLocked) = true := by simpa [imp_iff_not_or] using hno
    have hrun := opPps_eq hu hen hns
    rw [if_pos hor, hno] at hrun
    exact ⟨_, congrArg Host.Outcome.next hrun, rfl, .of_patch rfl⟩
  case disabled =>
    refine congrArg Host.Outcome.next ?_
    unfold State.opPps State.whenUp
    split
    · exact if_pos (by simp [hen])
    · rfl

end Sys2Proof.Machine

namespace Sys2Proof.Table

theorem get_drop {α : Type} (d : α) (p : Nat → Bool) (t : Table α) (i : Nat) : get d (drop p t) i = if p i then d else get d t i := by
  induction t with
  | nil => simp [drop]
  | cons e t ih =>
    obtain ⟨j, v⟩ := e
    simp only [drop, List.filter_cons] at ih ⊢
    by_cases hj : j = i
    · subst hj
      by_cases hp : p j <;> simp [hp, get, ih]
    · by_cases hp : p j <;> simp [hp, hj, get, ih]

end Sys2Proof.Table

namespace Sys2Proof.Machine

/-! ## WAIT, RESERVE, LAYER and STEP_END, and the issue rule (R209, R210, R215, R218, R219, R232) -/

theorem updPart_updPart (s : State) (p : Nat) (f g : Part → Part) : (s.updPart p f).updPart p g = s.updPart p fun q => g (f q) := by
  rw [State.updPart, updPart_part_same]
  exact congrArg (fun ps : Table Part => { s with parts := ps }) (Table.set_set _ _ _ _ _)

/-- R218 holds an entry of any kind. -/
theorem issue_of_heldBack {s : State} {p sid i kind : Nat} {ws : List W64} {errs : List MemErr} (h : HeldBack s p sid i ws kind errs)
    (kinds : Nat → Bool) (also : State → Nat → List W64 → Bool) (f : State → Nat → List W64 → State) :
    s.issue p sid kinds errs also f = s := by
  obtain ⟨hop, hmay, hnext, -, hdue | hwaits⟩ := h
  · simp [State.issue, hop, hmay, hnext, hdue]
  · simp [State.issue, hop, hmay, hnext, hwaits]

theorem heldNext_of_heldBack {s : State} {p pos i kind : Nat} {ws : List W64} {errs : List MemErr} (h : HeldBack s p pos i ws kind errs) :
    s.heldNext p pos errs = false := by
  obtain ⟨-, -, hnext, -, hdue | hwaits⟩ := h
  · simp [State.heldNext, hnext, hdue]
  · simp [State.heldNext, hnext, hwaits]

theorem opVec_of_heldBack {s : State} {p pos i kind : Nat} {ws : List W64} {errs : List MemErr} (h : HeldBack s p pos i ws kind errs) :
    s.opVec p pos errs = s := by
  rw [State.opVec, heldNext_of_heldBack h, if_neg Bool.false_ne_true]
  exact issue_of_heldBack h _ _ _

/-! Outside a replay an issue moves its stream on and leaves the open layers. -/

section Marked

variable {q : Part} {sid : Nat} (i : Nat) (h : redoOf q sid = none)
include h

theorem markIssue_layers : (markIssue q sid i).layers = q.layers := by
  unfold markIssue
  rw [h]
  dsimp only
  split <;> rfl

theorem markIssue_streams : (markIssue q sid i).streams =
    (updStream q sid fun st => { st with next := i + 1, timedOut := false, heldUpd := false }).streams := by
  unfold markIssue
  rw [h]
  dsimp only
  split <;> rfl

theorem streamOf_markIssue_same :
    streamOf (markIssue q sid i) sid = { streamOf q sid with next := i + 1, timedOut := false, heldUpd := false } := by
  rw [streamOf, markIssue_streams i h]
  exact Table.get_set_same _ _ _ _

theorem streamOf_markIssue_ne {x : Nat} (hx : x ≠ sid) : streamOf (markIssue q sid i) x = streamOf q x := by
  rw [streamOf, markIssue_streams i h]
  exact Table.get_set_ne _ _ _ hx

end Marked

theorem streamOf_updStream_same (q : Part) (sid : Nat) (f : Stream → Stream) : streamOf (updStream q sid f) sid = f (streamOf q sid) :=
  Table.get_set_same _ _ _ _

theorem streamOf_updStream_ne (q : Part) (sid : Nat) (f : Stream → Stream) {x : Nat} (h : x ≠ sid) :
    streamOf (updStream q sid f) x = streamOf q x := Table.get_set_ne _ _ _ h

/-- What a WAIT entry leaves: it has issued, and is complete (R210). -/
theorem opWait_eq {s : State} {p sid i : Nat} {ws : List W64} {errs : List MemErr} (h : MayIssue s p sid i ws kWait errs) :
    s.opWait p sid errs = s.updPart p fun q => completeEntry (markIssue q sid i) sid (s.part p).step ws := by
  rw [State.opWait, issue_of_mayIssue h _ rfl, issued_part_same, markIssue_step]
  exact updPart_updPart _ _ _ _

theorem opReserve_eq {s : State} {p sid i : Nat} {ws : List W64} {errs : List MemErr} (h : MayIssue s p sid i ws kReserve errs) :
    s.opReserve p sid errs = s.updPart p fun q => markIssue q sid i := issue_of_mayIssue h _ rfl

/-- The stream that issued entry i, as a layer holds it (R215). -/
def joined (sid i : Nat) : LayerStream := ⟨sid, i + 1, none, false⟩

/-- A layer opened by the first stream that declares it (R215). -/
def declared (sid i : Nat) (ws : List W64) : Layer :=
  { Layer.reset with lidx := ef ws 2 15 4, layerId := ef ws 2 63 32, slot := ef ws 2 31 16, npos := ef ws 3 63 51, streams := [joined sid i] }

/-- What a LAYER entry makes of its partition: the stream joins the layer, opened where no stream had declared it (R215). -/
def joinLayer (q : Part) (sid i : Nat) (ws : List W64) : Part :=
  match q.layers.find? fun l => l.lidx = ef ws 2 15 4 with
  | some _ => updLayer q (ef ws 2 15 4) fun l => { l with streams := l.streams ++ [joined sid i] }
  | none => { q with layers := q.layers ++ [declared sid i ws] }

theorem joinLayer_streams (q : Part) (sid i : Nat) (ws : List W64) : (joinLayer q sid i ws).streams = q.streams := by
  unfold joinLayer
  split <;> rfl

theorem joinLayer_opens {q : Part} {ws : List W64} (h : ∀ l ∈ q.layers, l.lidx ≠ ef ws 2 15 4) (sid i : Nat) :
    (joinLayer q sid i ws).layers = q.layers ++ [declared sid i ws] := by
  have hnone : (q.layers.find? fun l => l.lidx = ef ws 2 15 4) = none := by simpa [List.find?_eq_none] using h
  rw [joinLayer, hnone]

theorem joinLayer_joins {q : Part} {ws : List W64} {l : Layer} (h : q.layers = [l]) (hl : l.lidx = ef ws 2 15 4) (sid i : Nat) :
    (joinLayer q sid i ws).layers = [{ l with streams := l.streams ++ [joined sid i] }] := by
  simp [joinLayer, updLayer, h, hl]

theorem opLayer_eq {s : State} {p sid i : Nat} {ws : List W64} {errs : List MemErr} (h : MayIssue s p sid i ws kLayer errs) :
    s.opLayer p sid errs = (s.issued p sid i).updPart p fun q => joinLayer q sid i ws := issue_of_mayIssue h _ rfl

/-- What STEP_END makes of its stream in step n: it has ended, and holds no Token of the step (R219). -/
def Stream.stepEnded (st : Stream) (n : Nat) : Stream :=
  { st with ended := true, tokens := Table.drop (fun i => i % 2 = n % 2) st.tokens, provs := st.provs.filter fun i => i % 2 ≠ n % 2 }

theorem opStepEnd_eq {s : State} {p sid i : Nat} {ws : List W64} {errs : List MemErr} (h : MayIssue s p sid i ws kStepEnd errs) :
    s.opStepEnd p sid errs = (s.issued p sid i).updPart p fun q => updStream q sid fun st => st.stepEnded q.step := issue_of_mayIssue h _ rfl

/-- An update of a partition in which an entry has issued changes nothing but the partition. -/
theorem issued_updPart_keeps (s : State) (p sid i : Nat) (f : Part → Part) : Keeps [.partitions] s ((s.issued p sid i).updPart p f) :=
  (issued_keeps s p sid i).trans (updPart_keeps _ p f)

theorem issued_updPart_ne (s : State) {p q : Nat} (sid i : Nat) (f : Part → Part) (h : q ≠ p) :
    ((s.issued p sid i).updPart p f).part q = s.part q := (updPart_part_ne _ _ _ h).trans (issued_part_ne _ _ _ h)

theorem issued_updPart_same (s : State) (p sid i : Nat) (f : Part → Part) :
    ((s.issued p sid i).updPart p f).part p = f (markIssue (s.part p) sid i) := by rw [updPart_part_same, issued_part_same]

/-- Settles O38: each of the four kinds by what it makes of its partition, and R218 by what `State.issue` asks before an entry's kind. -/
theorem controlEntriesAndTheIssueRule : Obligations.ControlEntriesAndTheIssueRule := by
  refine ⟨fun s p sid i ws errs h => ?wait, fun s p sid i ws errs h => ?reserve, fun s p sid i ws errs h hnew hredo => ?opens,
    fun s p sid i ws l errs h hone hl hredo => ?joins, fun s p sid i ws errs h hredo => ?ends, fun s p sid i kind ws errs upset h => ?held⟩
  case wait => exact ⟨_, congrArg Host.Outcome.next (opWait_eq h), rfl⟩
  case reserve => exact ⟨_, congrArg Host.Outcome.next (opReserve_eq h), rfl⟩
  case opens =>
    have hlayers := markIssue_layers i hredo
    refine ⟨_, congrArg Host.Outcome.next (opLayer_eq h), ?_, ?_, fun q hq => issued_updPart_ne _ _ _ _ hq, issued_updPart_keeps _ _ _ _ _⟩
    · rw [issued_updPart_same, joinLayer_opens (by rwa [hlayers]), hlayers]
      rfl
    · rw [issued_updPart_same, streamOf, joinLayer_streams]
      exact streamOf_markIssue_same i hredo
  case joins =>
    refine ⟨_, congrArg Host.Outcome.next (opLayer_eq h), ?_, issued_updPart_keeps _ _ _ _ _⟩
    rw [issued_updPart_same, joinLayer_joins ((markIssue_layers i hredo).trans hone) hl]
    rfl
  case ends =>
    refine ⟨_, congrArg Host.Outcome.next (opStepEnd_eq h), ?_, fun j => ?_, fun j => ?_, fun x hx => ?_, ?_,
      fun q hq => issued_updPart_ne _ _ _ _ hq, issued_updPart_keeps _ _ _ _ _⟩
    · rw [issued_updPart_same, streamOf_updStream_same]
      rfl
    · rw [issued_updPart_same, streamOf_updStream_same, streamOf_markIssue_same i hredo, markIssue_step, Stream.stepEnded, Table.get_drop,
        if_pos (by simp)]
    · rw [issued_updPart_same, streamOf_updStream_same, streamOf_markIssue_same i hredo, markIssue_step, Stream.stepEnded, Table.get_drop,
        if_neg (by simp; omega)]
    · rw [issued_updPart_same, streamOf_updStream_ne _ _ _ hx, streamOf_markIssue_ne i hredo hx]
    · rw [issued_updPart_same]
      exact markIssue_step _ _ _
  case held =>
    exact ⟨congrArg Host.Outcome.next (issue_of_heldBack h _ _ _), congrArg Host.Outcome.next (issue_of_heldBack h _ _ _),
      congrArg Host.Outcome.next (opVec_of_heldBack h), congrArg Host.Outcome.next (issue_of_heldBack h _ _ _),
      congrArg Host.Outcome.next (issue_of_heldBack h _ _ _), congrArg Host.Outcome.next (issue_of_heldBack h _ _ _),
      congrArg Host.Outcome.next (issue_of_heldBack h _ _ _), congrArg Host.Outcome.next (issue_of_heldBack h _ _ _),
      congrArg Host.Outcome.next (issue_of_heldBack h _ _ _), congrArg Host.Outcome.next (issue_of_heldBack h _ _ _)⟩

end Sys2Proof.Machine

namespace Sys2Proof.Machine

/-! ## Module time follows its sources (R197 to R200) -/

/-- A frame counted at its port (R339). -/
def State.rxIn (s : State) (n : Nat) : State := s.updPort n fun q => { q with rx := inc q.rx }

@[simp] theorem rxIn_port_same (s : State) (n : Nat) : (s.rxIn n).port n = { s.port n with rx := inc (s.port n).rx } := updPort_port_same _ _ _

theorem rxIn_keeps (s : State) (n : Nat) : Keeps [.network] s (s.rxIn n) := .of_patch rfl

theorem ptpCounted_eq {s : State} {x : PtpRx} (h : x.port < 16) : s.ptpCounted x = s.rxIn x.port := if_pos h

theorem rxIn_tagOk (s : State) (n : Nat) (vid : Option Nat) (stacked : Bool) : (s.rxIn n).tagOk n vid stacked = s.tagOk n vid stacked := by
  unfold State.tagOk
  rw [rxIn_port_same]
  rfl

theorem rxIn_roleNow (s : State) (n : Nat) : (s.rxIn n).roleNow n = s.roleNow n := by
  unfold State.roleNow
  rw [rxIn_port_same]
  rfl

theorem rxIn_clockId (s : State) (n : Nat) : (s.rxIn n).clockId n = s.clockId n := by
  unfold State.clockId
  rw [rxIn_port_same]

/-- A frame that did not come on a direct port: counted, and taken in where its checks hold and it is for the module (R197). -/
theorem opPtp_of_port {s : State} {x : PtpRx} (hb : s.based = true) (hp : x.port < 16) (hup : s.subUp x.port x.sub = true)
    (hrole : s.roleNow x.port ≠ 2) : s.opPtp x =
      if x.fcsBad ∨ x.sumBad ∨ !s.tagOk x.port x.vid x.stacked then s.rxIn x.port else (s.rxIn x.port).ptpOwn x := by
  have hrole' : (s.rxIn x.port).ptpPassed x = s.rxIn x.port := if_neg (by rwa [rxIn_roleNow])
  have hport : ¬ (16 ≤ x.port ∨ (!s.subUp x.port x.sub) = true) := by simp [hup]; omega
  rw [opPtp_eq, whenBased_of_based hb]
  rw [if_neg hport, ptpCounted_eq hp, rxIn_tagOk, hrole']

theorem opPtp_of_ptpIn {s : State} {x : PtpRx} {plane : Nat} (h : PtpIn s x plane) : s.opPtp x = (s.rxIn x.port).ptpTake plane x := by
  obtain ⟨hb, hp, rfl, hup, hrole, hfcs, hsum, htag, hmine, -⟩ := h
  rw [opPtp_of_port hb hp hup hrole, if_neg (by simp [hfcs, hsum, htag])]
  exact if_pos hmine

/-- A message of another domain, or of an interval outside the range, changes nothing (R197). -/
theorem ptpTake_refused {s : State} {plane : Nat} {x : PtpRx} (h : x.frame.msg.domain ≠ fld (s.plane plane).cfg 23 16 ∨
    (x.frame.msg.kind = ptpSync ∧ (x.frame.msg.interval < -7 ∨ 0 < x.frame.msg.interval))) : s.ptpTake plane x = s := by
  unfold State.ptpTake
  dsimp only
  split
  · rfl
  · next hdomain =>
    obtain ⟨hkind, hinterval⟩ := h.resolve_left hdomain
    rw [if_pos hkind, if_pos hinterval]

/-! ### A plane's source, and the plane that gives time -/

theorem side_updSide_same (s : State) (plane : Nat) (f : PtpSide → PtpSide) : (s.updSide plane f).side plane = f (s.side plane) :=
  Table.get_set_same _ _ _ _

theorem side_updSide_ne (s : State) {plane i : Nat} (f : PtpSide → PtpSide) (h : i ≠ plane) : (s.updSide plane f).side i = s.side i :=
  Table.get_set_ne _ _ _ h

theorem updSide_keeps (s : State) (plane : Nat) (f : PtpSide → PtpSide) : Keeps [.time] s (s.updSide plane f) := .of_patch rfl

/-- A plane that gives time has a usable source (R198). -/
theorem testBit_of_timePlane {s : State} {i : Nat} (h : s.timePlane = some i) : testBit s.tm.usable i = true := by
  have hbits : ∀ j ∈ bitsOf 2 s.tm.usable, testBit s.tm.usable j = true := fun j hj => (List.mem_filter.mp hj).2
  unfold State.timePlane at h
  dsimp only at h
  split at h
  · next j hj =>
    obtain rfl : j = i := Option.some.inj h
    exact hbits j (List.mem_of_find?_eq_some hj)
  · exact hbits i (List.mem_of_mem_head? h)

/-- Module time once the source of `plane` is usable and plane i gives time, by the frequency f recovered there (R198, R200). -/
def TimeSt.sourced (t : TimeSt) (plane i : Nat) (f : Option Int) : TimeSt :=
  { t with usable := setBit t.usable plane, source := i + 1, synce := f.isSome, freq := f.getD t.freq,
           good := if t.st = .neverLocked ∨ t.st = .holdover then 0 else if t.source = i + 1 then t.good else 0,
           st := if t.st = .neverLocked ∨ t.st = .holdover then .acquiring else t.st }

/-- The source of a plane marked as usable (R198). -/
def State.sourceMarked (s : State) (plane : Nat) : State := { s with tm := { s.tm with usable := setBit s.tm.usable plane } }

theorem sourceUp_eq {s : State} {plane i : Nat} (h : GivesTime s plane i) :
    s.sourceUp plane = { s with tm := s.tm.sourced plane i (s.side i).freq } := by
  unfold GivesTime at h
  have hup : s.sourceUp plane = if s.tm.st = .neverLocked ∨ s.tm.st = .holdover then
      { (s.sourceMarked plane).timeFrom i with tm := { ((s.sourceMarked plane).timeFrom i).tm with st := .acquiring, good := 0 } }
      else (s.sourceMarked plane).timeFrom i := by
    unfold State.sourceUp
    dsimp only
    rw [h]
    rfl
  rw [hup]
  unfold TimeSt.sourced
  by_cases hst : s.tm.st = .neverLocked ∨ s.tm.st = .holdover
  · rw [if_pos hst, if_pos hst, if_pos hst]
    rfl
  · rw [if_neg hst, if_neg hst, if_neg hst]
    rfl

/-- The frequency that a Sync's line shows, within what an equipment clock follows (R198). -/
def lineFreq (x : PtpRx) : Option Int := x.synce.map fun f => max (-4) (min 4 f)

/-- A Sync's plane, its source usable and its frequency taken (R197, R198). -/
def State.synced (s : State) (plane : Nat) (x : PtpRx) : State := (s.updSide plane fun d => { d with freq := lineFreq x }).sourceUp plane

section Synced

variable {s : State} {plane i : Nat} {x : PtpRx} (h : GivesTime s plane i)
include h

theorem synced_eq : s.synced plane x = { s.updSide plane (fun d => { d with freq := lineFreq x }) with
    tm := (s.updSide plane fun d => { d with freq := lineFreq x }).tm.sourced plane i
      ((s.updSide plane fun d => { d with freq := lineFreq x }).side i).freq } := sourceUp_eq h

theorem synced_side : (s.synced plane x).side plane = { s.side plane with freq := lineFreq x } := by
  rw [synced_eq h]
  exact side_updSide_same s plane fun d => { d with freq := lineFreq x }

theorem synced_keeps : Keeps [.time] s (s.synced plane x) := by
  rw [synced_eq h]
  exact .of_patch rfl

theorem synced_timePlane : (s.synced plane x).timePlane = some i := by
  rw [synced_eq h]
  exact h

/-- What a Sync changes of module time but for the planes' own memory. -/
theorem synced_tm : ∃ f, (i = plane → f = lineFreq x) ∧
    (s.synced plane x).tm = { s.tm.sourced plane i f with sides := (s.synced plane x).tm.sides } := by
  refine ⟨((s.updSide plane fun d => { d with freq := lineFreq x }).side i).freq, ?_, ?_⟩
  · rintro rfl
    rw [side_updSide_same]
  · rw [synced_eq h]
    rfl

end Synced

/-! ### A Sync answered, and its offset -/

/-- A Sync whose time at the source is known, answered by a Delay_Req (R197). -/
def State.asked (s : State) (plane : Nat) (x : PtpRx) (sent arrived : Int) : State :=
  (s.updSide plane fun d => { d with sync := some (sent, arrived), wait := none }).delayReq plane x

theorem syncDone_eq (s : State) (plane : Nat) (x : PtpRx) (sent arrived : Int) : s.syncDone plane x sent arrived =
    match ((s.asked plane x sent arrived).side plane).path with
    | some path =>
      if (s.asked plane x sent arrived).timePlane = some plane then (s.asked plane x sent arrived).ptpOffset (sent + path - arrived) x.rate
      else s.asked plane x sent arrived
    | none => s.asked plane x sent arrived := rfl

section Asked

variable (s : State) (plane : Nat) (x : PtpRx) (sent arrived : Int)

theorem asked_side : (s.asked plane x sent arrived).side plane =
    { s.side plane with sync := some (sent, arrived), wait := none, req := some ((s.side plane).seq, s.tm.now.toNat),
                        seq := ((s.side plane).seq + 1) % 65536 } := by
  have hset : (s.updSide plane fun d => { d with sync := some (sent, arrived), wait := none }).side plane =
      { s.side plane with sync := some (sent, arrived), wait := none } := side_updSide_same _ _ _
  unfold State.asked State.delayReq
  dsimp only
  rw [side_updSide_same]
  exact congrArg (fun d : PtpSide => { d with req := some (d.seq, s.tm.now.toNat), seq := (d.seq + 1) % 65536 }) hset

theorem asked_keeps : Keeps [.time, .network] s (s.asked plane x sent arrived) := .of_patch rfl

/-- An answer changes nothing of module time but the planes' own memory. -/
theorem asked_tm : (s.asked plane x sent arrived).tm = { s.tm with sides := (s.asked plane x sent arrived).tm.sides } := rfl

theorem asked_net : (s.asked plane x sent arrived).net = { s.net with egress := (s.asked plane x sent arrived).net.egress } := rfl

theorem asked_timePlane : (s.asked plane x sent arrived).timePlane = s.timePlane := rfl

theorem linkOf_place (at' : Nat × Nat) (hop pcp : Nat) : (s.linkOf at' hop pcp).port = at'.1 ∧ (s.linkOf at' hop pcp).sub = at'.2 := by
  unfold State.linkOf
  dsimp only
  split
  · exact ⟨rfl, rfl⟩
  · split
    · next h => exact ⟨h.symm, rfl⟩
    · exact ⟨rfl, rfl⟩

theorem asked_delayAsked : DelayAsked s (s.asked plane x sent arrived) x plane := by
  have hseq : ((s.updSide plane fun d => { d with sync := some (sent, arrived), wait := none }).side plane).seq = (s.side plane).seq := by
    rw [side_updSide_same]
  exact ⟨_, _, rfl, (linkOf_place _ _ _ _).1, (linkOf_place _ _ _ _).2, rfl, rfl, rfl, hseq⟩

end Asked

/-- The plane in force, its path delay known, gives its offset (R199). -/
theorem syncDone_of_path {s : State} {plane : Nat} {x : PtpRx} {path : Int} (hpath : (s.side plane).path = some path)
    (hplane : s.timePlane = some plane) (sent arrived : Int) :
    s.syncDone plane x sent arrived = (s.asked plane x sent arrived).ptpOffset (sent + path - arrived) x.rate := by
  have hpath' : ((s.asked plane x sent arrived).side plane).path = some path := by rw [asked_side, hpath]
  rw [syncDone_eq, hpath']
  exact if_pos hplane

/-- Another plane than the one in force, or one whose path delay is not known, gives no offset (R197, R198). -/
theorem syncDone_of_no_path {s : State} {plane : Nat} {x : PtpRx} (h : s.timePlane ≠ some plane ∨ (s.side plane).path = none)
    (sent arrived : Int) : s.syncDone plane x sent arrived = s.asked plane x sent arrived := by
  rw [syncDone_eq]
  split
  · next path hpath =>
    rw [asked_side] at hpath
    have hpath' : (s.side plane).path = some path := hpath
    exact if_neg (h.resolve_right (by simp [hpath']))
  · rfl

/-- An offset unlocks only a locked module, by more than 1,000 ns (R200). -/
theorem ptpOffset_of_kept {s : State} {offset : Int} (h : s.tm.st ≠ .locked ∨ offset.natAbs ≤ 1000) (rate : Int) :
    s.ptpOffset offset rate = s.offsetTaken offset rate := by
  rw [ptpOffset_eq, if_neg]
  rintro ⟨hlocked, hfar⟩
  have hst := h.resolve_right (by omega)
  have hrow : s.tm.goodRow offset.natAbs = 0 := if_neg (by omega)
  have hno : s.tm.locks offset.natAbs = false := by simp [TimeSt.locks, hrow]
  simp [State.offsetTaken, TimeSt.offsetIn, hno, hst] at hlocked

theorem ptpOffset_of_unlock {s : State} {offset : Int} (hst : s.tm.st = .locked) (hfar : 1000 < offset.natAbs) (rate : Int) :
    s.ptpOffset offset rate = (s.offsetTaken offset rate).timeUnlock := by
  rw [ptpOffset_eq, if_pos]
  exact ⟨by simp [State.offsetTaken, TimeSt.offsetIn, hst], hfar⟩

theorem offsetTaken_keeps (s : State) (offset rate : Int) : Keeps [.time] s (s.offsetTaken offset rate) := .of_patch rfl

/-- A step of module time moves what a plane remembers in it, and no path delay. -/
theorem offsetTaken_path (s : State) (offset rate : Int) (plane : Nat) :
    ((s.offsetTaken offset rate).side plane).path = (s.side plane).path := by
  unfold State.side State.offsetTaken TimeSt.offsetIn
  dsimp only
  split
  · exact Table.get_map (f := fun d => d.step offset) PtpSide.path (fun _ => rfl) _ _ _
  · rfl

theorem offsetTaken_wait {s : State} {plane : Nat} (h : (s.side plane).wait = none) (offset rate : Int) :
    ((s.offsetTaken offset rate).side plane).wait = none := by
  have hsame : ((s.offsetTaken offset rate).side plane).wait.isNone = (s.side plane).wait.isNone := by
    unfold State.side State.offsetTaken TimeSt.offsetIn
    dsimp only
    split
    · exact Table.get_map (f := fun d => d.step offset) (fun d : PtpSide => d.wait.isNone) (fun d => by simp [PtpSide.step]) _ _ _
    · rfl
  simpa [h] using hsame

theorem steps_eq (s : State) (offset : Int) : s.steps offset = true ↔ s.anySchedule = false ∧ 1000 < offset.natAbs := by
  simp [State.steps]

/-! ### The unlock of a module (R200) -/

/-- The state once module time has been found off, before the entry that says so. -/
def State.unlocked (s : State) : State :=
  { s with tm := { s.tm with st := .unlocked, good := 0, unlocks := inc s.tm.unlocks, source := if s.tm.source = 3 then 0 else s.tm.source } }

theorem timeUnlock_eq (s : State) : s.timeUnlock = s.unlocked.logLead 0x30 s.unlocked.timeStatus := rfl

theorem timeUnlock_tm (s : State) : s.timeUnlock.tm = s.unlocked.tm := logLead_tm _ _ _

theorem timeUnlock_keeps (s : State) : Keeps [.time, .stewards, .firmware] s s.timeUnlock := by
  rw [timeUnlock_eq]
  refine .trans ?_ ((logLead_keeps _ _ _).mono (by decide))
  exact .of_patch rfl

theorem timeUnlock_logged (s : State) : Logged s.timeUnlock s.leadNow 0x30 [s.timeUnlock.timeStatus] := by
  have hstatus : s.timeUnlock.timeStatus = s.unlocked.timeStatus := by
    unfold State.timeStatus State.since
    rw [timeUnlock_tm]
  rw [hstatus, timeUnlock_eq]
  exact logLead_logged s.unlocked 0x30 _

end Sys2Proof.Machine

namespace Sys2Proof.Machine

/-! ### The rows of the time state table (R200) -/

theorem sourced_good (t : TimeSt) (plane : Nat) (f : Option Int) : (t.sourced plane plane f).good =
    if t.st = .neverLocked ∨ t.st = .holdover ∨ t.source ≠ plane + 1 then 0 else t.good := by
  show (if t.st = .neverLocked ∨ t.st = .holdover then 0 else if t.source = plane + 1 then t.good else 0) = _
  split_ifs <;> tauto

theorem sourced_st_fresh {t : TimeSt} (h : t.st = .neverLocked ∨ t.st = .holdover) (plane i : Nat) (f : Option Int) :
    (t.sourced plane i f).st = .acquiring := if_pos h

theorem sourced_st_kept {t : TimeSt} (hnever : t.st ≠ .neverLocked) (hhold : t.st ≠ .holdover) (plane i : Nat) (f : Option Int) :
    (t.sourced plane i f).st = t.st := if_neg (by tauto)

/-- An acquiring or unlocked module locks by its sixteenth good error in a row (R200). -/
theorem offsetIn_st_waiting {t : TimeSt} (h : t.st = .acquiring ∨ t.st = .unlocked) (steps : Bool) (offset rate : Int) :
    (t.offsetIn steps offset rate).st = if offset.natAbs ≤ 100 ∧ 15 ≤ t.good then .locked else t.st := by
  have hlocks : t.locks offset.natAbs = true ↔ offset.natAbs ≤ 100 ∧ 15 ≤ t.good := by
    have hwaits : (decide (t.st = .acquiring) || decide (t.st = .unlocked)) = true := by simpa using h
    rw [TimeSt.locks, hwaits, Bool.true_and, decide_eq_true_eq, TimeSt.goodRow]
    split <;> omega
  exact ite_congr (propext hlocks) (fun _ => rfl) fun _ => rfl

/-- A locked module stays as it is until its error is too large. -/
theorem offsetIn_st_locked {t : TimeSt} (h : t.st = .locked) (steps : Bool) (offset rate : Int) : (t.offsetIn steps offset rate).st = .locked := by
  simp [TimeSt.offsetIn, TimeSt.locks, h]

section Heard

variable {t : TimeSt} (plane : Nat) (f : Option Int) (steps : Bool) (offset rate : Int)

theorem heard_st_fresh (h : t.st = .neverLocked ∨ t.st = .holdover) :
    ((t.sourced plane plane f).offsetIn steps offset rate).st = .acquiring := by
  have hacq : (t.sourced plane plane f).st = .acquiring := sourced_st_fresh h _ _ _
  have hnone : (t.sourced plane plane f).good = 0 := (sourced_good _ _ _).trans (if_pos (by tauto))
  rw [offsetIn_st_waiting (.inl hacq), hnone, if_neg (by omega), hacq]

theorem heard_st_waiting (h : t.st = .acquiring ∨ t.st = .unlocked) : ((t.sourced plane plane f).offsetIn steps offset rate).st =
    if offset.natAbs ≤ 100 ∧ 15 ≤ (t.sourced plane plane f).good then .locked else t.st := by
  have hsame : (t.sourced plane plane f).st = t.st := by
    obtain hst | hst := h <;> exact sourced_st_kept (by rw [hst]; decide) (by rw [hst]; decide) _ _ _
  rw [offsetIn_st_waiting (by rwa [hsame]), hsame]

theorem heard_st_locked (h : t.st = .locked) : ((t.sourced plane plane f).offsetIn steps offset rate).st = .locked :=
  offsetIn_st_locked ((sourced_st_kept (by rw [h]; decide) (by rw [h]; decide) _ _ _).trans h) _ _ _

end Heard

/-- `t` is `s` after a message of the plane's source was taken in, counted and answered, with `T` what it made of module time but for the
planes' own memory (R197). -/
structure Answering (s : State) (x : PtpRx) (plane : Nat) (T : TimeSt) (t : State) : Prop where
  tm : ∃ d, t.tm = { T with sides := d }
  keeps : Keeps [.time, .network] s t
  path : (t.side plane).path = (s.side plane).path
  wait : (t.side plane).wait = none
  asked : DelayAsked s t x plane
  rx : (t.port x.port).rx = inc (s.port x.port).rx
  conns : t.net.conns = s.net.conns

theorem steps_of_parts {s t : State} (h : t.parts = s.parts) (offset : Int) : t.steps offset = s.steps offset := by
  rw [State.steps, State.anySchedule, h]
  rfl

section Sync

variable {s : State} {x : PtpRx} {plane : Nat}

/-- An accepted Sync counted, its source usable and its plane's frequency taken (R197, R198). -/
def syncedIn (s : State) (plane : Nat) (x : PtpRx) : State := (s.rxIn x.port).synced plane x

/-- The time at the source when a Sync left there (R197). -/
def sentAt (x : PtpRx) : Int := x.frame.msg.stamp + corrNs x.frame.msg.corr

theorem opPtp_of_syncIn (h : SyncIn s x plane) : s.opPtp x =
    if x.frame.msg.twoStep = true then (syncedIn s plane x).updSide plane fun d =>
      { d with wait := some (x.frame.msg.source, x.frame.msg.seq, (syncedIn s plane x).tm.now.toNat, x.frame.msg.corr) }
    else (syncedIn s plane x).syncDone plane x (sentAt x) s.tm.now.toNat := by
  obtain ⟨hin, hkind, hlo, hhi⟩ := h
  have hdomain : ¬ x.frame.msg.domain ≠ fld ((s.rxIn x.port).plane plane).cfg 23 16 := by
    obtain ⟨-, -, -, -, -, -, -, -, -, hdomain⟩ := hin
    exact not_not_intro hdomain
  rw [opPtp_of_ptpIn hin, State.ptpTake]
  dsimp only
  rw [if_neg hdomain, if_pos hkind, if_neg (by omega)]
  rfl

theorem answering_sync {i : Nat} (hg : GivesTime s plane i) (sent arrived : Int) : ∃ f, (i = plane → f = lineFreq x) ∧
    Answering s x plane (s.tm.sourced plane i f) ((syncedIn s plane x).asked plane x sent arrived) := by
  have hg' : GivesTime (s.rxIn x.port) plane i := hg
  obtain ⟨f, hf, htm⟩ := synced_tm (x := x) hg'
  have hside : (syncedIn s plane x).side plane = { s.side plane with freq := lineFreq x } := synced_side hg'
  have hnet : (syncedIn s plane x).net = (s.rxIn x.port).net := synced_keeps hg' .network (by decide)
  refine ⟨f, hf, ⟨((syncedIn s plane x).asked plane x sent arrived).tm.sides, ?_⟩, ?_, ?_, ?_, ?_, ?_, ?_⟩
  · exact congrArg (fun u : TimeSt => { u with sides := ((syncedIn s plane x).asked plane x sent arrived).tm.sides }) htm
  · exact ((rxIn_keeps s x.port).mono (by decide)).trans (((synced_keeps hg').mono (by decide)).trans (asked_keeps _ _ _ _ _))
  · rw [asked_side, hside]
  · rw [asked_side]
  · obtain ⟨l, m, hegress, hport, hsub, hmap, hkind, hdomain, hseq⟩ := asked_delayAsked (syncedIn s plane x) plane x sent arrived
    rw [hnet] at hegress
    rw [hside] at hseq
    exact ⟨l, m, hegress, hport, hsub, hmap, hkind, hdomain, hseq⟩
  · rw [State.port, asked_net, hnet]
    exact congrArg Port.rx (rxIn_port_same s x.port)
  · rw [asked_net, hnet]
    rfl

theorem answering_followUp (sent arrived : Int) : Answering s x plane s.tm ((s.rxIn x.port).asked plane x sent arrived) := by
  refine ⟨⟨_, asked_tm _ _ _ _ _⟩, ((rxIn_keeps s x.port).mono (by decide)).trans (asked_keeps _ _ _ _ _), ?_, ?_,
    asked_delayAsked (s.rxIn x.port) plane x sent arrived, congrArg Port.rx (rxIn_port_same s x.port), rfl⟩
  · rw [asked_side]
    rfl
  · rw [asked_side]

/-- The offset of the plane in force, taken in (R199, R200). -/
theorem Answering.offset {T : TimeSt} {t : State} (h : Answering s x plane T t) (offset rate : Int) :
    Answering s x plane (T.offsetIn (s.steps offset) offset rate) (t.offsetTaken offset rate) := by
  obtain ⟨d, htm⟩ := h.tm
  refine ⟨⟨(({ T with sides := d } : TimeSt).offsetIn (s.steps offset) offset rate).sides, ?_⟩, h.keeps.trans ((offsetTaken_keeps _ _ _).mono (by decide)), ?_, offsetTaken_wait h.wait _ _, h.asked, h.rx, h.conns⟩
  · rw [State.offsetTaken, steps_of_parts (h.keeps .partitions (by decide)), htm]
    rfl
  · rw [offsetTaken_path, h.path]

/-- The plane in force, whose path delay is known, gives an offset (R197). -/
theorem opPtp_of_offset {path : Int} (h : SyncIn s x plane) (hone : x.frame.msg.twoStep = false) (hpath : (s.side plane).path = some path)
    (hg : GivesTime s plane plane) : ∃ t, Answering s x plane (s.tm.sourced plane plane (lineFreq x)) t ∧
      s.opPtp x = t.ptpOffset (sentAt x + path - s.tm.now.toNat) x.rate := by
  have hg' : GivesTime (s.rxIn x.port) plane plane := hg
  obtain ⟨f, hf, hans⟩ := answering_sync (x := x) hg (sentAt x) s.tm.now.toNat
  obtain rfl := hf rfl
  refine ⟨_, hans, ?_⟩
  rw [opPtp_of_syncIn h, if_neg (by simp [hone])]
  have hside : (syncedIn s plane x).side plane = { s.side plane with freq := lineFreq x } := synced_side hg'
  have hpath' : ((syncedIn s plane x).side plane).path = some path := by rw [hside, hpath]
  exact syncDone_of_path hpath' (synced_timePlane hg') _ _

end Sync

/-- What the passing of an offset that unlocks nothing leaves of the moment: it steps under no schedule alone (R199). -/
theorem offsetIn_now (s : State) (t : TimeSt) (offset rate : Int) : (t.offsetIn (s.steps offset) offset rate).now =
    if s.anySchedule = false ∧ 1000 < offset.natAbs then t.now + BitVec.ofInt 64 offset else t.now :=
  ite_congr (propext (steps_eq s offset)) (fun _ => rfl) fun _ => rfl

/-! ### Each accepted message, as the statement gives it -/

theorem runs_ptpSync_kept {s : State} {x : PtpRx} {plane good : Nat} {path offset : Int} (h : SyncIn s x plane)
    (hone : x.frame.msg.twoStep = false) (hpath : (s.side plane).path = some path) (hg : GivesTime s plane plane)
    (hkept : s.tm.st ≠ .locked ∨ offset.natAbs ≤ 1000) (hoffset : offset = x.frame.msg.stamp + corrNs x.frame.msg.corr + path - (s.tm.now.toNat : Int))
    (hgood : good = (if s.tm.st = .neverLocked ∨ s.tm.st = .holdover ∨ s.tm.source ≠ plane + 1 then 0 else s.tm.good)) :
    Runs (.ptpSyncReceive x.toPtpLink x.frame x.rate x.synce) s fun t =>
      t.tm.errNs = offset.natAbs ∧ t.tm.source = plane + 1 ∧ t.tm.synce = x.synce.isSome ∧ t.tm.usable = setBit s.tm.usable plane ∧
        t.tm.freq = (x.synce.map fun f => max (-4) (min 4 f)).getD s.tm.freq ∧ t.tm.unlocks = s.tm.unlocks ∧
        t.tm.good = (if offset.natAbs ≤ 100 then good + 1 else 0) ∧
        (s.tm.st = .neverLocked ∨ s.tm.st = .holdover → t.tm.st = .acquiring) ∧
        (s.tm.st = .acquiring ∨ s.tm.st = .unlocked → t.tm.st = if offset.natAbs ≤ 100 ∧ 15 ≤ good then .locked else s.tm.st) ∧
        (s.tm.st = .locked → t.tm.st = .locked) ∧
        t.tm.now = (if s.anySchedule = false ∧ 1000 < offset.natAbs then s.tm.now + BitVec.ofInt 64 offset else s.tm.now) ∧
        t.tm.clk = s.tm.clk ∧ (t.side plane).path = some path ∧ DelayAsked s t x plane ∧ (t.port x.port).rx = inc (s.port x.port).rx ∧
        t.net.conns = s.net.conns ∧ Keeps [.time, .network] s t := by
  obtain ⟨u, hu, hrun⟩ := opPtp_of_offset h hone hpath hg
  rw [sentAt, ← hoffset] at hrun
  have hrow : (s.tm.sourced plane plane (lineFreq x)).good = good := (sourced_good _ _ _).trans hgood.symm
  have hust : u.tm.st = (s.tm.sourced plane plane (lineFreq x)).st := by
    obtain ⟨d, hd⟩ := hu.tm
    rw [hd]
  have hunlocked : u.tm.st ≠ .locked ∨ offset.natAbs ≤ 1000 := by
    refine hkept.imp_left fun hne heq => ?_
    rw [hust] at heq
    by_cases hfresh : s.tm.st = .neverLocked ∨ s.tm.st = .holdover
    · exact absurd ((sourced_st_fresh hfresh _ _ _).symm.trans heq) (by decide)
    · exact hne ((sourced_st_kept (by tauto) (by tauto) _ _ _).symm.trans heq)
  rw [ptpOffset_of_kept hunlocked] at hrun
  have ht := hu.offset offset x.rate
  obtain ⟨d, htm⟩ := ht.tm
  refine ⟨_, congrArg Host.Outcome.next hrun, ?_⟩
  dsimp only
  rw [htm]
  rw [← hrow]
  exact ⟨rfl, rfl, Option.isSome_map, rfl, rfl, rfl, rfl, heard_st_fresh plane (lineFreq x) (s.steps offset) offset x.rate,
    heard_st_waiting plane (lineFreq x) (s.steps offset) offset x.rate, heard_st_locked plane (lineFreq x) (s.steps offset) offset x.rate,
    offsetIn_now s (s.tm.sourced plane plane (lineFreq x)) offset x.rate, rfl, ht.path.trans hpath, ht.asked, ht.rx, ht.conns, ht.keeps⟩

theorem runs_ptpSync_unlock {s : State} {x : PtpRx} {plane : Nat} {path offset : Int} (h : SyncIn s x plane)
    (hone : x.frame.msg.twoStep = false) (hpath : (s.side plane).path = some path) (hg : GivesTime s plane plane)
    (hst : s.tm.st = .locked) (hfar : 1000 < offset.natAbs)
    (hoffset : offset = x.frame.msg.stamp + corrNs x.frame.msg.corr + path - (s.tm.now.toNat : Int)) :
    Runs (.ptpSyncReceive x.toPtpLink x.frame x.rate x.synce) s fun t =>
      t.tm.st = .unlocked ∧ t.tm.unlocks = inc s.tm.unlocks ∧ t.tm.errNs = offset.natAbs ∧
        (s.anySchedule = true → t.tm.now = s.tm.now) ∧ Logged t s.leadNow 0x30 [t.timeStatus] ∧
        Keeps [.time, .network, .stewards, .firmware] s t := by
  obtain ⟨u, hu, hrun⟩ := opPtp_of_offset h hone hpath hg
  rw [sentAt, ← hoffset] at hrun
  have hlocked : u.tm.st = .locked := by
    obtain ⟨d, hd⟩ := hu.tm
    have hsame : (s.tm.sourced plane plane (lineFreq x)).st = s.tm.st := sourced_st_kept (by rw [hst]; decide) (by rw [hst]; decide) _ _ _
    rw [hd]
    exact hsame.trans hst
  rw [ptpOffset_of_unlock hlocked hfar] at hrun
  have ht := hu.offset offset x.rate
  obtain ⟨d, htm⟩ := ht.tm
  have hlead : (u.offsetTaken offset x.rate).leadNow = s.leadNow := by
    rw [State.leadNow, show (u.offsetTaken offset x.rate).dev = s.dev from ht.keeps .faults (by decide)]
    rfl
  refine ⟨_, congrArg Host.Outcome.next hrun, ?_, ?_, ?_, fun hruns => ?_, hlead ▸ timeUnlock_logged _,
    (ht.keeps.mono (by decide)).trans ((timeUnlock_keeps _).mono (by decide))⟩
  · rw [timeUnlock_tm]
    rfl
  · rw [timeUnlock_tm, State.unlocked, htm]
    rfl
  · rw [timeUnlock_tm, State.unlocked, htm]
    rfl
  · rw [timeUnlock_tm, State.unlocked, htm]
    exact (offsetIn_now s (s.tm.sourced plane plane (lineFreq x)) offset x.rate).trans (if_neg (by simp [hruns]))

/-! ### A source lost, and the drift in HOLDOVER (R198, R200) -/

/-- The source of a plane lost: marked, and what the plane remembers of it forgotten. -/
def State.sourceGone (s : State) (plane : Nat) : State :=
  ({ s with tm := { s.tm with usable := clearBit s.tm.usable plane } } : State).updSide plane fun _ => .reset

theorem opPtpLost_eq {s : State} {plane : Nat} (hb : s.based = true) (hp : plane < 2) (hbit : testBit s.tm.usable plane = true) :
    s.opPtpLost plane = match (s.sourceGone plane).timePlane with
      | some i => (s.sourceGone plane).timeFrom i
      | none =>
        let u := { s.sourceGone plane with tm := { (s.sourceGone plane).tm with source := 0, synce := false, good := 0 } }
        match s.tm.st with
        | .acquiring => { u with tm := { u.tm with st := if s.tm.everLocked then .holdover else .neverLocked, holdAt := s.tm.clk } }
        | .locked => { u with tm := { u.tm with st := .holdover, holdAt := s.tm.clk } }
        | _ => u := by
  have hnot : ¬ (2 ≤ plane ∨ (!testBit s.tm.usable plane) = true) := by simp [hbit]; omega
  rw [State.opPtpLost, whenBased_of_based hb, if_neg hnot]
  rfl

theorem opHoldover_eq {s : State} {err : Nat} (hb : s.based = true) (hst : s.tm.st = .holdover) : s.opHoldover err =
    if 1000 < err then ({ s with tm := { s.tm with errNs := err } } : State).timeUnlock else { s with tm := { s.tm with errNs := err } } := by
  rw [State.opHoldover, whenBased_of_based hb, if_neg (not_not_intro hst)]

theorem idles_ptpSourceLost {s : State} {plane : Nat} (h : testBit s.tm.usable plane = false) : Idles (.ptpSourceLost plane) s := by
  refine congrArg Host.Outcome.next ?_
  unfold State.opPtpLost State.whenBased
  split
  · exact if_pos (.inr (by simp [h]))
  · rfl

theorem idles_holdoverErrorLimit {s : State} {err : Nat} (h : s.tm.st ≠ .holdover) : Idles (.holdoverErrorLimit err) s := by
  refine congrArg Host.Outcome.next ?_
  unfold State.opHoldover State.whenBased
  split
  · exact if_pos h
  · rfl

end Sys2Proof.Machine

namespace Sys2Proof.Machine

/-- Once the source of a plane is usable, some plane gives time (R198). -/
theorem exists_givesTime (s : State) {plane : Nat} (hp : plane < 2) : ∃ i, GivesTime s plane i := by
  have hmem : plane ∈ bitsOf 2 (setBit s.tm.usable plane) := List.mem_filter.mpr ⟨List.mem_range.mpr hp, testBit_setBit_same _ _⟩
  unfold GivesTime State.timePlane
  dsimp only
  split
  · next i hi => exact ⟨i, rfl⟩
  · exact ⟨_, List.head?_eq_some_head (List.ne_nil_of_mem hmem)⟩

/-- Not of the domain of its plane, damaged, or of an interval outside the range: the frame is counted and changes nothing else (R197). -/
theorem opPtp_refused {s : State} {x : PtpRx} (hb : s.based = true) (hp : x.port < 16) (hup : s.subUp x.port x.sub = true)
    (hrole : s.roleNow x.port ≠ 2) (hwhy : x.frame.msg.domain ≠ fld (s.plane (x.port / 8)).cfg 23 16 ∨ x.fcsBad = true ∨ x.sumBad = true ∨
      s.tagOk x.port x.vid x.stacked = false ∨ (x.frame.msg.kind = ptpSync ∧ (x.frame.msg.interval < -7 ∨ 0 < x.frame.msg.interval))) :
    s.opPtp x = s.rxIn x.port := by
  rw [opPtp_of_port hb hp hup hrole]
  split
  · rfl
  · next hsound =>
    have hmsg : x.frame.msg.domain ≠ fld ((s.rxIn x.port).plane (x.port / 8)).cfg 23 16 ∨
        (x.frame.msg.kind = ptpSync ∧ (x.frame.msg.interval < -7 ∨ 0 < x.frame.msg.interval)) := by
      simp only [not_or, Bool.not_eq_true, Bool.not_eq_true', Bool.not_eq_false] at hsound
      obtain ⟨hfcs, hsum, htag⟩ := hsound
      rw [hfcs, hsum, htag] at hwhy
      exact hwhy.imp id fun h => by simpa using h
    rw [State.ptpOwn, ptpTake_refused hmsg, ite_self]

/-- A Sync that gives no offset: its source is usable, and it is answered (R197, R198). -/
theorem opPtp_of_no_offset {s : State} {x : PtpRx} {plane i : Nat} (h : SyncIn s x plane) (hone : x.frame.msg.twoStep = false)
    (hg : GivesTime s plane i) (hwhy : i ≠ plane ∨ (s.side plane).path = none) :
    ∃ f t, Answering s x plane (s.tm.sourced plane i f) t ∧ s.opPtp x = t := by
  have hg' : GivesTime (s.rxIn x.port) plane i := hg
  obtain ⟨f, -, hans⟩ := answering_sync (x := x) hg (sentAt x) s.tm.now.toNat
  refine ⟨f, _, hans, ?_⟩
  have hside : (syncedIn s plane x).side plane = { s.side plane with freq := lineFreq x } := synced_side hg'
  have hplane : (syncedIn s plane x).timePlane = some i := synced_timePlane hg'
  rw [opPtp_of_syncIn h, if_neg (by simp [hone]), syncDone_of_no_path]
  refine hwhy.imp (fun hne => ?_) fun hnone => ?_
  · rw [hplane]
    simpa using hne
  · rw [hside, hnone]

theorem opPtp_of_followUp {s : State} {x : PtpRx} {plane seq at' src : Nat} {corr path : Int} (h : PtpIn s x plane)
    (hkind : x.frame.msg.kind = ptpFollowUp) (hwait : (s.side plane).wait = some (src, seq, at', corr)) (hsrc : x.frame.msg.source = src)
    (hseq : x.frame.msg.seq = seq) (hpath : (s.side plane).path = some path) (hplane : s.timePlane = some plane) :
    ∃ t, Answering s x plane s.tm t ∧ s.opPtp x = t.ptpOffset (x.frame.msg.stamp + corrNs (corr + x.frame.msg.corr) + path - at') x.rate := by
  have hdomain : ¬ x.frame.msg.domain ≠ fld ((s.rxIn x.port).plane plane).cfg 23 16 := by
    obtain ⟨-, -, -, -, -, -, -, -, -, hdomain⟩ := h
    exact not_not_intro hdomain
  have hwait' : ((s.rxIn x.port).side plane).wait = some (src, seq, at', corr) := hwait
  refine ⟨_, answering_followUp (x.frame.msg.stamp + corrNs (corr + x.frame.msg.corr)) at', ?_⟩
  rw [opPtp_of_ptpIn h, State.ptpTake]
  dsimp only
  rw [if_neg hdomain, if_neg (by rw [hkind]; decide), if_pos hkind, hwait']
  dsimp only
  rw [if_pos ⟨hsrc, hseq⟩]
  exact syncDone_of_path (s := s.rxIn x.port) hpath hplane _ _

theorem opPtp_of_delayResp {s : State} {x : PtpRx} {plane seq left : Nat} {sent arrived : Int} (h : PtpIn s x plane)
    (hkind : x.frame.msg.kind = ptpDelayResp) (hreq : (s.side plane).req = some (seq, left)) (hsync : (s.side plane).sync = some (sent, arrived))
    (hseq : x.frame.msg.seq = seq) (htarget : x.frame.msg.target = s.clockId x.port) :
    s.opPtp x = (s.rxIn x.port).updSide plane fun d =>
      { d with req := none, path := some (((arrived - sent) + (x.frame.msg.stamp - corrNs x.frame.msg.corr - left)) / 2) } := by
  have hdomain : ¬ x.frame.msg.domain ≠ fld ((s.rxIn x.port).plane plane).cfg 23 16 := by
    obtain ⟨-, -, -, -, -, -, -, -, -, hdomain⟩ := h
    exact not_not_intro hdomain
  have hreq' : ((s.rxIn x.port).side plane).req = some (seq, left) := hreq
  have hsync' : ((s.rxIn x.port).side plane).sync = some (sent, arrived) := hsync
  rw [opPtp_of_ptpIn h, State.ptpTake]
  dsimp only
  rw [if_neg hdomain, if_neg (by rw [hkind]; decide), if_neg (by rw [hkind]; decide), if_pos hkind, hreq', hsync']
  dsimp only
  rw [if_pos ⟨hseq, by rw [rxIn_clockId, htarget]⟩]

/-- Settles O55: a message is counted and answered (`Answering`), and what it makes of module time is `TimeSt.sourced` and `TimeSt.offsetIn`. -/
theorem timeFollowsItsSource : Obligations.TimeFollowsItsSource := by
  refine ⟨fun s x plane good path offset h hone hpath hg hkept hoffset hgood => runs_ptpSync_kept h hone hpath hg hkept hoffset hgood,
    fun s x plane path offset h hone hpath hg hst hfar hoffset => runs_ptpSync_unlock h hone hpath hg hst hfar hoffset,
    fun s x plane i h hone hg hwhy => ?noOffset, fun s x plane h htwo => ?twoStep,
    fun s x plane seq at' src corr path offset h hkind hwait hsrc hseq hpath hplane hkept hoffset => ?followUp,
    fun s x plane seq left sent arrived h hkind hreq hsync hseq htarget => ?delayResp, fun s x hb hp hup hrole hwhy => ?refused,
    fun s plane i hb hp hbit hother => ?otherSource, fun s plane hb hp hbit hnone => ?noSource, fun s plane h => idles_ptpSourceLost h,
    fun s err hb hst herr => ?drifts, fun s err hb hst herr => ?driftsOut, fun s err h => idles_holdoverErrorLimit h⟩
  case noOffset =>
    obtain ⟨f, t, ht, hrun⟩ := opPtp_of_no_offset h hone hg hwhy
    obtain ⟨d, htm⟩ := ht.tm
    refine ⟨t, congrArg Host.Outcome.next hrun, ?_⟩
    dsimp only
    rw [htm]
    exact ⟨rfl, rfl, rfl, rfl, fun hfresh => sourced_st_fresh hfresh plane i f, fun hnever hhold => sourced_st_kept hnever hhold plane i f,
      ht.asked, ht.keeps⟩
  case twoStep =>
    have hrun := opPtp_of_syncIn h
    rw [if_pos htwo] at hrun
    have hp : plane < 2 := by
      obtain ⟨⟨-, hport, rfl, -⟩, -⟩ := h
      omega
    obtain ⟨i, hg⟩ := exists_givesTime (s.rxIn x.port) hp
    obtain ⟨f, -, htm⟩ := synced_tm (x := x) hg
    have hnow : (syncedIn s plane x).tm.now = s.tm.now := (congrArg TimeSt.now htm :)
    have herr : (syncedIn s plane x).tm.errNs = s.tm.errNs := (congrArg TimeSt.errNs htm :)
    have husable : (syncedIn s plane x).tm.usable = setBit s.tm.usable plane := (congrArg TimeSt.usable htm :)
    have hkeeps : Keeps [.time] (s.rxIn x.port) (syncedIn s plane x) := synced_keeps hg
    have hegress : (syncedIn s plane x).net.egress = s.net.egress := (congrArg Net.egress (hkeeps .network (by decide)) :)
    refine ⟨_, congrArg Host.Outcome.next hrun, ?_, hnow, herr, husable, hegress, ?_⟩
    · rw [side_updSide_same, hnow]
    · exact ((rxIn_keeps s x.port).mono (by decide)).trans (.trans (hkeeps.mono (by decide)) ((updSide_keeps _ _ _).mono (by decide)))
  case followUp =>
    obtain ⟨u, hu, hrun⟩ := opPtp_of_followUp h hkind hwait hsrc hseq hpath hplane
    have hst : u.tm.st = s.tm.st := by
      obtain ⟨d, hd⟩ := hu.tm
      rw [hd]
    rw [← hoffset, ptpOffset_of_kept (by rwa [hst])] at hrun
    have ht := hu.offset offset x.rate
    obtain ⟨d, htm⟩ := ht.tm
    refine ⟨_, congrArg Host.Outcome.next hrun, ?_⟩
    dsimp only
    rw [htm]
    exact ⟨rfl, ht.wait, rfl, ht.asked, offsetIn_now s s.tm offset x.rate, ht.keeps⟩
  case delayResp =>
    refine ⟨_, congrArg Host.Outcome.next (opPtp_of_delayResp h hkind hreq hsync hseq htarget), ?_, ?_, rfl, rfl, rfl, ?_⟩
    · rw [side_updSide_same]
    · rw [side_updSide_same]
    · exact ((rxIn_keeps s x.port).mono (by decide)).trans ((updSide_keeps _ _ _).mono (by decide))
  case refused =>
    exact ⟨_, congrArg Host.Outcome.next (opPtp_refused hb hp hup hrole hwhy), rfl, congrArg Port.rx (rxIn_port_same s x.port), rfl, rxIn_keeps s _⟩
  case otherSource =>
    have hrun := opPtpLost_eq hb hp hbit
    have hplane : (s.sourceGone plane).timePlane = some i := hother
    have hne : i ≠ plane := by
      have hset : testBit (clearBit s.tm.usable plane) i = true := testBit_of_timePlane hplane
      rintro rfl
      simp [testBit_clearBit] at hset
    have hside : (s.sourceGone plane).side i = s.side i := side_updSide_ne _ _ hne
    rw [hplane] at hrun
    dsimp only at hrun
    refine ⟨_, congrArg Host.Outcome.next hrun, rfl, rfl, rfl, rfl, ?_, ?_, ?_, .of_patch rfl⟩
    · exact congrArg (fun d : PtpSide => d.freq.isSome) hside
    · exact congrArg (fun d : PtpSide => d.freq.getD s.tm.freq) hside
    · exact side_updSide_same ({ s with tm := { s.tm with usable := clearBit s.tm.usable plane } } : State) plane fun _ => .reset
  case noSource =>
    have hrun := opPtpLost_eq hb hp hbit
    have hplane : (s.sourceGone plane).timePlane = none := hnone
    rw [hplane] at hrun
    dsimp only at hrun
    cases hst : s.tm.st with
    | acquiring =>
      rw [hst] at hrun
      cases hever : s.tm.everLocked with
      | true =>
        rw [hever] at hrun
        exact ⟨_, congrArg Host.Outcome.next hrun, rfl, rfl, rfl, rfl, rfl, rfl, hever, .of_patch rfl⟩
      | false =>
        rw [hever] at hrun
        exact ⟨_, congrArg Host.Outcome.next hrun, rfl, rfl, rfl, rfl, rfl, rfl, hever, .of_patch rfl⟩
    | locked =>
      rw [hst] at hrun
      exact ⟨_, congrArg Host.Outcome.next hrun, rfl, rfl, rfl, rfl, rfl, rfl, rfl, .of_patch rfl⟩
    | _ =>
      rw [hst] at hrun
      exact ⟨_, congrArg Host.Outcome.next hrun, rfl, rfl, rfl, rfl, hst, rfl, rfl, .of_patch rfl⟩
  case drifts =>
    refine ⟨_, congrArg Host.Outcome.next (opHoldover_eq hb hst), ?_⟩
    exact if_neg (by omega)
  case driftsOut =>
    have hrun : s.opHoldover err = ({ s with tm := { s.tm with errNs := err } } : State).timeUnlock := by
      rw [opHoldover_eq hb hst, if_pos herr]
    refine ⟨_, congrArg Host.Outcome.next hrun, ?_, ?_, ?_, ?_, ?_, timeUnlock_logged _, .trans ?_ (timeUnlock_keeps _)⟩
    · rw [timeUnlock_tm]; rfl
    · rw [timeUnlock_tm]; rfl
    · rw [timeUnlock_tm]; rfl
    · rw [timeUnlock_tm]; rfl
    · rw [timeUnlock_tm]; rfl
    · exact .of_patch rfl

end Sys2Proof.Machine

/-! ## A message from a member that arrives: SLIP, VERDICT and ABORT (R225, R302, R305, R316, R398, R499) -/

namespace Sys2Proof.Machine

/-- The opcodes of the messages that members send each other (R302). -/
def msgOp (op : Nat) : Prop := op = opSlip ∨ op = opVerdict ∨ op = opAbort

/-- What the opcode of a message is not. -/
theorem msgOp_spec {op : Nat} (h : msgOp op) : placedNow { (default : Pkt) with op := op } = false ∧ opControl op = true ∧ opensOp op = true ∧
    op ≠ opAck ∧ op ≠ opCtl ∧ op ≠ opCtlResp ∧ op ≠ opWrite ∧ op ≠ opRead ∧ op ≠ opToken ∧ op ≠ opReduce ∧ op ≠ opSend := by
  obtain rfl | rfl | rfl := h <;> decide

/-- What a connection may send depends on its entry, its state and its level (R305, R433). -/
theorem opGate_updConn {s : State} {c : Nat} {f : Conn → Conn} (hcfg : (f (s.conn c)).cfg = (s.conn c).cfg)
    (hst : (f (s.conn c)).st = (s.conn c).st) (hlevel : (f (s.conn c)).level = (s.conn c).level) (p : Pkt) :
    (s.updConn c f).opGate c p = s.opGate c p := by
  unfold State.opGate State.levelMay connHost connKind
  dsimp only
  rw [updConn_conn_same, hcfg, hst, hlevel]
  rfl

theorem framed_opGate (s : State) (rx : Rx) (p : Pkt) (c : Nat) : (s.framed rx p).opGate c p = s.opGate c p := by
  unfold State.opGate
  rw [framed_conn, framed_rest]
  rfl

/-- The first packet of a message, whole, notes its operation with the status of its gate (R305, R320). -/
theorem noteOp_msg {s : State} {c : Nat} {p : Pkt} (hop : msgOp p.op) (hlast : p.last = true) (hops : (s.conn c).rxOps = [])
    (hfew : s.opsInFlight < 65536) (hgate : s.opGate c p = 0) :
    ∃ o : RxOp, o.opid = pktOp p ∧ o.status = 0 ∧ s.noteOp c p = s.updConn c fun k => { k with rxOps := [o] } := by
  obtain ⟨-, -, hopens, -, hctl, -, hwrite, -, htoken, -, -⟩ := msgOp_spec hop
  have hopen : s.openRxOp c p = s.updConn c fun k =>
      { k with rxOps := k.rxOps ++ [⟨pktOp p, p.op, 0, none, relNone, 0, false, [], [], s.gensOf (connPart (s.conn c)), []⟩] } := by
    simp [State.openRxOp, rxOpOf, hops, Nat.not_le.mpr hfew]
  refine ⟨⟨pktOp p, p.op, 0, some p.psn, relNone, nfld p.w3 9 0, p.prov, [], [], s.gensOf (connPart (s.conn c)), []⟩, rfl, rfl, ?_⟩
  simp only [State.noteOp, hopens, hopen, State.updRxOp, updConn_updConn]
  apply updConn_congr
  simp [hops, hlast, hctl, hwrite, htoken, hgate]

/-- A message that is the next packet expected waits on its connection, with its operation noted, until it is delivered (R316, R317). -/
theorem acceptPkt_msg {s : State} {c : Nat} {rx : Rx} {p : Pkt} (hop : msgOp p.op) (hlast : p.last = true) (htag : rxTagBad rx = false)
    (hpsn : p.psn = (s.conn c).rxNext) (hgot : (s.conn c).rxGot = []) (hheld : (s.conn c).rxHeld = []) (hops : (s.conn c).rxOps = [])
    (hfew : s.opsInFlight < 65536) (hgate : s.opGate c p = 0) :
    ∃ o : RxOp, o.opid = pktOp p ∧ o.status = 0 ∧
      s.acceptPkt c rx p = (s.updConn c fun k => { k.arrived s.tm.clk p with rxHeld := [p], rxOps := [o] }).settleRx c rx.errs := by
  obtain ⟨hplaced, -, -, -, -, hresp, -⟩ := msgOp_spec hop
  have hplaced' : placedNow p = false := hplaced
  have harr : s.noteArrival c rx p = s.updConn c fun k =>
      { k with leaseAt := s.tm.clk, rxDebt := k.rxDebt + 1, rxDebtAt := if k.rxDebt = 0 then s.tm.clk else k.rxDebtAt, ackNow := true } := by
    simp [State.noteArrival, hplaced', hlast]
  have hfew' : (s.noteArrival c rx p).opsInFlight < 65536 := by
    rw [harr]; exact Nat.lt_of_le_of_lt (opsInFlight_updConn_le s c _ (Nat.le_refl _)) hfew
  have hgate' : (s.noteArrival c rx p).opGate c p = 0 := by
    rw [harr]
    refine (opGate_updConn ?_ ?_ ?_ p).trans hgate <;> rfl
  obtain ⟨o, hid, hst, hnote⟩ := noteOp_msg hop hlast (by rw [harr]; simpa using hops) hfew' hgate'
  refine ⟨o, hid, hst, ?_⟩
  have hadv : advPsn 4097 (s.conn c).rxNext [p.psn] = ((p.psn + 1) % 2 ^ 32, []) := by rw [← hpsn]; exact advPsn_next 4095 p.psn
  simp only [State.acceptPkt, htag, hnote]
  simp only [harr, updConn_updConn, updConn_conn_same, Function.comp, hgot, hadv, State.takeContent, hplaced']
  rw [if_neg (by simp), if_neg (by simp), if_neg hresp]
  rw [updConn_congr s c (g := fun k => { k.arrived s.tm.clk p with rxHeld := [p], rxOps := [o] })]
  simp [Conn.arrived, hgot, hheld]

/-- A message acted on, once its operation has been completed (R320). -/
def State.msgAct (s : State) (c : Nat) (p : Pkt) : State :=
  let u := s.sendAck c (some (pktOp p, 0))
  if p.op = opSlip then u.slipIn c p.ctl else if p.op = Sys2Proof.Machine.opVerdict then u.verdictIn c p.ctl else u.abortIn c p.ctl

theorem deliverPkt_msg {s : State} {c : Nat} {p : Pkt} (errs : List MemErr) {o : RxOp} (hop : msgOp p.op) (hops : (s.conn c).rxOps = [o])
    (hid : o.opid = pktOp p) (hst : o.status = 0) :
    s.deliverPkt c p errs = (true, (s.updConn c fun k => { k with rxOps := [] }).msgAct c p) := by
  obtain ⟨-, -, -, -, hctl, -, hwrite, hread, htoken, hreduce, hsend⟩ := msgOp_spec hop
  have hdrop : s.dropRxOp c (pktOp p) = s.updConn c fun k => { k with rxOps := [] } := by
    unfold State.dropRxOp
    exact updConn_congr s c (by simp [hops, hid])
  have hstatus : ((rxOpOf (s.conn c) (pktOp p)).map (·.status)).getD 0 = 0 := by simp [rxOpOf, hops, hid, hst]
  have hin : s.msgIn c p = (s.updConn c fun k => { k with rxOps := [] }).msgAct c p := by
    unfold State.msgIn State.msgAct
    rw [hstatus, hdrop]
    rfl
  have hfree : s.dmaHolds c p = false := by simp [State.dmaHolds, hwrite, hread, htoken]
  rw [← hin]
  unfold State.deliverPkt
  rw [hfree, if_neg Bool.false_ne_true, if_neg hwrite, if_neg hread, if_neg hreduce, if_neg hsend, if_neg hctl]
  exact if_pos hop

/-- A message that waits alone on its connection is delivered, and nothing of it is left to do (R317). -/
theorem settleRx_msg {s w : State} {c : Nat} {now : Nat} {p : Pkt} (errs : List MemErr) {o : RxOp} (hop : msgOp p.op) (hid : o.opid = pktOp p)
    (host : o.status = 0) (hbound : p.psn < 2 ^ 32) (hst : (s.conn c).st = 2)
    (hw : (s.updConn c fun k => { k.arrived now p with rxHeld := [], rxOps := [] }).msgAct c p = w) (hrest : NothingWaits w c) :
    (s.updConn c fun k => { k.arrived now p with rxHeld := [p], rxOps := [o] }).settleRx c errs = w := by
  obtain ⟨hwheld, hwops⟩ := hrest
  generalize hu : (s.updConn c fun k => { k.arrived now p with rxHeld := [p], rxOps := [o] }) = u
  have hconn : u.conn c = { (s.conn c).arrived now p with rxHeld := [p], rxOps := [o] } := by rw [← hu, updConn_conn_same]
  have hheld : (u.conn c).rxHeld = [p] := by rw [hconn]
  have hpsn : psnLt p.psn (u.conn c).rxNext = true := by rw [hconn]; exact psnLt_next p.psn hbound
  have hserves : u.serves c = true := by simp [State.serves, hconn, Conn.arrived, hst]
  have hplaced : placedNow p = false := (msgOp_spec hop).1
  have hplace : u.placeHeld c errs = u := by simp [State.placeHeld, hheld, hplaced]
  have hplace' : w.placeHeld c errs = w := by simp [State.placeHeld, hwheld]
  have hgone : (u.updConn c fun k => { k with rxHeld := k.rxHeld.filter fun x => x.psn ≠ p.psn })
      = s.updConn c fun k => { k.arrived now p with rxHeld := [], rxOps := [o] } := by
    rw [← hu, updConn_updConn]
    exact updConn_congr s c (by simp)
  have hdeliver : (u.updConn c fun k => { k with rxHeld := k.rxHeld.filter fun x => x.psn ≠ p.psn }).deliverPkt c p errs = (true, w) := by
    rw [hgone, deliverPkt_msg errs hop (by simp) hid host, updConn_updConn]
    exact congrArg (true, ·) hw
  have hfirst : State.deliver 1 u c errs = w := by
    have hearliest : firstHeld (u.conn c) = some p := by simp [firstHeld, hheld]
    simp only [State.deliver, hearliest, hpsn, hserves, and_self, if_true, hdeliver]
  simp [State.settleRx, hplace, hheld, hfirst, hplace', hwheld, hwops, State.deliver, State.completeOps]

/-- A message that arrives in order ends in the state that it leads to, where no packet and no operation of the connection waits; an ACK that
is still owed goes out (R319). -/
theorem receive_message {s w : State} {rx : Rx} {p : Pkt} {c q op : Nat} (row : Nat → Pkt → Bool) (h : Message s rx p c q op) (hop : msgOp op)
    (hrow : row op p = true) (hw : (s.ctlTaken c rx p).msgAct c p = w) (hrest : NothingWaits w c) :
    s.receive rx row = if (w.conn c).ackNow = true ∧ w.serves c = true then w.sendAck c none else w := by
  obtain ⟨⟨hopen, hpsn, hgot, hheld₀, hops₀, hroom, htag, -, hlast, hfew⟩, rfl, -, -, hgate⟩ := h
  obtain ⟨-, hcontrol, -, hack, hctl, -⟩ := msgOp_spec hop
  have hframed : s.receive rx row = (s.framed rx p).windowIn c rx p := receive_onOpen row hopen hrow hack fun h => hctl h.1
  obtain ⟨⟨-, -, -, -, -, -, -, -, -, hp, -⟩, rfl, hst, -, -⟩ := hopen
  have hbound : p.psn < 2 ^ 32 := by rw [hp]; exact Nat.mod_lt _ (by decide)
  have hfew' : (s.framed rx p).opsInFlight < 65536 := by rw [framed_rest]; exact hfew
  obtain ⟨o, hid, host, hacc⟩ := acceptPkt_msg (s := s.framed rx p) (c := p.dconn) (rx := rx) hop hlast htag (by simpa using hpsn)
    (by simpa using hgot) (by simpa using hheld₀) (by simpa using hops₀) hfew' (by rwa [framed_opGate])
  have htaken : ((s.framed rx p).updConn p.dconn fun k => { k.arrived (s.framed rx p).tm.clk p with rxHeld := [], rxOps := [] })
      = s.ctlTaken p.dconn rx p := by
    unfold State.ctlTaken
    exact updConn_congr _ _ (by simp [Conn.arrived, hheld₀, hops₀])
  have hsettled : (s.framed rx p).acceptPkt p.dconn rx p = w := by
    rw [hacc]
    exact settleRx_msg rx.errs hop hid host hbound (by simpa using hst) (htaken ▸ hw) hrest
  have hhost : hostPkt (s.conn p.dconn) p = false := by simp [hostPkt, hcontrol]
  rw [hframed, windowIn_next _ _ _ _ (by simpa using hpsn) (by simpa using hgot) hroom (by simpa using hhost), hsettled]

end Sys2Proof.Machine

/-! ## What sending leaves of a connection, and of the others (R319, R322, R330) -/

namespace Sys2Proof.Machine

/-- What connection k is, and what it has received, stays in k' (R306, R316). -/
structure Conn.SameRx (k k' : Conn) : Prop where
  cfg : k'.cfg = k.cfg
  st : k'.st = k.st
  rxNext : k'.rxNext = k.rxNext
  rxHeld : k'.rxHeld = k.rxHeld
  rxOps : k'.rxOps = k.rxOps

theorem Conn.SameRx.refl (k : Conn) : k.SameRx k := ⟨rfl, rfl, rfl, rfl, rfl⟩

theorem Conn.SameRx.trans {k l m : Conn} (h₁ : k.SameRx l) (h₂ : l.SameRx m) : k.SameRx m :=
  ⟨h₂.cfg.trans h₁.cfg, h₂.st.trans h₁.st, h₂.rxNext.trans h₁.rxNext, h₂.rxHeld.trans h₁.rxHeld, h₂.rxOps.trans h₁.rxOps⟩

/-- Between s and t no more happens than what a connection sends: the others are as they were, and it has received nothing (R322). -/
structure SendsOn (c : Nat) (s t : State) : Prop where
  only : EntryOnly c s t
  own : (s.conn c).SameRx (t.conn c)

namespace SendsOn

variable {c : Nat} {s t u : State}

theorem trans (h₁ : SendsOn c s t) (h₂ : SendsOn c t u) : SendsOn c s u := ⟨h₁.only.trans h₂.only, h₁.own.trans h₂.own⟩

theorem of_updConn (s : State) (c : Nat) {f : Conn → Conn} (hf : ∀ k : Conn, k.SameRx (f k)) : SendsOn c s (s.updConn c f) :=
  ⟨.of_updConn s c f, by rw [updConn_conn_same]; exact hf _⟩

theorem of_emit_updConn (s : State) (c : Nat) (p : Pkt) (at' : Nat × Nat) {f : Conn → Conn} (hf : ∀ k : Conn, k.SameRx (f k)) :
    SendsOn c s ((s.emit c p at').updConn c f) :=
  ⟨⟨fun k hk => updConn_conn_ne _ _ _ hk, .of_patch rfl⟩, by rw [updConn_conn_same]; exact hf _⟩

theorem refl (c : Nat) (s : State) : SendsOn c s s := ⟨⟨fun _ _ => rfl, .refl _ s⟩, .refl _⟩

theorem trace (s : State) (c col part k point : Nat) (args : List Nat) : SendsOn c s (s.trace col part k point args) :=
  ⟨⟨fun _ _ => trace_conn .., (trace_keeps s col part k point args).mono (by decide)⟩, by rw [trace_conn]; exact .refl _⟩

/-- What connection x sends leaves every entry as it stands, but for its own sending. -/
theorem sameRx (h : SendsOn c s t) (x : Nat) : (s.conn x).SameRx (t.conn x) := by
  by_cases hx : x = c
  · rw [hx]
    exact h.own
  · rw [h.only.other x hx]
    exact .refl _

end SendsOn

theorem moveIfEmpty_sendsOn (s : State) (c : Nat) : SendsOn c s (s.moveIfEmpty c) := by
  unfold State.moveIfEmpty
  split
  · unfold State.movePlane State.traceConn
    exact (SendsOn.trace ..).trans (.of_updConn _ _ fun _ => ⟨rfl, rfl, rfl, rfl, rfl⟩)
  · exact .refl c s

theorem sendNow_sendsOn (s : State) (c : Nat) (p : Pkt) : SendsOn c s (s.sendNow c p) := by
  unfold State.sendNow
  dsimp only
  split
  · exact (moveIfEmpty_sendsOn s c).trans (.of_emit_updConn _ _ _ _ fun _ => ⟨rfl, rfl, rfl, rfl, rfl⟩)
  · exact (moveIfEmpty_sendsOn s c).trans (.of_updConn _ _ fun _ => ⟨rfl, rfl, rfl, rfl, rfl⟩)

theorem send_sendsOn (s : State) (c : Nat) (p : Pkt) : SendsOn c s (s.send c p) := by
  rw [send_eq]
  split
  · exact sendNow_sendsOn s c _
  · exact .of_updConn _ _ fun _ => ⟨rfl, rfl, rfl, rfl, rfl⟩

theorem sendAck_sendsOn (s : State) (c : Nat) (done : Option (Nat × Nat)) : SendsOn c s (s.sendAck c done) := by
  unfold State.sendAck
  dsimp only
  split
  · exact (moveIfEmpty_sendsOn s c).trans (.of_emit_updConn _ _ _ _ fun _ => ⟨rfl, rfl, rfl, rfl, rfl⟩)
  · exact (moveIfEmpty_sendsOn s c).trans (.of_updConn _ _ fun _ => ⟨rfl, rfl, rfl, rfl, rfl⟩)

theorem startOp_sendsOn (s : State) (c : Nat) (kind : OpKind) : SendsOn c s (s.startOp c kind).2 :=
  ⟨⟨fun k hk => updConn_conn_ne _ _ _ hk, .of_patch rfl⟩, by
    unfold State.startOp
    rw [updConn_conn_same]
    exact ⟨rfl, rfl, rfl, rfl, rfl⟩⟩

theorem sendMsg_sendsOn (s : State) (c op : Nat) (payload : Bytes) : SendsOn c s (s.sendMsg c op payload) :=
  (startOp_sendsOn s c _).trans (send_sendsOn _ _ _)

theorem sendCtl_sendsOn (s : State) (c ctlop part role tgen : Nat) (payload : Bytes) :
    SendsOn c s (s.sendCtl c ctlop part role tgen payload) :=
  .trans (.trace ..) ((startOp_sendsOn _ c _).trans (send_sendsOn _ _ _))

/-- An ACK that finds no sub-port stays owed, and its connection has no other plane to move to (R319, R330). -/
theorem sendAck_owed {s : State} {c : Nat} {done : Option (Nat × Nat)} (h : ((s.sendAck c done).conn c).ackNow = true) :
    canMove ((s.sendAck c done).conn c) = false := by
  have hstays : canMove ((s.moveIfEmpty c).conn c) = false ∨ (s.moveIfEmpty c).sprayNow c ≠ [] := by
    unfold State.moveIfEmpty
    split
    · refine .inl ?_
      rw [State.movePlane, updConn_conn_same]
      simp [canMove, mayMove]
    · next hnot =>
      by_cases hempty : s.sprayNow c = []
      · exact .inl (by simpa [hempty] using hnot)
      · exact .inr hempty
  unfold State.sendAck at h ⊢
  dsimp only at h ⊢
  split at h
  · rw [updConn_conn_same] at h
    exact absurd h (by simp)
  · next hnone =>
    rw [updConn_conn_same]
    obtain hcan | hspray := hstays
    · exact hcan
    · obtain ⟨at', hat⟩ := exists_pickSub (s.conn c) _ hspray
      exact absurd hnone (by simp [hat])

/-! ### SLIPs passed on, ABORTs sent, and connections closed -/

/-- Sending on connections other than c, one after the other, leaves c as it was. -/
theorem foldl_conn {α : Type} {c : Nat} (as : List α) (g : State → α → State) (s : State) (h : ∀ s a, (g s a).conn c = s.conn c) :
    (as.foldl g s).conn c = s.conn c := by
  induction as generalizing s with
  | nil => rfl
  | cons a as ih => rw [List.foldl_cons, ih, h]

theorem passSlip_conn (s : State) (p c : Nat) (payload : Bytes) : (s.passSlip p (some c) payload).conn c = s.conn c := by
  refine foldl_conn _ _ s fun u x => ?_
  split
  · rfl
  · next h => exact (sendMsg_sendsOn u x _ _).only.other c fun he => h (.inl (by rw [he]))

theorem passSlip_keeps (s : State) (p : Nat) (but : Option Nat) (payload : Bytes) : Keeps [.network, .stewards] s (s.passSlip p but payload) := by
  refine Keeps.foldl _ _ s fun u x => ?_
  split
  · exact .refl _ u
  · exact sendMsg_keeps _ _ _ _

theorem sendAborts_conn (s : State) (p c : Nat) (payload : Bytes) : (s.sendAborts p (some c) payload).conn c = s.conn c := by
  refine foldl_conn _ _ s fun u x => ?_
  split
  · rfl
  · next h => exact (sendMsg_sendsOn u x _ _).only.other c fun he => h (by rw [he])

theorem endRx_sendsOn (s : State) (c status : Nat) (o : RxOp) : SendsOn c s (s.endRx c status o) := by
  unfold State.endRx
  split
  · exact send_sendsOn _ _ _
  · exact sendAck_sendsOn _ _ _

/-- Operations ended one after the other send on their connection alone. -/
theorem foldl_endRx_sendsOn (s : State) (c status : Nat) (os : List RxOp) : SendsOn c s (os.foldl (fun s o => s.endRx c status o) s) := by
  induction os generalizing s with
  | nil => exact .refl c s
  | cons o os ih => exact (endRx_sendsOn s c status o).trans (ih _)

/-- A connection that has closed: nothing of it waits, and it serves no more (R312). -/
structure Conn.Closed (cfg : W64) (k : Conn) : Prop where
  cfg : k.cfg = cfg
  st : k.st = 4
  rxHeld : k.rxHeld = []
  rxOps : k.rxOps = []

/-- The state in which a connection's own operations have ended, before its CLOSE goes out (R312). -/
def State.ended (s : State) (c : Nat) : State := (s.finishRx c 7).updConn c fun k => { k with ops := [], copies := [], txWait := [] }

theorem closeConn_eq (s : State) (c : Nat) :
    s.closeConn c = ((((s.ended c).sendCtl c 0x12 0 0 0 (zeros 16)).lapseClaims c).updConn c fun k => { k with st := 4 }) := rfl

theorem lapseClaims_conn (s : State) (c x : Nat) : (s.lapseClaims c).conn x = s.conn x := rfl

theorem ended_conn_ne (s : State) {c x : Nat} (h : x ≠ c) : (s.ended c).conn x = s.conn x := by
  rw [State.ended, updConn_conn_ne _ _ _ h, State.finishRx, updConn_conn_ne _ _ _ h]
  exact (foldl_endRx_sendsOn s c 7 _).only.other x h

theorem ended_conn_same (s : State) (c : Nat) :
    ((s.ended c).conn c).cfg = (s.conn c).cfg ∧ ((s.ended c).conn c).rxHeld = [] ∧ ((s.ended c).conn c).rxOps = [] := by
  rw [State.ended, updConn_conn_same, State.finishRx]
  dsimp only
  rw [updConn_conn_same]
  exact ⟨(foldl_endRx_sendsOn s c 7 _).own.cfg, rfl, rfl⟩

theorem closeConn_conn_ne (s : State) {c x : Nat} (h : x ≠ c) : (s.closeConn c).conn x = s.conn x := by
  rw [closeConn_eq, updConn_conn_ne _ _ _ h, lapseClaims_conn, (sendCtl_sendsOn _ c _ _ _ _ _).only.other x h, ended_conn_ne s h]

theorem closeConn_closed (s : State) (c : Nat) : ((s.closeConn c).conn c).Closed (s.conn c).cfg := by
  obtain ⟨hcfg, hheld, hops⟩ := ended_conn_same s c
  have hsent := (sendCtl_sendsOn (s.ended c) c 0x12 0 0 0 (zeros 16)).own
  rw [closeConn_eq, updConn_conn_same, lapseClaims_conn]
  exact ⟨hsent.cfg.trans hcfg, rfl, hsent.rxHeld.trans hheld, hsent.rxOps.trans hops⟩

/-- Of connections that close, each that is among them is closed at the end. -/
theorem foldl_closeConn_closed {c : Nat} {cfg : W64} (cs : List Nat) (s : State)
    (h : (s.conn c).Closed cfg ∨ (c ∈ cs ∧ (s.conn c).cfg = cfg)) : ((cs.foldl (fun s c => s.closeConn c) s).conn c).Closed cfg := by
  induction cs generalizing s with
  | nil => exact h.resolve_right fun hc => absurd hc.1 List.not_mem_nil
  | cons x cs ih =>
    refine ih _ ?_
    by_cases hx : c = x
    · subst hx
      have hcfg : (s.conn c).cfg = cfg := h.elim (·.cfg) (·.2)
      exact .inl (hcfg ▸ closeConn_closed s c)
    · rw [closeConn_conn_ne s hx]
      exact h.imp id fun hc => ⟨(List.mem_cons.mp hc.1).resolve_left hx, hc.2⟩

/-- An open member connection of a partition is among those that its abort closes (R499). -/
theorem mem_memberConns {s : State} {c p : Nat} (hkind : connKind (s.conn c) = 1) (hpart : connPart (s.conn c) = p) (hst : (s.conn c).st = 2) :
    c ∈ s.memberConns p := by
  have hmem : (c, s.conn c) ∈ s.net.conns := by
    refine (Table.get_mem_or Conn.reset s.net.conns c).resolve_right fun hreset => ?_
    rw [State.conn, hreset] at hst
    exact absurd hst (by decide)
  exact List.mem_map.mpr ⟨_, List.mem_filter.mpr ⟨hmem, by simp [hkind, hpart, hst]⟩, rfl⟩

end Sys2Proof.Machine

/-! ## SLIPs and ABORTs received (R225 to R227, R499, R500) -/

namespace Sys2Proof.Machine

/-- The state in which a message is acted on: it has arrived in order, and its operation is complete (R316, R320). -/
def State.msgTaken (s : State) (c : Nat) (rx : Rx) (p : Pkt) : State := (s.ctlTaken c rx p).sendAck c (some (pktOp p, 0))

theorem msgTaken_keeps (s : State) (c : Nat) (rx : Rx) (p : Pkt) : Keeps [.network, .stewards] s (s.msgTaken c rx p) :=
  (ctlTaken_keeps s c rx p).trans (sendAck_keeps _ _ _)

theorem msgTaken_part (s : State) (c : Nat) (rx : Rx) (p : Pkt) (x : Nat) : (s.msgTaken c rx p).part x = s.part x :=
  part_of_keeps (msgTaken_keeps s c rx p) (by decide) x

section Taken

variable {s : State} {rx : Rx} {p : Pkt} {c q op : Nat} (h : Message s rx p c q op)
include h

/-- What the entry of a message's connection holds once the message has been taken. -/
theorem msgTaken_conn : ((s.msgTaken c rx p).conn c).cfg = (s.conn c).cfg ∧ ((s.msgTaken c rx p).conn c).st = 2 ∧
    ((s.msgTaken c rx p).conn c).rxNext = (p.psn + 1) % 2 ^ 32 ∧ NothingWaits (s.msgTaken c rx p) c := by
  obtain ⟨⟨⟨-, -, hst, -⟩, -, -, hheld, hops, -⟩, -⟩ := h
  have hack := (sendAck_sendsOn (s.ctlTaken c rx p) c (some (pktOp p, 0))).own
  have htaken := ctlTaken_conn_same s c rx p
  refine ⟨hack.cfg.trans ?_, hack.st.trans ?_, hack.rxNext.trans ?_, hack.rxHeld.trans ?_, hack.rxOps.trans ?_⟩ <;> rw [htaken]
  · rfl
  · exact hst
  · rfl
  · exact hheld
  · exact hops

theorem msgTaken_connPart : connPart ((s.msgTaken c rx p).conn c) = q := by
  obtain ⟨-, -, -, hpart, -⟩ := id h
  rw [connPart, (msgTaken_conn h).1]
  exact hpart

/-- A message that leaves its connection as it was taken changes no more after it than an ACK that is still owed. -/
theorem receive_message_txOnly {w : State} (row : Nat → Pkt → Bool) (hop : msgOp op) (hrow : row op p = true)
    (hw : (s.ctlTaken c rx p).msgAct c p = w) (hconn : w.conn c = (s.msgTaken c rx p).conn c) : TxOnly c w (s.receive rx row) := by
  obtain ⟨-, -, -, hwaits⟩ := msgTaken_conn h
  rw [receive_message row h hop hrow hw (by rwa [NothingWaits, hconn])]
  split
  · next howed =>
    have hstays : canMove (w.conn c) = false := by
      rw [hconn] at howed ⊢
      exact sendAck_owed howed.1
    exact (sendAck_stays none hstays).1
  · exact ⟨rfl, fun _ _ => rfl, rfl⟩

end Taken

theorem TxOnly.stew {c : Nat} {s t : State} (h : TxOnly c s t) : t.stew = s.stew := by rw [h.rest]

/-! ### A SLIP -/

/-- A SLIP traced, and passed on along the tree where it is larger than what the member has seen (R225). -/
def State.slipNoted (s : State) (c p m d : Nat) (b : Bytes) : State :=
  let u := s.traceLead p 3 1 [m, d, leAt b 12 2]
  if max (Table.get 0 (s.part p).slipBest m) (Table.get 0 (s.part p).slipApplied m) < d then u.passSlip p (some c) (slipBytes m d (leAt b 12 2))
  else u

/-- What a late SLIP of d rounds, of which `had` are in force, makes of its partition (R226, R227). -/
def Part.slipped (q : Part) (m d had : Nat) : Part :=
  { q with slipsLate := inc q.slipsLate, shift := q.shift + (d - had : Nat), slipApplied := Table.set 0 q.slipApplied m (max d had) }

theorem traceLead_keeps (s : State) (part k point : Nat) (args : List Nat) : Keeps [.stewards] s (s.traceLead part k point args) :=
  trace_keeps _ _ _ _ _ _

theorem traceLead_conn (s : State) (part k point : Nat) (args : List Nat) (c : Nat) : (s.traceLead part k point args).conn c = s.conn c :=
  trace_conn ..

theorem slipNoted_keeps (s : State) (c p m d : Nat) (b : Bytes) : Keeps [.network, .stewards] s (s.slipNoted c p m d b) := by
  unfold State.slipNoted
  dsimp only
  split
  · exact ((traceLead_keeps _ _ _ _ _).mono (by decide)).trans (passSlip_keeps _ _ _ _)
  · exact (traceLead_keeps _ _ _ _ _).mono (by decide)

theorem slipNoted_conn (s : State) (c p m d : Nat) (b : Bytes) : (s.slipNoted c p m d b).conn c = s.conn c := by
  unfold State.slipNoted
  dsimp only
  split
  · rw [passSlip_conn, traceLead_conn]
  · exact traceLead_conn _ _ _ _ _ _

section SlipIn

variable {s : State} {c p m d : Nat} {b : Bytes} (hp : connPart (s.conn c) = p) (hm : m = leAt b 0 8) (hd : d = leAt b 8 4)
include hp

/-- A SLIP from elsewhere than the tree does nothing (R225). -/
theorem slipIn_foreign (htree : c ∉ treeConns (s.part p)) : s.slipIn c b = s := by
  subst hp
  exact if_pos (.inr (by simpa using htree))

include hm hd

/-- A SLIP for a step to come is kept, the largest of its label (R225). -/
theorem slipIn_ahead (hruns : (s.part p).schSt = 2 ∨ (s.part p).schSt = 3) (htree : c ∈ treeConns (s.part p)) (hstep : (s.part p).step < m) :
    s.slipIn c b = (s.slipNoted c p m d b).updPart p fun q => { q with slipBest := Table.set 0 q.slipBest m (max d (Table.get 0 q.slipBest m)) } := by
  subst hp hm hd
  unfold State.slipIn
  dsimp only
  rw [if_neg (by simp [htree]; omega), if_pos hstep]
  rfl

/-- A late SLIP shifts the rounds at once, and is logged (R226, R227). -/
theorem slipIn_late (hruns : (s.part p).schSt = 2 ∨ (s.part p).schSt = 3) (htree : c ∈ treeConns (s.part p)) (hstep : m ≤ (s.part p).step) :
    ∃ u, Keeps [.network, .stewards] s u ∧ u.conn c = s.conn c ∧
      s.slipIn c b = (u.updPart p fun q => q.slipped m d (Table.get 0 (s.part p).slipApplied m)).logP u.leadNow 0x33 0xFFFF p
        [schLoadStatus (s.part p)] := by
  let u := (s.slipNoted c p m d b).traceLead p 3 2 [m, d, memberNo (s.part p)]
  have hkeeps : Keeps [.network, .stewards] s u := (slipNoted_keeps _ _ _ _ _ _).trans ((traceLead_keeps _ _ _ _ _).mono (by decide))
  refine ⟨u, hkeeps, (traceLead_conn _ _ _ _ _ _).trans (slipNoted_conn _ _ _ _ _ _), ?_⟩
  let v := u.updPart p fun q => q.slipped m d (Table.get 0 (s.part p).slipApplied m)
  have hstatus : schLoadStatus (v.part p) = schLoadStatus (s.part p) := by
    rw [updPart_part_same, part_of_keeps hkeeps (by decide)]
    rfl
  have hin : s.slipIn c b = v.logP u.leadNow 0x33 0xFFFF p [schLoadStatus (v.part p)] := by
    subst hp hm hd
    unfold State.slipIn
    dsimp only
    rw [if_neg (by simp [htree]; omega), if_neg (by omega)]
    rfl
  rw [hin, hstatus]

end SlipIn

/-! ### An ABORT -/

/-- What the abort of its job makes of a fenced partition (R500). -/
def Part.jobEnded (q : Part) : Part :=
  { q with streams := q.streams.map fun e => (e.1, { e.2 with tokens := [] }), colls := [], collIn := [], collAsk := [],
           collRes := [], spill := [], layers := [], aborted := true, abortedJob := q.sched.map (·.jobId),
           parking := decide (q.st = .orphaned) && q.parking, parkHost := false, parkStop := false,
           isParked := decide (q.st = .orphaned) && q.isParked, stn := { q.stn with st := 0 },
           st := if q.st = .orphaned ∨ q.st = .tearing then q.st else .ready }

/-- The state in which a job's connections have closed, before its partition ends it (R499). -/
def State.jobClosed (s : State) (p : Nat) : State := ((s.updPart p fence).memberConns p).foldl (fun s c => s.closeConn c) (s.updPart p fence)

/-- The state in which a partition has ended its job, before the abort is logged (R500). -/
def State.jobEnded (s : State) (p : Nat) : State := (s.jobClosed p).updPart p Part.jobEnded

theorem jobAbort_eq (s : State) (p : Nat) (b : Bytes) :
    s.jobAbort p b = (s.jobEnded p).logP (s.jobEnded p).leadNow 0x93 0xFFFF p (payloadWords b) := rfl

theorem jobClosed_part (s : State) (p x : Nat) : (s.jobClosed p).part x = (s.updPart p fence).part x :=
  part_of_keeps (Keeps.foldl _ _ _ closeConn_keeps) (by decide) x

theorem jobAbort_part_same (s : State) (p : Nat) (b : Bytes) : (s.jobAbort p b).part p = (fence (s.part p)).jobEnded := by
  rw [jobAbort_eq, part_of_keeps (logP_keeps _ _ _ _ _ _) (by decide), State.jobEnded, updPart_part_same, jobClosed_part, updPart_part_same]

theorem jobAbort_part_ne (s : State) {p x : Nat} (b : Bytes) (h : x ≠ p) : (s.jobAbort p b).part x = s.part x := by
  rw [jobAbort_eq, part_of_keeps (logP_keeps _ _ _ _ _ _) (by decide), State.jobEnded, updPart_part_ne _ _ _ h, jobClosed_part, updPart_part_ne _ _ _ h]

theorem leadNow_of_keeps {l : List Sys2Proof.Piece} {s t : State} (h : Keeps l s t) (hl : .faults ∉ l) : t.leadNow = s.leadNow := by
  rw [State.leadNow, show t.dev = s.dev from h .faults hl, State.leadNow]

theorem jobAbort_logged (s : State) (p : Nat) (b : Bytes) : Logged (s.jobAbort p b) s.leadNow 0x93 (payloadWords b) := by
  have hclosed : Keeps abortPieces s (s.jobClosed p) :=
    .trans ((updPart_keeps _ _ _).mono (by decide)) (Keeps.foldl _ _ _ fun u c => (closeConn_keeps u c).mono (by decide))
  have hended : Keeps abortPieces s (s.jobEnded p) := hclosed.trans ((updPart_keeps _ _ _).mono (by decide))
  have hlead := leadNow_of_keeps hended (by decide)
  rw [← hlead]
  exact logP_logged _ _ _ _ _ _

theorem conn_of_keeps {l : List Sys2Proof.Piece} {s t : State} (h : Keeps l s t) (hl : .network ∉ l) (c : Nat) : t.conn c = s.conn c := by
  rw [State.conn, show t.net = s.net from h .network hl, State.conn]

/-- The abort of a job closes its member connections (R499). -/
theorem jobAbort_closed {s : State} {p c : Nat} (hkind : connKind (s.conn c) = 1) (hpart : connPart (s.conn c) = p) (hst : (s.conn c).st = 2)
    (b : Bytes) : ((s.jobAbort p b).conn c).Closed (s.conn c).cfg := by
  have hmem : c ∈ (s.updPart p fence).memberConns p := mem_memberConns hkind hpart hst
  have hclosed := foldl_closeConn_closed ((s.updPart p fence).memberConns p) (s.updPart p fence) (.inr ⟨hmem, rfl⟩)
  rwa [jobAbort_eq, conn_of_keeps (logP_keeps _ _ _ _ _ _) (by decide)]

/-- A member connection that has closed serves no more (R312, R435). -/
theorem serves_of_closed {s : State} {c : Nat} {cfg : W64} (h : (s.conn c).Closed cfg) (hkind : fld cfg 63 61 = 1) : s.serves c = false := by
  have hkind' : connKind (s.conn c) = 1 := by rw [connKind, h.cfg, hkind]
  simp [State.serves, h.st, hkind']

theorem abortIn_other {s : State} {c p : Nat} {b : Bytes} (hp : connPart (s.conn c) = p)
    (h : (s.part p).sched.map (·.jobId) ≠ some (leAt b 0 8)) : s.abortIn c b = s := by
  subst hp
  exact if_pos (.inl h)

theorem abortIn_own {s : State} {c p job : Nat} {b : Bytes} (hp : connPart (s.conn c) = p) (hjob : job = leAt b 0 8)
    (hown : (s.part p).sched.map (·.jobId) = some job) (hnew : (s.part p).abortedJob ≠ some job) :
    s.abortIn c b = (s.sendAborts p (some c) b).jobAbort p b := by
  subst hp hjob
  exact if_neg (by simp [hown, hnew])

/-- Settles O44: a SLIP leaves its connection as it was taken, so no more than an owed ACK follows it (`receive_message_txOnly`); the abort
closes its connection, so nothing follows the entry that it logs. -/
theorem slipsAndAbortsAct : Obligations.SlipsAndAbortsAct := by
  have hrow : ∀ {p : Pkt} {op : Nat}, isOp op op p = true := fun {_ op} => decide_eq_true (rfl : op = op)
  refine ⟨fun s rx p c q m d h hruns htree hm hd hstep => ?ahead, fun s rx p c q m d had h hruns htree hm hd hstep hhad => ?late,
    fun s rx p c q h htree => ?foreign, fun s rx p c q sched h hsched hjob hnew hst hruns => ?aborted, fun s rx p c q h hother => ?otherJob⟩
  all_goals
    have hpart := msgTaken_connPart h
    have hsame := msgTaken_part s c rx p
    have hkeeps := msgTaken_keeps s c rx p
    obtain ⟨hcfg, hopen, hnext, hwaits⟩ := msgTaken_conn h
    obtain ⟨-, hop, hmember, -, -⟩ := id h
  case ahead =>
    have hin := slipIn_ahead hpart hm hd (by rwa [hsame]) (by rwa [hsame]) (by rwa [hsame])
    have hact : (s.ctlTaken c rx p).msgAct c p = _ := (if_pos hop).trans hin
    have hnoted := slipNoted_keeps (s.msgTaken c rx p) c q m d p.ctl
    have hconn := slipNoted_conn (s.msgTaken c rx p) c q m d p.ctl
    have hnotedPart : ∀ x, ((s.msgTaken c rx p).slipNoted c q m d p.ctl).part x = s.part x := fun x =>
      (part_of_keeps hnoted (by decide) x).trans (hsame x)
    have ht := receive_message_txOnly h (isOp opSlip) (.inl rfl) (hop ▸ hrow) hact hconn
    refine ⟨_, rfl, ?_, ?_, fun x hx => ?_, ?_⟩
    · rw [ht.part_eq, updPart_part_same, hnotedPart]
    · rw [ht.own]
      exact (congrArg Conn.rxNext hconn).trans hnext
    · rw [ht.part_eq, updPart_part_ne _ _ _ hx, hnotedPart]
    · exact .trans (hkeeps.mono (by decide)) (.trans (hnoted.mono (by decide))
        (.trans ((updPart_keeps _ _ _).mono (by decide)) (ht.keeps.mono (by decide))))
  case late =>
    obtain ⟨u, hu, hconn, hin⟩ := slipIn_late hpart hm hd (by rwa [hsame]) (by rwa [hsame]) (by rwa [hsame])
    rw [hsame, ← hhad] at hin
    have hact : (s.ctlTaken c rx p).msgAct c p = _ := (if_pos hop).trans hin
    have hlog := logP_keeps (u.updPart q fun r => r.slipped m d had) u.leadNow 0x33 0xFFFF q [schLoadStatus (s.part q)]
    have ht := receive_message_txOnly h (isOp opSlip) (.inl rfl) (hop ▸ hrow) hact ((conn_of_keeps hlog (by decide) c).trans hconn)
    have hlead : u.leadNow = s.leadNow := leadNow_of_keeps (hkeeps.trans hu) (by decide)
    have hslipped : (s.receive rx (isOp opSlip)).part q = (s.part q).slipped m d had := by
      rw [ht.part_eq, part_of_keeps hlog (by decide), updPart_part_same, part_of_keeps hu (by decide), hsame]
    refine ⟨_, rfl, ?_, ?_, ?_, logged_of_stew (hlead ▸ logP_logged _ _ _ _ _ _) ht.stew, ?_⟩
    · rw [hslipped]
      rfl
    · rw [hslipped]
      rfl
    · rw [hslipped]
      exact Table.get_set_same _ _ _ _
    · exact .trans (hkeeps.mono (by decide)) (.trans (hu.mono (by decide)) (.trans ((updPart_keeps _ _ _).mono (by decide))
        (.trans (hlog.mono (by decide)) (ht.keeps.mono (by decide)))))
  case foreign =>
    have htree' : c ∉ treeConns ((s.msgTaken c rx p).part q) := by rwa [hsame]
    have hact : (s.ctlTaken c rx p).msgAct c p = s.msgTaken c rx p := (if_pos hop).trans (slipIn_foreign hpart htree')
    have ht := receive_message_txOnly h (isOp opSlip) (.inl rfl) (hop ▸ hrow) hact rfl
    refine ⟨_, rfl, ?_, hkeeps.trans ht.keeps⟩
    rw [ht.own]
    exact hnext
  case aborted =>
    have hkind : fld ((s.msgTaken c rx p).conn c).cfg 63 61 = 1 := by
      rw [hcfg]
      exact hmember
    have hown : ((s.msgTaken c rx p).part q).sched.map (·.jobId) = some sched.jobId := by rw [hsame, hsched]; rfl
    have hin := abortIn_own hpart hjob hown (by rwa [hsame])
    have hact : (s.ctlTaken c rx p).msgAct c p = _ :=
      (if_neg (by rw [hop]; decide)).trans ((if_neg (by rw [hop]; decide)).trans hin)
    have hconn := sendAborts_conn (s.msgTaken c rx p) q c p.ctl
    have hsent := sendAborts_keeps (s.msgTaken c rx p) q (some c) p.ctl
    have hclosed := jobAbort_closed (s := (s.msgTaken c rx p).sendAborts q (some c) p.ctl) (p := q) (c := c)
      (by rw [hconn]; exact hkind) (by rw [hconn]; exact hpart) (by rw [hconn]; exact hopen) p.ctl
    have hserves := serves_of_closed hclosed (by rw [hconn]; exact hkind)
    have hrun := receive_message (isOp opAbort) h (.inr (.inr rfl)) (hop ▸ hrow) hact ⟨hclosed.rxHeld, hclosed.rxOps⟩
    rw [if_neg (by simp [hserves])] at hrun
    have hpartSent : ∀ x, ((s.msgTaken c rx p).sendAborts q (some c) p.ctl).part x = s.part x := fun x =>
      (part_of_keeps hsent (by decide) x).trans (hsame x)
    have hended : (((s.msgTaken c rx p).sendAborts q (some c) p.ctl).jobAbort q p.ctl).part q = (fence (s.part q)).jobEnded := by
      rw [jobAbort_part_same, hpartSent]
    have hlead : ((s.msgTaken c rx p).sendAborts q (some c) p.ctl).leadNow = s.leadNow := leadNow_of_keeps (hkeeps.trans hsent) (by decide)
    have hall : Keeps abortPieces s (((s.msgTaken c rx p).sendAborts q (some c) p.ctl).jobAbort q p.ctl) :=
      ((hkeeps.trans hsent).mono (by decide)).trans (jobAbort_keeps _ _ _)
    refine ⟨_, congrArg Host.Outcome.next hrun, ?_, ?_, ?_, ?_, ?_, fun e he => ?_, hlead ▸ jobAbort_logged _ _ _, fun x hx => ?_,
      hall .memory (by decide), hall .slots (by decide)⟩
    · rw [hended]
      simp [Part.jobEnded, fence, hst]
    · rw [hended]
      exact if_pos hruns
    · rw [hended]
      rfl
    · rw [hended]
      simp [Part.jobEnded, fence, hsched]
    · rw [hended]
      rfl
    · rw [hended] at he
      obtain ⟨f, hf, rfl⟩ := List.mem_map.mp he
      obtain ⟨g, -, rfl⟩ := List.mem_map.mp hf
      exact ⟨rfl, rfl⟩
    · rw [jobAbort_part_ne _ _ hx, hpartSent]
  case otherJob =>
    have hact : (s.ctlTaken c rx p).msgAct c p = s.msgTaken c rx p := by
      refine .trans ?_ (abortIn_other hpart (by rwa [hsame]))
      exact (if_neg (by rw [hop]; decide)).trans (if_neg (by rw [hop]; decide))
    have ht := receive_message_txOnly h (isOp opAbort) (.inr (.inr rfl)) (hop ▸ hrow) hact rfl
    refine ⟨_, rfl, ?_, hkeeps.trans ht.keeps⟩
    rw [ht.own]
    exact hnext

end Sys2Proof.Machine

/-! ## SCH_LOAD written by a session (R230, R277, R433, R529) -/

namespace Sys2Proof.Machine

/-- The registers of partition p's schedule stand at their place in the index (R537). -/
theorem locate_sch (p off : Nat) (hp : p < 16) (ho : off < 0x100) : locate (0x2000 + 0x100 * p + off) = some (.sch p, off) := by
  have hsch : arrayBlock (0x2000 + 0x100 * p + off) 0x2000 0x100 16 .sch = some (.sch p, off) := arrayBlock_some _ _ hp ho
  have hwin : 0x2000 + 0x100 * p + off < 0x100000000 := by omega
  simp (disch := omega) only [locate, hwin, if_true, locateLow, oneBlock_none, hsch,
    Option.orElse_eq_orElse, Option.orElse_eq_or, Option.none_or, Option.some_or]

/-- What a write of an address to SCH_LOAD answers, and the state it leaves (R230). -/
def State.schWrite (s : State) (p addr : Nat) (errs : List MemErr) : Nat × State :=
  if addr % 256 ≠ 0 ∧ s.loadBarred p = false then (0xE, s) else s.opLoad p addr errs

theorem writeReg_schLoad (s : State) (c p addr : Nat) (errs : List MemErr) (haddr : addr < 2 ^ 40) :
    s.writeReg c (.sch p) 0 (at_ 39 0 addr) errs = s.schWrite p addr errs := by
  have hfld : fld (at_ 39 0 addr) 39 0 = addr := by
    rw [fld_at addr (by decide) (by decide)]
    exact Nat.mod_eq_of_lt haddr
  simp [State.writeReg, State.schWrite, hfld]

section
variable {s : State} {v : Via} {p addr : Nat} (hvia : ViaOpen s v 2) (hp : p < 16) (errs : List MemErr)
include hvia hp

/-- The row of SCH_LOAD is answered with the status that the write gives, from the state that it leaves. -/
theorem runs_schLoad {st : Nat} {u : State} {P : State → Prop}
    (hwrite : s.ctlWrite v.conn (0x2000 + 0x100 * p) (at_ 39 0 addr) errs = (st, u))
    (h : ∀ t, Answered v (0x2000 + 0x100 * p) st u t → P t) : Runs (.schLoad v p addr errs) s P := by
  have hrun : s.within p 16 (fun s => s.viaWrite v (0x2000 + 0x100 * p) (at_ 39 0 addr) errs) =
      u.answer v.conn (ctlRequest v (0x2000 + 0x100 * p)) st 0 := by
    rw [State.within, if_pos hp, viaWrite_open hvia, hwrite]
  exact ⟨_, congrArg Host.Outcome.next hrun, h _ rfl⟩

/-- Another partition's session is refused SCH_LOAD with 0x03 (R433). -/
theorem ctlWrite_schLoad_foreign (hpart : connPart (s.conn v.conn) ≠ p) (w : W64) :
    s.ctlWrite v.conn (0x2000 + 0x100 * p) w errs = (3, s) := by
  obtain ⟨hrec, hlev⟩ := gates_of_viaOpen hvia (0x2000 + 0x100 * p)
  obtain ⟨-, -, -, -, hkind, -⟩ := hvia
  have hrole : s.roleMay (s.conn v.conn) true (.sch p) 0 = false := by
    simp [State.roleMay, hkind, State.blockPart, sessionWrites, hpart.symm]
  exact ctlWrite_error w errs (ctlCheck_role hrec hlev (by omega) (locate_sch p 0 hp (by omega)) hrole)

/-- The controlling session's write of SCH_LOAD passes the checks of R539. -/
theorem ctlWrite_schLoad (hpart : connPart (s.conn v.conn) = p) (haddr : addr < 2 ^ 40) :
    s.ctlWrite v.conn (0x2000 + 0x100 * p) (at_ 39 0 addr) errs = s.schWrite p addr errs := by
  obtain ⟨hrec, hlev⟩ := gates_of_viaOpen hvia (0x2000 + 0x100 * p)
  obtain ⟨-, -, -, hst, hkind, -⟩ := hvia
  have hrole : s.roleMay (s.conn v.conn) true (.sch p) 0 = true := by simp [State.roleMay, hkind, State.blockPart, hpart]
  have hcheck := ctlCheck_passes hrec hlev (by omega) (locate_sch p 0 hp (by omega)) hrole (by simp [State.stateMay, blockCol])
  rw [ctlWrite_ok _ errs hst hcheck (by simp), writeReg_schLoad s _ p addr errs haddr]

end

/-- A write that SCH_LOAD does not take now is refused with 0x04 (R435, R529). -/
theorem schWrite_barred {s : State} {p : Nat} (addr : Nat) (errs : List MemErr) (h : s.loadBarred p = true) : s.schWrite p addr errs = (4, s) := by
  simp [State.schWrite, State.opLoad, h]

/-- An address off a granule is rejected with 0x0E (R277). -/
theorem schWrite_unaligned {s : State} {p addr : Nat} (errs : List MemErr) (haddr : addr % 256 ≠ 0) (h : s.loadBarred p = false) :
    s.schWrite p addr errs = (0xE, s) := if_pos ⟨haddr, h⟩

theorem schWrite_aligned (s : State) (p : Nat) {addr : Nat} (errs : List MemErr) (haddr : addr % 256 = 0) :
    s.schWrite p addr errs = s.opLoad p addr errs := if_neg fun h => h.1 haddr

end Sys2Proof.Machine

/-! ## An image fetched and checked (R207, R230) -/

namespace Sys2Proof.Machine

/-- What has been read of an image's streams, or where reading failed and at which stream and entry. -/
abbrev StreamsRead := Except ((Bool × Nat) × Nat × Nat) (List ImgStream)

/-- Stream i of the image at addr, whose table is t, fetched behind those before it (R207). -/
def fetchStream (p addr : Nat) (errs : List MemErr) (t : Bytes) (a : StreamsRead × State) (i : Nat) : StreamsRead × State :=
  match a.1 with
  | .error e => (.error e, a.2)
  | .ok l =>
    let sid := leAt t (16 * i) 2
    let cnt := leAt t (16 * i + 2) 6
    let off := leAt t (16 * i + 8) 8
    let rd := a.2.fetchBytes p errs (addr + off) (64 * cnt)
    let s := rd.2
    match rd.1 with
    | .error e => (.error (e, sid, if e.1 then (e.2 - (addr + off)) / 64 else noEntry), s)
    | .ok b => (.ok (l ++ [⟨sid, cnt, off, (List.range cnt).map fun i => wordsOf (slice b (64 * i) 64)⟩]), s)

/-- The check of an image that has been read, and its admission (R230): the status of the access, and the state. -/
def State.judgeImage (s : State) (p addr : Nat) (im : Image) : Nat × State :=
  match s.admission p im with
  | some r => (0, s.rejectLoad p r)
  | none => (0, (s.traceChecks p 0x13 0).admitImage p addr im)

theorem judgeImage_rejects {s : State} {p : Nat} (addr : Nat) {im : Image} {r : Reject} (h : s.admission p im = some r) :
    s.judgeImage p addr im = (0, s.rejectLoad p r) := by
  rw [State.judgeImage, h]

theorem judgeImage_admits {s : State} {p : Nat} (addr : Nat) {im : Image} (h : s.admission p im = none) :
    s.judgeImage p addr im = (0, (s.traceChecks p 0x13 0).admitImage p addr im) := by
  rw [State.judgeImage, h]

/-- What SCH_LOAD does once it has read, or failed to read, the streams of an image with header h and table t (R230, R277). -/
def schRead (p addr : Nat) (h t : Bytes) (a : StreamsRead × State) : Nat × State :=
  match a.1 with
  | .error (e, sid, i) => (0, (if e.1 then a.2.fetchTrap p e.2 else a.2).rejectLoad p ⟨4, sid, i⟩)
  | .ok l => a.2.judgeImage p addr ⟨h, t, l⟩

section
variable {s : State} {p addr : Nat} {im : Image} (hf : Fetched s p addr im)
include hf

/-- A stream of a readable image is read as it stands. -/
theorem fetchStream_fetched (l : List ImgStream) {i : Nat} {x : ImgStream} (hx : im.streams[i]? = some x) :
    fetchStream p addr [] im.table (.ok l, s) i = (.ok (l ++ [x]), s) := by
  obtain ⟨-, -, -, hstreams⟩ := hf
  obtain ⟨hsid, hcount, hoff, b, hread, hents⟩ := hstreams i x hx
  rw [hoff, hcount] at hread
  rw [hcount] at hents
  simp only [fetchStream, hread]
  rw [← hents, ← hsid, ← hcount, ← hoff]

/-- The first streams of a readable image are read as they stand. -/
theorem fetchStreams_fetched (k : Nat) (hk : k ≤ im.streams.length) :
    (List.range k).foldl (fetchStream p addr [] im.table) (.ok [], s) = (.ok (im.streams.take k), s) := by
  induction k with
  | zero => rfl
  | succ k ih =>
    have hx : im.streams[k]? = some im.streams[k] := List.getElem?_eq_getElem (by omega)
    rw [List.range_succ, List.foldl_append, ih (by omega), List.foldl_cons, List.foldl_nil, fetchStream_fetched hf _ hx,
      ← List.take_concat_get' im.streams k (by omega)]

/-- An image that can be read and passes the checks before those of its streams is judged by the rest (R230). -/
theorem opLoad_judges (hbar : s.loadBarred p = false) (hidle : (s.part p).schSt ≠ 2) (hdraining : (s.part p).schSt ≠ 3)
    (hhdr : headerOk im.hdr = true) (hdig : digestOk im.hdr = true) (hmhz : leAt im.hdr 20 4 ≤ fld (Table.get 0 s.pwr.grants p) 10 0)
    (htable : s.tableBad p im.table (leAt im.hdr 60 4) = none) :
    s.opLoad p addr [] = s.judgeImage p addr im := by
  have hstreams := fetchStreams_fetched hf _ le_rfl
  obtain ⟨hh, ht, hlen, -⟩ := hf
  rw [List.take_length, hlen] at hstreams
  have hread : s.opLoad p addr [] =
      schRead p addr im.hdr im.table ((List.range (leAt im.hdr 60 4)).foldl (fetchStream p addr [] im.table) (.ok [], s)) := by
    simp only [State.opLoad, hbar, hidle, hdraining, hh, ht, hhdr, hdig, htable, Nat.not_lt.mpr hmhz, Bool.not_true, Bool.false_eq_true,
      or_self, if_false]
    rfl
  rw [hread, hstreams]
  rfl

end

end Sys2Proof.Machine

/-! ## A load rejected (R230) -/

namespace Sys2Proof.Machine

/-- A check, where it fails, gives one of the causes of an image that is at fault: not 0x12, that of a schedule that runs (R230, R236). -/
def FaultsImage (o : Option Reject) : Prop := ∀ r, o = some r → r.cause ≠ 0x12

theorem faultsImage_none : FaultsImage none := by
  intro r hr
  cases hr

theorem faultsImage_some {cause sid entry : Nat} (h : cause ≠ 0x12) : FaultsImage (some ⟨cause, sid, entry⟩) := by
  intro x hx
  cases hx
  exact h

/-- A check that labels what it finds with one cause. -/
theorem faultsImage_map {α : Type} {cause : Nat} (o : Option α) {f : α → Reject} (h : ∀ a, (f a).cause = cause) (hc : cause ≠ 0x12) :
    FaultsImage (o.map f) := by
  intro r hr
  obtain ⟨a, -, rfl⟩ := Option.map_eq_some_iff.mp hr
  rwa [h a]

/-- A check that looks for the first of its finds. -/
theorem faultsImage_findSome {α : Type} (l : List α) {f : α → Option Reject} (h : ∀ a ∈ l, FaultsImage (f a)) :
    FaultsImage (l.findSome? f) := by
  intro r hr
  obtain ⟨a, ha, hfa⟩ := List.exists_of_findSome?_eq_some hr
  exact h a ha r hfa

theorem faultsImage_firstBad {cause : Nat} (im : Image) (ok : ImgStream → Nat → List W64 → Bool) (h : cause ≠ 0x12) :
    FaultsImage (firstBad cause im ok) :=
  faultsImage_findSome _ fun _ _ => faultsImage_map _ (fun _ => rfl) h

theorem faultsImage_carrierBad (im : Image) (cid : Nat) : FaultsImage (im.carrierBad cid) := by
  unfold Image.carrierBad
  dsimp only
  split
  · exact faultsImage_some (by decide)
  · exact faultsImage_map _ (fun _ => rfl) (by decide)

theorem faultsImage_tokensBad (s : State) (p : Nat) (im : Image) : FaultsImage (s.tokensBad p im) := by
  unfold State.tokensBad
  dsimp only
  split
  · exact faultsImage_some (by decide)
  · exact faultsImage_map _ (fun _ => rfl) (by decide)

theorem faultsImage_reuseBad (s : State) (p : Nat) (im : Image) : FaultsImage (s.reuseBad p im) := faultsImage_map _ (fun _ => rfl) (by decide)

theorem faultsImage_cyclesBad (s : State) (p cpr : Nat) (im : Image) : FaultsImage (s.cyclesBad p cpr im) :=
  faultsImage_findSome _ fun _ _ => faultsImage_findSome _ fun _ _ => faultsImage_map _ (fun _ => rfl) (by decide)

theorem faultsImage_budgetBad (s : State) (p lam : Nat) {cause : Nat} (im : Image) (f : Nat → List W64 → Option (Nat × Nat))
    (h : cause ≠ 0x12) : FaultsImage (s.budgetBad p lam cause im f) := faultsImage_map _ (fun _ => rfl) h

theorem faultsImage_collectBad (s : State) (p lam mhz : Nat) (im : Image) : FaultsImage (s.collectBad p lam mhz im) :=
  faultsImage_map _ (fun _ => rfl) (by decide)

/-- Check 0x0A on the position streams of an image. -/
theorem faultsImage_playOuts (s : State) (im : Image) (t : ImgStream) :
    FaultsImage (if isPosStream t.sid then (s.playOuts im t).map fun i => ⟨0x0A, t.sid, i⟩ else none) := by
  split
  · exact faultsImage_map _ (fun _ => rfl) (by decide)
  · exact faultsImage_none

/-- The checks of R230 on an image fault the image. -/
theorem faultsImage_admission (s : State) (p : Nat) (im : Image) : FaultsImage (s.admission p im) := by
  apply faultsImage_findSome
  simp only [List.forall_mem_cons, id_eq]
  refine ⟨faultsImage_firstBad _ _ (by decide), faultsImage_carrierBad _ _, faultsImage_firstBad _ _ (by decide),
    faultsImage_map _ (fun _ => rfl) (by decide), faultsImage_firstBad _ _ (by decide), faultsImage_firstBad _ _ (by decide),
    faultsImage_firstBad _ _ (by decide), faultsImage_findSome _ fun t _ => faultsImage_playOuts s im t,
    faultsImage_firstBad _ _ (by decide), faultsImage_tokensBad _ _ _, faultsImage_reuseBad _ _ _, faultsImage_cyclesBad _ _ _ _,
    faultsImage_budgetBad _ _ _ _ _ (by decide), faultsImage_budgetBad _ _ _ _ _ (by decide), faultsImage_collectBad _ _ _ _ _, ?_⟩
  simp

/-- The traces of a load's checks leave everything but the stewards (R475). -/
theorem traceChecks_keeps (s : State) (p cause sid : Nat) : Keeps [.stewards] s (s.traceChecks p cause sid) := by
  have hfold : ∀ l : List Nat, Keeps [.stewards] s (l.foldl (fun s i => s.traceLead p 2 i [p, 0, 0]) s) := fun l =>
    Keeps.foldl l _ s fun s i => traceLead_keeps s p 2 i [p, 0, 0]
  unfold State.traceChecks
  dsimp only
  split
  · exact hfold _
  · exact (hfold _).trans (traceLead_keeps _ _ _ _ _)

/-- A load that is rejected leaves the cause, stream and entry at fault in its partition (R230). -/
theorem rejectLoad_part (s : State) (p : Nat) {r : Reject} (hr : r.cause ≠ 0x12) :
    (s.rejectLoad p r).part p = { s.part p with schSt := 4, schRej := false, schCause := r.cause, schStream := r.sid, schEntry := r.entry } := by
  rw [State.rejectLoad, updPart_part_same, part_of_keeps (traceChecks_keeps s p r.cause r.sid) (by decide)]
  simp [hr]

theorem rejectLoad_part_ne (s : State) {p q : Nat} (r : Reject) (hq : q ≠ p) : (s.rejectLoad p r).part q = s.part q := by
  rw [State.rejectLoad, updPart_part_ne _ _ _ hq, part_of_keeps (traceChecks_keeps s p r.cause r.sid) (by decide)]

theorem rejectLoad_keeps (s : State) (p : Nat) (r : Reject) : Keeps [.partitions, .stewards] s (s.rejectLoad p r) :=
  ((traceChecks_keeps s p r.cause r.sid).mono (by decide)).trans ((updPart_keeps _ _ _).mono (by decide))

end Sys2Proof.Machine

/-! ## An image admitted (R230, R395, R396) -/

namespace Sys2Proof.Machine

/-- Releases of Tokens: nothing of a partition changes but its Token counters, and no stream goes on or stops (R217). -/
structure Released (q t : Part) : Prop where
  rest : t = { q with streams := t.streams, tokenStray := t.tokenStray }
  live (sid : Nat) : (streamOf t sid).live = (streamOf q sid).live
  next (sid : Nat) : (streamOf t sid).next = (streamOf q sid).next

theorem Released.refl (q : Part) : Released q q := ⟨rfl, fun _ => rfl, fun _ => rfl⟩

theorem Released.trans {q t u : Part} (h : Released q t) (h' : Released t u) : Released q u where
  rest := by
    rw [h'.rest, h.rest]
  live sid := (h'.live sid).trans (h.live sid)
  next sid := (h'.next sid).trans (h.next sid)

/-- A change of one stream that leaves it where it is. -/
theorem released_updStream (q : Part) (sid : Nat) {f : Stream → Stream} (hf : ∀ x, (f x).live = x.live ∧ (f x).next = x.next) :
    Released q (updStream q sid f) where
  rest := rfl
  live i := by
    obtain rfl | hi := eq_or_ne i sid
    · rw [streamOf_updStream_same, (hf _).1]
    · rw [streamOf_updStream_ne _ _ _ hi]
  next i := by
    obtain rfl | hi := eq_or_ne i sid
    · rw [streamOf_updStream_same, (hf _).2]
    · rw [streamOf_updStream_ne _ _ _ hi]

theorem released_releaseTok (q : Part) (addr m : Nat) (prov : Bool) : Released q (releaseTok q addr m prov) := by
  unfold releaseTok
  dsimp only
  split
  · exact ⟨rfl, fun _ => rfl, fun _ => rfl⟩
  · exact released_updStream _ _ fun _ => ⟨rfl, rfl⟩

/-- Token 511 of every stream released (R394). -/
theorem released_release511 (q : Part) (m : Nat) : Released q (release511 q m) := by
  have hfold : ∀ (l : Table Stream) (t : Part), Released q t →
      Released q (l.foldl (fun q e => if e.2.live then releaseTok q (512 * e.1 + 511) m false else q) t) := by
    intro l
    induction l with
    | nil => exact fun _ h => h
    | cons e l ih =>
      intro t ht
      refine ih _ ?_
      dsimp only
      split
      · exact ht.trans (released_releaseTok _ _ _ _)
      · exact ht
  exact hfold _ q (.refl q)

/-- A stream of the image at its first entry; one that the image does not name has no entry (R206, R396). -/
def firstEntry (im : Image) (sid : Nat) : Stream :=
  let e := (im.streams.find? fun x => x.sid = sid).getD ⟨sid, 0, 0, []⟩
  { Stream.reset with live := true, count := e.count, entry := e.off }

/-- The streams of a partition, each at its first entry. -/
def firstEntries (q : Part) (im : Image) : Table Stream :=
  (partStreams q).foldl (fun t sid => Table.set Stream.reset t sid (firstEntry im sid)) []

theorem get_firstEntries (q : Part) (im : Image) {sid : Nat} (h : sid ∈ partStreams q) :
    Table.get Stream.reset (firstEntries q im) sid = firstEntry im sid := by
  have hfold : ∀ (l : List Nat) (t : Table Stream), sid ∈ l ∨ Table.get Stream.reset t sid = firstEntry im sid →
      Table.get Stream.reset (l.foldl (fun t sid => Table.set Stream.reset t sid (firstEntry im sid)) t) sid = firstEntry im sid := by
    intro l
    induction l with
    | nil => simp
    | cons x l ih =>
      intro t ht
      refine ih _ ?_
      rw [Table.get_set]
      split
      · next hx => exact .inr (hx ▸ rfl)
      · next hx => exact ht.imp_left fun hmem => (List.mem_cons.mp hmem).resolve_left hx
  exact hfold _ _ (.inl h)

/-- What an admitted image makes of partition q, but for the Tokens that step F's start releases (R230, R395, R396). -/
structure Admitted (q : Part) (addr : Nat) (im : Image) (t : Part) : Prop where
  st : t.st = if q.st = .ready then .running else q.st
  schSt : t.schSt = 2
  sched : t.sched = some (schedOf addr im.hdr)
  step : t.step = leAt im.hdr 32 8
  stnSt : t.stn.st = 1
  committed : t.stn.committed = BitVec.ofNat 64 (leAt im.hdr 32 8) - 1
  streams : t.streams = firstEntries q im

theorem Admitted.released {q : Part} {addr : Nat} {im : Image} {t u : Part} (h : Admitted q addr im t) (hr : Released t u)
    (hready : q.st = .ready) :
    u.st = .running ∧ u.schSt = 2 ∧ u.sched = some (schedOf addr im.hdr) ∧ u.step = leAt im.hdr 32 8 ∧ u.stn.st = 1 ∧
      u.stn.committed = BitVec.ofNat 64 (leAt im.hdr 32 8) - 1 ∧
      ∀ sid ∈ partStreams q, (streamOf u sid).live = true ∧ (streamOf u sid).next = 0 := by
  refine ⟨?_, ?_, ?_, ?_, ?_, ?_, fun sid hsid => ?_⟩
  · rw [hr.rest]; exact h.st.trans (if_pos hready)
  · rw [hr.rest]; exact h.schSt
  · rw [hr.rest]; exact h.sched
  · rw [hr.rest]; exact h.step
  · rw [hr.rest]; exact h.stnSt
  · rw [hr.rest]; exact h.committed
  · rw [hr.live, hr.next, streamOf, h.streams, get_firstEntries _ _ hsid]
    exact ⟨rfl, rfl⟩

theorem actAwaits_keeps (s : State) (p : Nat) : Keeps [.firmware] s (s.actAwaits p) := by
  unfold State.actAwaits
  split
  · exact .of_patch rfl
  · exact .refl _ _

section
variable (s : State) (p addr : Nat) (im : Image)

/-- An admission: the image is measured, and its partition, positions and slots start (R230, R376, R395). -/
theorem admitImage_starts : ∃ u f, Keeps [.firmware] s u ∧ Keeps [.positions, .slots] (u.updPart p f) (s.admitImage p addr im) ∧
    ∃ t, Admitted (u.part p) addr im t ∧ Released t (f (u.part p)) := by
  unfold State.admitImage
  dsimp only
  refine ⟨_, _, (measure_keeps s _ _ _ _ _).trans (actAwaits_keeps _ p), Keeps.trans (Keeps.foldl _ _ _ fun s n => ?_)
    (Keeps.foldl _ _ _ fun s n => ?_), _, ?_, released_release511 _ _⟩
  · exact (updPos_keeps s n _).mono (by decide)
  · exact (updSlot_keeps s n _).mono (by decide)
  · exact ⟨rfl, rfl, rfl, rfl, rfl, rfl, rfl⟩

theorem admitImage_keeps : Keeps [.partitions, .positions, .slots, .firmware] s (s.admitImage p addr im) := by
  obtain ⟨u, f, hu, ht, -⟩ := admitImage_starts s p addr im
  exact ((hu.mono (by decide)).trans ((updPart_keeps u p f).mono (by decide))).trans (ht.mono (by decide))

/-- An admission leaves the other partitions. -/
theorem admitImage_part_ne {q : Nat} (hq : q ≠ p) : (s.admitImage p addr im).part q = s.part q := by
  obtain ⟨u, f, hu, ht, -⟩ := admitImage_starts s p addr im
  rw [part_of_keeps ht (by decide), updPart_part_ne _ _ _ hq, part_of_keeps hu (by decide)]

theorem admitImage_part : ∃ t, Admitted (s.part p) addr im t ∧ Released t ((s.admitImage p addr im).part p) := by
  obtain ⟨u, f, hu, ht, hadm⟩ := admitImage_starts s p addr im
  rwa [part_of_keeps ht (by decide), updPart_part_same, ← part_of_keeps hu (by decide)]

end

end Sys2Proof.Machine

/-! ## A round begins (R222, R223, R234, R235) -/

namespace Sys2Proof.Machine

/-- The state in which a round has been counted and served, before its lateness is recorded (R234, R235). -/
def State.roundServed (s : State) (p : Nat) (h : Sched) : State := (s.overrun p h).servePools p h

/-- A round counts what the round before left over, and nothing else of its partition. -/
theorem roundServed_part (s : State) (p : Nat) (h : Sched) : (s.roundServed p h).part p =
    { s.part p with roundIn := [], overrun := ((s.roundServed p h).part p).overrun, preempt := ((s.roundServed p h).part p).preempt,
                    poolDebt := ((s.roundServed p h).part p).poolDebt } := by
  simp only [State.roundServed, State.servePools, State.overrun, updPart_part_same]

theorem roundServed_part_ne (s : State) (h : Sched) {p q : Nat} (hq : q ≠ p) : (s.roundServed p h).part q = s.part q := by
  simp only [State.roundServed, State.servePools, State.overrun, updPart_part_ne _ _ _ hq]

theorem roundServed_keeps (s : State) (p : Nat) (h : Sched) : Keeps [.partitions] s (s.roundServed p h) := by
  unfold State.roundServed State.servePools State.overrun
  exact (updPart_keeps _ _ _).trans (updPart_keeps _ _ _)

/-- The lateness of a round, where it is the largest so far (R223). -/
def Part.lated (q : Part) (late : Nat) : Part :=
  { q with lateMax := if q.lateMax.toNat < late then BitVec.ofNat 64 late else q.lateMax }

/-- A round leaves what a SLIP tells of its partition. -/
theorem roundLated_part (s : State) (p late : Nat) (h : Sched) :
    (((s.roundServed p h).updPart p (·.lated late)).part p).slipsSent = (s.part p).slipsSent ∧
      (((s.roundServed p h).updPart p (·.lated late)).part p).step = (s.part p).step ∧
      (((s.roundServed p h).updPart p (·.lated late)).part p).shift = (s.part p).shift ∧
      schLoadStatus (((s.roundServed p h).updPart p (·.lated late)).part p) = schLoadStatus (s.part p) := by
  rw [updPart_part_same, roundServed_part]
  simp only [Part.lated, schLoadStatus, and_self]

/-- A round of a member that runs: its lateness is recorded, and a member that is later than SLACK + D sends a SLIP (R223). -/
theorem opRound_running {s : State} {p late : Nat} {h : Sched} (hop : s.operational = true) (hsched : (s.part p).sched = some h)
    (hruns : (s.part p).schSt = 2 ∨ (s.part p).schSt = 3) (hstn : (s.part p).stn.st = 1) (hlate : late = (s.roundServed p h).lateness p) :
    s.opRound p =
      if h.slack + (s.part p).slipD < late then ((s.roundServed p h).updPart p (·.lated late)).sendSlip p late h
      else (s.roundServed p h).updPart p (·.lated late) := by
  have hserved : ((s.overrun p h).servePools p h).lateness p = late := hlate.symm
  have hrun : ¬((s.part p).schSt ≠ 2 ∧ (s.part p).schSt ≠ 3) := by omega
  rw [State.opRound, whenOp_of_operational hop]
  simp only [hsched, hrun, hstn, hserved, ne_eq, not_true_eq_false, if_false]
  rfl

/-- A member's SLIP (R223 to R225): its delay and its label, and nothing of the round. -/
structure SlipSent (s t : State) (p late : Nat) (h : Sched) : Prop where
  slipD : (t.part p).slipD = 2 ^ h.qexp * ceilDiv late (2 ^ h.qexp)
  sent : (t.part p).slipsSent = inc (s.part p).slipsSent
  label : (t.part p).slipLabel = (s.part p).step + 1 ∨ (t.part p).slipLabel = (s.part p).step + 2
  shift : (t.part p).shift = (s.part p).shift
  others : ∀ q, q ≠ p → t.part q = s.part q
  logged : Logged t s.leadNow 0x32 [schLoadStatus (s.part p)]
  keeps : Keeps [.partitions, .network, .stewards, .firmware] s t

/-- A partition that sends a SLIP of d rounds for the step `label` (R224, R225). -/
def Part.slipping (q : Part) (d label : Nat) : Part :=
  { q with slipD := d, slipLabel := label, slipsSent := inc q.slipsSent,
           slipBest := Table.set 0 q.slipBest label (max d (Table.get 0 q.slipBest label)) }

/-- The step that a SLIP labels: the next, where its first round is LEAD rounds away, else the one behind it (R224). -/
def State.labelNow (s : State) (p : Nat) (h : Sched) : Nat :=
  if decide (s.roundNow (s.part p) + h.lead ≤ planned (s.part p) ((s.part p).step + 1) 0) then (s.part p).step + 1 else (s.part p).step + 2

theorem labelNow_ahead (s : State) (p : Nat) (h : Sched) : s.labelNow p h = (s.part p).step + 1 ∨ s.labelNow p h = (s.part p).step + 2 :=
  ite_eq_or_eq _ _ _

/-- The state in which a SLIP has gone out on the tree, before it is logged. -/
def State.slipOut (s : State) (p d label : Nat) (h : Sched) : State :=
  ((s.updPart p (·.slipping d label)).traceLead p 3 0 [label, d, h.member]).passSlip p none (slipBytes label d h.member)

theorem sendSlip_eq (s : State) (p late : Nat) (h : Sched) : s.sendSlip p late h =
    let u := s.slipOut p (2 ^ h.qexp * ceilDiv late (2 ^ h.qexp)) (s.labelNow p h) h
    u.logP u.leadNow 0x32 0xFFFF p [schLoadStatus (u.part p)] := rfl

theorem slipOut_keeps (s : State) (p d label : Nat) (h : Sched) :
    Keeps [.network, .stewards] (s.updPart p (·.slipping d label)) (s.slipOut p d label h) :=
  ((traceLead_keeps _ _ _ _ _).mono (by decide)).trans (passSlip_keeps _ _ _ _)

theorem slipOut_part (s : State) (p d label : Nat) (h : Sched) : (s.slipOut p d label h).part p = (s.part p).slipping d label := by
  rw [part_of_keeps (slipOut_keeps s p d label h) (by decide), updPart_part_same]

theorem sendSlip_sent (s : State) (p late : Nat) (h : Sched) : SlipSent s (s.sendSlip p late h) p late h := by
  let u := s.slipOut p (2 ^ h.qexp * ceilDiv late (2 ^ h.qexp)) (s.labelNow p h) h
  have hout : Keeps [.network, .stewards] _ u := slipOut_keeps s p _ _ h
  have hpart : u.part p = (s.part p).slipping (2 ^ h.qexp * ceilDiv late (2 ^ h.qexp)) (s.labelNow p h) := slipOut_part s p _ _ h
  have hkeeps : Keeps [.partitions, .network, .stewards] s u := ((updPart_keeps s p _).mono (by decide)).trans (hout.mono (by decide))
  have hlog := logP_keeps u u.leadNow 0x32 0xFFFF p [schLoadStatus (u.part p)]
  have hlogged := logP_logged u u.leadNow 0x32 0xFFFF p [schLoadStatus (u.part p)]
  have hstatus : schLoadStatus (u.part p) = schLoadStatus (s.part p) := by rw [hpart]; rfl
  have hlast : ∀ q, (s.sendSlip p late h).part q = u.part q := part_of_keeps hlog (by decide)
  refine ⟨?_, ?_, ?_, ?_, fun q hq => ?_, ?_, (hkeeps.mono (by decide)).trans (hlog.mono (by decide))⟩
  · rw [hlast, hpart]; rfl
  · rw [hlast, hpart]; rfl
  · rw [hlast, hpart]; exact labelNow_ahead s p h
  · rw [hlast, hpart]; rfl
  · rw [hlast, part_of_keeps hout (by decide), updPart_part_ne _ _ _ hq]
  · rw [sendSlip_eq, ← hstatus, ← leadNow_of_keeps hkeeps (by decide)]
    exact hlogged

section
variable {s : State} {p late : Nat} {h : Sched} (hop : s.operational = true) (hsched : (s.part p).sched = some h)
  (hruns : (s.part p).schSt = 2 ∨ (s.part p).schSt = 3) (hstn : (s.part p).stn.st = 1) (hlate : late = (s.roundServed p h).lateness p)
include hop hsched hruns hstn hlate

/-- A round of a member that is no later than SLACK + D records its lateness (R223). -/
theorem runs_roundStart_punctual (hslack : late ≤ h.slack + (s.part p).slipD) :
    Runs (.roundStart p) s fun t => t = (s.roundServed p h).updPart p (·.lated late) :=
  ⟨_, rfl, (opRound_running hop hsched hruns hstn hlate).trans (if_neg (Nat.not_lt.mpr hslack))⟩

/-- A member that is later than SLACK + D sends a SLIP (R223). -/
theorem runs_roundStart_late (hslack : h.slack + (s.part p).slipD < late) :
    Runs (.roundStart p) s fun t => SlipSent ((s.roundServed p h).updPart p (·.lated late)) t p late h :=
  ⟨_, rfl, (opRound_running hop hsched hruns hstn hlate).trans (if_pos hslack) ▸ sendSlip_sent _ _ _ _⟩

end

end Sys2Proof.Machine

/-! ## Schedules loaded and rounds -/

namespace Sys2Proof.Machine

section
variable {s : State} {v : Via} {p addr : Nat} {im : Image} (hvia : ViaOpen s v 2) (hp : p < 16) (hpart : connPart (s.conn v.conn) = p)
  (haddr : addr < 2 ^ 40)
include hvia hp hpart haddr

/-- SCH_LOAD of the controlling session is answered as the write of the register is. -/
theorem runs_schLoad_own (errs : List MemErr) {st : Nat} {u : State} {P : State → Prop} (hwrite : s.schWrite p addr errs = (st, u))
    (h : ∀ t, Answered v (0x2000 + 0x100 * p) st u t → P t) : Runs (.schLoad v p addr errs) s P :=
  runs_schLoad hvia hp errs ((ctlWrite_schLoad hvia hp errs hpart haddr).trans hwrite) h

variable (hgran : addr % 256 = 0) (hremove : s.pwr.remove = 0) (hready : (s.part p).st = .ready) (hidle : (s.part p).schSt ≠ 2)
  (hdraining : (s.part p).schSt ≠ 3) (hf : Fetched s p addr im) (hhdr : headerOk im.hdr = true) (hdig : digestOk im.hdr = true)
  (hmhz : leAt im.hdr 20 4 ≤ fld (Table.get 0 s.pwr.grants p) 10 0) (htable : s.tableBad p im.table (leAt im.hdr 60 4) = none)
include hgran hremove hready hidle hdraining hf hhdr hdig hmhz htable

/-- SCH_LOAD of an image that can be read is answered as the image is judged (R230). -/
theorem runs_schLoad_judged {st : Nat} {u : State} {P : State → Prop} (hjudged : s.judgeImage p addr im = (st, u))
    (h : ∀ t, Answered v (0x2000 + 0x100 * p) st u t → P t) : Runs (.schLoad v p addr []) s P := by
  have hbar : s.loadBarred p = false := by simp [State.loadBarred, hremove, hready]
  have hload := opLoad_judges hf hbar hidle hdraining hhdr hdig hmhz htable
  exact runs_schLoad_own hvia hp hpart haddr [] (((schWrite_aligned s p [] hgran).trans hload).trans hjudged) h

end

end Sys2Proof.Machine

namespace Sys2Proof

open Sys2Proof.Machine

/-- Settles O31: every path of a write of SCH_LOAD through the checks, and a round with and without a SLIP. -/
theorem scheduleLoadAndRounds : Obligations.ScheduleLoadAndRounds := by
  unfold Obligations.ScheduleLoadAndRounds
  refine ⟨?admitted, ?rejected, ?unaligned, ?barred, ?foreign, ?punctual, ?late⟩
  case admitted =>
    intro s v p addr im hvia hp hpart haddr hgran hremove hready hidle hdraining hf hhdr hdig hmhz htable hadm
    refine runs_schLoad_judged hvia hp hpart haddr hgran hremove hready hidle hdraining hf hhdr hdig hmhz htable
      (judgeImage_admits addr hadm) fun t ht => ?_
    have hchecks := traceChecks_keeps s p 0x13 0
    obtain ⟨x, hx, hreleased⟩ := admitImage_part (s.traceChecks p 0x13 0) p addr im
    rw [part_of_keeps hchecks (by decide)] at hx
    obtain ⟨hst, hsch, hsched, hstep, hstn, hcommitted, hstreams⟩ := hx.released hreleased hready
    have hkeeps := admitImage_keeps (s.traceChecks p 0x13 0) p addr im
    refine ⟨_, ht, hst, hsch, hsched, hstep, hstn, hcommitted, hstreams, fun q hq => ?_, ?_,
      (hchecks.mono (by decide)).trans (hkeeps.mono (by decide))⟩
    · exact (admitImage_part_ne _ _ _ _ hq).trans (part_of_keeps hchecks (by decide) q)
    · exact (hkeeps .memory (by decide)).trans (hchecks .memory (by decide))
  case rejected =>
    intro s v p addr im r hvia hp hpart haddr hgran hremove hready hidle hdraining hf hhdr hdig hmhz htable hadm
    refine runs_schLoad_judged hvia hp hpart haddr hgran hremove hready hidle hdraining hf hhdr hdig hmhz htable
      (judgeImage_rejects addr hadm) fun t ht => ?_
    exact ⟨_, ht, rejectLoad_part s p (faultsImage_admission s p im r hadm), fun q hq => rejectLoad_part_ne s r hq, rejectLoad_keeps s p r⟩
  case unaligned =>
    intro s v p addr errs hvia hp hpart haddr hgran hbar
    exact runs_schLoad_own hvia hp hpart haddr errs (schWrite_unaligned errs hgran hbar) fun _ ht => ht
  case barred =>
    intro s v p addr errs hvia hp hpart haddr hwhy
    have hbar : s.loadBarred p = true := by simpa [State.loadBarred, or_assoc] using hwhy
    exact runs_schLoad_own hvia hp hpart haddr errs (schWrite_barred addr errs hbar) fun _ ht => ht
  case foreign =>
    intro s v p addr errs hvia hp hpart haddr
    exact runs_schLoad hvia hp errs (ctlWrite_schLoad_foreign hvia hp errs hpart _) fun _ ht => ht
  case punctual =>
    intro s u p late h hop hsched hruns hstn hu hlate hslack
    obtain rfl : u = s.roundServed p h := hu
    refine (runs_roundStart_punctual hop hsched hruns hstn hlate hslack).mono fun t ht => ?_
    subst ht
    refine ⟨?_, fun q hq => ?_, (roundServed_keeps s p h).trans (updPart_keeps _ _ _)⟩
    · rw [updPart_part_same, roundServed_part]
      rfl
    · rw [updPart_part_ne _ _ _ hq, roundServed_part_ne s h hq]
  case late =>
    intro s u p late h hop hsched hruns hstn hu hlate hslack
    obtain rfl : u = s.roundServed p h := hu
    refine (runs_roundStart_late hop hsched hruns hstn hlate hslack).mono fun t ht => ?_
    obtain ⟨hD, hsent, hlabel, hshift, hothers, hlogged, hkeeps⟩ := ht
    have hserved : Keeps [.partitions] s ((s.roundServed p h).updPart p (·.lated late)) :=
      (roundServed_keeps s p h).trans (updPart_keeps _ _ _)
    obtain ⟨hsent₀, hstep₀, hshift₀, hstatus₀⟩ := roundLated_part s p late h
    rw [hsent₀] at hsent
    rw [hstep₀] at hlabel
    rw [hshift₀] at hshift
    rw [hstatus₀, leadNow_of_keeps hserved (by decide)] at hlogged
    refine ⟨hD, hsent, hlabel, hshift, hlogged, fun q hq => ?_, (hserved.mono (by decide)).trans hkeeps⟩
    rw [hothers q hq, updPart_part_ne _ _ _ hq, roundServed_part_ne s h hq]

end Sys2Proof

/-! ## The canonical form of the memory under every operation (R240, R244, R255, R266)

A lemma per operation: `f_mem` where it leaves the memory as it is, `f_memOk` where it keeps the canonical form. -/

namespace Sys2Proof.Machine

/-- The canonical form of the memory, taken as one fact. -/
def MemOk (m : Mem) : Prop := Memory.wf m

@[simp ↓] theorem ite_mem (c : Prop) [Decidable c] (s t : State) :
    (if c then s else t).mem = if c then s.mem else t.mem := apply_ite State.mem c s t

@[simp] theorem memOk_ite {c : Prop} [Decidable c] {m n : Mem} (hm : MemOk m) (hn : MemOk n) : MemOk (if c then m else n) := by
  split <;> assumption

@[simp] theorem memOk_foldl {α : Type} (l : List α) (g : State → α → State) (s : State) (h : ∀ s a, MemOk s.mem → MemOk (g s a).mem)
    (hs : MemOk s.mem) : MemOk (l.foldl g s).mem := foldl_memForm l g s h hs

@[simp ↓] theorem whenUp_mem (s : State) (f : State → State) (h : ∀ s, (f s).mem = s.mem) : (s.whenUp f).mem = s.mem := by
  simp [State.whenUp, h]
@[simp ↓] theorem whenBased_mem (s : State) (f : State → State) (h : ∀ s, (f s).mem = s.mem) : (s.whenBased f).mem = s.mem := by
  simp [State.whenBased, h]
@[simp ↓] theorem whenOp_mem (s : State) (f : State → State) (h : ∀ s, (f s).mem = s.mem) : (s.whenOp f).mem = s.mem := by
  simp [State.whenOp, h]
@[simp] theorem whenUp_memOk (s : State) (f : State → State) (h : ∀ s, MemOk s.mem → MemOk (f s).mem) (hs : MemOk s.mem) :
    MemOk (s.whenUp f).mem := by
  simp [State.whenUp, h, hs]
@[simp] theorem whenBased_memOk (s : State) (f : State → State) (h : ∀ s, MemOk s.mem → MemOk (f s).mem) (hs : MemOk s.mem) :
    MemOk (s.whenBased f).mem := by
  simp [State.whenBased, h, hs]
@[simp] theorem whenOp_memOk (s : State) (f : State → State) (h : ∀ s, MemOk s.mem → MemOk (f s).mem) (hs : MemOk s.mem) :
    MemOk (s.whenOp f).mem := by
  simp [State.whenOp, h, hs]

theorem memOk_reset : MemOk Mem.reset := ⟨rfl, rfl, rfl, rfl⟩

theorem memOk_foldlPair {α β : Type} (l : List α) (g : β × State → α → β × State) (x : β × State)
    (h : ∀ x a, MemOk x.2.mem → MemOk (g x a).2.mem) (hx : MemOk x.2.mem) : MemOk (l.foldl g x).2.mem := by
  induction l generalizing x with
  | nil => exact hx
  | cons a l ih => exact ih _ (h _ _ hx)

theorem memOk_foldlTriple {α β γ : Type} (l : List α) (g : β × γ × State → α → β × γ × State) (x : β × γ × State)
    (h : ∀ x a, MemOk x.2.2.mem → MemOk (g x a).2.2.mem) (hx : MemOk x.2.2.mem) : MemOk (l.foldl g x).2.2.mem := by
  induction l generalizing x with
  | nil => exact hx
  | cons a l ih => exact ih _ (h _ _ hx)

theorem memOk_iteState {c : Prop} [Decidable c] {s t : State} (hs : MemOk s.mem) (ht : MemOk t.mem) : MemOk (if c then s else t).mem := by
  split <;> assumption

end Sys2Proof.Machine

/-! ### The memory under the operations of the network state -/

namespace Sys2Proof.Machine

@[simp ↓] theorem updRegion_memOk (s : State) (r : Nat) (f : Region → Region) (h : MemOk s.mem) : MemOk (s.updRegion r f).mem :=
  updRegion_memForm _ _ _ h

@[simp ↓] theorem fresh_mem (s : State) : s.fresh.2.mem = s.mem := by simp [State.fresh]

@[simp ↓] theorem reclock_mem (s t : State) : (s.reclock t).mem = t.mem := rfl

@[simp ↓] theorem bookFill_mem (s : State) (pos : Nat) : (s.bookFill pos).mem = s.mem := by simp [State.bookFill]

@[simp ↓] theorem flushTx_mem (n : Nat) (s : State) (c : Nat) : (State.flushTx n s c).mem = s.mem := by
  induction n generalizing s with
  | zero => rfl
  | succ n ih =>
    unfold State.flushTx
    dsimp only
    split
    · split <;> simp [ih]
    · simp

@[simp ↓] theorem flush_mem (s : State) (c : Nat) : (s.flush c).mem = s.mem := flushTx_mem _ _ _

@[simp ↓] theorem drain_mem (s : State) : s.drain.mem = s.mem := drain_keeps _  .memory (by decide)

@[simp ↓] theorem countPort_mem (s : State) (n : Nat) (f : Port → Port) : (s.countPort n f).mem = s.mem := by simp [State.countPort]

@[simp ↓] theorem fwdDrop_mem (s : State) (n : Nat) : (s.fwdDrop n).mem = s.mem := by simp [State.fwdDrop]

@[simp ↓] theorem flushAll_mem (s : State) : s.flushAll.mem = s.mem := by simp [State.flushAll, foldl_mem]

@[simp ↓] theorem respray_mem (s : State) (q : Queued) : (s.respray q).mem = s.mem := by
  simp only [State.respray]
  (repeat' split) <;> simp

@[simp ↓] theorem resprayAll_mem (s : State) : s.resprayAll.mem = s.mem := by simp [State.resprayAll, foldl_mem]

@[simp ↓] theorem moveAll_mem (s : State) : s.moveAll.mem = s.mem := by simp [State.moveAll, foldl_mem]

@[simp ↓] theorem portDown_mem (s : State) (n : Nat) : (s.portDown n).mem = s.mem := by simp [State.portDown, foldl_mem]

@[simp ↓] theorem portGone_mem (s : State) (n : Nat) : (s.portGone n).mem = s.mem := by simp [State.portGone]

end Sys2Proof.Machine

/-! ### The memory under the operations of memory -/

namespace Sys2Proof.Machine

@[simp ↓] theorem setLine_memOk (s : State) (l : Nat) (m : Option LineMeta) (h : MemOk s.mem) : MemOk (s.setLine l m).mem :=
  setLine_memForm _ _ _ h

@[simp ↓] theorem storeLine_memOk (s : State) (r : Region) (a : Nat) (new : Bytes) (poison : Bool) (v : Cover) (h : MemOk s.mem) :
    MemOk (s.storeLine r a new poison v).mem := storeLine_memForm _ _ _ _ _ _ h

@[simp ↓] theorem storeTag_memOk (s : State) (r : Region) (g : Nat) (data : Bytes) (v : Cover) (h : MemOk s.mem) :
    MemOk (s.storeTag r g data v).mem := storeTag_memForm _ _ _ _ _ h

@[simp ↓] theorem storeGran_memOk (s : State) (r : Region) (g : Nat) (x : Gran) (v : Cover) (h : MemOk s.mem) :
    MemOk (s.storeGran r g x v).mem :=
  storeGran_memForm _ _ _ _ _ h

@[simp ↓] theorem writeAlloc_memOk (s : State) (part rgn : Nat) (r : Region) (a : Nat) (bs : Bytes) (poison : Nat → Bool) (errs : List MemErr)
    (h : MemOk s.mem) :
    MemOk (s.writeAlloc part rgn r a bs poison errs).mem := writeAlloc_memForm _ _ _ _ _ _ _ _ h

@[simp ↓] theorem dropStale_mem (s : State) (r : Region) (a : Nat) : (s.dropStale r a).mem = s.mem := by simp [State.dropStale]

@[simp ↓] theorem poisonPkt_memOk (s : State) (p : Nat) (host : Bool) (gens : List (Nat × Nat)) (e : Nat × Nat × List Bytes) (h : MemOk s.mem) :
    MemOk (s.poisonPkt p host gens e).mem := by
  unfold State.poisonPkt
  refine memOk_foldl _ _ _ (fun s g h => ?_) h
  (repeat' split) <;> simp [h]

@[simp ↓] theorem failRx_memOk (s : State) (c : Nat) (h : MemOk s.mem) : MemOk (s.failRx c).mem := by
  unfold State.failRx
  refine memOk_foldl _ _ _ (fun s o h => ?_) h
  have hbad : ∀ k : Conn, MemOk (o.bad.foldl (fun s e => s.poisonPkt (connPart k) (connHost k) o.gens e) s).mem := fun k =>
    memOk_foldl _ _ _ (fun s e h => poisonPkt_memOk s _ _ _ e h) h
  (repeat' split) <;> simp [h, hbad]

@[simp ↓] theorem noteFail_mem (s : State) (c : Nat) : (s.noteFail c).mem = s.mem := by simp [State.noteFail]

@[simp ↓] theorem connFail_memOk (s : State) (c : Nat) (h : MemOk s.mem) : MemOk (s.connFail c).mem := by simp [State.connFail, h]

@[simp ↓] theorem coreGran_mem (p pos first : Nat) (errs : List MemErr) (s : State) (i : Nat) :
    (State.coreGran p pos first errs s i).2.mem = s.mem := by simp [State.coreGran]

@[simp ↓] theorem coreWrite_memOk (s : State) (p pos off : Nat) (bs : Bytes) (poison : Bool) (errs : List MemErr) (h : MemOk s.mem) :
    MemOk (s.coreWrite p pos off bs poison errs).mem := coreWrite_memForm _ _ _ _ _ _ _ h

@[simp ↓] theorem trap_mem (s : State) (p event : Nat) (w : W64) : (s.trap p event w).mem = s.mem := by simp [State.trap]

@[simp ↓] theorem clearAlloc_memOk (s : State) (r : Region) (h : MemOk s.mem) : MemOk (s.clearAlloc r).mem := clearAlloc_memForm _ _ h

@[simp ↓] theorem zeroStores_memOk (s : State) (c : Nat) (h : MemOk s.mem) : MemOk (s.zeroStores c).mem := zeroStores_memForm _ _ h

end Sys2Proof.Machine

/-! ### The memory under the operations of operands -/

namespace Sys2Proof.Machine

theorem granLoad_mem {rd : State → Nat → Gran × State} (hrd : ∀ s g, (rd s g).2.mem = s.mem) (gs : List Nat) (s : State) :
    (granLoad rd gs s).2.mem = s.mem := by
  unfold granLoad
  refine foldr2_mem _ _ _ fun acc g => ?_
  split
  · exact hrd acc.2 g
  · rfl

@[simp ↓] theorem loadGrans_mem (s : State) (p pos : Nat) (gs : List Nat) (errs : List MemErr) : (s.loadGrans p pos gs errs).2.mem = s.mem :=
  granLoad_mem (coreGran_mem p pos 0 errs) _ s

@[simp ↓] theorem coreStore_memOk (s : State) (p pos a : Nat) (bs : Bytes) (poison : Bool) (errs : List MemErr) (h : MemOk s.mem) :
    MemOk (s.coreStore p pos a bs poison errs).mem := by simp [State.coreStore, h]

@[simp ↓] theorem storeWrs_memOk (s : State) (p pos : Nat) (xs : List Wr) (errs : List MemErr) (h : MemOk s.mem) :
    MemOk (s.storeWrs p pos xs errs).mem := storeWrs_memForm _ _ _ _ _ h

end Sys2Proof.Machine

/-! ### The memory under the operations of power -/

namespace Sys2Proof.Machine

@[simp ↓] theorem powerRemoved_memOk (s : State) (ph : Phase) : MemOk (s.powerRemoved ph).mem := memOk_reset

@[simp ↓] theorem pinFiltered_mem (s : State) (pin : Nat) : (s.pinFiltered pin).mem = s.mem := by simp [State.pinFiltered]

@[simp ↓] theorem pinSet_mem (s : State) (pin : Nat) (active : Bool) : (s.pinSet pin active).mem = s.mem := by simp [State.pinSet]

@[simp ↓] theorem tracePower_mem (s t : State) : (s.tracePower t).mem = t.mem := tracePower_keeps s t .memory (by decide)

@[simp ↓] theorem applyFloor_mem (s : State) (cause : Nat) : (s.applyFloor cause).mem = s.mem := applyFloor_keeps s cause .memory (by decide)

@[simp ↓] theorem opModEn_mem (s : State) (us : Nat) : (s.opModEn us).mem = s.mem := by simp [State.opModEn]

@[simp ↓] theorem opModDis_mem (s : State) (us : Nat) : (s.opModDis us).mem = s.mem := by
  simp only [State.opModDis]
  (repeat' split) <;> simp

@[simp ↓] theorem opRegOff_memOk (s : State) (h : MemOk s.mem) : MemOk s.opRegOff.mem := by simp [State.opRegOff, h]

@[simp ↓] theorem opThrot_mem (s : State) (ns : Nat) : (s.opThrot ns).mem = s.mem := by simp [State.opThrot]

@[simp ↓] theorem opUnthrot_mem (s : State) (ns : Nat) : (s.opUnthrot ns).mem = s.mem := by simp [State.opUnthrot]

@[simp ↓] theorem throtDue_mem (s : State) : s.throtDue.mem = s.mem := by
  unfold State.throtDue
  (repeat' split) <;> simp

@[simp ↓] theorem tick_mem (s : State) : s.tick.mem = s.mem := by simp [State.tick]

@[simp ↓] theorem opPinHeld_mem (s : State) (pin : Nat) : (s.opPinHeld pin).mem = s.mem := by simp [State.opPinHeld]

@[simp ↓] theorem freeDrift_mem (s : State) : s.freeDrift.2.mem = s.mem := by simp [State.freeDrift]

@[simp ↓] theorem opPps_mem (s : State) (ns : Nat) : (s.opPps ns).mem = s.mem := by simp [State.opPps]

@[simp ↓] theorem sensed_mem (s : State) (m : PowerIn) : (s.sensed m).mem = s.mem := by simp [State.sensed]

@[simp ↓] theorem traceAct_mem (s : State) (build : W64) : (s.traceAct build).mem = s.mem := by simp [State.traceAct]

@[simp ↓] theorem actDefer_mem (s : State) : s.actDefer.mem = s.mem := by simp [State.actDefer]

@[simp ↓] theorem actResume_mem (s : State) : s.actResume.mem = s.mem := by simp [State.actResume]

@[simp ↓] theorem opPowerEmergency_mem (s : State) (m : PowerIn) (us : Nat) : (s.opPowerEmergency m us).mem = s.mem := by
  simp [State.opPowerEmergency]

@[simp ↓] theorem opPowerClear_mem (s : State) (m : PowerIn) (ms : Nat) : (s.opPowerClear m ms).mem = s.mem := by simp [State.opPowerClear]

@[simp ↓] theorem opSag_mem (s : State) (low : Nat) (m : PowerIn) (us : Nat) : (s.opSag low m us).mem = s.mem := by simp [State.opSag]

@[simp ↓] theorem opBrownOut_memOk (s : State) (volts us : Nat) (h : MemOk s.mem) : MemOk (s.opBrownOut volts us).mem := by
  unfold State.opBrownOut
  (repeat' split) <;> simp [h]

@[simp ↓] theorem opOverVoltage_memOk (s : State) (volts us : Nat) (h : MemOk s.mem) : MemOk (s.opOverVoltage volts us).mem := by
  unfold State.opOverVoltage
  (repeat' split) <;> simp [h]

@[simp ↓] theorem opPhaseFail_mem (s : State) (conv : Bool) (unit volts : Nat) : (s.opPhaseFail conv unit volts).mem = s.mem := by
  simp [State.opPhaseFail]

@[simp ↓] theorem tickCol_mem (s : State) (c : Nat) (m : ColMeasure) : (s.tickCol c m).mem = s.mem := by simp [State.tickCol]

@[simp ↓] theorem contractCol_mem (s : State) (c : Nat) : (s.contractCol c).mem = s.mem := by simp [State.contractCol]

@[simp ↓] theorem opTick_mem (s : State) (cols : List ColMeasure) : (s.opTick cols).mem = s.mem := by
  refine whenBased_mem _ _ fun s => ?_
  dsimp only
  rw [foldl_mem _ _ _ contractCol_mem]
  (repeat' split) <;> simp [foldl_mem]

@[simp ↓] theorem opFast_mem (s : State) (m : PowerIn) : (s.opFast m).mem = s.mem := by
  refine whenBased_mem _ _ fun s => ?_
  dsimp only
  split
  · exact foldl_mem _ _ _ fun _ _ => rfl
  · rfl

@[simp ↓] theorem opThermal_mem (s : State) (tj : List Nat) : (s.opThermal tj).mem = s.mem := by
  refine whenBased_mem _ _ fun s => ?_
  dsimp only
  (repeat' split) <;> simp -implicitDefEqProofs [foldl_mem]

@[simp ↓] theorem opThermalClear_mem (s : State) : s.opThermalClear.mem = s.mem := by simp [State.opThermalClear]

@[simp ↓] theorem opTrip_memOk (s : State) (ms regTemp : Nat) (h : MemOk s.mem) : MemOk (s.opTrip ms regTemp).mem := by
  refine whenUp_memOk _ _ (fun s h => ?_) h
  (repeat' split) <;> simp [h]

@[simp ↓] theorem opCoolant_mem (s : State) (inlet outlet watts : Nat) : (s.opCoolant inlet outlet watts).mem = s.mem := by
  refine whenBased_mem _ _ fun s => ?_
  dsimp only
  (repeat' split) <;> simp

@[simp ↓] theorem opCoolantWarn_mem (s : State) : s.opCoolantWarn.mem = s.mem := by
  refine whenBased_mem _ _ fun s => ?_
  (repeat' split) <;> simp

@[simp ↓] theorem opLife_mem (s : State) (recs : List LifeRec) : (s.opLife recs).mem = s.mem := by
  refine whenBased_mem _ _ fun s => ?_
  dsimp only
  (repeat' split) <;> simp

@[simp ↓] theorem opRemoveRequest_mem (s : State) : s.opRemoveRequest.mem = s.mem := by simp [State.opRemoveRequest]

@[simp ↓] theorem opRemoveCancel_mem (s : State) : s.opRemoveCancel.mem = s.mem := by simp [State.opRemoveCancel]

@[simp ↓] theorem opRemoveReady_mem (s : State) : s.opRemoveReady.mem = s.mem := by simp [State.opRemoveReady]

end Sys2Proof.Machine

/-! ### The memory under the operations of wipes and sweeps -/

namespace Sys2Proof.Machine

@[simp ↓] theorem startInit_memOk (s : State) (r : Nat) (h : MemOk s.mem) : MemOk (s.startInit r).mem := startInit_memForm _ _ h

@[simp ↓] theorem nextGen_memOk (s : State) (r : Nat) (h : MemOk s.mem) : MemOk (s.nextGen r).mem := nextGen_memForm _ _ h

@[simp ↓] theorem wipeRegion_memOk (s : State) (r : Nat) (h : MemOk s.mem) : MemOk (s.wipeRegion r).2.mem := wipeRegion_memForm _ _ h

@[simp ↓] theorem opWipe_memOk (s : State) (p r : Nat) (h : MemOk s.mem) : MemOk (s.opWipe p r).2.mem := by
  simp only [State.opWipe]
  (repeat' split) <;> simp [h]

@[simp ↓] theorem patrol_memOk (s : State) (access i : Nat) (r : Region) (errs : List MemErr) (h : MemOk s.mem) :
    MemOk (s.patrol access i r errs).mem := patrol_memForm _ _ _ _ _ h

@[simp ↓] theorem sweepLines_memOk (s : State) (q : Region) (h : MemOk s.mem) : MemOk (s.sweepLines q).mem := sweepLines_memForm _ _ h

@[simp ↓] theorem opSweepDone_memOk (s : State) (r : Nat) (errs : List MemErr) (h : MemOk s.mem) : MemOk (s.opSweepDone r errs).mem := by
  refine whenUp_memOk _ _ (fun s h => ?_) h
  have hswept : ∀ q f, MemOk ((((s.patrol accSweep r q errs).sweepLines q).updRegion r f).traceRegion r 2).mem := fun q f => by
    rw [traceRegion_mem]
    exact updRegion_memOk _ _ _ (sweepLines_memOk _ _ (patrol_memOk _ _ _ _ _ h))
  have hwaited : ∀ (l : List Nat) (u : State), MemOk u.mem → MemOk (l.foldl (fun s _ => s.nextGen r) u).mem := fun l u hu =>
    memOk_foldl _ _ _ (fun s _ h => nextGen_memOk s r h) hu
  dsimp only
  split
  · exact h
  · split
    · exact hswept _ _
    · split
      · exact hwaited _ _ (hswept _ _)
      · exact hwaited _ _ (hswept _ _)

@[simp ↓] theorem opInitDone_memOk (s : State) (r : Nat) (h : MemOk s.mem) : MemOk (s.opInitDone r).mem := by
  refine whenUp_memOk _ _ (fun s h => ?_) h
  dsimp only
  (repeat' split) <;> simp [h]

@[simp ↓] theorem opScrub_memOk (s : State) (i : Nat) (errs : List MemErr) (h : MemOk s.mem) : MemOk (s.opScrub i errs).mem := by
  refine whenUp_memOk _ _ (fun s h => ?_) h
  dsimp only
  (repeat' split) <;> simp [h]

end Sys2Proof.Machine

/-! ### The memory under the operations of teardown -/

namespace Sys2Proof.Machine

@[simp ↓] theorem resetSlot_mem (s : State) (cl slot : Nat) : (s.resetSlot cl slot).mem = s.mem := by
  unfold State.resetSlot
  (repeat' split) <;> simp

@[simp ↓] theorem resetCluster_mem (s : State) (cl : Nat) : (s.resetCluster cl).mem = s.mem := by simp [State.resetCluster, foldl_mem]

@[simp ↓] theorem dumpTrigger_mem (s : State) (event unit : Nat) (reset : List Nat) : (s.dumpTrigger event unit reset).mem = s.mem := by
  simp [State.dumpTrigger]

@[simp ↓] theorem columnFault_mem (s : State) (c : Nat) : (s.columnFault c).mem = s.mem := by simp [State.columnFault, foldl_mem]

@[simp ↓] theorem takeover_mem (s : State) (c : Nat) : (s.takeover c).mem = s.mem := by simp [State.takeover]

@[simp ↓] theorem resetPositions_mem (s : State) (c : Nat) : (s.resetPositions c).mem = s.mem := foldl_mem _ _ _ fun _ _ => rfl

@[simp ↓] theorem resetClusters_mem (s : State) (c : Nat) : (s.resetClusters c).mem = s.mem := foldl_mem _ _ _ fun _ _ => rfl

@[simp ↓] theorem dropRuns_mem (s : State) (c : Nat) : (s.dropRuns c).mem = s.mem := foldl_mem _ _ _ fun _ _ => rfl

@[simp ↓] theorem resetBase_mem (s : State) (c : Nat) : (s.resetBase c).mem = s.mem := by
  unfold State.resetBase
  dsimp only
  rw [updDev_mem, updSteward_mem, dropRuns_mem, portGone_mem, updCol_mem]

@[simp ↓] theorem resetDies_memOk (s : State) (c : Nat) (h : MemOk s.mem) : MemOk (s.resetDies c).mem := by simp [State.resetDies, h]

@[simp ↓] theorem columnReset_memOk (s : State) (c : Nat) (pass : Bool) (h : MemOk s.mem) : MemOk (s.columnReset c pass).mem := by
  unfold State.columnReset
  have hfail : ∀ (l : List Nat) (u : State), MemOk u.mem → MemOk (l.foldl (fun s k => s.connFail k) u).mem := fun l u hu =>
    memOk_foldl _ _ _ (fun _ _ h => connFail_memOk _ _ h) hu
  dsimp only
  split <;> simp [h, hfail]

@[simp ↓] theorem traceTear_mem (s : State) (p step : Nat) : (s.traceTear p step).mem = s.mem := by simp [State.traceTear]

@[simp ↓] theorem startTear_mem (s : State) (p : Nat) (remove : Bool) : (s.startTear p remove).mem = s.mem := by
  simp [State.startTear, foldl_mem]

@[simp ↓] theorem tearOn_memOk (s : State) (p : Nat) (h : MemOk s.mem) : MemOk (s.tearOn p).mem := by
  have hwipe : ∀ (l : List (Nat × Region)) (u : State), MemOk u.mem → MemOk (l.foldl (fun s e => (s.wipeRegion e.1).2) u).mem := fun l u hu =>
    memOk_foldl _ _ _ (fun s e h => wipeRegion_memOk s e.1 h) hu
  unfold State.tearOn
  dsimp only
  generalize (match (s.part p).tgenAt with | some a => decide (16000000 ≤ s.since a) | none => true) = free
  split
  · split <;> simp -implicitDefEqProofs [foldl_mem, hwipe, h]
  · exact h

@[simp ↓] theorem teardown_memOk (s : State) (p : Nat) (remove : Bool) (h : MemOk s.mem) : MemOk (s.teardown p remove).mem := by
  simp [State.teardown, h]

@[simp ↓] theorem tearClosed_memOk (s : State) (c : Nat) (h : MemOk s.mem) : MemOk (s.tearClosed c).mem := by
  unfold State.tearClosed
  refine memOk_foldl _ _ _ (fun s p h => ?_) h
  split
  · split
    · exact tearOn_memOk _ _ h
    · exact h
  · exact h

@[simp ↓] theorem opPeerTimeout_memOk (s : State) (p : Nat) (h : MemOk s.mem) : MemOk (s.opPeerTimeout p).mem := by
  refine whenUp_memOk _ _ (fun s h => ?_) h
  dsimp only
  (repeat' split) <;> simp [h, foldl_mem]

@[simp ↓] theorem tearClear_memOk (s : State) (p : Nat) (h : MemOk s.mem) : MemOk (s.tearClear p).mem := by
  have hpos : ∀ (l : List Nat) (u : State), MemOk u.mem → MemOk (l.foldl (fun s n => ((s.clearAlloc (coreRegion n)).bookFill n).updPos n fun x =>
      { coreReset x with g := 0, h := 0, keepG := 0, keepH := 0, startG := 0, startH := 0 }) u).mem := fun l u hu =>
    memOk_foldl _ _ _ (fun s n h => by simp [h]) hu
  have hrgn : ∀ (l : List (Nat × Region)) (u : State), MemOk u.mem → MemOk (l.foldl (fun s e => s.clearAlloc e.2) u).mem := fun l u hu =>
    memOk_foldl _ _ _ (fun s n h => by simp [h]) hu
  unfold State.tearClear
  dsimp only
  simp -implicitDefEqProofs [foldl_mem, hrgn, hpos, h]

@[simp ↓] theorem tearFree_memOk (s : State) (p : Nat) (h : MemOk s.mem) : MemOk (s.tearFree p).mem := by
  unfold State.tearFree
  dsimp only
  rw [updPart_mem, foldl_mem _ _ _ fun s i => by simp]
  exact regionMap_memForm _ _ (by rw [traceTear_mem]; exact h)

@[simp ↓] theorem tearDone_memOk (s : State) (p : Nat) (h : MemOk s.mem) : MemOk (s.tearDone p).mem := by
  unfold State.tearDone
  (repeat' split) <;> simp [h]

@[simp ↓] theorem opDrainStuck_mem (s : State) (p : Nat) : (s.opDrainStuck p).mem = s.mem := by
  refine whenUp_mem _ _ fun s => ?_
  dsimp only
  (repeat' split) <;> simp [foldl_mem]

@[simp ↓] theorem opDrainColumn_mem (s : State) (p c : Nat) : (s.opDrainColumn p c).mem = s.mem := by
  refine whenUp_mem _ _ fun s => ?_
  (repeat' split) <;> simp

@[simp ↓] theorem opColumnReset_memOk (s : State) (c : Nat) (pass : Bool) (h : MemOk s.mem) : MemOk (s.opColumnReset c pass).mem := by
  refine whenUp_memOk _ _ (fun s h => ?_) h
  (repeat' split) <;> simp [h]

end Sys2Proof.Machine

/-! ### The memory under the operations of security -/

namespace Sys2Proof.Machine

@[simp ↓] theorem measure_mem (s : State) (kind part seq id : Nat) (digest : Bytes) : (s.measure kind part seq id digest).mem = s.mem := by
  simp [State.measure]

@[simp ↓] theorem writeSec_mem (s : State) (f : SecRec → SecRec) : (s.writeSec f).mem = s.mem := by simp [State.writeSec]

@[simp ↓] theorem writeSeq_mem (s : State) : s.writeSeq.mem = s.mem := by simp [State.writeSeq]

@[simp ↓] theorem rollback_mem (s : State) : s.rollback.mem = s.mem := by
  simp only [State.rollback]
  (repeat' split) <;> simp [foldl_mem]

@[simp ↓] theorem zeroise_memOk (s : State) (h : MemOk s.mem) : MemOk s.zeroise.mem := by
  have htear : ∀ u : State, MemOk u.mem →
      MemOk ((List.range 16).foldl (fun s p => if (s.part p).st = .absent then s else s.teardown p false) u).mem := fun u hu =>
    memOk_foldl _ _ _ (fun s p h => by split <;> simp [h]) hu
  unfold State.zeroise
  dsimp only
  simp -implicitDefEqProofs [foldl_mem, htear, h]

@[simp ↓] theorem alarm_memOk (s : State) (source : Nat) (h : MemOk s.mem) : MemOk (s.alarm source).mem := by
  simp only [State.alarm]
  (repeat' split) <;> simp [h]

@[simp ↓] theorem opDigest_memOk (s : State) (upset : Nat) (h : MemOk s.mem) : MemOk (s.opDigest upset).mem := by
  refine whenBased_memOk _ _ (fun s h => ?_) h
  (repeat' split) <;> simp [h]

end Sys2Proof.Machine

/-! ### The memory under the operations of firmware -/

namespace Sys2Proof.Machine

@[simp ↓] theorem romSequence_mem (s : State) : s.romSequence.mem = s.mem := by
  simp only [State.romSequence]
  (repeat' split) <;> simp

@[simp ↓] theorem romAlarms_memOk (s : State) (h : MemOk s.mem) : MemOk s.romAlarms.mem := by
  rw [show s.romAlarms.mem = s.mem from romAlarms_keeps s .memory (by decide)]
  exact h

@[simp ↓] theorem pinsSampled_mem (s : State) : s.pinsSampled.mem = s.mem := by simp [State.pinsSampled]

@[simp ↓] theorem opPowerUp_memOk (s : State) (rom shares : Nat) (h : MemOk s.mem) : MemOk (s.opPowerUp rom shares).mem := by
  unfold State.opPowerUp
  dsimp only
  split
  · exact h
  · simp -implicitDefEqProofs [foldl_mem, h]

@[simp ↓] theorem opBaseStart_memOk (s : State) (h : MemOk s.mem) : MemOk s.opBaseStart.mem := by
  have hzero : ∀ (rec_ : Bool) (u : State), MemOk u.mem → MemOk (columns.foldl (fun s c => if testBit s.fw.romOk c then
      (s.zeroStores c).updSteward c fun w => { w with stage := if rec_ then 3 else 1, kickAt := s.tm.clk } else s) u).mem := fun rec_ u hu =>
    memOk_foldl _ _ _ (fun s c h => by split <;> simp [h]) hu
  refine whenUp_memOk _ _ (fun s h => ?_) h
  split
  · dsimp only
    split
    · exact h
    · rw [logLead_mem, updXsi_mem, measure_mem, measure_mem]
      exact hzero _ _ h
  · exact h

@[simp ↓] theorem startPassed_mem (s : State) : s.startPassed.mem = s.mem := by simp [State.startPassed]

@[simp ↓] theorem noteSelftest_mem (s : State) (c : Nat) (ok : Bool) : (s.noteSelftest c ok).mem = s.mem := by simp [State.noteSelftest]

@[simp ↓] theorem opSelftest_mem (s : State) (c : Nat) (pass : Bool) : (s.opSelftest c pass).mem = s.mem := by simp [State.opSelftest]

@[simp ↓] theorem warmReset_memOk (s : State) (source : Nat) : MemOk (s.warmReset source).mem := by
  unfold State.warmReset
  dsimp only
  simp -implicitDefEqProofs [foldl_mem, memOk_reset, State.reset]

@[simp ↓] theorem startWarm_memOk (s : State) (source : Nat) (h : MemOk s.mem) : MemOk (s.startWarm source).mem := by
  unfold State.startWarm
  split <;> simp [h]

@[simp ↓] theorem opResetReq_memOk (s : State) (us : Nat) (h : MemOk s.mem) : MemOk (s.opResetReq us).mem := by
  refine whenUp_memOk _ _ (fun s h => ?_) h
  (repeat' split) <;> simp [h]

@[simp ↓] theorem opResetRelease_mem (s : State) : s.opResetRelease.mem = s.mem := by simp [State.opResetRelease]

@[simp ↓] theorem coldReset_memOk (s : State) : MemOk s.coldReset.mem := memOk_reset

@[simp ↓] theorem actFail_memOk (s : State) (cause : Nat) (h : MemOk s.mem) : MemOk (s.actFail cause).mem := by
  unfold State.actFail
  (repeat' split) <;> simp [h]

@[simp ↓] theorem writeRecovery_memOk (s : State) (i : FwInfo) (h : MemOk s.mem) : MemOk (s.writeRecovery i).mem := by
  simp [State.writeRecovery, h]

@[simp ↓] theorem moveLeases_mem (s : State) (ns : Nat) : (s.moveLeases ns).mem = s.mem := by simp [State.moveLeases]

@[simp ↓] theorem opHandover_mem (s : State) (us : Nat) : (s.opHandover us).mem = s.mem := by
  refine whenBased_mem _ _ fun s => ?_
  dsimp only
  (repeat' split) <;> simp [foldl_mem]

@[simp ↓] theorem opHandoverTimeout_memOk (s : State) (h : MemOk s.mem) : MemOk s.opHandoverTimeout.mem := by
  refine whenBased_memOk _ _ (fun s h => ?_) h
  (repeat' split) <;> simp [h]

@[simp ↓] theorem opPointTimeout_memOk (s : State) (h : MemOk s.mem) : MemOk s.opPointTimeout.mem := by
  refine whenBased_memOk _ _ (fun s h => ?_) h
  (repeat' split) <;> simp [h]

@[simp ↓] theorem opProbationEnd_mem (s : State) : s.opProbationEnd.mem = s.mem := by
  refine whenBased_mem _ _ fun s => ?_
  (repeat' split) <;> simp

@[simp ↓] theorem opAttest_memOk (s : State) (h : MemOk s.mem) : MemOk s.opAttest.mem := by simp [State.opAttest, h]

@[simp ↓] theorem opPlog_mem (s : State) : s.opPlog.mem = s.mem := by
  refine whenBased_mem _ _ fun s => ?_
  simp

@[simp ↓] theorem opProbationFail_mem (s : State) : s.opProbationFail.mem = s.mem := by simp [State.opProbationFail]

end Sys2Proof.Machine

/-! ### The memory under the operations of faults -/

namespace Sys2Proof.Machine

@[simp ↓] theorem opWdFire_mem (s : State) (c : Nat) : (s.opWdFire c).mem = s.mem := by simp [State.opWdFire]

@[simp ↓] theorem opTakeover_mem (s : State) (c : Nat) : (s.opTakeover c).mem = s.mem := by simp [State.opTakeover]

@[simp ↓] theorem laneFail_mem (s : State) (cl : Nat) : (s.laneFail cl).mem = s.mem := by simp [State.laneFail]

@[simp ↓] theorem unitHang_mem (s : State) (c u : Nat) : (s.unitHang c u).mem = s.mem := by
  simp only [State.unitHang]
  (repeat' split) <;> simp

@[simp ↓] theorem beat_mem (s : State) (c u v : Nat) : (s.beat c u v).mem = s.mem := by simp [State.beat]

@[simp ↓] theorem opHeartbeat_mem (s : State) (c : Nat) (beats : List (Nat × Nat)) : (s.opHeartbeat c beats).mem = s.mem := by
  simp [State.opHeartbeat, foldl_mem]

@[simp ↓] theorem opLaneTest_mem (s : State) (cl : Nat) (pass : Bool) : (s.opLaneTest cl pass).mem = s.mem := by simp [State.opLaneTest]

@[simp ↓] theorem opDumpDone_memOk (s : State) (unreachable : List Nat) (h : MemOk s.mem) : MemOk (s.opDumpDone unreachable).mem := by
  refine whenUp_memOk _ _ (fun s h => ?_) h
  dsimp only
  (repeat' split) <;> simp [h]

@[simp ↓] theorem opDumpCopy_mem (s : State) : s.opDumpCopy.mem = s.mem := by simp [State.opDumpCopy]

@[simp ↓] theorem opDumpTake_mem (s : State) : s.opDumpTake.mem = s.mem := by simp [State.opDumpTake]

@[simp ↓] theorem opDumpAck_mem (s : State) : s.opDumpAck.mem = s.mem := by simp [State.opDumpAck]

@[simp ↓] theorem resetPort_mem (s : State) (n : Nat) : (s.resetPort n).mem = s.mem := by simp [State.resetPort]

@[simp ↓] theorem opDevReset_memOk (s : State) (domain target : Nat) (h : MemOk s.mem) : MemOk (s.opDevReset domain target).2.mem := by
  unfold State.opDevReset
  (repeat' split) <;> simp [h]

@[simp ↓] theorem startPark_mem (s : State) (p : Nat) : (s.startPark p).mem = s.mem := by simp [State.startPark]

@[simp ↓] theorem parkNow_mem (s : State) (p : Nat) : (s.parkNow p).mem = s.mem := by simp [State.parkNow]

@[simp ↓] theorem opPartCmd_memOk (s : State) (p cmd : Nat) (h : MemOk s.mem) : MemOk (s.opPartCmd p cmd).2.mem := by
  simp only [State.opPartCmd]
  (repeat' split) <;> simp [h]

@[simp ↓] theorem opParked_mem (s : State) (p : Nat) : (s.opParked p).mem = s.mem := by simp [State.opParked]

@[simp ↓] theorem opLease_mem (s : State) (c : Nat) : (s.opLease c).mem = s.mem := by simp [State.opLease]

@[simp ↓] theorem opOrphan_memOk (s : State) (p : Nat) (h : MemOk s.mem) : MemOk (s.opOrphan p).mem := by
  refine whenOp_memOk _ _ (fun s h => ?_) h
  (repeat' split) <;> simp [h]

@[simp ↓] theorem opNoticeFlush_mem (s : State) : s.opNoticeFlush.mem = s.mem := by
  refine whenBased_mem _ _ fun s => ?_
  dsimp only
  (repeat' split) <;> simp [foldl_mem]

@[simp ↓] theorem abortIn_mem (s : State) (c : Nat) (payload : Bytes) : (s.abortIn c payload).mem = s.mem := by simp [State.abortIn]

end Sys2Proof.Machine

/-! ### The memory under the operations of the Caddy -/

namespace Sys2Proof.Machine

@[simp ↓] theorem report_mem (s : State) (n amax top low : Nat) (ovf : Bool) : (s.report n amax top low ovf).mem = s.mem := by
  simp [State.report]

@[simp ↓] theorem reportLost_mem (s : State) (n : Nat) : (s.reportLost n).mem = s.mem := by simp [State.reportLost]

end Sys2Proof.Machine

/-! ### The memory under the operations of outputs -/

namespace Sys2Proof.Machine

@[simp ↓] theorem logPos_mem (s : State) (p pos event : Nat) (payload : W64) : (s.logPos p pos event payload).mem = s.mem := by
  simp [State.logPos]

@[simp ↓] theorem rangeOvf_mem (s : State) (p pos : Nat) (w : W64) : (s.rangeOvf p pos w).mem = s.mem := by simp [State.rangeOvf]

theorem outRun_foldl_mem {α : Type} (l : List α) (g : OutRun → α → OutRun) (r : OutRun) (h : ∀ r a, (g r a).s.mem = r.s.mem) :
    (l.foldl g r).s.mem = r.s.mem := by
  induction l generalizing r with
  | nil => rfl
  | cons a l ih => rw [List.foldl_cons, ih, h]

theorem block_foldl_mem {α : Type} (l : List α) (g : Block × OutRun → α → Block × OutRun) (x : Block × OutRun)
    (h : ∀ x a, (g x a).2.s.mem = x.2.s.mem) : (l.foldl g x).2.s.mem = x.2.s.mem := by
  induction l generalizing x with
  | nil => rfl
  | cons a l ih => rw [List.foldl_cons, ih, h]

@[simp ↓] theorem ite_outRun_s (c : Prop) [Decidable c] (r r' : OutRun) :
    (if c then r else r').s = if c then r.s else r'.s := apply_ite OutRun.s c r r'

@[simp ↓] theorem outRun_start_mem (s : State) : (OutRun.start s).s.mem = s.mem := rfl

@[simp ↓] theorem outRun_raise_mem (r : OutRun) (c : OutCtx) (v : Ovf) : (r.raise c v).s.mem = r.s.mem := rfl

@[simp ↓] theorem outRun_put_mem (r : OutRun) (x : Wr) : (r.put x).s.mem = r.s.mem := rfl

@[simp ↓] theorem outRun_see_mem (r : OutRun) (y : Elem) : (r.see y).s.mem = r.s.mem := by
  unfold OutRun.see
  (repeat' split) <;> rfl

@[simp ↓] theorem outRun_closeBlock_mem (r : OutRun) (c : OutCtx) (b : Block) (x : Int) : (r.closeBlock c b x).s.mem = r.s.mem := by
  simp [OutRun.closeBlock]

@[simp ↓] theorem outRun_blockCode_mem (r : OutRun) (c : OutCtx) (b : Block) (h : Held) (n : Narrowed) (x : Int) :
    (r.blockCode c b h n x).2.s.mem = r.s.mem := by
  simp only [OutRun.blockCode]
  (repeat' split) <;> simp

@[simp ↓] theorem outRun_ownBlock_mem (r : OutRun) (c : OutCtx) (b : Block) : (r.ownBlock c b).s.mem = r.s.mem := by
  exact (outRun_closeBlock_mem _ _ _ _).trans (block_foldl_mem _ _ _ fun _ _ => outRun_blockCode_mem _ _ _ _ _ _)

@[simp ↓] theorem outRun_write_mem (r : OutRun) (c : OutCtx) (vec e : Nat) (h : Held) : (r.write c vec e h).s.mem = r.s.mem := by
  simp only [OutRun.write]
  (repeat' split) <;> simp

@[simp ↓] theorem outRun_elem_mem (r : OutRun) (c : OutCtx) (seq vec e row col idx : Nat) (val : Elem) :
    (r.elem c seq vec e row col idx val).s.mem = r.s.mem := by
  simp only [OutRun.elem]
  (repeat' split) <;> simp

@[simp ↓] theorem outRun_topClose_mem (r : OutRun) (c : OutCtx) (rows : Nat) : (r.topClose c rows).s.mem = r.s.mem := by
  unfold OutRun.topClose
  split
  · rfl
  · refine outRun_foldl_mem _ _ _ fun r i => ?_
    split <;> simp

@[simp ↓] theorem outRun_upset_mem (r : OutRun) (a : Nat) : (r.upset a).s.mem = r.s.mem := by
  unfold OutRun.upset
  split <;> rfl

@[simp ↓] theorem outRun_upsets_mem (r : OutRun) (q : Pos) (cx : OutCtx) (us : List ((Nat × Nat) × Nat)) :
    (r.upsets q cx us).s.mem = r.s.mem := by
  unfold OutRun.upsets
  refine outRun_foldl_mem _ _ _ fun r u => ?_
  split <;> simp

@[simp ↓] theorem tileElem_mem (cx : OutCtx) (ws : List W64) (sts : List Acc) (r : OutRun) (o : Nat) :
    (r.tileElem cx ws sts o).s.mem = r.s.mem := by
  unfold OutRun.tileElem
  simp

@[simp ↓] theorem loadPrm_mem (s : State) (p pos : Nat) (ws : List W64) (c : Ctl) (errs : List MemErr) :
    (s.loadPrm p pos ws c errs).2.2.2.mem = s.mem := by
  simp [State.loadPrm]

@[simp ↓] theorem done_memOk (r : OutRun) (c : OutCtx) (errs : List MemErr) (h : MemOk r.s.mem) : MemOk (r.done c errs).mem := by
  unfold OutRun.done
  (repeat' split) <;> simp [h]

end Sys2Proof.Machine

/-! ### The memory under the operations of streams -/

namespace Sys2Proof.Machine

@[simp ↓] theorem fetchTrap_mem (s : State) (p addr : Nat) : (s.fetchTrap p addr).mem = s.mem := by simp [State.fetchTrap]

@[simp ↓] theorem accessFault_mem (s : State) (p addr : Nat) : (s.accessFault p addr).mem = s.mem := by simp [State.accessFault]

@[simp ↓] theorem fetchEntry_mem (s : State) (p sid i : Nat) (errs : List MemErr) : (s.fetchEntry p sid i errs).2.mem = s.mem := by
  simp only [State.fetchEntry]
  (repeat' split) <;> simp

@[simp ↓] theorem seekEntry_mem (s : State) (p sid n : Nat) (lidx : Option Nat) (errs : List MemErr) (f i : Nat) :
    (s.seekEntry p sid n lidx errs f i).2.mem = s.mem := by
  induction f generalizing s i with
  | zero => rfl
  | succ f ih =>
    unfold State.seekEntry
    dsimp only
    split
    · simp
    · split <;> simp [ih]

@[simp ↓] theorem nextEntry_mem (s : State) (p sid : Nat) (errs : List MemErr) : (s.nextEntry p sid errs).2.mem = s.mem := by
  unfold State.nextEntry
  dsimp only
  split <;> simp

/-- What an entry does to memory is all that its issue does to it. -/
theorem issue_memOk (s : State) (p sid : Nat) (kind : Nat → Bool) (errs : List MemErr) (also : State → Nat → List W64 → Bool)
    (f : State → Nat → List W64 → State) (hf : ∀ s i ws, MemOk s.mem → MemOk (f s i ws).mem) (h : MemOk s.mem) :
    MemOk (s.issue p sid kind errs also f).mem := by
  have hnext := nextEntry_mem s p sid errs
  unfold State.issue
  dsimp only
  split
  · exact h
  · split
    · rw [hnext]; exact h
    · split
      · exact hf _ _ _ (by rw [updPart_mem, hnext]; exact h)
      · exact h

@[simp ↓] theorem issue_mem (s : State) (p sid : Nat) (kind : Nat → Bool) (errs : List MemErr) (also : State → Nat → List W64 → Bool)
    (f : State → Nat → List W64 → State) (hf : ∀ s i ws, (f s i ws).mem = s.mem) : (s.issue p sid kind errs also f).mem = s.mem := by
  unfold State.issue
  dsimp only
  (repeat' split) <;> simp [hf]

@[simp ↓] theorem complete_mem (s : State) (p sid step : Nat) (ws : List W64) : (s.complete p sid step ws).mem = s.mem := by
  simp [State.complete]

@[simp ↓] theorem opWait_mem (s : State) (p sid : Nat) (errs : List MemErr) : (s.opWait p sid errs).mem = s.mem := by simp [State.opWait]

@[simp ↓] theorem opLayer_mem (s : State) (p sid : Nat) (errs : List MemErr) : (s.opLayer p sid errs).mem = s.mem :=
  issue_mem _ _ _ _ _ _ _ fun _ _ _ => rfl

@[simp ↓] theorem opReserve_mem (s : State) (p sid : Nat) (errs : List MemErr) : (s.opReserve p sid errs).mem = s.mem := by
  simp [State.opReserve]

@[simp ↓] theorem opStepEnd_mem (s : State) (p sid : Nat) (errs : List MemErr) : (s.opStepEnd p sid errs).mem = s.mem :=
  issue_mem _ _ _ _ _ _ _ fun _ _ _ => rfl

@[simp ↓] theorem noteTimeout_mem (s : State) (p sid : Nat) : (s.noteTimeout p sid).mem = s.mem := by simp [State.noteTimeout]

@[simp ↓] theorem opTokenTimeout_mem (s : State) (p sid : Nat) (held : State → Nat → List W64 → Bool) (errs : List MemErr) :
    (s.opTokenTimeout p sid held errs).mem = s.mem := by
  refine whenOp_mem _ _ fun s => ?_
  dsimp only
  (repeat' split) <;> simp

@[simp ↓] theorem layerReport_mem (s : State) (p pos : Nat) (c : Ctl) (lidx amax : Nat) (ovf : Bool) :
    (s.layerReport p pos c lidx amax ovf).mem = s.mem := by
  unfold State.layerReport
  (repeat' split) <;> simp

@[simp ↓] theorem layerAccept_mem (s : State) (p : Nat) (l : Layer) : (s.layerAccept p l).mem = s.mem := by
  unfold State.layerAccept
  dsimp only
  rw [updPart_mem, foldl_mem _ _ _ fun s (x : LayerStream) => updPos_mem s x.stream _]
  split <;> simp

@[simp ↓] theorem layerReplay_mem (s : State) (p : Nat) (l : Layer) (up : Bool) : (s.layerReplay p l up).mem = s.mem := by
  unfold State.layerReplay
  dsimp only
  rw [updPart_mem, foldl_mem _ _ _ fun s (x : LayerStream) => updPos_mem s x.stream _]
  simp

@[simp ↓] theorem opLayerClose_mem (s : State) (p lidx : Nat) : (s.opLayerClose p lidx).mem = s.mem := by
  refine whenOp_mem _ _ fun s => ?_
  (repeat' split) <;> simp

@[simp ↓] theorem opLayerReplay_mem (s : State) (p lidx : Nat) : (s.opLayerReplay p lidx).mem = s.mem := by
  refine whenOp_mem _ _ fun s => ?_
  (repeat' split) <;> simp

end Sys2Proof.Machine

/-! ### The memory under the operations of tiles -/

namespace Sys2Proof.Machine

@[simp ↓] theorem tileLoad_mem (s : State) (p pos : Nat) (ws : List W64) (errs : List MemErr) : (s.tileLoad p pos ws errs).2.2.mem = s.mem := by
  simp [State.tileLoad]

@[simp ↓] theorem logTimes_mem (s : State) (p pos event n : Nat) : (s.logTimes p pos event n).mem = s.mem := by simp [State.logTimes, foldl_mem]

@[simp ↓] theorem tileLost_mem (s : State) (p pos i : Nat) (ws : List W64) (anchor : Int) (l : Loss) (tile : Tile) :
    (s.tileLost p pos i ws anchor l tile).mem = s.mem := by simp [State.tileLost]

@[simp ↓] theorem tileRan_mem (s : State) (p pos : Nat) (ws : List W64) (sa : Bool) (t : TileIn) (tile : Tile) (c ready now : Nat)
    (regs : Pos → Pos)
    (upset : List Nat) :
    (s.tileRan p pos ws sa t tile c ready now regs upset).mem = s.mem := by simp [State.tileRan]

@[simp ↓] theorem tileSaLost_mem (s : State) (p pos i : Nat) (ws : List W64) (a : Int) (loss : Loss) (tile : Tile) (c ready now : Nat)
    (regs : Pos → Pos) :
    (s.tileSaLost p pos i ws a loss tile c ready now regs).mem = s.mem := by simp [State.tileSaLost]

@[simp ↓] theorem runTile_mem (s : State) (p pos i step : Nat) (ws : List W64) (anchor : Option Int) (ready : Nat) (errs : List MemErr)
    (upset : List Nat) :
    (s.runTile p pos i step ws anchor ready errs upset).mem = s.mem := by
  simp only [State.runTile]
  (repeat' split) <;> simp

@[simp ↓] theorem opTile_mem (s : State) (p pos : Nat) (errs : List MemErr) (upset : List Nat) : (s.opTile p pos errs upset).mem = s.mem := by
  simp [State.opTile]

@[simp ↓] theorem opLaReplay_mem (s : State) (p pos : Nat) (errs : List MemErr) (upset : List Nat) :
    (s.opLaReplay p pos errs upset).mem = s.mem := by
  refine whenOp_mem _ _ fun s => ?_
  (repeat' split) <;> simp

@[simp ↓] theorem tellSlot_mem (s : State) (p pos : Nat) (c : Ctl) (lidx amax top low : Nat) (ovf : Bool) :
    (s.tellSlot p pos c lidx amax top low ovf).mem = s.mem := by simp [State.tellSlot]

@[simp ↓] theorem settleOwed_mem (s : State) (cx : OutCtx) (run : OutRun) (o : Owed) : (s.settleOwed cx run o).mem = s.mem := by
  simp [State.settleOwed]

@[simp ↓] theorem entryEnd_mem (s : State) (cx : OutCtx) (run : OutRun) (amax top low : Nat) (ws : List W64) :
    (s.entryEnd cx run amax top low ws).mem = s.mem := by simp [State.entryEnd, foldl_mem]

@[simp ↓] theorem drainTile_memOk (s : State) (p pos : Nat) (t : Tile) (errs : List MemErr) (upset : List Nat) (h : MemOk s.mem) :
    MemOk (s.drainTile p pos t errs upset).mem := by
  unfold State.drainTile
  have hrun : ∀ (cx : OutCtx) (sts : List Acc) (l : List Nat) (u : State),
      (l.foldl (OutRun.tileElem cx t.words sts) (OutRun.start u)).s.mem = u.mem := fun cx sts l u =>
    outRun_foldl_mem _ _ _ fun r o => tileElem_mem cx t.words sts r o
  simp only [ite_mem, updCluster_mem, ite_self]
  split
  · simp [h]
  · rw [entryEnd_mem]
    exact done_memOk _ _ _ (by simp [hrun, h])

@[simp ↓] theorem opDrain_memOk (s : State) (p pos : Nat) (errs : List MemErr) (upset : List Nat) (h : MemOk s.mem) :
    MemOk (s.opDrain p pos errs upset).mem := by
  refine whenOp_memOk _ _ (fun s h => ?_) h
  (repeat' split) <;> simp [h]

@[simp ↓] theorem opConv_memOk (s : State) (p pos : Nat) (errs : List MemErr) (upset : List Nat) (h : MemOk s.mem) :
    MemOk (s.opConv p pos errs upset).mem := by
  unfold State.opConv
  refine issue_memOk _ _ _ _ _ _ _ (fun s i ws h => ?_) h
  simp only [ite_mem, updCluster_mem, ite_self]
  rw [entryEnd_mem]
  exact done_memOk _ _ _ (by simp [outRun_foldl_mem, h])

@[simp ↓] theorem vecLoad_mem (s : State) (p pos : Nat) (ws : List W64) (op : VecOp) (errs : List MemErr) :
    (s.vecLoad p pos ws op errs).2.mem = s.mem := by simp [State.vecLoad]

@[simp ↓] theorem runVec_memOk (s : State) (p pos : Nat) (ws : List W64) (op : VecOp) (errs : List MemErr) (h : MemOk s.mem) :
    MemOk (s.runVec p pos ws op errs).mem := by simp [State.runVec, h]

@[simp ↓] theorem noteHeld_mem (s : State) (p pos : Nat) : (s.noteHeld p pos).mem = s.mem := by simp [State.noteHeld]

@[simp ↓] theorem opVec_memOk (s : State) (p pos : Nat) (errs : List MemErr) (h : MemOk s.mem) : MemOk (s.opVec p pos errs).mem := by
  unfold State.opVec
  split
  · simp [h]
  · refine issue_memOk _ _ _ _ _ _ _ (fun s i ws h => ?_) h
    split
    · exact runVec_memOk _ _ _ _ _ _ h
    · exact h

@[simp ↓] theorem opMerge_memOk (s : State) (p pos : Nat) (errs : List MemErr) (h : MemOk s.mem) : MemOk (s.opMerge p pos errs).mem := by
  refine issue_memOk _ _ _ _ _ _ _ (fun s i ws h => ?_) h
  simp [h]

end Sys2Proof.Machine

/-! ### The memory under the operations of the Strainer -/

namespace Sys2Proof.Machine

@[simp ↓] theorem sendVerdict_mem (s : State) (c : Nat) (payload : Bytes) : (s.sendVerdict c payload).mem = s.mem := by simp [State.sendVerdict]

@[simp ↓] theorem sendOrder_mem (s : State) (p : Nat) (cs : List Nat) (kind step att flags rseq : Nat) :
    (s.sendOrder p cs kind step att flags rseq).mem = s.mem := by simp [State.sendOrder, foldl_mem]

@[simp ↓] theorem opCheckDone_mem (s : State) (cl : Nat) (lane : Bool) : (s.opCheckDone cl lane).mem = s.mem := by
  refine whenOp_mem _ _ fun s => ?_
  (repeat' split) <;> simp

@[simp ↓] theorem applyOrder_mem (s : State) (p rseq n att : Nat) (handover : Bool) : (s.applyOrder p rseq n att handover).mem = s.mem := by
  simp [State.applyOrder]

@[simp ↓] theorem dropVerdict_mem (s : State) (p : Nat) : (s.dropVerdict p).mem = s.mem := by simp [State.dropVerdict]

@[simp ↓] theorem rootRequest_mem (s : State) (p n att : Nat) (exhausted : Bool) : (s.rootRequest p n att exhausted).mem = s.mem := by
  simp [State.rootRequest]

@[simp ↓] theorem request_mem (s : State) (p n pos : Nat) (exhausted : Bool) : (s.request p n pos exhausted).mem = s.mem := by
  simp only [State.request]
  (repeat' split) <;> simp

@[simp ↓] theorem snapSlots_memOk (s : State) (p : Nat) (h : MemOk s.mem) : MemOk (s.snapSlots p).mem := by
  unfold State.snapSlots
  dsimp only
  split
  · exact h
  · refine memOk_foldl _ _ _ (fun s e h => ?_) h
    cases hw : s.writePart p _ _ _ [] with
    | none => exact h
    | some t => exact writePart_memForm _ _ _ _ _ _ _ hw h

@[simp ↓] theorem enterHandover_mem (s : State) (p event : Nat) : (s.enterHandover p event).mem = s.mem := by simp [State.enterHandover]

@[simp ↓] theorem boundaryParts_mem (s : State) (p : Nat) : (s.boundaryParts p).mem = s.mem := boundaryParts_keeps _ _  .memory (by decide)

@[simp ↓] theorem commitStep_memOk (s : State) (p n flags : Nat) (h : MemOk s.mem) : MemOk (s.commitStep p n flags).mem := by
  have hsnap : ∀ u : State, u.mem = s.mem → MemOk (u.snapSlots p).mem := fun u hu => snapSlots_memOk u p (by rw [hu]; exact h)
  unfold State.commitStep
  dsimp only
  (repeat' split) <;> simp -implicitDefEqProofs [foldl_mem, hsnap]

@[simp ↓] theorem treeVote_memOk (s : State) (p n : Nat) (h : MemOk s.mem) : MemOk (s.treeVote p n).mem := by
  simp only [State.treeVote]
  (repeat' split) <;> simp [h]

@[simp ↓] theorem opVerdict_memOk (s : State) (p : Nat) (h : MemOk s.mem) : MemOk (s.opVerdict p).mem := by
  refine whenOp_memOk _ _ (fun s h => ?_) h
  dsimp only
  (repeat' split) <;> simp [h]

@[simp ↓] theorem opCarrier_memOk (s : State) (p : Nat) (h : MemOk s.mem) : MemOk (s.opCarrier p).mem := by
  refine whenOp_memOk _ _ (fun s h => ?_) h
  dsimp only
  (repeat' split) <;> simp [h]

@[simp ↓] theorem copySlot_memOk (s : State) (p pos b : Nat) (h : MemOk s.mem) : MemOk (s.copySlot p pos b).mem :=
  copySlot_memForm _ _ _ _ h

@[simp ↓] theorem noteAction_mem (s : State) (pos action : Nat) : (s.noteAction pos action).mem = s.mem := by simp [State.noteAction]

@[simp ↓] theorem remap_memOk (s : State) (p pos : Nat) (h : MemOk s.mem) : MemOk (s.remap p pos).2.mem := by
  simp only [State.remap]
  (repeat' split) <;> simp [h]

@[simp ↓] theorem marginStep_mem (s : State) (p pos : Nat) : (s.marginStep p pos).mem = s.mem := by simp [State.marginStep]

@[simp ↓] theorem charge_memOk (s : State) (p : Nat) (stepped : List Nat) (pos : Nat) (h : MemOk s.mem) :
    MemOk (s.charge p stepped pos).2.2.mem := by
  unfold State.charge
  dsimp only
  split
  · split <;> simp [h]
  · split
    · simp [h]
    · exact remap_memOk _ _ _ h

@[simp ↓] theorem escalate_memOk (s : State) (p r : Nat) (h : MemOk s.mem) : MemOk (s.escalate p r).2.mem := by
  unfold State.escalate
  dsimp only
  rw [updStn_mem]
  exact memOk_foldlTriple _ _ _ (fun a n h => charge_memOk a.2.2 p a.2.1 n h) h

@[simp ↓] theorem applyResume_mem (s : State) (p : Nat) : (s.applyResume p).mem = s.mem := by
  unfold State.applyResume
  simp -implicitDefEqProofs [foldl_mem]

@[simp ↓] theorem opQuiesced_memOk (s : State) (p : Nat) (h : MemOk s.mem) : MemOk (s.opQuiesced p).mem := by
  refine whenOp_memOk _ _ (fun s h => ?_) h
  dsimp only
  (repeat' split) <;> simp [h]

@[simp ↓] theorem verdictIn_memOk (s : State) (c : Nat) (b : Bytes) (h : MemOk s.mem) : MemOk (s.verdictIn c b).mem := by
  simp only [State.verdictIn]
  (repeat' split) <;> simp [h]

@[simp ↓] theorem opBoundary_mem (s : State) (p : Nat) : (s.opBoundary p).mem = s.mem := by simp [State.opBoundary]

end Sys2Proof.Machine

/-! ### The memory under the operations of schedule loads and rounds -/

namespace Sys2Proof.Machine

@[simp ↓] theorem fetchBytes_mem (s : State) (p : Nat) (errs : List MemErr) (addr n : Nat) : (s.fetchBytes p errs addr n).2.mem = s.mem := by
  unfold State.fetchBytes
  dsimp only
  refine (foldr2_mem _ _ _ fun a i => ?_).trans rfl
  (repeat' split) <;> simp

@[simp ↓] theorem chargePools_mem (s : State) (p sid : Nat) (ws : List W64) : (s.chargePools p sid ws).mem = s.mem := by
  simp only [State.chargePools]
  (repeat' split) <;> simp

@[simp ↓] theorem traceChecks_mem (s : State) (p cause sid : Nat) : (s.traceChecks p cause sid).mem = s.mem := by
  simp [State.traceChecks, foldl_mem]

@[simp ↓] theorem rejectLoad_mem (s : State) (p : Nat) (r : Reject) : (s.rejectLoad p r).mem = s.mem := by simp [State.rejectLoad]

@[simp ↓] theorem admitImage_mem (s : State) (p addr : Nat) (im : Image) : (s.admitImage p addr im).mem = s.mem :=
  admitImage_keeps _ _ _ _  .memory (by decide)

theorem fetchStream_mem {p addr : Nat} {errs : List MemErr} {t : Bytes} (a : StreamsRead × State) (i : Nat) :
    (fetchStream p addr errs t a i).2.mem = a.2.mem := by
  unfold fetchStream
  dsimp only
  (repeat' split) <;> simp

theorem schRead_mem (p addr : Nat) (h t : Bytes) (a : StreamsRead × State) : (schRead p addr h t a).2.mem = a.2.mem := by
  unfold schRead State.judgeImage
  (repeat' split) <;> simp

@[simp ↓] theorem opLoad_mem (s : State) (p addr : Nat) (errs : List MemErr) : (s.opLoad p addr errs).2.mem = s.mem := by
  have hreject : ∀ (u : State) (b : Bool) (a : Nat) (r : Reject), u.mem = s.mem →
      ((if b then u.fetchTrap p a else u).rejectLoad p r).mem = s.mem := fun u b a r hu => by split <;> simp [hu]
  have hread : ∀ (u : State) (a n : Nat), u.mem = s.mem → (u.fetchBytes p errs a n).2.mem = s.mem := fun u a n hu => by simp [hu]
  unfold State.opLoad
  dsimp only
  split
  · rfl
  · split
    · simp
    · split
      · exact hreject _ _ _ _ (hread _ _ _ rfl)
      · split
        · simp
        · split
          · simp
          · split
            · simp
            · split
              · exact hreject _ _ _ _ (hread _ _ _ (hread _ _ _ rfl))
              · split
                · simp
                · refine (schRead_mem p addr _ _ _).trans ((foldr2_mem _ _ _ fetchStream_mem).trans ?_)
                  simp

@[simp ↓] theorem passSlip_mem (s : State) (p : Nat) (but : Option Nat) (payload : Bytes) : (s.passSlip p but payload).mem = s.mem := by
  simp [State.passSlip, foldl_mem]

@[simp ↓] theorem sendSlip_mem (s : State) (p late : Nat) (h : Sched) : (s.sendSlip p late h).mem = s.mem := by simp [State.sendSlip]

@[simp ↓] theorem overrun_mem (s : State) (p : Nat) (h : Sched) : (s.overrun p h).mem = s.mem := by simp [State.overrun]

@[simp ↓] theorem servePools_mem (s : State) (p : Nat) (h : Sched) : (s.servePools p h).mem = s.mem := by simp [State.servePools]

@[simp ↓] theorem opRound_mem (s : State) (p : Nat) : (s.opRound p).mem = s.mem := by
  refine whenOp_mem _ _ fun s => ?_
  dsimp only
  (repeat' split) <;> simp

@[simp ↓] theorem slipIn_mem (s : State) (c : Nat) (b : Bytes) : (s.slipIn c b).mem = s.mem := by simp [State.slipIn]

end Sys2Proof.Machine

/-! ### The memory under the operations of collectives -/

namespace Sys2Proof.Machine

@[simp ↓] theorem collNote_mem (s : State) (c : Nat) (w : W64) (f : ColRegs → ColRegs) : (s.collNote c w f).mem = s.mem := by
  simp [State.collNote]

@[simp ↓] theorem collLimits_mem (s : State) (p c n : Nat) : (s.collLimits p c n).mem = s.mem := by simp [State.collLimits, foldl_mem]

@[simp ↓] theorem collBadImages_mem (s : State) (p c n : Nat) : (s.collBadImages p c n).mem = s.mem := by simp [State.collBadImages, foldl_mem]

@[simp ↓] theorem partGrans_mem (s : State) (p : Nat) (gs : List Nat) (errs : List MemErr) : (s.partGrans p gs errs).2.mem = s.mem := by
  unfold State.partGrans
  refine foldr2_mem _ _ _ fun a g => ?_
  dsimp only
  (repeat' split) <;> simp

@[simp ↓] theorem putFrom_memOk (p : Nat) (gens : List (Nat × Nat)) (errs : List MemErr) (a0 : Nat) (poison : Nat → Bool) (f : Nat) (s : State)
    (a : Nat) (bs : Bytes) (h : MemOk s.mem) : MemOk (State.putFrom p gens errs a0 poison f s a bs).mem := by
  induction f generalizing s a bs with
  | zero => exact h
  | succ f ih =>
    unfold State.putFrom
    split
    · refine ih _ _ _ ?_
      split
      · rw [foldl_mem _ _ _ fun s (e : Nat × Bytes) => dropStale_mem s _ e.1]
        exact h
      · exact writeAlloc_memOk _ _ _ _ _ _ _ _ h
    · exact h

@[simp ↓] theorem putRun_memOk (s : State) (p : Nat) (gens : List (Nat × Nat)) (errs : List MemErr) (a : Nat) (bs : Bytes) (poison : Nat → Bool)
    (h : MemOk s.mem) : MemOk (s.putRun p gens errs a bs poison).mem := putFrom_memOk _ _ _ _ _ _ _ _ _ h

@[simp ↓] theorem readMarked_mem (s : State) (p a n : Nat) (errs : List MemErr) : (s.readMarked p a n errs).2.mem = s.mem := by
  simp [State.readMarked]

@[simp ↓] theorem putMarked_memOk (s : State) (p : Nat) (gens : List (Nat × Nat)) (errs : List MemErr) (a : Nat) (l : Marked) (h : MemOk s.mem) :
    MemOk (s.putMarked p gens errs a l).mem := by simp [State.putMarked, h]

@[simp ↓] theorem segStates_mem (s : State) (p col : Nat) (k : CollCtx) (form a rel seg : Nat) (errs : List MemErr) :
    (s.segStates p col k form a rel seg errs).2.mem = s.mem := by
  simp only [State.segStates]
  (repeat' split) <;> simp

@[simp ↓] theorem ownStates_mem (s : State) (p col : Nat) (k : CollCtx) (step seg : Nat) (errs : List MemErr) :
    (s.ownStates p col k step seg errs).2.mem = s.mem := by
  unfold State.ownStates
  (repeat' split) <;> simp

@[simp ↓] theorem sendRun_mem (s : State) (c : Nat) (pkts : List Pkt) : (s.sendRun c pkts).mem = s.mem := by simp [State.sendRun, foldl_mem]

@[simp ↓] theorem encodeSpan_mem (s : State) (k : CollCtx) (step lo hi contrib attempt : Nat) (prov : Bool)
    {get : State → Nat → Option (List Acc) × State} (hget : ∀ s i, (get s i).2.mem = s.mem) :
    (s.encodeSpan k step lo hi contrib attempt prov get).2.mem = s.mem := by
  unfold State.encodeSpan
  refine foldr2_mem _ _ _ fun a i => ?_
  dsimp only
  (repeat' split) <;> simp [hget]

@[simp ↓] theorem readPieces_mem (s : State) (p base : Nat) (ps : List Machine.Piece) (errs : List MemErr) :
    (s.readPieces p base ps errs).2.mem = s.mem := by
  unfold State.readPieces
  refine foldr2_mem _ _ _ fun a x => ?_
  split <;> simp

@[simp ↓] theorem putPieces_memOk (s : State) (p : Nat) (gens : List (Nat × Nat)) (errs : List MemErr) (base : Nat) (ps : List Machine.Piece)
    (l : Marked) (h : MemOk s.mem) : MemOk (s.putPieces p gens errs base ps l).mem := by
  unfold State.putPieces
  exact memOk_foldlPair _ _ _ (fun a x h => putMarked_memOk _ _ _ _ _ _ h) h

@[simp ↓] theorem sendGrans_mem (s : State) (p c : Nat) (k : CollCtx) (gs : List Gran) : (s.sendGrans p c k gs).mem = s.mem := by
  simp [State.sendGrans]

@[simp ↓] theorem collSend_mem (s : State) (p col : Nat) (k : CollCtx) (ws : List W64) (errs : List MemErr) :
    (s.collSend p col k ws errs).2.mem = s.mem := by
  unfold State.collSend
  dsimp only
  split
  · rfl
  · split
    · generalize hrd : State.encodeSpan _ _ _ _ _ _ _ _ _ = rd
      have hmem : rd.2.mem = s.mem := by
        rw [← hrd]
        simp
      split <;> simp [hmem]
    · split
      · split <;> simp
      · split <;> simp

@[simp ↓] theorem sendVotes_mem (s : State) (p : Nat) (k : CollCtx) : (s.sendVotes p k).mem = s.mem := by simp [State.sendVotes, foldl_mem]

@[simp ↓] theorem putCodes_memOk (s : State) (p : Nat) (k : CollCtx) (run : CollRun) (errs : List MemErr) (rel seg : Nat) (sts : List Sys2Proof.Acc)
    (h : MemOk s.mem) :
    MemOk (s.putCodes p k run errs rel seg sts).mem := by
  simp only [State.putCodes]
  (repeat' split) <;> simp [h]

@[simp ↓] theorem putCompact_memOk (s : State) (p : Nat) (k : CollCtx) (run : CollRun) (errs : List MemErr) (rel : Nat) (sts : List Acc)
    (h : MemOk s.mem) : MemOk (s.putCompact p k run errs rel sts).2.mem := by
  unfold State.putCompact
  dsimp only
  split
  · exact h
  · exact memOk_foldl _ _ _ (fun s i h => putRun_memOk _ _ _ _ _ _ _ h) (putRun_memOk _ _ _ _ _ _ _ h)

@[simp ↓] theorem spillFull_mem (s : State) (p : Nat) (k : CollCtx) (run : CollRun) (rel : Nat) : (s.spillFull p k run rel).mem = s.mem := by
  simp [State.spillFull]

@[simp ↓] theorem finishSeg_memOk (s : State) (p : Nat) (k : CollCtx) (run : CollRun) (errs : List MemErr) (rel : Nat) (h : MemOk s.mem) :
    MemOk (s.finishSeg p k run errs rel).2.mem := by
  simp only [State.finishSeg]
  (repeat' split) <;> simp [h]

@[simp ↓] theorem finishCopy_memOk (s : State) (p : Nat) (run : CollRun) (errs : List MemErr) (x : Regroup) (h : MemOk s.mem) :
    MemOk (s.finishCopy p run errs x).2.mem := by
  simp only [State.finishCopy]
  (repeat' split) <;> simp [h]

@[simp ↓] theorem finishGrans_memOk (s : State) (p : Nat) (k : CollCtx) (run : CollRun) (errs : List MemErr) (h : MemOk s.mem) :
    MemOk (s.finishGrans p k run errs).2.mem := by
  unfold State.finishGrans
  refine memOk_foldlPair _ _ _ (fun a e h => ?_) h
  dsimp only
  split
  · exact h
  · split
    · rw [accessFault_mem]
      split <;> simp [h]
    · rw [foldl_mem _ _ _ fun s _ => logP_mem s _ _ _ _ _]
      refine putRun_memOk _ _ _ _ _ _ _ ?_
      split <;> simp [h]

@[simp ↓] theorem runDone_mem (s : State) (p : Nat) (k : CollCtx) (run : CollRun) (res : Nat) (writes : Bool) :
    (s.runDone p k run res writes).mem = s.mem := by simp [State.runDone]

@[simp ↓] theorem collFinish_memOk (s : State) (p : Nat) (k : CollCtx) (run : CollRun) (errs : List MemErr) (h : MemOk s.mem) :
    MemOk (s.collFinish p k run errs).mem := by
  have hsegs :
    ∀ l : List Nat, MemOk (l.foldl (fun (a : Bool × State) rel => if a.1 then a.2.finishSeg p k run errs rel else a) (true, s)).2.mem :=
    fun l => memOk_foldlPair _ _ _ (fun a rel h => by split <;> simp [h]) h
  unfold State.collFinish
  dsimp only
  split
  · exact h
  · split
    · simp [h]
    · have hend : ∀ (r : Bool × State) (res : Nat) (w : Bool), MemOk r.2.mem →
          MemOk (if r.1 then r.2.runDone p k run res w else r.2).mem := fun r res w hr => by split <;> simp [hr]
      refine hend _ _ _ ?_
      (repeat' split) <;> simp [h, hsegs]

@[simp ↓] theorem collPart_mem (s : State) (p : Nat) (k : CollCtx) (run : CollRun) (x : CollIn) : (s.collPart p k run x).2.mem = s.mem := by
  simp only [State.collPart]
  (repeat' split) <;> simp

@[simp ↓] theorem sendSolo_mem (s : State) (p col : Nat) (k : CollCtx) (a : CollAsk) (errs : List MemErr) :
    (s.sendSolo p col k a errs).mem = s.mem := by
  simp only [State.sendSolo]
  (repeat' split) <;> simp

@[simp ↓] theorem collServe_mem (s : State) (p : Nat) (errs : List MemErr) : (s.collServe p errs).mem = s.mem := by
  unfold State.collServe
  refine foldl_mem _ _ _ fun s a => ?_
  (repeat' split) <;> simp

@[simp ↓] theorem collSettle_memOk (s : State) (p : Nat) (run : CollRun) (errs : List MemErr) (h : MemOk s.mem) :
    MemOk (s.collSettle p run errs).mem := by
  have hparts : ∀ (k : CollCtx) (l : List CollIn) (x : CollRun × State), (l.foldl (fun (a : CollRun × State) x =>
      if k.exact then a.2.collPart p k a.1 x else (placeGrans a.1 x, a.2)) x).2.mem = x.2.mem := fun k l x =>
    foldr2_mem _ _ _ fun a y => by split <;> simp
  unfold State.collSettle
  split
  · exact h
  · dsimp only
    rw [ite_mem]
    refine memOk_ite (collFinish_memOk _ _ _ _ _ ?_) ?_
    all_goals
      rw [updPart_mem, hparts]
      exact h

@[simp ↓] theorem collResume_memOk (s : State) (p : Nat) (errs : List MemErr) (h : MemOk s.mem) : MemOk (s.collResume p errs).mem := by
  unfold State.collResume
  rw [collServe_mem]
  exact memOk_foldl _ _ _ (fun s x h => by split <;> simp [h]) h

@[simp ↓] theorem parkCheck_mem (s : State) (p : Nat) (ws : List W64) : (s.parkCheck p ws).mem = s.mem := by simp [State.parkCheck]

@[simp ↓] theorem opColl_memOk (s : State) (p sid : Nat) (errs : List MemErr) (h : MemOk s.mem) : MemOk (s.opColl p sid errs).mem := by
  refine issue_memOk _ _ _ _ _ _ _ (fun s i ws h => ?_) h
  split
  · exact h
  · dsimp only
    split
    · simp [h]
    · rw [parkCheck_mem, collServe_mem]
      exact collSettle_memOk _ _ _ _ (by simp [h])

@[simp ↓] theorem lateParts_mem (s : State) (p cid st stepno step : Nat) : (s.lateParts p cid st stepno step).mem = s.mem := by
  simp [State.lateParts, foldl_mem]

@[simp ↓] theorem collReceive_memOk (s : State) (c : Nat) (pkt : Pkt) (errs : List MemErr) (h : MemOk s.mem) :
    MemOk (s.collReceive c pkt errs).mem := by
  unfold State.collReceive
  dsimp only
  split
  · exact h
  · split
    · exact h
    · split
      · split <;> simp [h]
      · split
        · exact collSettle_memOk _ _ _ _ h
        · split <;> simp [h]

@[simp ↓] theorem opPull_mem (s : State) (p seg : Nat) : (s.opPull p seg).mem = s.mem := by
  have hask : ∀ (f : Nat → Nat) (g : Nat → List Pkt) (c : Nat) (l : List Nat) (u : State), (l.foldl (fun s r =>
      (s.sendRun (f r) (g r)).updCol c fun c => { c with colPulls := inc c.colPulls }) u).mem = u.mem := fun f g c l u =>
    foldl_mem _ _ _ fun s r => by simp
  refine whenOp_mem _ _ fun s => foldl_mem _ _ _ fun s run => ?_
  split
  · rfl
  · dsimp only
    split
    · exact hask _ _ _ _ _
    · rw [updPart_mem]
      exact hask _ _ _ _ _

@[simp ↓] theorem inpathAdd_mem (s : State) (p col : Nat) (k : CollCtx) (sender rel : Nat) (bs : Bytes) (n : Nat) (bad : List Nat)
    (errs : List MemErr) :
    (s.inpathAdd p col k sender rel bs n bad errs).2.mem = s.mem := by
  simp only [State.inpathAdd]
  (repeat' split) <;> simp

@[simp ↓] theorem collPass_mem (s : State) (plane : Nat) (v4 : Bool) (src dst : Nat) (pkt : Pkt) (errs : List MemErr) :
    (s.collPass plane v4 src dst pkt errs).2.mem = s.mem := by
  simp only [State.collPass]
  (repeat' split) <;> simp

end Sys2Proof.Machine

/-! ### The memory under the operations of transfers -/

namespace Sys2Proof.Machine

@[simp ↓] theorem xferRead_mem (s : State) (p : Nat) (ws : List W64) (errs : List MemErr) : (s.xferRead p ws errs).2.mem = s.mem := by
  simp only [State.xferRead]
  (repeat' split) <;> simp

@[simp ↓] theorem xferLocal_memOk (s : State) (p : Nat) (ws : List W64) (x : Payload × Payload) (errs : List MemErr) (h : MemOk s.mem) :
    MemOk (s.xferLocal p ws x errs).2.mem := by
  simp only [State.xferLocal]
  (repeat' split) <;> simp [h]

@[simp ↓] theorem xferSend_mem (s : State) (c : Nat) (ws : List W64) (step : Nat) (prov : Bool) (x : Payload × Payload) :
    (s.xferSend c ws step prov x).mem = s.mem := by simp [State.xferSend]

@[simp ↓] theorem opXfer_memOk (s : State) (p sid : Nat) (errs : List MemErr) (h : MemOk s.mem) : MemOk (s.opXfer p sid errs).mem := by
  refine issue_memOk _ _ _ _ _ _ _ (fun s i ws h => ?_) h
  dsimp only
  (repeat' split) <;> simp [h]

@[simp ↓] theorem opTokenDue_mem (s : State) (p sid : Nat) (errs : List MemErr) : (s.opTokenDue p sid errs).mem = s.mem := by
  simp [State.opTokenDue]

end Sys2Proof.Machine

/-! ### The memory under the operations of owner images -/

namespace Sys2Proof.Machine

@[simp ↓] theorem opXsiClaim_mem (s : State) (c : Nat) : (s.opXsiClaim c).2.mem = s.mem := by
  unfold State.opXsiClaim
  (repeat' split) <;> simp

@[simp ↓] theorem opXsiRelease_mem (s : State) (c : Nat) : (s.opXsiRelease c).2.mem = s.mem := by simp [State.opXsiRelease]

@[simp ↓] theorem opFwClaim_mem (s : State) (c : Nat) : (s.opFwClaim c).2.mem = s.mem := by
  unfold State.opFwClaim
  (repeat' split) <;> simp

@[simp ↓] theorem opFwRelease_mem (s : State) (c : Nat) : (s.opFwRelease c).2.mem = s.mem := by simp [State.opFwRelease]

@[simp ↓] theorem opClaimLapse_mem (s : State) (fw : Bool) : (s.opClaimLapse fw).mem = s.mem := by simp [State.opClaimLapse]

@[simp ↓] theorem stageSend_mem (s : State) (c : Nat) (bs : Bytes) : (s.stageSend c bs).2.mem = s.mem := by
  unfold State.stageSend
  (repeat' split) <;> simp

@[simp ↓] theorem traceXsi_mem (s : State) (cause : Nat) : (s.traceXsi cause).mem = s.mem := by simp [State.traceXsi]

@[simp ↓] theorem xsiReject_memOk (s : State) (e : XsiBad) (h : MemOk s.mem) : MemOk (s.xsiReject e).mem := by
  unfold State.xsiReject
  (repeat' split) <;> simp [h]

@[simp ↓] theorem opXsiStart_memOk (s : State) (c : Nat) (h : MemOk s.mem) : MemOk (s.opXsiStart c).2.mem := by
  simp only [State.opXsiStart]
  (repeat' split) <;> simp [h]

@[simp ↓] theorem writePort_mem (s : State) (rs : List XRec) (n : Nat) : (s.writePort rs n).mem = s.mem := by simp [State.writePort]

@[simp ↓] theorem writeModule_mem (s : State) (rs : List XRec) : (s.writeModule rs).mem = s.mem := by
  have hbooked : ∀ (k : Nat) (l : List Nat) (u : State), (l.foldl (fun s i => s.bookFill (16 * k + i)) u).mem = u.mem := fun k l u =>
    foldl_mem _ _ _ fun s i => bookFill_mem s _
  unfold State.writeModule
  dsimp only
  simp -implicitDefEqProofs [foldl_mem, hbooked]

@[simp ↓] theorem clearModule_mem (s : State) : s.clearModule.mem = s.mem := by
  have hparts : ∀ (l : List Nat) (u : State), (l.foldl (fun s p => s.updPart p fun q => { q with seq := 0 }) u).mem = u.mem := fun l u =>
    foldl_mem _ _ _ fun s p => updPart_mem s p _
  unfold State.clearModule
  rw [hparts, updPwr_mem, raiseMgmt_mem, writeModule_mem]

@[simp ↓] theorem ownerDoc_memOk (s : State) (bs : Bytes) (mgmt : Bool) (h : MemOk s.mem) : MemOk (s.ownerDoc bs mgmt).mem := by
  unfold State.ownerDoc
  split
  · exact memOk_iteState (alarm_memOk _ _ (actFail_memOk _ _ h)) (actFail_memOk _ _ h)
  · rw [logLead_mem, measure_mem, traceAct_mem, updFw_mem, clearModule_mem, updXsi_mem]
    exact (writeSec_mem s _).symm ▸ h

@[simp ↓] theorem opActivate_memOk (s : State) (mgmt : Bool) (h : MemOk s.mem) : MemOk (s.opActivate mgmt).2.mem := by
  simp only [State.opActivate]
  (repeat' split) <;> simp [h]

@[simp ↓] theorem writeGrants_mem (s : State) (img : Bytes) (rs : List XRec) : (s.writeGrants img rs).mem = s.mem := by
  unfold State.writeGrants
  refine foldl_mem _ _ _ fun s p => ?_
  split
  · rfl
  · split <;> rfl

@[simp ↓] theorem createPart_memOk (s : State) (rs : List XRec) (r : XRec) (h : MemOk s.mem) : MemOk (s.createPart rs r).mem := by
  unfold State.createPart
  exact memOk_foldl _ _ _ (fun s x h => startInit_memOk _ _ (updRegion_memOk _ _ _ h)) h

@[simp ↓] theorem seqAfter_mem (s : State) (img : Bytes) (rs : List XRec) (old : Nat → Option Bytes) : (s.seqAfter img rs old).mem = s.mem := by
  simp [State.seqAfter, foldl_mem]

@[simp ↓] theorem storeImage_mem (s : State) (img : Bytes) : (s.storeImage img).mem = s.mem := by
  unfold State.storeImage
  (repeat' split) <;> simp

@[simp ↓] theorem xsiFinish_memOk (s : State) (img : Bytes) (rs : List XRec) (h : MemOk s.mem) : MemOk (s.xsiFinish img rs).mem := by
  unfold State.xsiFinish
  dsimp only
  generalize hmodule : (if xModule img then s.writeModule rs else s) = t₁
  have h₁ : MemOk t₁.mem := by
    rw [← hmodule, ite_mem, writeModule_mem, ite_self]
    exact h
  generalize (rs.filter fun r => r.sect = 1 && (t₁.part (r.byte 0)).st = .absent) = fresh
  generalize hcreate : fresh.foldl (fun s r => if s.columnsServe rs r then s.createPart rs r else s) t₁ = t₂
  have h₂ : MemOk (t₂.writeGrants img rs).mem := by
    rw [writeGrants_mem, ← hcreate]
    exact memOk_foldl _ _ _ (fun s r h => memOk_iteState (createPart_memOk _ _ _ h) h) h₁
  generalize t₂.writeGrants img rs = t₃ at h₂
  generalize hnumber : (if xTenant img then _ else _ : State) = t₄
  have h₄ : t₄.mem = t₃.mem := by
    rw [← hnumber]
    split
    · rw [writeSeq_mem, updPart_mem]
    · rw [ite_mem, seqAfter_mem, ite_self, writeSec_mem, updXsi_mem]
  have hstored : ∀ (c : Prop) [Decidable c] (t : State), (if c then t.storeImage img else t).mem = t.mem := fun c _ t => by
    rw [ite_mem, storeImage_mem, ite_self]
  refine memOk_iteState (zeroise_memOk _ ?_) ?_ <;>
    · rw [hstored, logLead_mem, updXsi_mem, measure_mem, h₄]
      exact h₂

@[simp ↓] theorem xsiOn_memOk (s : State) (h : MemOk s.mem) : MemOk s.xsiOn.mem := by
  unfold State.xsiOn
  (repeat' split) <;> simp [h]

@[simp ↓] theorem opXsiApply_memOk (s : State) (h : MemOk s.mem) : MemOk s.opXsiApply.mem := by
  refine whenBased_memOk _ _ (fun s h => ?_) h
  split
  · split
    · exact h
    · split
      · exact xsiOn_memOk _ (memOk_foldl _ _ _ (fun s p h => teardown_memOk _ _ _ h) h)
      · exact h
  · exact h

@[simp ↓] theorem opDrainDone_memOk (s : State) (p : Nat) (h : MemOk s.mem) : MemOk (s.opDrainDone p).mem := by
  refine whenUp_memOk _ _ (fun s h => ?_) h
  simp [h]

@[simp ↓] theorem restoreSeqs_mem (s : State) (r : SeqRec) : (s.restoreSeqs r).mem = s.mem :=
  (writeSeq_mem _).trans (foldl_mem _ _ _ fun _ _ => rfl)

@[simp ↓] theorem opStored_memOk (s : State) (h : MemOk s.mem) : MemOk s.opStored.mem := by
  refine whenUp_memOk _ _ (fun s h => ?_) h
  dsimp only
  refine memOk_iteState h ?_
  have hraised : MemOk s.raiseMgmt.mem := (raiseMgmt_mem s).symm ▸ h
  generalize s.raiseMgmt = u at hraised
  refine memOk_iteState hraised (memOk_iteState ?_ ?_)
  on_goal 1 => rw [logLead_mem, updFw_mem]
  all_goals
    split
    · split
      · exact xsiReject_memOk _ _ hraised
      · rw [restoreSeqs_mem]
        exact xsiFinish_memOk _ _ _ hraised
    · exact memOk_iteState (xsiReject_memOk _ _ hraised) hraised

end Sys2Proof.Machine

/-! ### The memory under the operations of connections -/

namespace Sys2Proof.Machine

@[simp ↓] theorem reply_mem (s : State) (rx : Rx) (p : Pkt) : (s.reply rx p).mem = s.mem := by simp [State.reply]

@[simp ↓] theorem sendOnce_mem (s : State) (c : Nat) (p : Pkt) : (s.sendOnce c p).mem = s.mem := by
  simp only [State.sendOnce]
  (repeat' split) <;> simp

@[simp ↓] theorem traceOpen_mem (s : State) (point c : Nat) (req : Pkt) (status : Nat) : (s.traceOpen point c req status).mem = s.mem := by
  simp [State.traceOpen]

@[simp ↓] theorem refuseOpen_mem (s : State) (rx : Rx) (req : Pkt) (status : Nat) : (s.refuseOpen rx req status).mem = s.mem := by
  simp [State.refuseOpen]

@[simp ↓] theorem enterOpen_mem (s : State) (c tgen rxNext : Nat) : (s.enterOpen c tgen rxNext).mem = s.mem := by simp [State.enterOpen]

@[simp ↓] theorem startSide_mem (s : State) (c psn : Nat) : (s.startSide c psn).mem = s.mem := by simp [State.startSide]

@[simp ↓] theorem memberOpen_mem (s : State) (rx : Rx) (req : Pkt) : (s.memberOpen rx req).mem = s.mem := by simp [State.memberOpen]

@[simp ↓] theorem grant_mem (s : State) (rx : Rx) (req : Pkt) (c kind part session : Nat) : (s.grant rx req c kind part session).mem = s.mem :=
  (sendAck_mem _ _ _).trans <| (send_mem _ _ _).trans <| (traceOpen_mem _ _ _ _ _).trans <| (enterOpen_mem _ _ _ _).trans <|
    (startSide_mem _ _ _).trans (updConn_mem s c _)

@[simp ↓] theorem reclaim_mem (s : State) (p c : Nat) : (s.reclaim p c).mem = s.mem := by simp [State.reclaim]

@[simp ↓] theorem sessionOpen_mem (s : State) (rx : Rx) (req : Pkt) (observer : Bool) : (s.sessionOpen rx req observer).mem = s.mem := by
  simp only [State.sessionOpen]
  (repeat' split) <;> simp

@[simp ↓] theorem fmOpen_mem (s : State) (rx : Rx) (req : Pkt) : (s.fmOpen rx req).mem = s.mem := by
  simp only [State.fmOpen]
  (repeat' split) <;> simp

@[simp ↓] theorem endpointOpen_mem (s : State) (rx : Rx) (req : Pkt) : (s.endpointOpen rx req).mem = s.mem := by
  unfold State.endpointOpen
  (repeat' split) <;> simp

@[simp ↓] theorem openAck_mem (s : State) (c : Nat) (ack : Pkt) : (s.openAck c ack).mem = s.mem := by simp [State.openAck]

@[simp ↓] theorem closeIn_memOk (s : State) (c : Nat) (req : Pkt) (h : MemOk s.mem) : MemOk (s.closeIn c req).mem := by simp [State.closeIn, h]

@[simp ↓] theorem closeAck_memOk (s : State) (c : Nat) (h : MemOk s.mem) : MemOk (s.closeAck c).mem := by simp [State.closeAck, h]

@[simp ↓] theorem opConnOpen_mem (s : State) (n : Nat) : (s.opConnOpen n).2.mem = s.mem := by
  simp only [State.opConnOpen]
  (repeat' split) <;> simp

@[simp ↓] theorem opConnClose_mem (s : State) (n : Nat) : (s.opConnClose n).2.mem = s.mem := by
  simp only [State.opConnClose]
  (repeat' split) <;> simp

end Sys2Proof.Machine

/-! ### The memory under the operations of register access -/

namespace Sys2Proof.Machine

@[simp ↓] theorem clearGlobal_mem (s : State) (b : RegBlock) (r : Nat) : (s.clearGlobal b r).mem = s.mem := by
  unfold State.clearGlobal
  (repeat' split) <;> simp

@[simp ↓] theorem clearReg_mem (s : State) (b : RegBlock) (off : Nat) : (s.clearReg b off).mem = s.mem := by
  unfold State.clearReg
  (repeat' split) <;> simp

@[simp ↓] theorem ctlRead_mem (s : State) (c a : Nat) : (s.ctlRead c a).2.2.mem = s.mem := by
  unfold State.ctlRead
  (repeat' split) <;> simp

@[simp ↓] theorem writeReg_memOk (s : State) (c : Nat) (b : RegBlock) (off : Nat) (v : W64) (errs : List MemErr) (h : MemOk s.mem) :
    MemOk (s.writeReg c b off v errs).2.mem := by
  unfold State.writeReg
  (repeat' split) <;> simp [h]

end Sys2Proof.Machine

/-! ### The memory under the operations of packets that arrive -/

namespace Sys2Proof.Machine

@[simp ↓] theorem updRxOp_mem (s : State) (c id : Nat) (f : RxOp → RxOp) : (s.updRxOp c id f).mem = s.mem := by simp [State.updRxOp]

@[simp ↓] theorem dropRxOp_mem (s : State) (c id : Nat) : (s.dropRxOp c id).mem = s.mem := by simp [State.dropRxOp]

@[simp ↓] theorem setDma_mem (s : State) (c : Nat) (d : Dma) : (s.setDma c d).mem = s.mem := by simp [State.setDma]

@[simp ↓] theorem haltDma_mem (s : State) (c : Nat) (p : Pkt) : (s.haltDma c p).mem = s.mem := by simp [State.haltDma]

@[simp ↓] theorem placeGran_memOk (s : State) (c : Nat) (p : Pkt) (o : RxOp) (i : Nat) (errs : List MemErr) (h : MemOk s.mem) :
    MemOk (s.placeGran c p o i errs).2.mem := by
  simp only [State.placeGran]
  (repeat' split) <;> simp [h]

@[simp ↓] theorem placeWrite_memOk (s : State) (c : Nat) (p : Pkt) (errs : List MemErr) (h : MemOk s.mem) :
    MemOk (s.placeWrite c p errs).2.mem := by
  have hgrans : ∀ (o : RxOp) (l : List Nat) (x : Bool × State), MemOk x.2.mem →
      MemOk (l.foldl (fun (x : Bool × State) i => if x.1 then x else x.2.placeGran c p o i errs) x).2.mem := fun o l x hx =>
    memOk_foldlPair _ _ _ (fun x i hx => by split <;> simp [hx]) hx
  unfold State.placeWrite
  dsimp only
  split
  · exact h
  · split
    · exact h
    · split
      · exact h
      · exact h
      · split <;> simp [hgrans, h]

@[simp ↓] theorem undoGran_memOk (s : State) (u : Undo) (h : MemOk s.mem) : MemOk (s.undoGran u).mem := by
  unfold State.undoGran
  dsimp only
  split
  · exact h
  · refine storeTag_memOk _ _ _ _ _ (memOk_foldl _ _ _ (fun s i h => ?_) h)
    split
    · exact setLine_memOk _ _ _ (storeLine_memOk _ _ _ _ _ _ h)
    · exact storeLine_memOk _ _ _ _ _ _ h

@[simp ↓] theorem sendRead_mem (s : State) (c id status : Nat) (gs : List Gran) : (s.sendRead c id status gs).mem = s.mem := by
  simp [State.sendRead, foldl_mem]

@[simp ↓] theorem failRead_mem (s : State) (c id status : Nat) : (s.failRead c id status).mem = s.mem := by simp [State.failRead]

@[simp ↓] theorem readGrans_mem (s : State) (access part : Nat) (gens : List (Nat × Nat)) (addr n : Nat) (errs : List MemErr) :
    (s.readGrans access part gens addr n errs).2.mem = s.mem := by
  unfold State.readGrans
  refine foldr2_mem _ _ _ fun a i => ?_
  split
  · rw [apply_ite Prod.snd, ite_mem, readGranAt_mem, ite_self]
  · rfl

@[simp ↓] theorem serveRead_mem (s : State) (c : Nat) (p : Pkt) (errs : List MemErr) : (s.serveRead c p errs).2.mem = s.mem := by
  simp only [State.serveRead]
  (repeat' split) <;> simp

@[simp ↓] theorem answer_mem (s : State) (c : Nat) (p : Pkt) (status : Nat) (v : W64) : (s.answer c p status v).mem = s.mem := by
  simp [State.answer]

@[simp ↓] theorem endHeld_mem (s : State) (c status : Nat) (l : List Pkt) : (s.endHeld c status l).mem = s.mem := by
  simp [State.endHeld, foldl_mem]

@[simp ↓] theorem serveHeld_memOk (n : Nat) (s : State) (c : Nat) (l : List Pkt) (errs : List MemErr) (h : MemOk s.mem) :
    MemOk (State.serveHeld n s c l errs).mem := by
  induction n generalizing s l with
  | zero => exact h
  | succ n ih =>
    unfold State.serveHeld
    split
    · exact h
    · split
      · exact h
      · refine ih _ _ ?_
        (repeat' split) <;> simp [h]

@[simp ↓] theorem opDma_memOk (s : State) (p channel : Nat) (abort : Bool) (errs : List MemErr) (h : MemOk s.mem) :
    MemOk (s.opDma p channel abort errs).mem := by
  unfold State.opDma
  dsimp only
  (repeat' split) <;> simp [h]

@[simp ↓] theorem finishOp_memOk (s : State) (c : Nat) (o : RxOp) (h : MemOk s.mem) : MemOk (s.finishOp c o).2.mem := by
  unfold State.finishOp
  dsimp only
  split
  · exact memOk_foldl _ _ _ (fun s u h => undoGran_memOk _ _ h) h
  · (repeat' split) <;> simp [h]

@[simp ↓] theorem completeOps_memOk (n : Nat) (s : State) (c : Nat) (h : MemOk s.mem) : MemOk (State.completeOps n s c).mem := by
  induction n generalizing s with
  | zero => exact h
  | succ n ih =>
    unfold State.completeOps
    split
    · refine ih _ ?_
      rw [sendAck_mem, dropRxOp_mem]
      exact finishOp_memOk _ _ _ h
    · exact h

@[simp ↓] theorem ctlWrite_memOk (s : State) (c a : Nat) (v : W64) (errs : List MemErr) (h : MemOk s.mem) :
    MemOk (s.ctlWrite c a v errs).2.mem := by
  unfold State.ctlWrite
  (repeat' split) <;> simp [h]

@[simp ↓] theorem ctlIn_memOk (s : State) (c : Nat) (p : Pkt) (errs : List MemErr) (h : MemOk s.mem) : MemOk (s.ctlIn c p errs).mem := by
  simp only [State.ctlIn]
  (repeat' split) <;> simp [h]

@[simp ↓] theorem msgIn_memOk (s : State) (c : Nat) (p : Pkt) (h : MemOk s.mem) : MemOk (s.msgIn c p).mem := by
  unfold State.msgIn
  (repeat' split) <;> simp [h]

@[simp ↓] theorem sendIn_mem (s : State) (c : Nat) (p : Pkt) : (s.sendIn c p).mem = s.mem := by simp [State.sendIn]

@[simp ↓] theorem deliverPkt_memOk (s : State) (c : Nat) (p : Pkt) (errs : List MemErr) (h : MemOk s.mem) :
    MemOk (s.deliverPkt c p errs).2.mem := by
  unfold State.deliverPkt
  (repeat' split) <;> simp [h]

@[simp ↓] theorem deliver_memOk (n : Nat) (s : State) (c : Nat) (errs : List MemErr) (h : MemOk s.mem) :
    MemOk (State.deliver n s c errs).mem := by
  induction n generalizing s with
  | zero => exact h
  | succ n ih =>
    unfold State.deliver
    split
    · exact memOk_iteState (memOk_iteState (ih _ (deliverPkt_memOk _ _ _ _ h)) h) h
    · exact h

@[simp ↓] theorem placeHeld_memOk (s : State) (c : Nat) (errs : List MemErr) (h : MemOk s.mem) : MemOk (s.placeHeld c errs).mem := by
  unfold State.placeHeld
  exact memOk_foldl _ _ _ (fun s p h => memOk_iteState h (memOk_iteState (deliverPkt_memOk _ _ _ _ h) h)) h

@[simp ↓] theorem settleRx_memOk (s : State) (c : Nat) (errs : List MemErr) (h : MemOk s.mem) : MemOk (s.settleRx c errs).mem := by
  have hplaced := deliver_memOk ((s.placeHeld c errs).conn c).rxHeld.length _ c errs (placeHeld_memOk s c errs h)
  have hdelivered := fun n => deliver_memOk n _ c errs (placeHeld_memOk _ c errs hplaced)
  unfold State.settleRx
  dsimp only
  split
  · exact completeOps_memOk _ _ _ (hdelivered _)
  · exact hdelivered _

@[simp ↓] theorem openRxOp_mem (s : State) (c : Nat) (p : Pkt) : (s.openRxOp c p).mem = s.mem := by simp [State.openRxOp]

@[simp ↓] theorem noteOp_mem (s : State) (c : Nat) (p : Pkt) : (s.noteOp c p).mem = s.mem := by simp [State.noteOp]

end Sys2Proof.Machine

/-! ### The memory under the operations of register writes -/

namespace Sys2Proof.Machine

@[simp ↓] theorem viaWrite_memOk (s : State) (v : Via) (a : Nat) (w : W64) (errs : List MemErr) (h : MemOk s.mem) :
    MemOk (s.viaWrite v a w errs).mem := by simp [State.viaWrite, h]

theorem within_memOk {s : State} {n bound : Nat} {f : State → State} (hf : MemOk (f s).mem) (h : MemOk s.mem) :
    MemOk (s.within n bound f).mem := memOk_iteState hf h

end Sys2Proof.Machine

/-! ### The memory under the operations of the receive path -/

namespace Sys2Proof.Machine

@[simp ↓] theorem countRx_mem (s : State) (rx : Rx) : (s.countRx rx).mem = s.mem := by simp [State.countRx]

@[simp ↓] theorem countCe_mem (s : State) (n : Nat) (ce : Bool) : (s.countCe n ce).mem = s.mem := by simp [State.countCe]

@[simp ↓] theorem hdrDrop_mem (s : State) (n : Nat) : (s.hdrDrop n).mem = s.mem := by simp [State.hdrDrop]

@[simp ↓] theorem noteArrival_mem (s : State) (c : Nat) (rx : Rx) (p : Pkt) : (s.noteArrival c rx p).mem = s.mem := by simp [State.noteArrival]

@[simp ↓] theorem takeContent_memOk (s : State) (c : Nat) (p : Pkt) (errs : List MemErr) (h : MemOk s.mem) :
    MemOk (s.takeContent c p errs).mem := by
  unfold State.takeContent
  (repeat' split) <;> simp [h]

@[simp ↓] theorem acceptPkt_memOk (s : State) (c : Nat) (rx : Rx) (p : Pkt) (h : MemOk s.mem) : MemOk (s.acceptPkt c rx p).mem := by
  unfold State.acceptPkt
  (repeat' split) <;> simp [h]

@[simp ↓] theorem windowIn_memOk (s : State) (c : Nat) (rx : Rx) (p : Pkt) (h : MemOk s.mem) : MemOk (s.windowIn c rx p).mem := by
  have hmarked : MemOk (if rx.ce ∧ hostPkt (s.conn c) p then s.updConn c fun k => { k with rxCe := true } else s).mem := by
    rw [ite_mem, updConn_mem, ite_self]
    exact h
  have hacked : ∀ u : State, MemOk u.mem → MemOk (if (u.conn c).ackNow ∧ u.serves c then u.sendAck c none else u).mem := fun u hu =>
    memOk_iteState ((sendAck_mem _ _ _).symm ▸ hu) hu
  refine hacked _ (memOk_iteState (memOk_iteState ?_ (acceptPkt_memOk _ _ _ _ hmarked)) (memOk_iteState ?_ ?_))
  · exact (countPort_mem _ _ _).symm ▸ hmarked
  · exact (updConn_mem _ _ _).symm ▸ (countPort_mem _ _ _).symm ▸ hmarked
  · exact (hdrDrop_mem _ _).symm ▸ hmarked

@[simp ↓] theorem flushServed_mem (s : State) (c : Nat) : (s.flushServed c).mem = s.mem := by simp [State.flushServed, foldl_mem]

@[simp ↓] theorem ackIn_mem (s : State) (c : Nat) (p : Pkt) : (s.ackIn c p).mem = s.mem := by simp [State.ackIn]

@[simp ↓] theorem entryIn_memOk (s : State) (rx : Rx) (p : Pkt) (h : MemOk s.mem) : MemOk (s.entryIn rx p).mem := by
  simp only [State.entryIn]
  (repeat' split) <;> simp [h]

@[simp ↓] theorem ownIn_memOk (s : State) (rx : Rx) (h : MemOk s.mem) : MemOk (s.ownIn rx).mem := by
  simp only [State.ownIn]
  (repeat' split) <;> simp [h]

@[simp ↓] theorem receive_memOk (s : State) (rx : Rx) (row : Nat → Pkt → Bool) (h : MemOk s.mem) : MemOk (s.receive rx row).mem := by
  unfold State.receive
  (repeat' split) <;> simp [h]

@[simp ↓] theorem regionOpens_memOk (s : State) (r : Nat) (h : MemOk s.mem) : MemOk (s.regionOpens r).mem := by
  refine whenUp_memOk _ _ (fun s h => ?_) h
  exact collResume_memOk _ _ _ (memOk_foldl _ _ _ (fun s e h => settleRx_memOk _ _ _ h) (opInitDone_memOk _ _ h))

end Sys2Proof.Machine

/-! ### The memory under the operations of time -/

namespace Sys2Proof.Machine

@[simp ↓] theorem updSide_mem (s : State) (plane : Nat) (f : PtpSide → PtpSide) : (s.updSide plane f).mem = s.mem := by simp [State.updSide]

@[simp ↓] theorem timeUnlock_mem (s : State) : s.timeUnlock.mem = s.mem := by simp [State.timeUnlock]

@[simp ↓] theorem timeFrom_mem (s : State) (plane : Nat) : (s.timeFrom plane).mem = s.mem := by simp [State.timeFrom]

@[simp ↓] theorem sourceUp_mem (s : State) (plane : Nat) : (s.sourceUp plane).mem = s.mem := by
  simp only [State.sourceUp]
  (repeat' split) <;> simp

@[simp ↓] theorem ptpOffset_mem (s : State) (offset rate : Int) : (s.ptpOffset offset rate).mem = s.mem := by simp [State.ptpOffset]

@[simp ↓] theorem delayReq_mem (s : State) (plane : Nat) (x : PtpRx) : (s.delayReq plane x).mem = s.mem := by simp [State.delayReq]

@[simp ↓] theorem syncDone_mem (s : State) (plane : Nat) (x : PtpRx) (sent arrived : Int) : (s.syncDone plane x sent arrived).mem = s.mem := by
  simp only [State.syncDone]
  (repeat' split) <;> simp

@[simp ↓] theorem ptpTake_mem (s : State) (plane : Nat) (x : PtpRx) : (s.ptpTake plane x).mem = s.mem := by
  unfold State.ptpTake
  (repeat' split) <;> simp

@[simp ↓] theorem ptpSend_mem (s : State) (x : PtpRx) (hop ttl : Nat) (at' : Nat × Nat) : (s.ptpSend x hop ttl at').mem = s.mem := by
  simp [State.ptpSend]

@[simp ↓] theorem ptpForward_mem (s : State) (plane : Nat) (x : PtpRx) : (s.ptpForward plane x).mem = s.mem := by
  simp only [State.ptpForward]
  (repeat' split) <;> simp [foldl_mem]

@[simp ↓] theorem opPtp_mem (s : State) (x : PtpRx) : (s.opPtp x).mem = s.mem := by simp [State.opPtp]

@[simp ↓] theorem opPtpTransit_mem (s : State) (x : PtpRx) : (s.opPtpTransit x).mem = s.mem := by simp [State.opPtpTransit]

@[simp ↓] theorem opPtpLost_mem (s : State) (plane : Nat) : (s.opPtpLost plane).mem = s.mem := by
  refine whenBased_mem _ _ fun s => ?_
  dsimp only
  (repeat' split) <;> simp

@[simp ↓] theorem opHoldover_mem (s : State) (err : Nat) : (s.opHoldover err).mem = s.mem := by simp [State.opHoldover]

end Sys2Proof.Machine

/-! ### The memory under the operations of links -/

namespace Sys2Proof.Machine

@[simp ↓] theorem opLinkDown_mem (s : State) (n sub : Nat) : (s.opLinkDown n sub).mem = s.mem := by simp [State.opLinkDown]

@[simp ↓] theorem opLinkUp_mem (s : State) (n sub : Nat) : (s.opLinkUp n sub).mem = s.mem := by simp [State.opLinkUp]

@[simp ↓] theorem opAckSend_mem (s : State) (c : Nat) : (s.opAckSend c).mem = s.mem := by simp [State.opAckSend]

@[simp ↓] theorem resend_mem (s : State) (c : Nat) (y : Copy) : (s.resend c y).mem = s.mem := by
  simp only [State.resend]
  (repeat' split) <;> simp

@[simp ↓] theorem retry_memOk (s : State) (c : Nat) (y : Copy) (h : MemOk s.mem) : MemOk (s.retry c y).mem := by
  simp only [State.retry]
  (repeat' split) <;> simp [h]

@[simp ↓] theorem opHole_memOk (s : State) (c psn : Nat) (h : MemOk s.mem) : MemOk (s.opHole c psn).mem := by
  simp only [State.opHole]
  (repeat' split) <;> simp [h]

@[simp ↓] theorem opRto_memOk (s : State) (c : Nat) (h : MemOk s.mem) : MemOk (s.opRto c).mem := by
  simp only [State.opRto]
  (repeat' split) <;> simp [h]

@[simp ↓] theorem opTimeoutOf_memOk (s : State) (c id : Nat) (h : MemOk s.mem) : MemOk (s.opTimeoutOf c id).mem := by simp [State.opTimeoutOf, h]

@[simp ↓] theorem opRate_mem (s : State) (c : Nat) : (s.opRate c).mem = s.mem := by simp [State.opRate]

@[simp ↓] theorem sendTransit_mem (s : State) (rx : Rx) (gs : Option (List Gran)) (bad : Bool) (at' : Nat × Nat) :
    (s.sendTransit rx gs bad at').mem = s.mem := by simp [State.sendTransit]

@[simp ↓] theorem pickFree_mem (s : State) (set : List (Nat × Nat)) : (s.pickFree set).2.mem = s.mem := by simp [State.pickFree]

@[simp ↓] theorem engineTags_mem (s : State) (rx : Rx) : (s.engineTags rx).2.mem = s.mem := by
  unfold State.engineTags
  (repeat' split) <;> simp

@[simp ↓] theorem opForward_mem (s : State) (rx : Rx) : (s.opForward rx).mem = s.mem := by
  simp only [State.opForward]
  (repeat' split) <;> simp

@[simp ↓] theorem opPfcIn_mem (s : State) (n mask : Nat) : (s.opPfcIn n mask).mem = s.mem := by
  refine whenBased_mem _ _ fun s => ?_
  split <;> rfl

@[simp ↓] theorem opPfcOut_mem (s : State) (n prio fill : Nat) : (s.opPfcOut n prio fill).mem = s.mem := by
  refine whenBased_mem _ _ fun s => ?_
  dsimp only
  split
  · rfl
  · split
    · rfl
    · split
      · rfl
      · exact foldl_mem _ _ _ fun _ _ => rfl

@[simp ↓] theorem opNeighbour_mem (s : State) (n sub : Nat) (vid : Option Nat) (v6 : Bool) (target asker askerMac : Nat) :
    (s.opNeighbour n sub vid v6 target asker askerMac).mem = s.mem := by simp [State.opNeighbour]

end Sys2Proof.Machine

/-! ### Every step keeps the canonical form of the memory -/

namespace Sys2Proof.Machine

theorem forwardPacket_mem (f : Transit) {s t : State} (h : exec (.forwardPacket f) s = .next t) : t.mem = s.mem := by
  cases f with
  | packet rx =>
    obtain rfl : s.opForward rx = t := Host.Outcome.next.inj h
    exact opForward_mem s rx
  | ptp x =>
    obtain rfl : s.opPtpTransit x = t := Host.Outcome.next.inj h
    exact opPtpTransit_mem s x

/-- What a command makes of the memory, row by row. -/
theorem exec_memOk {i : Instr} {s t : State} (h : exec i s = .next t) (hs : MemOk s.mem) : MemOk t.mem := by
  cases i
  case forwardPacket f => exact (forwardPacket_mem f h).symm ▸ hs
  all_goals cases h
  case pwrRemoveRequest | pwrRemoveCancel | devDumpTake | devDumpAck | devResetCore | devResetCluster | devResetColumn | devResetPort |
      devResetModuleWarm | devResetModuleCold | xsiStageClaim | xsiStageRelease | xsiLoadStart | fwStageClaim | fwStageRelease |
      fwActivateStart | fwAttestStart => exact viaWrite_memOk s _ _ _ _ hs
  case schLoad | memWipe | memDmaResume | memDmaAbort | cadSlotCfgWrite | cadSlotStateWrite | netConnOpen | netConnClose | devPartPark |
      devPartResume | devPartEnd | devPartAbort | devPartVacate => exact within_memOk (viaWrite_memOk s _ _ _ _ hs) hs
  case writeReceive | readReceive | readRespReceive | sendReceive | reduceReceive | tokenReceive | regRead | regWrite | memberOpenReceive |
      sessionOpen | openAckReceive | closeReceive | closeAckReceive | ackReceive | slipReceive | verdictVoteReceive | verdictTreeVoteReceive |
      verdictDecideReceive | verdictRequestReceive | verdictRetractReceive | verdictQuiescedReceive | verdictResumeReceive |
      verdictHandoverReceive | abortReceive => exact receive_memOk s _ _ hs
  all_goals simp [hs]

/-- Settles O26: a nanosecond without a command leaves the memory alone, and every command keeps its canonical form (`exec_memOk`). -/
theorem memoryFormKeptByEveryStep : Obligations.MemoryFormKeptByEveryStep := by
  intro s t hs hstep
  cases hpending : s.pending with
  | nil =>
    rw [step, hpending] at hstep
    obtain rfl : s.tick = t := Host.Outcome.next.inj hstep
    exact (tick_mem s).symm ▸ hs
  | cons c rest =>
    rw [step, hpending] at hstep
    exact exec_memOk hstep hs

end Sys2Proof.Machine

/-! ## What the scrub and the sweep leave alone (R253, R264, R272) -/

namespace Sys2Proof.Machine

open Sys2Proof (Keeps)

/-- What a patrol of a region's lines may change: lines that it marks, counters, events, and what a failed pseudo-channel stops (R253, R273). -/
abbrev patrolPieces : List Sys2Proof.Piece :=
  [.memory, .columns, .partitions, .network, .stewards, .firmware, .faults, .structure_]

/-- Of the memory, only the metadata of lines may differ. -/
def LinesOnly (s t : State) : Prop := t.mem = { s.mem with lines := t.mem.lines }

theorem LinesOnly.of_mem {s t : State} (h : t.mem = s.mem) : LinesOnly s t := by rw [LinesOnly, h]

theorem LinesOnly.trans {s t u : State} (h : LinesOnly s t) (h' : LinesOnly t u) : LinesOnly s u := by
  rw [LinesOnly, h', h]

theorem LinesOnly.setLine {s t : State} (h : LinesOnly s t) (l : Nat) (m : Option LineMeta) : LinesOnly s (t.setLine l m) :=
  h.trans (by rfl)

theorem LinesOnly.cells {s t : State} (h : LinesOnly s t) : t.mem.cells = s.mem.cells := by rw [h]
theorem LinesOnly.regions {s t : State} (h : LinesOnly s t) : t.mem.regions = s.mem.regions := by rw [h]

theorem LinesOnly.foldl {α : Type} (l : List α) (g : State → α → State) (s : State) (h : ∀ s a, LinesOnly s (g s a)) :
    LinesOnly s (l.foldl g s) := by
  induction l generalizing s with
  | nil => exact .of_mem rfl
  | cons a l ih => exact (h s a).trans (ih _)

theorem pcFail_keeps (s : State) (c pc : Nat) : Keeps patrolPieces s (s.pcFail c pc) := by
  refine ((updCol_keeps s c _).mono (by decide)).trans (((logP_keeps _ _ _ _ _ _).mono (by decide)).trans (Keeps.foldl _ _ _ fun u p => ?_))
  dsimp only
  split
  · exact .refl _ u
  · exact (partFault_keeps u _ _ _).mono (by decide)

theorem memRebuild_keeps (s : State) (access part rgn : Nat) (r : Region) (a : Nat) :
    Keeps patrolPieces s (s.memRebuild access part rgn r a) := by
  have hce := (memCe_keeps s access part rgn (rgnDpa r a) 2).mono (m := patrolPieces) (by decide)
  unfold State.memRebuild
  dsimp only
  split
  · exact hce
  · have hcol := fun f => hce.trans ((updCol_keeps _ (dpaCol (rgnDpa r a)) f).mono (m := patrolPieces) (by decide))
    split
    · exact (hcol _).trans (pcFail_keeps _ _ _)
    · exact hcol _

theorem meetCe_keeps (s : State) (access part rgn : Nat) (r : Region) (errs : List MemErr) (x : Nat) :
    Keeps patrolPieces s (s.meetCe access part rgn r errs x) := by
  unfold State.meetCe
  split
  · exact (memCe_keeps _ _ _ _ _ _).mono (by decide)
  · exact .refl _ s

theorem rebuild_keeps (s : State) (access part rgn : Nat) (r : Region) (a : Nat) (errs : List MemErr) :
    Keeps patrolPieces s (s.rebuild access part rgn r a errs).2 := by
  unfold State.rebuild
  split
  · exact (Keeps.foldl _ _ s fun u x => meetCe_keeps u _ _ _ _ _ x).trans (memRebuild_keeps _ _ _ _ _ _)
  · exact (memUe_keeps _ _ _ _ _ _).mono (by decide)

theorem setLine_keeps (s : State) (l : Nat) (m : Option LineMeta) : Keeps patrolPieces s (s.setLine l m) := .of_patch rfl

/-- A line that cannot be read is rebuilt or marked: nothing but its metadata changes in the memory. -/
theorem patrolLost_linesOnly (s : State) (access i : Nat) (r : Region) (a : Nat) (errs : List MemErr) :
    Keeps patrolPieces s (s.patrolLost access i r a errs) ∧ LinesOnly s (s.patrolLost access i r a errs) := by
  have hkeeps := rebuild_keeps s access (rgnPart r) i r a errs
  have hmem := rebuild_mem s access (rgnPart r) i r a errs
  unfold State.patrolLost
  dsimp only
  split
  · generalize s.rebuild access (rgnPart r) i r a errs = x at hkeeps hmem
    obtain ⟨_ | v, u⟩ := x
    · exact ⟨hkeeps.trans (setLine_keeps _ _ _), (LinesOnly.of_mem hmem).setLine _ _⟩
    · exact ⟨hkeeps, .of_mem hmem⟩
  · exact ⟨((memUe_keeps _ _ _ _ _ _).mono (by decide)).trans (setLine_keeps _ _ _), (LinesOnly.of_mem (memUe_mem _ _ _ _ _ _)).setLine _ _⟩

theorem patrolLine_linesOnly (s : State) (access i : Nat) (r : Region) (errs : List MemErr) (l : Nat) :
    Keeps patrolPieces s (s.patrolLine access i r errs l) ∧ LinesOnly s (s.patrolLine access i r errs l) := by
  have hsame : Keeps patrolPieces s s ∧ LinesOnly s s := ⟨.refl _ s, .of_mem rfl⟩
  unfold State.patrolLine
  dsimp only
  split
  · exact hsame
  · split
    · split
      · exact patrolLost_linesOnly _ _ _ _ _ _
      · exact hsame
    · split
      · exact patrolLost_linesOnly _ _ _ _ _ _
      · exact ⟨meetCe_keeps _ _ _ _ _ _ _, .of_mem (meetCe_mem _ _ _ _ _ _ _)⟩

theorem patrol_linesOnly (s : State) (access i : Nat) (r : Region) (errs : List MemErr) :
    Keeps patrolPieces s (s.patrol access i r errs) ∧ LinesOnly s (s.patrol access i r errs) :=
  ⟨Keeps.foldl _ _ s fun u l => (patrolLine_linesOnly u access i r errs l).1, .foldl _ _ s fun u l => (patrolLine_linesOnly u access i r errs l).2⟩

/-! ## A pass without a failed pseudo-channel meets the lines with errors -/

section Working

variable {s : State} (hworks : ∀ k, (s.col k).pcFailed = 0)
include hworks

theorem pcBad_of_working (r : Region) (a : Nat) : s.pcBad r a = false := by simp [State.pcBad, hworks]

theorem patrol_of_working (access i : Nat) (r : Region) (errs : List MemErr) :
    s.patrol access i r errs = (dedup (errs.map (·.line))).foldl (fun s l => s.patrolLine access i r errs l) s := by
  simp [State.patrol, pcBad_of_working hworks]

theorem patrol_nil (access i : Nat) (r : Region) : s.patrol access i r [] = s := patrol_of_working hworks access i r []

theorem patrol_one (access i : Nat) (r : Region) (e : MemErr) : s.patrol access i r [e] = s.patrolLine access i r [e] e.line :=
  patrol_of_working hworks access i r [e]

end Working

/-- The page and the way of an allocation address that was put together from them (R247). -/
theorem page_of_way {w k : Nat} (hk : k < w) (o : Nat) :
    ((o / 4096 * w + k) * 4096 + o % 4096) / 4096 % w = k ∧ ((o / 4096 * w + k) * 4096 + o % 4096) / 4096 / w = o / 4096 ∧
      ((o / 4096 * w + k) * 4096 + o % 4096) % 4096 = o % 4096 := by
  have hpage : ((o / 4096 * w + k) * 4096 + o % 4096) / 4096 = o / 4096 * w + k := by omega
  have hdiv : (o / 4096 * w + k) / w = o / 4096 := by
    rw [Nat.mul_comm, Nat.mul_add_div (by omega), Nat.div_eq_of_lt hk, Nat.add_zero]
  rw [hpage, hdiv, Nat.mul_add_mod_self_right, Nat.mod_eq_of_lt hk]
  exact ⟨rfl, rfl, by omega⟩

/-- The allocation address of an HBM line leads back to it (R247). -/
theorem rgnDpa_rgnAddrOf {r : Region} {d : Nat} (hhbm : rgnHbm r = true) (hin : rgnHas r d = true) : rgnDpa r (rgnAddrOf r d) = d := by
  rw [rgnHas, if_pos hhbm] at hin
  simp only [Bool.and_eq_true, decide_eq_true_eq] at hin
  obtain ⟨⟨⟨hcol, hways⟩, hlow⟩, -⟩ := hin
  obtain ⟨hway, hpage, hoff⟩ := page_of_way (show dpaCol d - rgnDbase r / 2 ^ 16 < 2 ^ rgnWays r by omega)
    (d % 2 ^ 36 - rgnDbase r % 2 ^ 16 * 2 ^ 20)
  rw [rgnDpa, if_pos hhbm, rgnAddrOf]
  dsimp only
  rw [hway, hpage, hoff]
  rw [dpaCol] at hcol ⊢
  omega

/-! ## What a pass leaves in the columns (R265) -/

/-- A column's registers once a pass of region i is counted in its stack: lengthened or not (R265, R273). -/
def ColRegs.scrubbed (i : Nat) (lag : Bool) (q : ColRegs) : ColRegs :=
  { q with ceLines := q.ceLines.filter fun x => x.1 ≠ i, scrubLag := if lag then inc q.scrubLag else q.scrubLag }

/-- The pass counted in each stack of a list that holds lines of the region. -/
def State.passCounted (s : State) (i : Nat) (r : Region) (cs : List Nat) : State :=
  cs.foldl (fun s c => if rgnInCol r c then s.updCol c (ColRegs.scrubbed i (s.stretched c)) else s) s

theorem passCounted_keeps (s : State) (i : Nat) (r : Region) (cs : List Nat) : Keeps [.columns] s (s.passCounted i r cs) := by
  refine Keeps.foldl _ _ s fun u c => ?_
  split
  · exact .of_patch rfl
  · exact .refl _ u

theorem stretched_of_mem {s t : State} (h : t.mem = s.mem) (c : Nat) : t.stretched c = s.stretched c := by simp only [State.stretched, h]

/-- A stack is counted once, as the regions stand. -/
theorem passCounted_col (s : State) (i : Nat) (r : Region) {cs : List Nat} (hcs : cs.Nodup) (c : Nat) :
    (s.passCounted i r cs).col c = if c ∈ cs ∧ rgnInCol r c = true then (s.col c).scrubbed i (s.stretched c) else s.col c := by
  induction cs generalizing s with
  | nil => simp [State.passCounted]
  | cons d cs ih =>
    obtain ⟨hd, hcs⟩ := List.nodup_cons.mp hcs
    show (State.passCounted (if rgnInCol r d then s.updCol d (ColRegs.scrubbed i (s.stretched d)) else s) i r cs).col c = _
    rw [ih _ hcs]
    by_cases hin : rgnInCol r d = true
    · rw [if_pos hin]
      by_cases hc : c = d
      · subst hc
        simp [hd, hin]
      · simp [hc, updCol_col_ne _ _ _ hc, stretched_of_mem (updCol_mem s d _)]
    · rw [if_neg hin]
      by_cases hc : c = d
      · subst hc
        simp [hin]
      · simp [hc]

/-- The pass of a scrubbed region: what it meets, then what it counts. -/
theorem opScrub_of_open {s : State} {i : Nat} (errs : List MemErr) (hup : s.up = true) (hvalid : rgnValid (s.region i) = true)
    (hopen : (s.region i).st = 2) (hhbm : rgnHbm (s.region i) = true) (hscrub : rgnScrub (s.region i) ≠ 0) :
    s.opScrub i errs = (s.patrol accScrub i (s.region i) errs).passCounted i (s.region i) columns := by
  rw [State.opScrub, whenUp_of_up hup]
  dsimp only
  rw [if_neg (by simp [hvalid, hopen, hhbm, hscrub])]
  rfl

end Sys2Proof.Machine

/-! ## Bytes put into memory read back (R240) -/

namespace Sys2Proof.Machine

open Sys2Proof (Keeps)

theorem peek_poke (s : State) (a : Nat) (bs : Bytes) : (s.poke a bs).peek a bs.length = bs := by
  refine List.ext_getElem (by simp [State.peek]) fun i hi hi' => ?_
  simp only [State.peek, List.getElem_map, List.getElem_range]
  show byteAt (s.poke a bs) (a + i) = bs[i]
  rw [byteAt_poke, if_pos (by omega), Nat.add_sub_cancel_left, List.getD_eq_getElem _ _ hi']

theorem byteAt_poke_outside (s : State) {a x : Nat} {bs : Bytes} (h : x < a ∨ a + bs.length ≤ x) : byteAt (s.poke a bs) x = byteAt s x := by
  rw [byteAt_poke, if_neg (by omega)]

/-! ## The lines that a scrub meets (R264, R272, R273) -/

/-- What the statements suppose of a scrubbed region: it is open in HBM, and no pseudo-channel has failed. -/
structure Scrubbed (s : State) (r : Nat) : Prop where
  up : s.up = true
  valid : rgnValid (s.region r) = true
  opened : (s.region r).st = 2
  hbm : rgnHbm (s.region r) = true
  asked : rgnScrub (s.region r) ≠ 0
  works : ∀ k, (s.col k).pcFailed = 0

theorem Scrubbed.runs_nil {s : State} {r : Nat} (h : Scrubbed s r) {P : State → Prop} (hP : P (s.passCounted r (s.region r) columns)) :
    Runs (.scrubPass r [] []) s P := by
  refine ⟨_, rfl, ?_⟩
  rw [List.append_nil, opScrub_of_open [] h.up h.valid h.opened h.hbm h.asked, patrol_nil h.works]
  exact hP

theorem Scrubbed.runs_one {s : State} {r : Nat} (h : Scrubbed s r) (e : MemErr) {P : State → Prop}
    (hP : P ((s.patrolLine accScrub r (s.region r) [e] e.line).passCounted r (s.region r) columns)) : Runs (.scrubPass r [e] []) s P := by
  refine ⟨_, rfl, ?_⟩
  rw [List.append_nil, opScrub_of_open [e] h.up h.valid h.opened h.hbm h.asked, patrol_one h.works]
  exact hP

theorem passCounted_mem (s : State) (i : Nat) (r : Region) (cs : List Nat) : (s.passCounted i r cs).mem = s.mem :=
  passCounted_keeps s i r cs .memory (by decide)

theorem columns_nodup : columns.Nodup := List.nodup_range

/-- A pass counts no error. -/
theorem passCounted_col_errors (s : State) (i : Nat) (r : Region) (c : Nat) :
    ((s.passCounted i r columns).col c).ce = (s.col c).ce ∧ ((s.passCounted i r columns).col c).ue = (s.col c).ue := by
  rw [passCounted_col s i r columns_nodup c]
  split <;> exact ⟨rfl, rfl⟩

/-- A correctable error of a line of data is counted and recorded (R273). -/
theorem patrolLine_correctable {s : State} (hworks : ∀ k, (s.col k).pcFailed = 0) (access i : Nat) {r : Region} {l : Nat}
    (hhbm : rgnHbm r = true) (hin : rgnHas r (64 * l) = true) (hdata : s.lineNow r (64 * l) = .data) :
    s.patrolLine access i r [⟨l, .correctable⟩] l = s.memCe access (rgnPart r) i (64 * l) 1 := by
  have haddr := rgnDpa_rgnAddrOf hhbm hin
  have hlost : errAt [⟨l, .correctable⟩] r (rgnAddrOf r (64 * l)) .lost = false := by simp [errAt, errSeen]
  have hmet : errAt [⟨l, .correctable⟩] r (rgnAddrOf r (64 * l)) .correctable = true := by simp [errAt, errSeen, haddr]
  unfold State.patrolLine
  dsimp only
  rw [if_neg (by simp [hin, hdata]), if_neg (by simp [pcBad_of_working hworks]), if_neg (by simp [hlost]), State.meetCe, haddr,
    if_pos ⟨hdata, hmet⟩]

/-- A line that neither its code nor a stripe brings back is counted and marked as poisoned (R264, R272). -/
theorem patrolLine_lost {s : State} (hworks : ∀ k, (s.col k).pcFailed = 0) (access i : Nat) {r : Region} {l : Nat}
    (hhbm : rgnHbm r = true) (hin : rgnHas r (64 * l) = true) (hdata : s.lineNow r (64 * l) = .data) (hlight : rgnCode r ≠ 1) :
    s.patrolLine access i r [⟨l, .lost⟩] l =
      (s.memUe access (rgnPart r) i (64 * l) 3).setLine (s.phys (64 * l) / 64) (some ⟨r.gen, true⟩) := by
  have haddr := rgnDpa_rgnAddrOf hhbm hin
  have hlost : errAt [⟨l, .lost⟩] r (rgnAddrOf r (64 * l)) .lost = true := by simp [errAt, errSeen, haddr]
  have hphys := phys_of_dev (memUe_keeps s access (rgnPart r) i (64 * l) 3 .faults (by decide)) (64 * l)
  unfold State.patrolLine
  dsimp only
  rw [if_neg (by simp [hin, hdata]), if_neg (by simp [pcBad_of_working hworks]), if_pos hlost, State.patrolLost]
  dsimp only
  rw [if_neg (by simp [rgnStrong, hlight]), haddr, hphys]

theorem memCe_col_ce (s : State) (access part rgn d kind : Nat) :
    ((s.memCe access part rgn d kind).col (dpaCol d)).ce = inc (s.col (dpaCol d)).ce := by
  unfold State.memCe
  dsimp only
  split
  · rw [col_of_keeps (logP_keeps _ _ _ _ _ _) (by decide), updCol_col_same]
  · rw [updCol_col_same]

theorem memUe_col_ue (s : State) (access part rgn d kind : Nat) :
    ((s.memUe access part rgn d kind).col (dpaCol d)).ue = inc (s.col (dpaCol d)).ue := by
  unfold State.memUe
  dsimp only
  rw [col_of_keeps (logP_keeps _ _ _ _ _ _) (by decide), updCol_col_same]

theorem lineMeta_setLine (s : State) (l : Nat) (m : Option LineMeta) (k : Nat) :
    (s.setLine l m).lineMeta k = if k = l then m else s.lineMeta k := Table.get_set _ _ _ _ _

theorem lineMeta_of_mem {s t : State} (h : t.mem = s.mem) (l : Nat) : t.lineMeta l = s.lineMeta l := by rw [State.lineMeta, h, State.lineMeta]

/-- The pass of an open region changes no byte, whatever it meets (R264). -/
theorem opScrub_bytes (s : State) (r : Nat) (errs : List MemErr) :
    (s.opScrub r errs).mem.cells = s.mem.cells ∧ (s.opScrub r errs).mem.regions = s.mem.regions ∧ (s.opScrub r errs).pos = s.pos ∧
      (s.opScrub r errs).tm = s.tm := by
  suffices h : Keeps patrolPieces s (s.opScrub r errs) ∧ LinesOnly s (s.opScrub r errs) from
    ⟨h.2.cells, h.2.regions, h.1 .positions (by decide), h.1 .time (by decide)⟩
  refine whenUp_of (fun t => Keeps patrolPieces s t ∧ LinesOnly s t) ⟨.refl _ s, .of_mem rfl⟩ ?_
  dsimp only
  split
  · exact ⟨.refl _ s, .of_mem rfl⟩
  · obtain ⟨hkeeps, hlines⟩ := patrol_linesOnly s accScrub r (s.region r) errs
    have hcounted := passCounted_keeps (s.patrol accScrub r (s.region r) errs) r (s.region r) columns
    exact ⟨hkeeps.trans (hcounted.mono (by decide)), hlines.trans (.of_mem (hcounted .memory (by decide)))⟩

/-- Settles O27: a store's bytes by `byteAt_poke`; the scrub by the line that each of its errors stands in (`patrolLine_correctable`,
`patrolLine_lost`) and what a pass counts (`passCounted_col`). -/
theorem bytesReadBackAndScrub : Obligations.BytesReadBackAndScrub := by
  refine ⟨fun s a bs => ⟨peek_poke s a bs, fun x hx => byteAt_poke_outside s hx, rfl, poke_memForm s a bs⟩, ?bytes, ?lag, ?corrected, ?lost, ?off⟩
  case bytes => exact fun s r errs codes _ _ _ _ _ => ⟨_, rfl, opScrub_bytes s r (errs ++ codes)⟩
  case lag =>
    intro s r c hup hvalid hopen hhbm hscrub hc hcol hworks
    refine Scrubbed.runs_nil ⟨hup, hvalid, hopen, hhbm, hscrub, hworks⟩
      ⟨?_, (passCounted_col_errors _ _ _ _).1, passCounted_mem _ _ _ _, passCounted_keeps _ _ _ _⟩
    rw [passCounted_col s r (s.region r) columns_nodup c, if_pos ⟨List.mem_range.mpr hc, hcol⟩]
    rfl
  case corrected =>
    intro s r l hup hvalid hopen hhbm hscrub hin hdata _ hworks
    refine Scrubbed.runs_one ⟨hup, hvalid, hopen, hhbm, hscrub, hworks⟩ _ ?_
    rw [passCounted_mem, (passCounted_col_errors _ _ _ _).1, patrolLine_correctable hworks _ _ hhbm hin hdata, memCe_col_ce, memCe_mem]
    exact ⟨rfl, rfl⟩
  case lost =>
    intro s r l hup hvalid hopen hhbm hscrub hin hdata hlight _ hworks
    refine Scrubbed.runs_one ⟨hup, hvalid, hopen, hhbm, hscrub, hworks⟩ _ ?_
    rw [passCounted_mem, (passCounted_col_errors _ _ _ _).2, patrolLine_lost hworks _ _ hhbm hin hdata hlight]
    refine ⟨memUe_col_ue s accScrub _ r (64 * l) 3, ?_, fun k hk => ?_, ?_⟩
    · rw [lineMeta_of_mem (passCounted_mem _ _ _ _), lineMeta_setLine, if_pos rfl]
    · rw [lineMeta_of_mem (passCounted_mem _ _ _ _), lineMeta_setLine, if_neg hk, lineMeta_of_mem (memUe_mem _ _ _ _ _ _)]
    · exact (LinesOnly.of_mem (memUe_mem s accScrub _ r (64 * l) 3)).cells
  case off =>
    intro s r errs codes hscrub
    show Host.Outcome.next (s.opScrub r (errs ++ codes)) = .next s
    have hpass : s.opScrub r (errs ++ codes) = s := by
      refine whenUp_of (fun t => t = s) rfl ?_
      dsimp only
      rw [if_pos (by simp [hscrub])]
    rw [hpass]

end Sys2Proof.Machine

/-! ## A region opens (R257, R431) -/

namespace Sys2Proof.Machine

open Sys2Proof (Keeps)

theorem region_of_regions {s t : State} (h : t.mem.regions = s.mem.regions) (r : Nat) : t.region r = s.region r := by
  rw [State.region, h, State.region]

theorem region_of_mem {s t : State} (h : t.mem = s.mem) (r : Nat) : t.region r = s.region r := region_of_regions (congrArg Mem.regions h) r

/-- Of the memory, only regions may differ. -/
def RegionsOnly (s t : State) : Prop := t.mem = { s.mem with regions := t.mem.regions }

theorem RegionsOnly.of_mem {s t u : State} (h : t.mem = u.mem) (hu : RegionsOnly s u) : RegionsOnly s t := by rw [RegionsOnly, h]; exact hu

/-- Region q once it is open. -/
def Region.opened (q : Region) : Region := { q with st := 2, debt := 0, sweeping := false }

/-- Every region of partition p is open. -/
def State.allOpen (s : State) (p : Nat) : Bool :=
  s.mem.regions.all fun e => !rgnValid e.2 || decide (rgnPart e.2 ≠ p) || decide (e.2.st = 2)

/-- What the opening of region r leaves: the region open, its partition ready when it was the last one that a building partition waited
for, and its collectives as they were. -/
structure RegionOpened (s t : State) (r : Nat) : Prop where
  region : t.region r = (s.region r).opened
  others : ∀ i, i ≠ r → t.region i = s.region i
  regionsOnly : RegionsOnly s t
  keeps : Keeps [.memory, .partitions] s t
  st : (t.part (rgnPart (s.region r))).st =
    if (s.part (rgnPart (s.region r))).st = .building ∧ t.allOpen (rgnPart (s.region r)) = true then .ready else (s.part (rgnPart (s.region r))).st
  colls : (t.part (rgnPart (s.region r))).colls = (s.part (rgnPart (s.region r))).colls
  asks : (t.part (rgnPart (s.region r))).collAsk = (s.part (rgnPart (s.region r))).collAsk

theorem opInitDone_opened {s : State} {r : Nat} (hup : s.up = true) (hst : (s.region r).st = 1) : RegionOpened s (s.opInitDone r) r := by
  unfold State.opInitDone
  rw [whenUp_of_up hup]
  dsimp only
  rw [if_neg (by simp [hst])]
  generalize hp : rgnPart (s.region r) = p
  generalize hu : (s.updRegion r fun q => { q with st := 2, debt := 0, sweeping := false }) = u
  have hregion : u.region r = (s.region r).opened := by rw [← hu, updRegion_region_same]; rfl
  have hothers : ∀ i, i ≠ r → u.region i = s.region i := fun i hi => by rw [← hu, updRegion_region_ne _ _ _ hi]
  have hmem : RegionsOnly s u := by rw [← hu]; rfl
  have hkeeps : Keeps [.memory, .partitions] s u := by rw [← hu]; exact .of_patch rfl
  have hpart : u.part p = s.part p := by rw [← hu, updRegion_part]
  generalize hv : (if (u.part p).wipeSt = 3 ∧ (u.part p).wipeRegion = r then
    u.updPart p fun x => { x with wipeSt := 4, wipeGen := (s.region r).gen } else u) = v
  obtain ⟨hvmem, hvkeeps, hvst, hvcolls, hvasks⟩ : v.mem = u.mem ∧ Keeps [.memory, .partitions] u v ∧ (v.part p).st = (s.part p).st ∧
      (v.part p).colls = (s.part p).colls ∧ (v.part p).collAsk = (s.part p).collAsk := by
    rw [← hv, ← hpart]
    split
    · rw [updPart_part_same]
      exact ⟨rfl, .of_patch rfl, rfl, rfl, rfl⟩
    · exact ⟨rfl, .refl _ u, rfl, rfl, rfl⟩
  have hopen : ∀ t : State, t.mem = v.mem → t.allOpen p = v.mem.regions.all fun e => !rgnValid e.2 || decide (rgnPart e.2 ≠ p) || decide (e.2.st = 2) :=
    fun t ht => by rw [State.allOpen, ht]
  have hdone : ∀ t : State, t.mem = v.mem → (∀ i, t.region i = u.region i) ∧ RegionsOnly s t := fun t ht =>
    ⟨region_of_mem (ht.trans hvmem), .of_mem (ht.trans hvmem) hmem⟩
  split
  · next hready =>
    obtain ⟨hreg, honly⟩ := hdone (v.updPart p fun x => { x with st := .ready }) rfl
    refine ⟨(hreg r).trans hregion, fun i hi => (hreg i).trans (hothers i hi), honly, hkeeps.trans (hvkeeps.trans (.of_patch rfl)), ?_, ?_, ?_⟩ <;>
      rw [hp, updPart_part_same]
    · rw [if_pos ⟨hvst ▸ hready.1, (hopen _ rfl).trans hready.2⟩]
    · exact hvcolls
    · exact hvasks
  · next hready =>
    obtain ⟨hreg, honly⟩ := hdone v rfl
    refine ⟨(hreg r).trans hregion, fun i hi => (hreg i).trans (hothers i hi), honly, hkeeps.trans hvkeeps, ?_, ?_, ?_⟩ <;> rw [hp]
    · rw [hvst, if_neg]
      rwa [hopen v rfl, ← hvst]
    · exact hvcolls
    · exact hvasks

/-- Collectives that are done, with nothing asked of them, go on with nothing (R257). -/
theorem collResume_idle {s : State} {p : Nat} (errs : List MemErr) (hdone : ∀ x ∈ (s.part p).colls, x.done = true)
    (hask : (s.part p).collAsk = []) : s.collResume p errs = s := by
  have hfold : ∀ l : List CollRun, (∀ x ∈ l, x.done = true) → l.foldl (fun s x => if x.done then s else s.collSettle p x errs) s = s := by
    intro l
    induction l with
    | nil => exact fun _ => rfl
    | cons x l ih =>
      intro h
      rw [List.foldl_cons, if_pos (h x List.mem_cons_self)]
      exact ih fun y hy => h y (List.mem_cons_of_mem _ hy)
  rw [State.collResume, hfold _ hdone, State.collServe, hask, List.foldl_nil]

/-- With no packet held back and every collective done, the row is the opening alone. -/
theorem regionOpens_opened {s : State} {r : Nat} (hup : s.up = true) (hst : (s.region r).st = 1) (hheld : ∀ e ∈ s.net.conns, e.2.rxHeld = [])
    (hdone : ∀ x ∈ (s.part (rgnPart (s.region r))).colls, x.done = true) (hask : (s.part (rgnPart (s.region r))).collAsk = []) :
    s.regionOpens r = s.opInitDone r := by
  have hopened := opInitDone_opened hup hst
  have hnone : (s.opInitDone r).net.conns.filter (fun e => !e.2.rxHeld.isEmpty) = [] := by
    rw [hopened.keeps .network (by decide), List.filter_eq_nil_iff]
    intro e he
    simp [hheld e he]
  have hpart : rgnPart ((s.opInitDone r).region r) = rgnPart (s.region r) := by rw [hopened.region]; rfl
  rw [State.regionOpens, whenUp_of_up hup]
  dsimp only
  rw [hnone, List.foldl_nil, hpart]
  exact collResume_idle [] (hopened.colls ▸ hdone) (hopened.asks.trans hask)

end Sys2Proof.Machine

/-! ## MEM_WIPE written by a session (R258, R259, R287, R433) -/

namespace Sys2Proof.Machine

open Sys2Proof (Keeps)

/-- The registers of a partition's memory stand at their place in the index (R537). -/
theorem locate_memPart (p off : Nat) (hp : p < 16) (ho : off < 0x40) : locate (0x3000 + 0x40 * p + off) = some (.memPart p, off) := by
  have hblock : arrayBlock (0x3000 + 0x40 * p + off) 0x3000 0x40 16 .memPart = some (.memPart p, off) := arrayBlock_some _ _ hp ho
  have hwin : 0x3000 + 0x40 * p + off < 0x100000000 := by omega
  simp (disch := omega) only [locate, hwin, if_true, locateLow, oneBlock_none, arrayBlock_none, hblock,
    Option.orElse_eq_orElse, Option.orElse_eq_or, Option.none_or, Option.some_or]

section
variable {s : State} {v : Via} {p : Nat} (hvia : ViaOpen s v 2) (hp : p < 16) (hpart : connPart (s.conn v.conn) = p)
include hvia hp hpart

/-- The controlling session's write of a register of its partition's memory passes the checks of R539. -/
theorem ctlCheck_memPart (off : Nat) (ho : off < 0x40) (halign : off % 8 = 0) :
    s.ctlCheck v.conn true (0x3000 + 0x40 * p + off) = .ok (.memPart p, off) := by
  obtain ⟨hrec, hlev⟩ := gates_of_viaOpen hvia (0x3000 + 0x40 * p + off)
  obtain ⟨-, -, -, -, hkind, -⟩ := hvia
  have hrole : s.roleMay (s.conn v.conn) true (.memPart p) off = true := by simp [State.roleMay, hkind, State.blockPart, hpart]
  exact ctlCheck_passes hrec hlev (by omega) (locate_memPart p off hp ho) hrole (by simp [State.stateMay, blockCol])

/-- MEM_WIPE of the controlling session is answered as the request for the wipe is. -/
theorem runs_memWipe {r st : Nat} {u : State} {P : State → Prop} (hr : r < 4096) (hwipe : s.opWipe p r = (st, u))
    (h : ∀ t, Answered v (0x3000 + 0x40 * p) st u t → P t) : Runs (.memWipe v p r) s P := by
  have hfld : fld (at_ 11 0 r) 11 0 = r := by
    rw [fld_at r (by decide) (by decide)]
    exact Nat.mod_eq_of_lt hr
  have hst : (s.conn v.conn).st = 2 := hvia.2.2.2.1
  have hwrite : s.ctlWrite v.conn (0x3000 + 0x40 * p) (at_ 11 0 r) [] = (st, u) := by
    have hcheck : s.ctlCheck v.conn true (0x3000 + 0x40 * p) = .ok (.memPart p, 0) := ctlCheck_memPart hvia hp hpart 0 (by decide) rfl
    simp only [State.ctlWrite, hcheck, hst, State.writeReg, hfld, hwipe]
    rfl
  refine ⟨_, congrArg Host.Outcome.next (?_ : s.within p 16 _ = _), h _ rfl⟩
  rw [State.within, if_pos hp, viaWrite_open hvia, hwrite]

end

theorem traceRegion_keeps (s : State) (r point : Nat) : Keeps [.stewards] s (s.traceRegion r point) := traceLead_keeps _ _ _ _ _

theorem traceRegion_region (s : State) (r point i : Nat) : (s.traceRegion r point).region i = s.region i := region_of_mem (traceRegion_mem s r point) i

theorem nextGen_region_same (s : State) (r : Nat) : (s.nextGen r).region r = wipeGen (s.region r) := by
  rw [State.nextGen, traceRegion_region, updRegion_region_same]

theorem nextGen_region_ne (s : State) {r i : Nat} (h : i ≠ r) : (s.nextGen r).region i = s.region i := by
  rw [State.nextGen, traceRegion_region, updRegion_region_ne _ _ _ h]

theorem nextGen_keeps (s : State) (r : Nat) : Keeps [.memory, .stewards] s (s.nextGen r) := by
  refine .trans (t := s.updRegion r wipeGen) (.of_patch rfl) ((traceRegion_keeps _ _ _).mono (by decide))

theorem nextGen_regionsOnly (s : State) (r : Nat) : RegionsOnly s (s.nextGen r) :=
  .of_mem (u := s.updRegion r wipeGen) (traceRegion_mem _ _ _) rfl

/-- What a wipe asks of its region, besides that it lies in HBM and checks errors: it is valid, of the partition, open, and no schedule of the
partition runs or drains (R258). -/
structure Wipeable (s : State) (p r : Nat) : Prop where
  valid : rgnValid (s.region r) = true
  part : rgnPart (s.region r) = p
  opened : (s.region r).st = 2
  notRunning : (s.part p).schSt ≠ 2
  notDraining : (s.part p).schSt ≠ 3
  hbm : rgnHbm (s.region r) = true
  coded : rgnRaw (s.region r) = false

/-- Partition q with a wipe of region r recorded (R287). -/
def Part.wiped (st r gen : Nat) (q : Part) : Part := { q with wipeSt := st, wipeCause := 0, wipeRegion := r, wipeGen := gen }

theorem opWipe_accepted {s : State} {p r : Nat} (h : Wipeable s p r) :
    s.opWipe p r = (0, (s.wipeRegion r).2.updPart p (Part.wiped (s.wipeRegion r).1 r ((s.wipeRegion r).2.region r).gen)) := by
  unfold State.opWipe
  dsimp only
  rw [if_neg (by simp [h.valid, h.part, h.opened]), if_neg (by simp [h.notRunning, h.notDraining])]
  rfl

theorem opWipe_rejected {s : State} {p r : Nat} (h : rgnValid (s.region r) = false ∨ rgnPart (s.region r) ≠ p ∨ (s.region r).st ≠ 2) :
    s.opWipe p r = (4, s.updPart p fun x => { x with wipeSt := 5, wipeCause := 1, wipeRegion := r % 4096, wipeGen := (s.region r).gen }) := by
  unfold State.opWipe
  dsimp only
  rw [if_pos (by simpa using h)]

/-- A wipe whose debt has room takes the next generation at once (R259). -/
theorem wipeRegion_now {s : State} {p r : Nat} (h : Wipeable s p r) (hdebt : (s.region r).debt < 14) :
    s.wipeRegion r = (4, (s.traceRegion r 0).nextGen r) := by
  unfold State.wipeRegion
  dsimp only
  rw [traceRegion_region, if_neg (by simp [h.hbm]), if_neg (by simp [h.coded]), if_neg (by omega)]

/-- A wipe at a debt of 14 waits for a pass (R260). -/
theorem wipeRegion_waits {s : State} {p r : Nat} (h : Wipeable s p r) (hdebt : 14 ≤ (s.region r).debt) :
    s.wipeRegion r = (2, (s.traceRegion r 0).updRegion r fun q => { q with sweeping := true, waiting := q.waiting + 1 }) := by
  unfold State.wipeRegion
  dsimp only
  rw [traceRegion_region, if_neg (by simp [h.hbm]), if_neg (by simp [h.coded]), if_pos hdebt]

end Sys2Proof.Machine

/-! ## A sweep pass (R259, R260) -/

namespace Sys2Proof

namespace Table
variable {α : Type}

/-- What follows in a strictly rising table has greater indices. -/
theorem lt_of_rising {j : Nat} {t : Table α} (h : rising (some j) t = true) {e : Nat × α} (he : e ∈ t) : j < e.1 := by
  induction t generalizing j with
  | nil => cases he
  | cons x t ih =>
    obtain ⟨i, v⟩ := x
    simp only [rising, Bool.and_eq_true, decide_eq_true_eq] at h
    obtain ⟨hji, hrest⟩ := h
    rcases List.mem_cons.mp he with rfl | he
    · exact hji
    · exact Nat.lt_trans hji (ih hrest he)

/-- An entry of a strictly rising table is what its index reads as. -/
theorem get_of_mem (d : α) {t : Table α} {o : Option Nat} (h : rising o t = true) {e : Nat × α} (he : e ∈ t) : get d t e.1 = e.2 := by
  induction t generalizing o with
  | nil => cases he
  | cons x t ih =>
    obtain ⟨j, v⟩ := x
    have hrest : rising (some j) t = true := by
      cases o <;> simp only [rising, Bool.and_eq_true] at h
      · exact h
      · exact h.2
    rcases List.mem_cons.mp he with rfl | he
    · exact if_pos rfl
    · have hlater : j < e.1 := lt_of_rising hrest he
      exact (if_neg (by omega)).trans (ih hrest he)

end Table

end Sys2Proof

namespace Sys2Proof.Machine

open Sys2Proof (Keeps)

/-- A line rewritten as an invalid one, zero in every byte (R260). -/
def State.zeroLine (s : State) (l : Nat) : State := (s.poke (64 * l) (zeros 64)).setLine l none

theorem poke_lineMeta (s : State) (a : Nat) (bs : Bytes) (k : Nat) : (s.poke a bs).lineMeta k = s.lineMeta k := rfl
theorem poke_setLine_keeps (s : State) (a : Nat) (bs : Bytes) (l : Nat) (m : Option LineMeta) : Keeps [.memory] s ((s.poke a bs).setLine l m) :=
  .of_patch rfl

theorem zeroLine_keeps (s : State) (l : Nat) : Keeps [.memory] s (s.zeroLine l) := poke_setLine_keeps s _ _ l none

theorem zeroLine_regions (s : State) (l : Nat) : (s.zeroLine l).mem.regions = s.mem.regions := by
  rw [State.zeroLine, setLine_regions, poke_regions]

theorem zeroLine_lineMeta (s : State) (l k : Nat) : (s.zeroLine l).lineMeta k = if k = l then none else s.lineMeta k := by
  rw [State.zeroLine, lineMeta_setLine, poke_lineMeta]

theorem zeroLine_byteAt (s : State) (l x : Nat) : byteAt (s.zeroLine l) x = if x / 64 = l then 0 else byteAt s x := by
  rw [State.zeroLine, byteAt_setLine, byteAt_poke, zeros, List.length_replicate]
  by_cases hx : x / 64 = l
  · rw [if_pos (by omega), if_pos hx, List.getD_replicate _ (by omega)]
  · rw [if_neg (by omega), if_neg hx]

/-- The lines of region q's allocation that are of an earlier generation (R260). -/
def State.staleLines (s : State) (q : Region) : List Nat :=
  (s.mem.lines.filter fun e => rgnHas q (64 * e.1) && !(e.2.any fun m => m.gen = q.gen)).map (·.1)

theorem sweepLines_eq (s : State) (q : Region) : s.sweepLines q = (s.staleLines q).foldl State.zeroLine s := rfl

theorem zeroLines_keeps (s : State) (ls : List Nat) : Keeps [.memory] s (ls.foldl State.zeroLine s) :=
  Keeps.foldl _ _ s zeroLine_keeps

theorem zeroLines_regions (s : State) (ls : List Nat) : (ls.foldl State.zeroLine s).mem.regions = s.mem.regions := by
  induction ls generalizing s with
  | nil => rfl
  | cons l ls ih => rw [List.foldl_cons, ih, zeroLine_regions]

theorem zeroLines_lineMeta (s : State) (ls : List Nat) (k : Nat) :
    (ls.foldl State.zeroLine s).lineMeta k = if k ∈ ls then none else s.lineMeta k := by
  induction ls generalizing s with
  | nil => simp
  | cons l ls ih =>
    rw [List.foldl_cons, ih, zeroLine_lineMeta]
    by_cases hk : k = l <;> simp [hk]

theorem zeroLines_byteAt (s : State) (ls : List Nat) (x : Nat) :
    byteAt (ls.foldl State.zeroLine s) x = if x / 64 ∈ ls then 0 else byteAt s x := by
  induction ls generalizing s with
  | nil => simp
  | cons l ls ih =>
    rw [List.foldl_cons, ih, zeroLine_byteAt]
    by_cases hx : x / 64 = l <;> simp [hx]

/-- A line is stale when its metadata are listed, of the region, and of another generation. -/
theorem mem_staleLines {s : State} (hwf : Sys2Proof.Memory.wf s.mem) {q : Region} {l : Nat} {m : LineMeta} (hm : s.lineMeta l = some m) :
    l ∈ s.staleLines q ↔ rgnHas q (64 * l) = true ∧ m.gen ≠ q.gen := by
  obtain ⟨-, hlines, -, -⟩ := hwf
  simp only [Table.wf, Bool.and_eq_true] at hlines
  obtain ⟨hrising, -⟩ := hlines
  simp only [State.staleLines, List.mem_map, List.mem_filter]
  constructor
  · rintro ⟨e, ⟨he, hhit⟩, rfl⟩
    have hmeta : e.2 = some m := (Table.get_of_mem none hrising he).symm.trans hm
    simpa [hmeta] using hhit
  · intro h
    refine ⟨(l, some m), ⟨?_, by simpa using h⟩, rfl⟩
    obtain hmem | hnone := Table.get_mem_or none s.mem.lines l
    · exact (show Table.get none s.mem.lines l = some m from hm) ▸ hmem
    · exact absurd (hm.symm.trans hnone) (by simp)

/-- Region q once a pass has ended (R260). -/
def Region.swept (q : Region) : Region := { q with debt := 0, sweeping := false, waiting := 0 }

/-- A pass with nothing left to do but the lines: what it meets, what it rewrites, and the region (R260). -/
def State.passDone (s : State) (r : Nat) (errs : List MemErr) : State :=
  ((((s.patrol accSweep r (s.region r) errs).sweepLines (s.region r)).updRegion r Region.swept).traceRegion r 2)

theorem opSweepDone_quiet {s : State} {r : Nat} (errs : List MemErr) (hup : s.up = true) (hsweep : (s.region r).sweeping = true)
    (hopen : (s.region r).st = 2) (hwait : (s.region r).waiting = 0) : s.opSweepDone r errs = s.passDone r errs := by
  unfold State.opSweepDone
  rw [whenUp_of_up hup]
  dsimp only
  rw [if_neg (by simp [hsweep, hopen]), if_pos hwait]
  rfl

theorem passDone_region (s : State) (r : Nat) (errs : List MemErr) :
    (s.passDone r errs).region r = (s.region r).swept ∧ ∀ i, i ≠ r → (s.passDone r errs).region i = s.region i := by
  have hlines : ∀ i, ((s.patrol accSweep r (s.region r) errs).sweepLines (s.region r)).region i = s.region i := fun i =>
    region_of_regions ((zeroLines_regions _ (State.staleLines _ _)).trans (patrol_linesOnly s accSweep r (s.region r) errs).2.regions) i
  unfold State.passDone
  refine ⟨?_, fun i hi => ?_⟩
  · rw [traceRegion_region, updRegion_region_same, hlines]
  · rw [traceRegion_region, updRegion_region_ne _ _ _ hi, hlines]

/-- Without an error or a failed pseudo-channel, a pass only rewrites the stale lines (R260). -/
theorem passDone_frame {s : State} (hworks : ∀ k, (s.col k).pcFailed = 0) (r : Nat) :
    (∀ l, (s.passDone r []).lineMeta l = (s.sweepLines (s.region r)).lineMeta l) ∧
      (∀ x, byteAt (s.passDone r []) x = byteAt (s.sweepLines (s.region r)) x) ∧ Keeps [.memory, .stewards] s (s.passDone r []) := by
  have hmem := traceRegion_mem ((s.sweepLines (s.region r)).updRegion r Region.swept) r 2
  unfold State.passDone
  rw [patrol_nil hworks]
  refine ⟨fun l => lineMeta_of_mem hmem l, fun x => byteAt_of_mem hmem x, ?_⟩
  refine .trans ((zeroLines_keeps s _).mono (by decide)) (.trans (t := (s.sweepLines (s.region r)).updRegion r Region.swept) (.of_patch rfl) ?_)
  exact (traceRegion_keeps _ _ _).mono (by decide)

/-! ### The wipes that waited for a pass -/

/-- Successive wipes of a region (R259). -/
def State.nextGens (s : State) (r n : Nat) : State := (List.range n).foldl (fun s _ => s.nextGen r) s

theorem nextGens_succ (s : State) (r n : Nat) : s.nextGens r (n + 1) = (s.nextGens r n).nextGen r := by
  rw [State.nextGens, List.range_succ, List.foldl_append]
  rfl

theorem nextGens_region_ne (s : State) {r i : Nat} (h : i ≠ r) (n : Nat) : (s.nextGens r n).region i = s.region i := by
  induction n with
  | zero => rfl
  | succ n ih => rw [nextGens_succ, nextGen_region_ne _ h, ih]

/-- Each wipe counts: in the generation, modulo 16, and in the debt (R259). -/
theorem nextGens_region_same (s : State) (r n : Nat) :
    (s.nextGens r (n + 1)).region r =
      { s.region r with gen := ((s.region r).gen + (n + 1)) % 16, debt := (s.region r).debt + (n + 1), sweeping := true } := by
  induction n with
  | zero => exact nextGen_region_same s r
  | succ n ih =>
    rw [nextGens_succ, nextGen_region_same, ih]
    simp only [wipeGen, Nat.mod_add_mod, Nat.add_assoc]

/-- A pass lets every wipe that waited take its generation (R260). -/
theorem opSweepDone_waited {s : State} {r : Nat} (errs : List MemErr) (hup : s.up = true) (hsweep : (s.region r).sweeping = true)
    (hopen : (s.region r).st = 2) (hwait : (s.region r).waiting ≠ 0) :
    ∀ i, (s.opSweepDone r errs).region i = ((s.passDone r errs).nextGens r (s.region r).waiting).region i := by
  have htold : ∀ (u : State) (p i : Nat) (f : Part → Part) (c : Prop) [Decidable c], (if c then u.updPart p f else u).region i = u.region i :=
    fun u p i f c _ => by split <;> rfl
  intro i
  unfold State.opSweepDone
  rw [whenUp_of_up hup]
  dsimp only
  rw [if_neg (by simp [hsweep, hopen]), if_neg hwait, htold]
  rfl

/-- What the statements read of a pass that let wipes proceed. -/
theorem opSweepDone_waited_region {s : State} {r : Nat} (errs : List MemErr) (hup : s.up = true) (hsweep : (s.region r).sweeping = true)
    (hopen : (s.region r).st = 2) (hwait : (s.region r).waiting ≠ 0) :
    (s.opSweepDone r errs).region r =
        { s.region r with gen := ((s.region r).gen + (s.region r).waiting) % 16, debt := (s.region r).waiting, waiting := 0 } ∧
      ∀ i, i ≠ r → (s.opSweepDone r errs).region i = s.region i := by
  obtain ⟨hdone, hothers⟩ := passDone_region s r errs
  obtain ⟨n, hn⟩ := Nat.exists_eq_succ_of_ne_zero hwait
  constructor
  · rw [opSweepDone_waited errs hup hsweep hopen hwait, hn, nextGens_region_same, hdone]
    simp [Region.swept, hsweep]
  · intro i hi
    rw [opSweepDone_waited errs hup hsweep hopen hwait, nextGens_region_ne _ hi, hothers i hi]

theorem opSweepDone_idle {s : State} {r : Nat} (errs : List MemErr) (hsweep : (s.region r).sweeping = false) : s.opSweepDone r errs = s := by
  refine whenUp_of (fun t => t = s) rfl ?_
  dsimp only
  rw [if_pos (by simp [hsweep])]

theorem allOpen_of {s : State} {p : Nat} (h : ∀ e ∈ s.mem.regions, rgnValid e.2 = true → rgnPart e.2 = p → e.2.st = 2) : s.allOpen p = true := by
  refine List.all_eq_true.mpr fun e he => ?_
  have hopen := h e he
  simp only [Bool.or_eq_true, Bool.not_eq_true', decide_eq_true_eq]
  by_cases hvalid : rgnValid e.2 = true
  · by_cases hp : rgnPart e.2 = p
    · exact .inr (hopen hvalid hp)
    · exact .inl (.inr hp)
  · exact .inl (.inl (by simpa using hvalid))

/-- Settles O28: the opening by `opInitDone_opened`, a wipe by `runs_memWipe`, and a pass by the lines that are stale (`mem_staleLines`)
and the wipes that wait (`nextGens_region_same`). -/
theorem regionsOpenWipeAndSweep : Obligations.RegionsOpenWipeAndSweep := by
  refine ⟨?opens, ?wiped, ?waits, ?refused, ?swept, ?proceeds, ?idle⟩
  case opens =>
    intro s r hup hst hheld hdone hask
    have h := opInitDone_opened hup hst
    refine ⟨_, congrArg Host.Outcome.next (regionOpens_opened hup hst hheld hdone hask), h.region, h.others, fun hbuilding hall => ?_,
      fun hready => ?_, h.regionsOnly, h.keeps⟩
    · rw [h.st, if_pos ⟨hbuilding, allOpen_of hall⟩]
    · rw [h.st, if_neg (fun hboth => hready hboth.1)]
  case wiped =>
    intro s v p r hvia hp hpart hr hvalid hown hopen hrun hdrain hhbm hraw hdebt
    have h : Wipeable s p r := ⟨hvalid, hown, hopen, hrun, hdrain, hhbm, hraw⟩
    have hmem := nextGen_regionsOnly (s.traceRegion r 0) r
    have hkeeps : Keeps [.memory, .stewards] s ((s.traceRegion r 0).nextGen r) :=
      ((traceRegion_keeps s r 0).mono (by decide)).trans (nextGen_keeps _ _)
    have hregion : ((s.traceRegion r 0).nextGen r).region r = wipeGen (s.region r) := by rw [nextGen_region_same, traceRegion_region]
    refine runs_memWipe hvia hp hpart hr (opWipe_accepted h) fun t ht => ⟨_, ht, ?_⟩
    rw [wipeRegion_now h hdebt]
    refine ⟨hregion, fun i hi => ?_, ?_, ?_, (hkeeps.mono (by decide)).trans (.of_patch rfl)⟩
    · exact (nextGen_region_ne _ hi).trans (traceRegion_region _ _ _ _)
    · exact hmem.trans (by rw [traceRegion_mem]; rfl)
    · rw [updPart_part_same, part_of_keeps hkeeps (by decide), hregion]
      rfl
  case waits =>
    intro s v p r hvia hp hpart hr hvalid hown hopen hrun hdrain hhbm hraw hdebt
    have h : Wipeable s p r := ⟨hvalid, hown, hopen, hrun, hdrain, hhbm, hraw⟩
    refine runs_memWipe hvia hp hpart hr (opWipe_accepted h) fun t ht => ⟨_, ht, ?_⟩
    rw [wipeRegion_waits h hdebt]
    refine ⟨?_, ?_, ?_⟩
    · rw [updPart_part_same]
      rfl
    · rw [updPart_region, updRegion_region_same, traceRegion_region]
    · exact (congrArg Mem.cells (traceRegion_mem s r 0) : (s.traceRegion r 0).mem.cells = s.mem.cells)
  case refused =>
    intro s v p r hvia hp hpart hr hbad
    refine runs_memWipe hvia hp hpart hr (opWipe_rejected hbad) fun t ht => ?_
    rwa [Nat.mod_eq_of_lt hr] at ht
  case swept =>
    intro s r hup hwf hsweep hopen hwait hworks
    obtain ⟨hmeta, hbytes, hkeeps⟩ := passDone_frame hworks r
    refine ⟨_, congrArg Host.Outcome.next (opSweepDone_quiet [] hup hsweep hopen hwait), ?_, fun l m hm hin hgen => ?_, fun l m hm hkept => ?_, hkeeps⟩
    · rw [(passDone_region s r []).1, Region.swept, ← hwait]
    · have hstale : l ∈ s.staleLines (s.region r) := (mem_staleLines hwf hm).mpr ⟨hin, hgen⟩
      refine ⟨?_, fun i hi => ?_⟩
      · rw [hmeta, sweepLines_eq, zeroLines_lineMeta, if_pos hstale]
      · rw [hbytes, sweepLines_eq, zeroLines_byteAt, show (64 * l + i) / 64 = l by omega, if_pos hstale]
    · have hfresh : l ∉ s.staleLines (s.region r) := by
        rw [mem_staleLines hwf hm]
        rintro ⟨hin, hgen⟩
        exact hkept.elim (fun hout => by simp [hin] at hout) hgen
      refine ⟨?_, fun i hi => ?_⟩
      · rw [hmeta, sweepLines_eq, zeroLines_lineMeta, if_neg hfresh, hm]
      · rw [hbytes, sweepLines_eq, zeroLines_byteAt, show (64 * l + i) / 64 = l by omega, if_neg hfresh]
  case proceeds =>
    intro s r errs hup hsweep hopen hwait
    obtain ⟨hregion, hothers⟩ := opSweepDone_waited_region errs hup hsweep hopen hwait
    refine ⟨_, rfl, ?_⟩
    show ((s.opSweepDone r errs).region r).gen = _ ∧ ((s.opSweepDone r errs).region r).debt = _ ∧ ((s.opSweepDone r errs).region r).waiting = 0 ∧
      ((s.opSweepDone r errs).region r).sweeping = true ∧ _
    rw [hregion]
    exact ⟨rfl, rfl, rfl, hsweep, hothers⟩
  case idle =>
    intro s r errs hsweep
    exact congrArg Host.Outcome.next (opSweepDone_idle errs hsweep)

end Sys2Proof.Machine

/-! ## A channel freed beside another operation that is complete (R275, R306) -/

namespace Sys2Proof.Machine

/-- A READ that an uncorrectable line has stopped. -/
def stoppedRead : Pkt := Pkt.blank opRead

/-- The stopped READ at its receiver. -/
def stoppedReadOp : RxOp := ⟨0, opRead, 0, none, relNone, 0, false, [], [], [], []⟩

/-- A refused WRITE of the same session, all of whose packets have arrived: a granule that it placed, zero now, held a 1 before. -/
def refusedWriteOp : RxOp :=
  ⟨1, opWrite, 1, some 0, relNone, 0, false, [], [], [], [⟨0, 0, 0, [some (1 :: zeros 63, false)], zeros 256⟩]⟩

/-- A session of partition 0 with both operations under way. -/
def stoppedSession : Conn := { Conn.reset with cfg := at_ 63 61 2, st := 2, rxNext := 1, rxOps := [stoppedReadOp, refusedWriteOp] }

/-- The module with that session, whose channel is halted with the READ. -/
def haltedBesideWrite : State :=
  { State.reset with
    pwr := { Pwr.reset with phase := .on }
    fw := { Fw.reset with service := .operational }
    net := { Net.reset with conns := [(0, stoppedSession)] }
    parts := [(0, { Part.reset with dma := [(0, ⟨true, 0, 0, [], some stoppedRead⟩)] })] }

theorem haltedBesideWrite_via : ViaOpen haltedBesideWrite ⟨0, 2⟩ 2 := by
  unfold ViaOpen
  decide +kernel

/-- Once the channel is freed, the refused WRITE completes and puts its byte back (R306). -/
theorem haltedBesideWrite_resumed : byteAt (haltedBesideWrite.dmaCtrl ⟨0, 2⟩ 0 0 8) 0 = 1 ∧ byteAt haltedBesideWrite 0 = 0 := by decide +kernel

/-- Refutes O47: MEM_DMA_RESUME also completes whatever other operation of the connection is complete, and a refused WRITE among them puts
back what it replaced, so that memory changes. The statement supposes that the channel holds no packet, not that the connection has no
other operation. -/
theorem not_readsAreServedOrHalted : ¬ Obligations.ReadsAreServedOrHalted := by
  intro h
  obtain ⟨-, -, -, -, -, hfreed, -⟩ := h
  obtain ⟨⟨t, hrun, -, -, hmem⟩, -⟩ := hfreed haltedBesideWrite ⟨0, 2⟩ 0 0 ⟨true, 0, 0, [], some stoppedRead⟩ stoppedRead stoppedReadOp
    haltedBesideWrite_via (by decide) (by decide +kernel) (by decide) rfl rfl rfl rfl rfl (by decide +kernel)
  obtain rfl : haltedBesideWrite.dmaCtrl ⟨0, 2⟩ 0 0 8 = t := Host.Outcome.next.inj hrun
  obtain ⟨hafter, hbefore⟩ := haltedBesideWrite_resumed
  have hsame := byteAt_of_mem hmem 0
  rw [hafter, hbefore] at hsame
  exact absurd hsame (by decide)

end Sys2Proof.Machine

/-! ## Where the lines of a region stand (R246, R247, R242) -/

namespace Sys2Proof.Machine

open Sys2Proof (Keeps)

/-- Within an aligned granule, device addresses follow allocation addresses. -/
theorem rgnDpa_add (r : Region) {a i : Nat} (ha : a % 256 = 0) (hi : i < 256) : rgnDpa r (a + i) = rgnDpa r a + i := by
  unfold rgnDpa
  dsimp only
  have hpage : (a + i) / 4096 = a / 4096 := by omega
  split
  · rw [hpage]
    omega
  · omega

/-- A line's device address is aligned as its allocation address. -/
theorem rgnDpa_aligned (r : Region) (a : Nat) : rgnDpa r a % 256 = a % 256 := by
  unfold rgnDpa
  dsimp only
  split
  · generalize a / 4096 / 2 ^ rgnWays r = n
    omega
  · omega

theorem phys_add (s : State) {d i : Nat} (hd : d % 256 = 0) (hi : i < 256) : s.phys (d + i) = s.phys d + i := by
  have hstack : (d + i) % 2 ^ 36 = d % 2 ^ 36 + i := by omega
  have hcol : dpaCol (d + i) = dpaCol d := by unfold dpaCol; omega
  have hcore : dpaCore (d + i) = dpaCore d := by
    unfold dpaCore
    rw [hstack, decide_eq_decide]
    omega
  unfold State.phys
  rw [hcore, hcol, hstack]
  split
  · next h =>
    simp only [dpaCore, decide_eq_true_eq] at h
    dsimp only
    have hslot : (d % 2 ^ 36 + i - 0xFE0000000) / 2 ^ 20 = (d % 2 ^ 36 - 0xFE0000000) / 2 ^ 20 := by omega
    rw [hslot]
    omega
  · rfl

/-- Byte i of the granule at allocation address a stands i bytes after its first. -/
theorem phys_gran (s : State) (r : Region) {a i : Nat} (ha : a % 256 = 0) (hi : i < 256) :
    s.phys (rgnDpa r (a + i)) = s.phys (rgnDpa r a) + i := by
  rw [rgnDpa_add r ha hi, phys_add s ((rgnDpa_aligned r a).trans ha) hi]

theorem rgnWays_lt (r : Region) : rgnWays r < 8 := by
  unfold rgnWays fld
  exact Nat.mod_lt _ (by decide)

/-- The page of an allocation address lies within its way's share of the allocation (R247). -/
theorem page_within {r : Region} {a : Nat} (ha : a < rgnBytes r) :
    a / 4096 / 2 ^ rgnWays r * 4096 + a % 4096 < rgnBytes r / 2 ^ rgnWays r := by
  obtain ⟨k, hk⟩ : ∃ k, 2 ^ rgnWays r * k = 256 := ⟨2 ^ (8 - rgnWays r), by
    rw [← Nat.pow_add, show rgnWays r + (8 - rgnWays r) = 8 by have := rgnWays_lt r; omega]⟩
  unfold rgnBytes at ha ⊢
  have hpos : 0 < 2 ^ rgnWays r := Nat.two_pow_pos _
  generalize 2 ^ rgnWays r = w at *
  have hshare : rgnSize r * 2 ^ 20 / w = rgnSize r * k * 4096 :=
    Nat.div_eq_of_eq_mul_right hpos (by rw [show 2 ^ 20 = w * k * 4096 by rw [hk]; rfl]; ring)
  have hrow : a / 4096 / w < rgnSize r * k := by
    refine Nat.div_lt_of_lt_mul ?_
    have : w * (rgnSize r * k) = rgnSize r * 256 := by rw [← hk]; ring
    omega
  rw [hshare]
  omega

section Hbm

variable {r : Region} (hhbm : rgnHbm r = true) (hfits : Sys2Proof.RegionFits r) {a : Nat} (ha : a < rgnBytes r)
include hhbm hfits ha

theorem rgnDpa_hbm : rgnDpa r a % 2 ^ 36 = rgnDbase r % 2 ^ 16 * 2 ^ 20 + (a / 4096 / 2 ^ rgnWays r * 4096 + a % 4096) ∧
    dpaCol (rgnDpa r a) = rgnDbase r / 2 ^ 16 + a / 4096 % 2 ^ rgnWays r ∧ rgnDpa r a % 2 ^ 36 < 0xFE0000000 := by
  have hpage := page_within ha
  have hend := hfits hhbm
  rw [rgnDpa, if_pos hhbm]
  unfold dpaCol
  dsimp only
  generalize rgnBytes r / 2 ^ rgnWays r = share at hpage hend
  generalize a / 4096 % 2 ^ rgnWays r = way
  generalize a / 4096 / 2 ^ rgnWays r = row at hpage ⊢
  omega

/-- HBM stands at its device address. -/
theorem phys_hbm (s : State) : s.phys (rgnDpa r a) = rgnDpa r a := by
  obtain ⟨-, -, hlow⟩ := rgnDpa_hbm hhbm hfits ha
  have hcore : dpaCore (rgnDpa r a) = false := by
    simp only [dpaCore, decide_eq_false_iff_not]
    omega
  rw [State.phys, hcore]
  rfl

/-- The device address of a line gives its allocation address back (R247). -/
theorem rgnAddrOf_rgnDpa : rgnAddrOf r (rgnDpa r a) = a := by
  obtain ⟨hoff, hcol, -⟩ := rgnDpa_hbm hhbm hfits ha
  unfold rgnAddrOf
  dsimp only
  rw [hcol, hoff, Nat.add_sub_cancel_left, Nat.add_sub_cancel_left]
  have hrow : (a / 4096 / 2 ^ rgnWays r * 4096 + a % 4096) / 4096 = a / 4096 / 2 ^ rgnWays r := by omega
  have hin : (a / 4096 / 2 ^ rgnWays r * 4096 + a % 4096) % 4096 = a % 4096 := by omega
  rw [hrow, hin, Nat.div_add_mod']
  omega

end Hbm

/-! ### The lines beside a granule (R246, R248, R249) -/

/-- What DLEN, the tag area and the parity shadow are, as fractions of the allocation (R246). -/
theorem rgnDlen_le_areas {r : Region} (hhbm : rgnHbm r = true) :
    (rgnTags r = true → rgnDlen r ≤ rgnTagBase r) ∧ (rgnStrong r = true → rgnDlen r ≤ rgnParBase r) ∧ rgnDlen r ≤ rgnBytes r := by
  unfold rgnStrong rgnDlen rgnTagBase rgnParBase rgnBytes
  dsimp only
  rw [hhbm]
  by_cases hcode : rgnCode r = 1 <;> by_cases htags : rgnTags r = true <;> simp [hcode, htags] <;> omega

/-- A line of data or tags of a strong region has its parity line in the shadow (R249). -/
theorem rgnParAt_in_shadow {r : Region} {y : Nat} (hy : y < rgnParBase r) :
    rgnParBase r ≤ rgnParAt r (rgnStripe r y) ∧ rgnParAt r (rgnStripe r y) < rgnBytes r ∧ rgnParAt r (rgnStripe r y) % 64 = 0 := by
  rw [rgnStripe, if_pos hy]
  unfold rgnParAt rgnParBase rgnBytes at *
  omega

/-- The line of a granule's tag lies in the tag area (R248). -/
theorem tagLine_in_area {r : Region} {a : Nat} (hhbm : rgnHbm r = true) (htags : rgnTags r = true) (ha : a < rgnDlen r) :
    rgnDlen r ≤ rgnTagAt r (a / 256) / 64 * 64 ∧ rgnTagAt r (a / 256) / 64 * 64 < rgnBytes r ∧
      (rgnStrong r = true → rgnTagAt r (a / 256) / 64 * 64 < rgnParBase r) := by
  unfold rgnStrong rgnTagAt rgnDlen rgnTagBase rgnParBase rgnBytes at *
  dsimp only at *
  rw [hhbm, htags] at *
  by_cases hcode : rgnCode r = 1 <;> simp [hcode] at * <;> omega

theorem rgnDlen_aligned (r : Region) : rgnDlen r % 256 = 0 := by
  unfold rgnDlen rgnBytes
  dsimp only
  split
  · omega
  · split <;> split <;> omega

/-- The lines beside a granule are no data: they lie past DLEN, within the allocation. -/
theorem sideLines_past {r : Region} {a : Nat} (halign : a % 256 = 0) (ha : a < rgnDlen r) {x : Nat} (hx : x ∈ sideLines r a) :
    rgnHbm r = true ∧ rgnDlen r ≤ x ∧ x < rgnBytes r ∧ x % 64 = 0 := by
  have htag : ∀ y, y ∈ (if rgnHbm r && rgnTags r then [rgnTagAt r (a / 256) / 64 * 64] else []) →
      rgnHbm r = true ∧ rgnDlen r ≤ y ∧ y < rgnBytes r ∧ y % 64 = 0 ∧ (rgnStrong r = true → y < rgnParBase r) := by
    intro y hy
    split at hy
    · next h =>
      obtain ⟨hhbm, htags⟩ := Bool.and_eq_true _ _ ▸ h
      obtain ⟨hlow, hhigh, hpar⟩ := tagLine_in_area hhbm htags ha
      obtain rfl := List.mem_singleton.mp hy
      exact ⟨hhbm, hlow, hhigh, by omega, hpar⟩
    · cases hy
  simp only [sideLines, List.mem_append] at hx
  rcases hx with hx | hx
  · obtain ⟨hhbm, hlow, hhigh, h64, -⟩ := htag x hx
    exact ⟨hhbm, hlow, hhigh, h64⟩
  · split at hx
    · next hstrong =>
      have hhbm : rgnHbm r = true := by
        unfold rgnStrong at hstrong
        exact (Bool.and_eq_true _ _ ▸ hstrong).1
      obtain ⟨-, hpar, -⟩ := rgnDlen_le_areas hhbm
      obtain ⟨y, hy, rfl⟩ := List.mem_map.mp hx
      have hyp : y < rgnParBase r := by
        rcases List.mem_append.mp hy with hy | hy
        · obtain ⟨i, hi, rfl⟩ := List.mem_map.mp hy
          have := List.mem_range.mp hi
          have := hpar hstrong
          have hend := rgnDlen_aligned r
          omega
        · exact (htag y hy).2.2.2.2 hstrong
      obtain ⟨hlow, hhigh, h64⟩ := rgnParAt_in_shadow hyp
      exact ⟨hhbm, (hpar hstrong).trans hlow, hhigh, h64⟩
    · cases hx

/-- The lines beside a granule do not meet it. -/
theorem sideLine_clear {r : Region} {a : Nat} (s : State) (hfits : Sys2Proof.RegionFits r) (halign : a % 256 = 0) (ha : a < rgnDlen r) {x : Nat}
    (hx : x ∈ sideLines r a) : rgnDpa r x + 64 ≤ s.phys (rgnDpa r a) ∨ s.phys (rgnDpa r a) + 256 ≤ rgnDpa r x := by
  obtain ⟨hhbm, hlow, hhigh, h64⟩ := sideLines_past halign ha hx
  have hend := rgnDlen_aligned r
  have hbytes : a < rgnBytes r := Nat.lt_of_lt_of_le ha (rgnDlen_le_areas hhbm).2.2
  rw [phys_hbm hhbm hfits hbytes]
  have hdx := rgnDpa_aligned r x
  have hda := rgnDpa_aligned r a
  by_contra hmeets
  obtain ⟨j, hj, hjx⟩ : ∃ j, j < 256 ∧ rgnDpa r x = rgnDpa r (a + j) :=
    ⟨rgnDpa r x - rgnDpa r a, by omega, by rw [rgnDpa_add r halign (by omega)]; omega⟩
  have hin : a + j < rgnBytes r := by omega
  have hsame := rgnAddrOf_rgnDpa hhbm hfits hhigh
  rw [hjx, rgnAddrOf_rgnDpa hhbm hfits hin] at hsame
  omega

/-! ## What storing a granule changes (R248, R249, R252, R256) -/

/-- Between s and t only bytes of the 64-byte lines at addresses ds, and what memory keeps of lines and tags, may have changed. -/
structure StoresAt (ds : List Nat) (s t : State) : Prop where
  keeps : Keeps [.memory] s t
  regions : t.mem.regions = s.mem.regions
  bytes : ∀ b, (∀ d ∈ ds, b < d ∨ d + 64 ≤ b) → byteAt t b = byteAt s b

namespace StoresAt

variable {ds es : List Nat} {s t u : State}

theorem refl (s : State) : StoresAt ds s s := ⟨.refl _ s, rfl, fun _ _ => rfl⟩

theorem trans (h : StoresAt ds s t) (h' : StoresAt ds t u) : StoresAt ds s u :=
  ⟨h.keeps.trans h'.keeps, h'.regions.trans h.regions, fun b hb => (h'.bytes b hb).trans (h.bytes b hb)⟩

theorem mono (h : StoresAt ds s t) (hds : ∀ d ∈ ds, d ∈ es) : StoresAt es s t :=
  ⟨h.keeps, h.regions, fun b hb => h.bytes b fun d hd => hb d (hds d hd)⟩

theorem of_poke_setLine (s : State) (d : Nat) {bs : Bytes} (hbs : bs.length = 64) (l : Nat) (m : Option LineMeta) :
    StoresAt [d] s ((s.poke d bs).setLine l m) := by
  refine ⟨poke_setLine_keeps s d bs l m, rfl, fun b hb => ?_⟩
  rw [byteAt_setLine]
  exact byteAt_poke_outside s (by have := hb d (List.mem_singleton_self d); omega)

theorem of_setTag (s : State) (g : Nat) (x : BitVec 32) : StoresAt ds s (s.setTag g x) := ⟨.of_patch rfl, rfl, fun _ _ => rfl⟩

theorem phys_eq (h : StoresAt ds s t) (d : Nat) : t.phys d = s.phys d := phys_of_dev (h.keeps .faults (by decide)) d

theorem works (h : StoresAt ds s t) (hworks : ∀ k, (s.col k).pcFailed = 0) (k : Nat) : (t.col k).pcFailed = 0 := by
  rw [col_of_keeps h.keeps (by decide)]
  exact hworks k

end StoresAt

theorem xorLines_length (ls : List Bytes) : (xorLines ls).length = 64 := natLE_length _ _

/-- The addresses of the line that a line's stripe keeps its parity in (R249). -/
def parityAt (r : Region) (a : Nat) : List Nat := if rgnStrong r then [rgnDpa r (rgnParAt r (rgnStripe r a))] else []

/-- A line stored, with its parity, stands in memory (R252). -/
theorem storeLine_stores {s : State} {r : Region} {a : Nat} {new : Bytes} (poison : Bool) (v : Cover) (hworks : ∀ k, (s.col k).pcFailed = 0)
    (hlen : new.length = 64) (hpar : ∀ d ∈ parityAt r a, s.phys d = d) :
    StoresAt (s.phys (rgnDpa r a) :: parityAt r a) s (s.storeLine r a new poison v) ∧
      ∀ i, i < 64 → byteAt (s.storeLine r a new poison v) (s.phys (rgnDpa r a) + i) = new.getD i 0 := by
  have hread : ∀ (u : State) (d l i : Nat) (m : Option LineMeta), i < 64 → byteAt ((u.poke d new).setLine l m) (d + i) = new.getD i 0 := by
    intro u d l i m hi
    rw [byteAt_setLine, byteAt_poke, if_pos (by omega), Nat.add_sub_cancel_left]
  unfold State.storeLine
  dsimp only
  by_cases hstrong : rgnStrong r = true
  · rw [if_pos hstrong, if_neg (by simp [pcBad_of_working hworks])]
    have hparity : StoresAt (parityAt r a) s (s.storeParity r a new v) := by
      simp only [parityAt, hstrong, if_true, List.mem_singleton, forall_eq] at hpar ⊢
      unfold State.storeParity
      dsimp only
      rw [if_neg (by simp [pcBad_of_working hworks]), hpar]
      exact .of_poke_setLine s _ (xorLines_length _) _ _
    refine ⟨(hparity.mono fun d hd => List.mem_cons_of_mem _ hd).trans ?_, fun i hi => hread _ _ _ _ _ hi⟩
    exact (StoresAt.of_poke_setLine _ _ hlen _ _).mono fun d hd => List.mem_singleton.mp hd ▸ List.mem_cons_self
  · rw [if_neg hstrong, if_neg (by simp [pcBad_of_working hworks])]
    refine ⟨?_, fun i hi => hread _ _ _ _ _ hi⟩
    exact (StoresAt.of_poke_setLine _ _ hlen _ _).mono fun d hd => List.mem_singleton.mp hd ▸ List.mem_cons_self

section Granule

variable {r : Region} {a : Nat} (hfits : Sys2Proof.RegionFits r) (halign : a % 256 = 0) (ha : a < rgnDlen r)

/-- The addresses of the lines that go with a granule. -/
def sideAt (r : Region) (a : Nat) : List Nat := (sideLines r a).map (rgnDpa r)

include hfits halign ha in
theorem phys_sideAt (s : State) {d : Nat} (hd : d ∈ sideAt r a) : s.phys d = d := by
  obtain ⟨x, hx, rfl⟩ := List.mem_map.mp hd
  obtain ⟨hhbm, -, hhigh, -⟩ := sideLines_past halign ha hx
  exact phys_hbm hhbm hfits hhigh s

include hfits halign ha in
theorem sideAt_clear (s : State) {d : Nat} (hd : d ∈ sideAt r a) : d + 64 ≤ s.phys (rgnDpa r a) ∨ s.phys (rgnDpa r a) + 256 ≤ d := by
  obtain ⟨x, hx, rfl⟩ := List.mem_map.mp hd
  exact sideLine_clear s hfits halign ha hx

/-- The parity lines of a granule's lines, and of its tag's line, are among those that go with it. -/
theorem parityAt_side {y : Nat}
    (hy : y ∈ (List.range 4).map (a + 64 * ·) ++ if rgnHbm r && rgnTags r then [rgnTagAt r (a / 256) / 64 * 64] else []) :
    ∀ d ∈ parityAt r y, d ∈ sideAt r a := by
  intro d hd
  unfold parityAt at hd
  split at hd
  · next hstrong =>
    obtain rfl := List.mem_singleton.mp hd
    refine List.mem_map_of_mem ?_
    simp only [sideLines, hstrong, if_true]
    exact List.mem_append_right _ (List.mem_map_of_mem (f := fun x => rgnParAt r (rgnStripe r x)) hy)
  · cases hd

/-- The addresses of the granule's own lines. -/
def ownAt (s : State) (r : Region) (a n : Nat) : List Nat := (List.range n).map fun i => s.phys (rgnDpa r a) + 64 * i

include hfits halign ha in
/-- The first n lines of a granule stored stand in memory, whatever parity lines were updated with them. -/
theorem storeLines_stores {s : State} (hworks : ∀ k, (s.col k).pcFailed = 0) (x : Gran) (v : Cover) {n : Nat} (hn : n ≤ 4) :
    StoresAt (ownAt s r a n ++ sideAt r a) s
        ((List.range n).foldl (fun s i => s.storeLine r (a + 64 * i) (slice x.data (64 * i) 64) x.poison v) s) ∧
      ∀ i, i < 64 * n →
        byteAt ((List.range n).foldl (fun s i => s.storeLine r (a + 64 * i) (slice x.data (64 * i) 64) x.poison v) s)
          (s.phys (rgnDpa r a) + i) = x.data.getD i 0 := by
  induction n with
  | zero => exact ⟨.refl s, fun i hi => absurd hi (by omega)⟩
  | succ n ih =>
    obtain ⟨hstores, hbytes⟩ := ih (by omega)
    rw [List.range_succ, List.foldl_append, List.foldl_cons, List.foldl_nil]
    generalize (List.range n).foldl _ s = u at hstores hbytes
    have hline : (a + 64 * n) ∈ (List.range 4).map (a + 64 * ·) := List.mem_map.mpr ⟨n, List.mem_range.mpr (by omega), rfl⟩
    have hside : ∀ d ∈ parityAt r (a + 64 * n), d ∈ sideAt r a := parityAt_side (List.mem_append_left _ hline)
    have hphys : u.phys (rgnDpa r (a + 64 * n)) = s.phys (rgnDpa r a) + 64 * n := by
      rw [hstores.phys_eq, phys_gran s r halign (by omega)]
    obtain ⟨hnew, hread⟩ := storeLine_stores x.poison v (hstores.works hworks) (slice_length x.data (64 * n) 64)
      fun d hd => phys_sideAt hfits halign ha u (hside d hd)
    rw [hphys] at hnew hread
    refine ⟨(hstores.mono fun d hd => ?_).trans (hnew.mono fun d hd => ?_), fun i hi => ?_⟩
    · rw [ownAt, List.range_succ, List.map_append]
      rcases List.mem_append.mp hd with hd | hd
      · exact List.mem_append_left _ (List.mem_append_left _ hd)
      · exact List.mem_append_right _ hd
    · rw [ownAt, List.range_succ, List.map_append]
      rcases List.mem_cons.mp hd with rfl | hd
      · exact List.mem_append_left _ (List.mem_append_right _ (List.mem_singleton_self _))
      · exact List.mem_append_right _ (hside d hd)
    · by_cases hold : i < 64 * n
      · rw [hnew.bytes, hbytes i hold]
        intro d hd
        rcases List.mem_cons.mp hd with rfl | hd
        · omega
        · have := sideAt_clear hfits halign ha s (hside d hd)
          omega
      · have hi' := hread (i - 64 * n) (by omega)
        rw [show s.phys (rgnDpa r a) + 64 * n + (i - 64 * n) = s.phys (rgnDpa r a) + i by omega] at hi'
        rw [hi', slice_getD _ (by omega)]
        congr 1
        omega

theorem stored_length (s : State) (r : Region) (a : Nat) : (s.stored r a).length = 64 := by
  unfold State.stored
  split <;> simp [State.peek, zeros]

include hfits halign ha in
/-- The tag of a granule stored touches no more than the lines that go with the granule (R248, R256). -/
theorem storeTag_stores {s : State} (hworks : ∀ k, (s.col k).pcFailed = 0) (data : Bytes) (v : Cover) :
    StoresAt (sideAt r a) s (s.storeTag r a data v) := by
  unfold State.storeTag
  dsimp only
  split
  · exact .of_setTag _ _ _
  · next hhbm =>
    split
    · next htags =>
      have hhbm : rgnHbm r = true := by simpa using hhbm
      have hline : rgnTagAt r (a / 256) / 64 * 64 ∈ if rgnHbm r && rgnTags r then [rgnTagAt r (a / 256) / 64 * 64] else [] := by
        rw [hhbm, htags]
        exact List.mem_singleton_self _
      have hown : rgnDpa r (rgnTagAt r (a / 256) / 64 * 64) ∈ sideAt r a :=
        List.mem_map_of_mem (List.mem_append_left _ hline)
      have hside := parityAt_side (List.mem_append_right ((List.range 4).map (a + 64 * ·)) hline)
      have hold : (s.lineValue r (rgnTagAt r (a / 256) / 64 * 64)).length = 64 := by
        rw [State.lineValue, pcBad_of_working hworks, Bool.false_and]
        exact stored_length s r _
      have hslot : rgnTagAt r (a / 256) % 64 + 4 ≤ 64 := by
        unfold rgnTagAt rgnTagBase rgnBytes
        split <;> omega
      refine (storeLine_stores _ v hworks ?_ fun d hd => phys_sideAt hfits halign ha s (hside d hd)).1.mono fun d hd => ?_
      · simp only [List.length_append, List.length_take, List.length_drop, natLE_length, hold]
        omega
      · rcases List.mem_cons.mp hd with rfl | hd
        · rwa [phys_sideAt hfits halign ha s hown]
        · exact hside d hd
    · exact .refl s

include hfits halign ha in
/-- A granule stored stands in memory, and only the lines that go with it have changed beside it (R256). -/
theorem storeGran_stores {s : State} (hworks : ∀ k, (s.col k).pcFailed = 0) (x : Gran) (v : Cover) :
    StoresAt (ownAt s r a 4 ++ sideAt r a) s (s.storeGran r a x v) ∧
      ∀ i, i < 256 → byteAt (s.storeGran r a x v) (s.phys (rgnDpa r a) + i) = x.data.getD i 0 := by
  obtain ⟨hlines, hbytes⟩ := storeLines_stores hfits halign ha hworks x v (Nat.le_refl 4)
  have htag := storeTag_stores hfits halign ha (hlines.works hworks) x.data v
  refine ⟨hlines.trans (htag.mono fun d hd => List.mem_append_right _ hd), fun i hi => ?_⟩
  refine (htag.bytes _ fun d hd => ?_).trans (hbytes i hi)
  have := sideAt_clear hfits halign ha s hd
  omega

end Granule

/-! ## A whole granule that meets no error (R252, R270) -/

theorem meetOld_quiet (s : State) (access part rgn : Nat) (r : Region) (x : Nat) : s.meetOld access part rgn r [] x = (false, s) := by
  unfold State.meetOld
  split
  · rfl
  · simp [errAt, State.meetCe]

/-- The write of a whole aligned granule finds no error in the lines that it replaces (R252). -/
theorem mergeGran_quiet (s : State) (access part rgn : Nat) (r : Region) {a : Nat} {bs : Bytes} (poison : Bool) {v : Cover} (halign : a % 256 = 0)
    (hbs : bs.length = 256) (herrs : v.errs = []) : s.mergeGran access part rgn r a bs poison v = (⟨bs, poison⟩, false, s) := by
  have hmet : ∀ l : List Nat, l.foldl (fun (x : Bool × State) l =>
      ((x.1 || (x.2.meetOld access part rgn r [] l).1), (x.2.meetOld access part rgn r [] l).2)) (false, s) = (false, s) := by
    intro l
    induction l with
    | nil => rfl
    | cons y l ih => rw [List.foldl_cons, meetOld_quiet]; exact ih
  unfold State.mergeGran
  dsimp only
  rw [if_pos hbs, herrs, hmet, halign]
  simp [hbs]

end Sys2Proof.Machine

/-! ## A data operation of one packet that arrives in order (R316, R317, R319, R320, R235) -/

namespace Sys2Proof.Machine

open Sys2Proof (Keeps)

/-- A packet of the scheduled class charged to its pool (R235). -/
def State.charged (s : State) (c : Nat) (rx : Rx) (p : Pkt) : State :=
  if connKind (s.conn c) = 1 ∧ placedNow p then
    s.updPart (connPart (s.conn c)) fun q =>
      { q with roundIn := Table.set 0 q.roundIn (s.poolIn rx.port) (Table.get 0 q.roundIn (s.poolIn rx.port) + chargeOf p.grans.length) }
  else s

theorem charged_part (s : State) (c : Nat) (rx : Rx) (p : Pkt) (x : Nat) :
    (s.charged c rx p).part x = { s.part x with roundIn := ((s.charged c rx p).part x).roundIn } := by
  unfold State.charged
  split
  · by_cases hx : x = connPart (s.conn c)
    · rw [hx, updPart_part_same]
    · rw [updPart_part_ne _ _ _ hx]
  · rfl

theorem charged_part_ne (s : State) (c : Nat) (rx : Rx) (p : Pkt) {x : Nat} (hx : x ≠ connPart (s.conn c)) :
    (s.charged c rx p).part x = s.part x := by
  unfold State.charged
  split
  · exact updPart_part_ne _ _ _ hx
  · rfl

theorem charged_conn (s : State) (c : Nat) (rx : Rx) (p : Pkt) (k : Nat) : (s.charged c rx p).conn k = s.conn k := by
  unfold State.charged; split <;> rfl

theorem charged_keeps (s : State) (c : Nat) (rx : Rx) (p : Pkt) : Keeps [.partitions] s (s.charged c rx p) := by
  unfold State.charged
  split
  · exact .of_patch rfl
  · exact .refl _ s

theorem charged_held {p : Pkt} (h : placedNow p = false) (s : State) (c : Nat) (rx : Rx) : s.charged c rx p = s := by
  simp [State.charged, h]

/-- What the arrival of the last packet of an operation leaves behind (R319, R503, R235). -/
theorem noteArrival_last (s : State) (c : Nat) (rx : Rx) {p : Pkt} (hlast : p.last = true) :
    s.noteArrival c rx p = (s.charged c rx p).updConn c fun k =>
      { k with leaseAt := s.tm.clk, rxDebt := k.rxDebt + 1, rxDebtAt := if k.rxDebt = 0 then s.tm.clk else k.rxDebtAt, ackNow := true } := by
  unfold State.noteArrival State.charged
  simp only [hlast, Bool.or_true, Bool.true_or]
  split <;> rfl

/-- The operation that a whole packet of data opens at its receiver, with the status of its gate (R305, R320). -/
def State.dataOp (s : State) (c : Nat) (p : Pkt) : RxOp :=
  ⟨pktOp p, p.op, s.opGate c p, some p.psn, if p.op = opWrite ∨ p.op = opToken then nfld p.w3 31 10 else relNone, nfld p.w3 9 0, p.prov, [], [],
    s.gensOf (connPart (s.conn c)), []⟩

theorem noteOp_data {s : State} {c : Nat} {p : Pkt} (hopens : opensOp p.op = true) (hctl : p.op ≠ opCtl) (hlast : p.last = true)
    (hops : (s.conn c).rxOps = []) (hfew : s.opsInFlight < 65536) :
    s.noteOp c p = s.updConn c fun k => { k with rxOps := [s.dataOp c p] } := by
  have hopen : s.openRxOp c p = s.updConn c fun k =>
      { k with rxOps := k.rxOps ++ [⟨pktOp p, p.op, 0, none, relNone, 0, false, [], [], s.gensOf (connPart (s.conn c)), []⟩] } := by
    simp [State.openRxOp, rxOpOf, hops, Nat.not_le.mpr hfew]
  simp only [State.noteOp, hopens, hopen, State.updRxOp, updConn_updConn]
  apply updConn_congr
  simp [hops, State.dataOp, hlast, hctl]

/-- A packet of data taken in: charged, its PSN taken, its operation noted. -/
def State.dataTaken (s : State) (c : Nat) (rx : Rx) (p : Pkt) : State :=
  (s.charged c rx p).updConn c fun k => { k.arrived s.tm.clk p with rxOps := [s.dataOp c p] }

/-- The gate and the generations are the same while only what connections have sent and received, and the charges of rounds, change. -/
theorem dataOp_eq {s t : State} {c : Nat} (hcfg : (t.conn c).cfg = (s.conn c).cfg) (hst : (t.conn c).st = (s.conn c).st)
    (hlevel : (t.conn c).level = (s.conn c).level) (hfw : t.fw = s.fw) (hmem : t.mem = s.mem) (hpwr : t.pwr = s.pwr) (hdev : t.dev = s.dev)
    (p : Pkt) : t.dataOp c p = s.dataOp c p := by
  have hgate : t.opGate c p = s.opGate c p := by
    unfold State.opGate State.levelMay State.operational State.up connHost connKind
    dsimp only
    rw [hcfg, hst, hlevel, hfw, hpwr, hdev]
  have hgens : t.gensOf (connPart (t.conn c)) = s.gensOf (connPart (s.conn c)) := by
    unfold State.gensOf connPart
    rw [hmem, hcfg]
  unfold State.dataOp
  rw [hgate, hgens]

/-- A packet of data that is the next one expected is taken in, its content placed or held, and what is complete is finished (R316, R317). -/
theorem acceptPkt_data {s : State} {c : Nat} {rx : Rx} {p : Pkt} (hopens : opensOp p.op = true) (hctl : p.op ≠ opCtl) (hlast : p.last = true)
    (htag : rxTagBad rx = false) (hpsn : p.psn = (s.conn c).rxNext) (hgot : (s.conn c).rxGot = []) (hops : (s.conn c).rxOps = [])
    (hfew : s.opsInFlight < 65536) :
    s.acceptPkt c rx p = ((s.dataTaken c rx p).takeContent c p rx.errs).settleRx c rx.errs := by
  have harr := noteArrival_last s c rx hlast
  have hops' : ((s.noteArrival c rx p).conn c).rxOps = [] := by rw [harr, updConn_conn_same, charged_conn]; exact hops
  have hflight : (s.charged c rx p).opsInFlight = s.opsInFlight := by
    unfold State.opsInFlight
    rw [charged_keeps s c rx p .network (by decide)]
  have hfew' : (s.noteArrival c rx p).opsInFlight < 65536 := by
    rw [harr]
    exact Nat.lt_of_le_of_lt (opsInFlight_updConn_le _ c _ (Nat.le_refl _)) (hflight ▸ hfew)
  have hcharged := charged_keeps s c rx p
  have hop : (s.noteArrival c rx p).dataOp c p = s.dataOp c p := by
    have hkeeps : Keeps [.network, .partitions] s (s.noteArrival c rx p) := by
      rw [harr]
      exact (hcharged.mono (by decide)).trans (.of_patch rfl)
    refine dataOp_eq ?_ ?_ ?_ (hkeeps .firmware (by decide)) (hkeeps .memory (by decide)) (hkeeps .power (by decide))
      (hkeeps .faults (by decide)) p <;> rw [harr, updConn_conn_same, charged_conn]
  have hadv : advPsn 4097 (s.conn c).rxNext [p.psn] = ((p.psn + 1) % 2 ^ 32, []) := by rw [← hpsn]; exact advPsn_next 4095 p.psn
  have hnote := noteOp_data hopens hctl hlast hops' hfew'
  rw [hop, harr, updConn_updConn] at hnote
  have htaken : ((s.charged c rx p).updConn c fun k => { k.arrived s.tm.clk p with rxGot := [], rxOps := [s.dataOp c p] }) = s.dataTaken c rx p :=
    updConn_congr _ _ (by rw [charged_conn]; simp [Conn.arrived, hgot])
  unfold State.acceptPkt
  rw [htag, if_neg Bool.false_ne_true]
  dsimp only
  rw [harr, hnote]
  simp only [updConn_conn_same, Function.comp, charged_conn, hgot, hadv, updConn_updConn]
  rw [← htaken]
  rfl

/-- A CE mark of a host packet kept for the next ACK (R299). -/
def State.marked (s : State) (c : Nat) (rx : Rx) (p : Pkt) : State :=
  if rx.ce ∧ hostPkt (s.conn c) p then s.updConn c fun k => { k with rxCe := true } else s

/-- An ACK that is due goes out (R319). -/
def State.ackDue (s : State) (c : Nat) : State := if (s.conn c).ackNow ∧ s.serves c then s.sendAck c none else s

/-- What a mark leaves of a connection. -/
theorem marked_conn (s : State) (c : Nat) (rx : Rx) (p : Pkt) :
    (s.marked c rx p).conn c = { s.conn c with rxCe := ((s.marked c rx p).conn c).rxCe } := by
  unfold State.marked
  split
  · rw [updConn_conn_same]
  · rfl

theorem windowIn_marked {s : State} {c : Nat} {rx : Rx} {p : Pkt} (hpsn : p.psn = (s.conn c).rxNext) (hgot : (s.conn c).rxGot = [])
    (hroom : rx.roomFull = false) : s.windowIn c rx p = ((s.marked c rx p).acceptPkt c rx p).ackDue c := by
  by_cases hce : rx.ce ∧ hostPkt (s.conn c) p
  · simp [State.windowIn, State.marked, State.ackDue, hce, hpsn, hgot, hroom]
  · simp [State.windowIn, State.marked, State.ackDue, hce, hpsn, hgot, hroom]

theorem marked_rest (s : State) (c : Nat) (rx : Rx) (p : Pkt) : ∃ C, s.marked c rx p = { s with net := { s.net with conns := C } } := by
  unfold State.marked
  split
  · exact ⟨_, rfl⟩
  · exact ⟨s.net.conns, rfl⟩

theorem marked_sprayNow (s : State) (c : Nat) (rx : Rx) (p : Pkt) : (s.marked c rx p).sprayNow c = s.sprayNow c := by
  unfold State.marked
  split
  · unfold State.sprayNow
    rw [updConn_conn_same]
    rfl
  · rfl

theorem framed_sprayNow (s : State) (c : Nat) (rx : Rx) (p : Pkt) : (s.framed rx p).sprayNow c = s.sprayNow c := by
  rw [← ctlTaken_sprayNow s c rx p, State.ctlTaken]
  unfold State.sprayNow
  rw [updConn_conn_same]
  rfl

theorem charged_sprayNow (s : State) (c : Nat) (rx : Rx) (p : Pkt) : (s.charged c rx p).sprayNow c = s.sprayNow c :=
  sprayNow_of_net (charged_keeps s c rx p .network (by decide)) (congrArg Dev.inService (charged_keeps s c rx p .faults (by decide))) c

theorem dataTaken_sprayNow (s : State) (c : Nat) (rx : Rx) (p : Pkt) : (s.dataTaken c rx p).sprayNow c = s.sprayNow c := by
  rw [← charged_sprayNow s c rx p, State.dataTaken]
  unfold State.sprayNow
  rw [updConn_conn_same]
  rfl

/-- The state in which the content of packet p of connection c is placed or held. -/
def State.dataArrived (s : State) (c : Nat) (rx : Rx) (p : Pkt) : State := ((s.framed rx p).marked c rx p).dataTaken c rx p

/-- `u` is `s` once packet p of connection c has been taken in: a charge, the PSN and the operation, and nothing else. -/
structure Taken (s u : State) (c : Nat) (p : Pkt) : Prop where
  keeps : Keeps [.network, .partitions] s u
  parts : ∀ x, u.part x = { s.part x with roundIn := (u.part x).roundIn }
  others : ∀ x, x ≠ connPart (s.conn c) → u.part x = s.part x
  cfg : (u.conn c).cfg = (s.conn c).cfg
  st : (u.conn c).st = (s.conn c).st
  session : (u.conn c).session = (s.conn c).session
  rxNext : (u.conn c).rxNext = (p.psn + 1) % 2 ^ 32
  rxHeld : (u.conn c).rxHeld = []
  rxOps : (u.conn c).rxOps = [s.dataOp c p]
  spray : u.sprayNow c = s.sprayNow c

theorem framed_marked_rest (s : State) (c : Nat) (rx : Rx) (p : Pkt) :
    ∃ P C, (s.framed rx p).marked c rx p = { s with net := { s.net with ports := P, conns := C } } := by
  obtain ⟨C, hC⟩ := marked_rest (s.framed rx p) c rx p
  exact ⟨_, C, by rw [hC, framed_rest]⟩

theorem dataArrived_taken {s : State} {rx : Rx} {p : Pkt} {c : Nat} (hheld : (s.conn c).rxHeld = []) : Taken s (s.dataArrived c rx p) c p := by
  have hconn := marked_conn (s.framed rx p) c rx p
  rw [framed_conn] at hconn
  have hspray := (marked_sprayNow (s.framed rx p) c rx p).trans (framed_sprayNow s c rx p)
  obtain ⟨P, C, hrest⟩ := framed_marked_rest s c rx p
  unfold State.dataArrived
  generalize (s.framed rx p).marked c rx p = m at hconn hspray hrest
  have hm : Keeps [.network] s m := hrest ▸ .of_patch rfl
  have hparts : ∀ x, m.part x = s.part x := part_of_keeps hm (by decide)
  have hop : m.dataOp c p = s.dataOp c p := by
    refine dataOp_eq ?_ ?_ ?_ (hm .firmware (by decide)) (hm .memory (by decide)) (hm .power (by decide)) (hm .faults (by decide)) p <;> rw [hconn]
  have htaken : (m.dataTaken c rx p).conn c = { (m.conn c).arrived m.tm.clk p with rxOps := [m.dataOp c p] } := by
    rw [State.dataTaken, updConn_conn_same, charged_conn]
  refine ⟨?_, fun x => ?_, fun x hx => ?_, ?_, ?_, ?_, ?_, ?_, ?_, (dataTaken_sprayNow m c rx p).trans hspray⟩
  · exact (hm.mono (by decide)).trans (((charged_keeps m c rx p).mono (by decide)).trans (.of_patch rfl))
  · have hx := charged_part m c rx p x
    rw [hparts] at hx
    exact hx
  · refine (charged_part_ne m c rx p ?_).trans (hparts x)
    rwa [hconn]
  · rw [htaken, hconn]; rfl
  · rw [htaken, hconn]; rfl
  · rw [htaken, hconn]; rfl
  · rw [htaken, hconn]; rfl
  · rw [htaken, hconn]; exact hheld
  · rw [htaken, hop]

/-- Packets that are held for their turn are charged to no pool here (R235). -/
theorem dataArrived_keeps {p : Pkt} (hheld : placedNow p = false) (s : State) (c : Nat) (rx : Rx) :
    Keeps [.network] s (s.dataArrived c rx p) := by
  obtain ⟨P, C, hrest⟩ := framed_marked_rest s c rx p
  rw [State.dataArrived, State.dataTaken, charged_held hheld, hrest]
  exact .of_patch rfl

/-- A packet of data that arrives in order: its content is placed or held, what is complete is finished, and an ACK that is due goes out. -/
theorem receive_data {s : State} {rx : Rx} {p : Pkt} {c : Nat} {row : Nat → Pkt → Bool} (h : InOrder s rx p c) (hopens : opensOp p.op = true)
    (hctl : p.op ≠ opCtl) (hrow : row p.op p = true) :
    s.receive rx row = (((s.dataArrived c rx p).takeContent c p rx.errs).settleRx c rx.errs).ackDue c := by
  obtain ⟨hopen, hpsn, hgot, hheld₀, hops₀, hroom, htag, -, hlast, hfew⟩ := h
  have hack : p.op ≠ opAck := fun hp => by rw [hp] at hopens; exact absurd hopens (by decide)
  have hconn := marked_conn (s.framed rx p) c rx p
  rw [framed_conn] at hconn
  rw [receive_onOpen row hopen hrow hack (fun h => hctl h.1), windowIn_marked (by simpa using hpsn) (by simpa using hgot) hroom]
  rw [acceptPkt_data hopens hctl hlast htag (by rw [hconn]; exact hpsn) (by rw [hconn]; exact hgot) (by rw [hconn]; exact hops₀) ?_]
  · rfl
  · have hframed : (s.framed rx p).opsInFlight = s.opsInFlight := by rw [framed_rest]; rfl
    refine Nat.lt_of_le_of_lt ?_ (hframed ▸ hfew)
    unfold State.marked
    split
    · exact opsInFlight_updConn_le _ c _ (Nat.le_refl _)
    · exact Nat.le_refl _

end Sys2Proof.Machine

/-! ## A whole operation completes (R317, R318, R320, R321) -/

namespace Sys2Proof.Machine

open Sys2Proof (Keeps)

/-- With nothing held, the one operation of a connection that is complete is finished, and its DONE ACK goes out (R320). -/
theorem settleRx_done {w : State} {c : Nat} {o : RxOp} (errs : List MemErr) (hst : (w.conn c).st = 2) (hheld : (w.conn c).rxHeld = [])
    (hops : (w.conn c).rxOps = [o]) (hready : w.opReady c o = true) :
    w.settleRx c errs = ((w.finishOp c o).2.dropRxOp c o.opid).sendAck c (some (o.opid, (w.finishOp c o).1)) := by
  have hplace : w.placeHeld c errs = w := by simp [State.placeHeld, hheld]
  have hserves : w.serves c = true := by simp [State.serves, hst]
  simp [State.settleRx, hplace, hheld, State.deliver, hserves, hops, State.completeOps, hready]

/-- An operation whose last packet has just come, alone and with its channel free, is complete. -/
theorem opReady_alone {w : State} {c n : Nat} {o : RxOp} (hlast : o.lastPsn = some n) (hbound : n < 2 ^ 32)
    (hop : [opWrite, opReadResp, opSend, opReduce, opToken].contains o.op = true) (hnext : (w.conn c).rxNext = (n + 1) % 2 ^ 32)
    (hheld : (w.conn c).rxHeld = []) (hfree : w.dmaOf c = Dma.reset) : w.opReady c o = true := by
  have hpsn := psnLt_next n hbound
  unfold State.opReady
  rw [hlast]
  dsimp only
  rw [hop, hnext, hpsn, hheld, hfree]
  simp [Dma.reset]

/-- The completion of an operation on a connection that has a sub-port (R319, R320). -/
theorem done_sends {z : State} {c : Nat} (id st : Nat) (hspray : z.sprayNow c ≠ []) :
    (((z.dropRxOp c id).sendAck c (some (id, st))).ackDue c = (z.dropRxOp c id).sendAck c (some (id, st))) ∧
      DoneSent ((z.dropRxOp c id).sendAck c (some (id, st))) c id st ∧
      Keeps [.network, .stewards] z ((z.dropRxOp c id).sendAck c (some (id, st))) := by
  have hdrop : (z.dropRxOp c id).sprayNow c = z.sprayNow c := by
    unfold State.dropRxOp State.sprayNow
    rw [updConn_conn_same]
    rfl
  obtain ⟨htx, hdone, hnow, -⟩ := sendAck_done (z.dropRxOp c id) c id st (by rwa [hdrop])
  refine ⟨?_, hdone, .trans (t := z.dropRxOp c id) (.of_patch rfl) htx.keeps⟩
  rw [State.ackDue, if_neg (by simp [hnow])]

/-- A packet of data whose operation completes at once: the operation ends with its status, from the state that finishing it leaves. -/
theorem receive_done {s w z : State} {rx : Rx} {p : Pkt} {c st : Nat} {o : RxOp} {row : Nat → Pkt → Bool} (h : InOrder s rx p c)
    (hopens : opensOp p.op = true) (hctl : p.op ≠ opCtl) (hrow : row p.op p = true)
    (hw : ((s.dataArrived c rx p).takeContent c p rx.errs).settleRx c rx.errs = w.settleRx c rx.errs)
    (hst : (w.conn c).st = 2) (hheld : (w.conn c).rxHeld = []) (hops : (w.conn c).rxOps = [o]) (hready : w.opReady c o = true)
    (hfin : w.finishOp c o = (st, z)) (hspray : z.sprayNow c ≠ []) :
    DoneSent (s.receive rx row) c o.opid st ∧ Keeps [.network, .stewards] z (s.receive rx row) := by
  obtain ⟨hack, hdone, hkeeps⟩ := done_sends o.opid st hspray
  have hrun : s.receive rx row = (z.dropRxOp c o.opid).sendAck c (some (o.opid, st)) := by
    rw [receive_data h hopens hctl hrow, hw, settleRx_done _ hst hheld hops hready, hfin]
    exact hack
  rw [hrun]
  exact ⟨hdone, hkeeps⟩

/-! ### What finishing an operation does (R306, R320, R321) -/

theorem finishOp_failed (w : State) (c : Nat) {o : RxOp} (hst : o.status ≠ 0) (hundo : o.undo = []) : w.finishOp c o = (o.status, w) := by
  rw [State.finishOp, if_pos hst, hundo]
  rfl

/-- Partition q with the Token of an operation released (R217, R321). -/
def Part.released (o : RxOp) (q : Part) : Part :=
  releaseTok q o.dtok (nearStep (streamStep q (streamOf q (o.dtok / 512))) o.step) o.prov

/-- A release reads and changes nothing of a partition's rounds. -/
theorem releaseTok_streams (q : Part) (addr m : Nat) (prov : Bool) (x : Table Nat) :
    (releaseTok { q with roundIn := x } addr m prov).streams = (releaseTok q addr m prov).streams := by
  have hstream : streamOf { q with roundIn := x } (addr / 512) = streamOf q (addr / 512) := rfl
  have hstep : ∀ st, streamStep { q with roundIn := x } st = streamStep q st := fun _ => rfl
  unfold releaseTok
  dsimp only
  rw [hstream, hstep]
  split <;> rfl

/-- What a WRITE or a TOKEN that succeeds leaves: its Token, if it names one, released (R321). -/
def State.tokenFreed (w : State) (c : Nat) (o : RxOp) : State :=
  if o.dtok = relNone then w else w.updPart (connPart (w.conn c)) (Part.released o)

theorem finishOp_freed (w : State) (c : Nat) {o : RxOp} (hst : o.status = 0) (hop : o.op = opWrite ∨ o.op = opToken) :
    w.finishOp c o = (0, w.tokenFreed c o) := by
  unfold State.finishOp State.tokenFreed
  dsimp only
  rw [if_neg (by simp [hst]), if_pos hop]
  split <;> rfl

theorem tokenFreed_keeps (w : State) (c : Nat) (o : RxOp) : Keeps [.partitions] w (w.tokenFreed c o) := by
  unfold State.tokenFreed
  split
  · exact .refl _ w
  · exact .of_patch rfl

theorem tokenFreed_part_ne (w : State) {c x : Nat} (o : RxOp) (hx : x ≠ connPart (w.conn c)) : (w.tokenFreed c o).part x = w.part x := by
  unfold State.tokenFreed
  split
  · rfl
  · exact updPart_part_ne _ _ _ hx

theorem tokenFreed_part_same (w : State) (c : Nat) (o : RxOp) :
    (w.tokenFreed c o).part (connPart (w.conn c)) =
      if o.dtok = relNone then w.part (connPart (w.conn c)) else (w.part (connPart (w.conn c))).released o := by
  unfold State.tokenFreed
  split
  · rfl
  · exact updPart_part_same _ _ _

/-! ### The content of a WRITE or a TOKEN (R245, R257, R305, R317) -/

section Content

variable {s u : State} {c : Nat} {p : Pkt} (htaken : Taken s u c p)
include htaken

theorem Taken.mem_eq : u.mem = s.mem := htaken.keeps .memory (by decide)
theorem Taken.dev_eq : u.dev = s.dev := htaken.keeps .faults (by decide)
theorem Taken.connPart_eq : connPart (u.conn c) = connPart (s.conn c) := by rw [connPart, htaken.cfg, connPart]
theorem Taken.connHost_eq : connHost (u.conn c) = connHost (s.conn c) := by rw [connHost, connKind, htaken.cfg, connHost, connKind]

theorem Taken.col_eq (k : Nat) : u.col k = s.col k := col_of_keeps htaken.keeps (by decide) k

theorem Taken.dmaOf_eq : u.dmaOf c = s.dmaOf c := by
  unfold State.dmaOf
  rw [htaken.connPart_eq, htaken.session, htaken.parts]

theorem Taken.place_eq (q addr : Nat) : u.place q addr = s.place q addr := by
  unfold State.place State.regionAt State.inService
  rw [htaken.mem_eq, htaken.dev_eq]

/-- The operation of the packet is the one that its connection has under way. -/
theorem Taken.rxOpOf_eq : rxOpOf (u.conn c) (pktOp p) = some (s.dataOp c p) := by
  rw [rxOpOf, htaken.rxOps]
  simp [State.dataOp]

theorem Taken.ready (hbound : p.psn < 2 ^ 32) (hop : [opWrite, opReadResp, opSend, opReduce, opToken].contains p.op = true)
    (hfree : s.dmaOf c = Dma.reset) : u.opReady c (s.dataOp c p) = true :=
  opReady_alone (o := s.dataOp c p) rfl hbound hop htaken.rxNext htaken.rxHeld (htaken.dmaOf_eq.trans hfree)

/-- A WRITE is placed while its session's channel is free. -/
theorem Taken.deliverPkt_write (hop : p.op = opWrite) (hfree : s.dmaOf c = Dma.reset) (errs : List MemErr) :
    u.deliverPkt c p errs = u.placeWrite c p errs := by
  have hholds : u.dmaHolds c p = false := by simp [State.dmaHolds, htaken.dmaOf_eq, hfree, Dma.reset]
  unfold State.deliverPkt
  rw [hholds, if_neg Bool.false_ne_true, if_pos hop]

theorem Taken.placeWrite_refused (errs : List MemErr) (hgate : s.opGate c p ≠ 0) : u.placeWrite c p errs = (true, u) := by
  unfold State.placeWrite
  dsimp only
  rw [htaken.rxOpOf_eq]
  exact if_pos hgate

/-- A WRITE to an address outside the open regions is an access fault (R245). -/
theorem Taken.placeWrite_outside {g : Gran} (errs : List MemErr) (hgate : s.opGate c p = 0) (hgrans : p.grans = [g])
    (hplace : s.place (connPart (s.conn c)) (pktAddr p) = none) :
    u.placeWrite c p errs = (true, u.updConn c fun k => { k with rxOps := [{ s.dataOp c p with status := 1 }] }) := by
  have hplaces : u.granPlaces (u.conn c) true (pktAddr p) p.grans.length = none := by
    simp [State.granPlaces, hgrans, htaken.connPart_eq, htaken.place_eq, hplace]
  unfold State.placeWrite
  dsimp only
  rw [htaken.rxOpOf_eq]
  dsimp only
  rw [if_neg (by simp [State.dataOp, hgate]), hplaces]
  dsimp only
  rw [State.updRxOp, updConn_congr u c (g := fun k => { k with rxOps := [{ s.dataOp c p with status := 1 }] })]
  simp [htaken.rxOps]

end Content

/-- A packet that waits alone for its turn, and whose delivery changes nothing but that it no longer waits (R317). -/
theorem settleRx_passes {m u : State} {c : Nat} {p : Pkt} {f : Conn → Conn} (errs : List MemErr) (hu : u = m.updConn c f)
    (hplaced : placedNow p = false) (hst : (u.conn c).st = 2) (hheld : (u.conn c).rxHeld = [])
    (hnext : (u.conn c).rxNext = (p.psn + 1) % 2 ^ 32) (hbound : p.psn < 2 ^ 32) (hpass : u.deliverPkt c p errs = (true, u)) :
    (u.updConn c fun k => { k with rxHeld := k.rxHeld ++ [p] }).settleRx c errs = u.settleRx c errs := by
  generalize hv : (u.updConn c fun k => { k with rxHeld := k.rxHeld ++ [p] }) = v
  have hconn : v.conn c = { u.conn c with rxHeld := [p] } := by rw [← hv, updConn_conn_same, hheld]; rfl
  have hwaits : (v.conn c).rxHeld = [p] := by rw [hconn]
  have hpsn : psnLt p.psn (v.conn c).rxNext = true := by rw [hconn]; exact hnext ▸ psnLt_next p.psn hbound
  have hserves : v.serves c = true := by simp [State.serves, hconn, hst]
  have hplace : v.placeHeld c errs = v := by simp [State.placeHeld, hwaits, hplaced]
  have hplace' : u.placeHeld c errs = u := by simp [State.placeHeld, hheld]
  have hgone : (v.updConn c fun k => { k with rxHeld := k.rxHeld.filter fun x => x.psn ≠ p.psn }) = u := by
    have hf : (f (m.conn c)).rxHeld = [] := by rwa [hu, updConn_conn_same] at hheld
    rw [← hv, hu, updConn_updConn, updConn_updConn]
    refine updConn_congr m c ?_
    simp only [Function.comp, hf, List.nil_append]
    generalize f (m.conn c) = k at hf
    cases k
    cases hf
    simp
  have hfirst : State.deliver 1 v c errs = u := by
    have hearliest : firstHeld (v.conn c) = some p := by simp [firstHeld, hwaits]
    simp only [State.deliver, hearliest, hpsn, hserves, and_self, if_true, hgone, hpass]
  simp [State.settleRx, hplace, hwaits, hfirst, hplace', hheld, State.deliver]

end Sys2Proof.Machine

/-! ## A granule of a WRITE placed (R245, R262, R270, R317) -/

namespace Sys2Proof.Machine

open Sys2Proof (Keeps)

/-- A place is a listed region of its partition, and lies within DLEN (R245). -/
theorem place_spec {s : State} {q addr i a : Nat} {r : Region} {b : Bool} (h : s.place q addr = some (i, r, a, b)) :
    (i, r) ∈ s.mem.regions ∧ a = addr - rgnPbase r * 2 ^ 20 ∧ rgnPbase r * 2 ^ 20 ≤ addr ∧ a < rgnDlen r := by
  unfold State.place at h
  split at h
  · next i' r' a' hregion =>
    split at h
    · cases h
    · next hdlen =>
      simp only [Option.some.injEq, Prod.mk.injEq] at h
      obtain ⟨rfl, rfl, rfl, -⟩ := h
      rw [State.regionAt, Option.map_eq_some_iff] at hregion
      obtain ⟨e, hfind, he⟩ := hregion
      simp only [Prod.mk.injEq] at he
      obtain ⟨rfl, rfl, rfl⟩ := he
      have hcovers := List.find?_some hfind
      simp only [Bool.and_eq_true, decide_eq_true_eq] at hcovers
      exact ⟨List.mem_of_find?_eq_some hfind, rfl, hcovers.1.2, Nat.not_le.mp fun hle => hdlen (.inl hle)⟩
  · cases h

/-- An operation that is placed as it is accepted meets no region of another generation (R262). -/
theorem staleGen_now {s : State} {i : Nat} {r : Region} (hwf : Memory.wf s.mem) (hr : (i, r) ∈ s.mem.regions) (q : Nat) :
    staleGen (s.gensOf q) i r = false := by
  obtain ⟨-, -, hregions, -⟩ := hwf
  rw [Table.wf, Bool.and_eq_true] at hregions
  have hsame : ∀ g ∈ s.gensOf q, g.1 = i → g.2 = r.gen := by
    intro g hg hi
    obtain ⟨e, he, rfl⟩ := List.mem_map.mp hg
    have hmem := (List.mem_filter.mp he).1
    have he2 := Table.get_of_mem Region.reset hregions.1 hmem
    have hr2 := Table.get_of_mem Region.reset hregions.1 hr
    dsimp only at hi hr2 ⊢
    rw [← he2, hi, hr2]
  unfold staleGen
  have hany : ((s.gensOf q).any fun g => decide (g.1 = i) && decide (g.2 ≠ r.gen)) = false := by
    rw [List.any_eq_false]
    intro g hg hstale
    simp only [Bool.and_eq_true, decide_eq_true_eq] at hstale
    exact hstale.2 (hsame g hg hstale.1)
  rw [hany, Bool.and_false]

/-- The gate of a WRITE that passes holds it to whole granules (R305). -/
theorem opGate_write_aligned {s : State} {c : Nat} {p : Pkt} (hop : p.op = opWrite) (hgate : s.opGate c p = 0) : pktAddr p % 256 = 0 := by
  by_contra hodd
  revert hgate
  -- whichever check refuses first, that of the alignment at the latest, the status is not 0
  unfold State.opGate
  dsimp only
  simp only [hop, hodd, decide_true, Bool.true_or, Bool.true_and, ne_eq, not_false_eq_true, if_true]
  repeat' split
  all_goals simp

/-- A WRITE that its gate lets pass stands on a granule of its region. -/
theorem place_aligned {s : State} {c q i a : Nat} {p : Pkt} {r : Region} {b : Bool} (hop : p.op = opWrite) (hgate : s.opGate c p = 0)
    (hplace : s.place q (pktAddr p) = some (i, r, a, b)) : a % 256 = 0 := by
  obtain ⟨-, ha, hbase, -⟩ := place_spec hplace
  have hwhole := opGate_write_aligned hop hgate
  omega

/-- Granules of a received packet are 256 bytes long (R300). -/
theorem rxPkt_gran_length {rx : Rx} {g : Gran} (h : g ∈ (rxPkt rx).grans) : g.data.length = 256 := by
  have hgrans : (rxPkt rx).grans = (List.range rx.grans.length).map fun i => ⟨slice (rx.grans.getD i []) 0 256, testBit rx.mask i⟩ := by
    unfold rxPkt pktOf
    rfl
  rw [hgrans] at h
  obtain ⟨i, -, rfl⟩ := List.mem_map.mp h
  exact slice_length _ _ _

theorem sprayNow_setRxOps (s : State) (c : Nat) (l : List RxOp) : (s.updConn c fun k => { k with rxOps := l }).sprayNow c = s.sprayNow c := by
  unfold State.sprayNow
  rw [updConn_conn_same]
  rfl

/-- The granule of a WRITE placed: it is stored whole, and what it replaced is kept for an undo (R306). -/
def State.granPlaced (u : State) (c : Nat) (r : Region) (a : Nat) (g : Gran) (o : RxOp) : State :=
  (u.storeGran r a g ⟨a, a + 256, []⟩).updConn c fun k => { k with rxOps := [o] }

theorem Taken.placeWrite_placed {s u : State} {c a : Nat} {p : Pkt} {g : Gran} {r : Region} (htaken : Taken s u c p) (hop : p.op = opWrite)
    (hgate : s.opGate c p = 0) (hgrans : p.grans = [g]) (hlen : g.data.length = 256) (hworks : ∀ k, (s.col k).pcFailed = 0)
    (hwf : Memory.wf s.mem) (hfits : Sys2Proof.RegionFits r) (hat : GranAt s c (connPart (s.conn c)) (pktAddr p) true r a) :
    ∃ l, u.placeWrite c p [] = (true, u.granPlaced c r a g { s.dataOp c p with undo := l }) := by
  obtain ⟨i, hplace, hmay⟩ := hat
  obtain ⟨hregion, -, -, hdlen⟩ := place_spec hplace
  have halign := place_aligned hop hgate hplace
  have hplace' : u.place (connPart (u.conn c)) (pktAddr p) = some (i, r, a, false) := by rw [htaken.connPart_eq, htaken.place_eq, hplace]
  have hplaces : u.granPlaces (u.conn c) true (pktAddr p) p.grans.length = some false := by
    have hmay' : connHost (u.conn c) = false ∨ rgnHwr r = true := by rw [htaken.connHost_eq]; exact hmay
    rcases hmay' with hmay' | hmay' <;> simp [State.granPlaces, hgrans, hplace', hmay']
  have hstale : staleGen (s.dataOp c p).gens i r = false := staleGen_now hwf hregion _
  have hworks' : ∀ k, (u.col k).pcFailed = 0 := fun k => by rw [htaken.col_eq]; exact hworks k
  obtain ⟨hstores, -⟩ := storeGran_stores hfits halign hdlen hworks' g ⟨a, a + 256, []⟩
  have hgran : ∀ access, u.mergeGran access (connPart (u.conn c)) i r a g.data g.poison ⟨a, a + 256, []⟩ = (g, false, u) := fun access =>
    mergeGran_quiet u access _ _ r g.poison halign hlen rfl
  refine ⟨[⟨i, a, r.gen, u.granNow r a, g.data⟩], ?_⟩
  unfold State.placeWrite
  dsimp only
  rw [htaken.rxOpOf_eq]
  dsimp only
  rw [if_neg (by simp [State.dataOp, hgate]), hplaces]
  have hrange : List.range p.grans.length = [0] := by rw [hgrans]; rfl
  have hput : u.placeGran c p (s.dataOp c p) 0 [] =
      (false, u.granPlaced c r a g { s.dataOp c p with undo := [⟨i, a, r.gen, u.granNow r a, g.data⟩] }) := by
    unfold State.placeGran
    dsimp only
    rw [Nat.mul_zero, Nat.add_zero, hplace']
    dsimp only
    rw [hstale, if_neg Bool.false_ne_true, Nat.sub_zero, hgrans]
    simp only [List.getD_cons_zero, List.length_singleton, Nat.mul_one, hgran, Bool.false_and, if_neg Bool.false_ne_true]
    unfold State.granPlaced State.updRxOp
    refine congrArg (false, ·) (updConn_congr _ c ?_)
    rw [conn_of_keeps hstores.keeps (by decide), htaken.rxOps]
    simp [State.dataOp]
  rw [hrange]
  simp [hput]

end Sys2Proof.Machine

/-! ## WRITE_RECEIVE and TOKEN_RECEIVE (R245, R305, R317, R318, R320, R321) -/

namespace Sys2Proof.Machine

open Sys2Proof (Keeps)

theorem runs_writeReceive {s : State} {rx : Rx} {P : State → Prop}
    (h : P (s.receive rx fun o _ => decide (o = opWrite) || decide (o = 0) || decide (12 < o))) : Runs (.writeReceive rx) s P := ⟨_, rfl, h⟩

theorem runs_tokenReceive {s : State} {rx : Rx} {P : State → Prop} (h : P (s.receive rx (isOp opToken))) : Runs (.tokenReceive rx) s P :=
  ⟨_, rfl, h⟩

/-- What an arriving packet of data brings with it: an open connection, a PSN, and the state that takes it in. -/
theorem inOrder_taken {s : State} {rx : Rx} {p : Pkt} {c : Nat} (h : InOrder s rx p c) :
    Taken s (s.dataArrived c rx p) c p ∧ (s.conn c).st = 2 ∧ p.psn < 2 ^ 32 ∧ p = rxPkt rx := by
  obtain ⟨⟨harrives, -, hst, -⟩, -, -, hheld, -⟩ := h
  obtain ⟨-, -, -, -, -, -, -, -, -, hp, -⟩ := harrives
  exact ⟨dataArrived_taken hheld, hst, by rw [hp]; exact Nat.mod_lt _ (by decide), hp⟩

/-- `w` is `u` once the content of the one operation of connection c, `o` by now, has been placed or refused (R306, R317). -/
structure Placed (u w : State) (c : Nat) (o : RxOp) : Prop where
  keeps : Keeps [.memory, .network] u w
  conn : w.conn c = { u.conn c with rxOps := [o] }
  spray : w.sprayNow c = u.sprayNow c

theorem placed_refl {s u : State} {c : Nat} {p : Pkt} (htaken : Taken s u c p) : Placed u u c (s.dataOp c p) :=
  ⟨.refl _ u, by rw [← htaken.rxOps], rfl⟩

theorem placed_setRxOps (u : State) (c : Nat) (o : RxOp) : Placed u (u.updConn c fun k => { k with rxOps := [o] }) c o :=
  ⟨.of_patch rfl, updConn_conn_same u c _, sprayNow_setRxOps u c [o]⟩

theorem placed_granPlaced {u : State} {ds : List Nat} {r : Region} {a : Nat} {g : Gran}
    (hstores : StoresAt ds u (u.storeGran r a g ⟨a, a + 256, []⟩)) (c : Nat) (o : RxOp) : Placed u (u.granPlaced c r a g o) c o := by
  obtain ⟨hkeeps, hconn, hspray⟩ := placed_setRxOps (u.storeGran r a g ⟨a, a + 256, []⟩) c o
  refine ⟨(hstores.keeps.mono (by decide)).trans (hkeeps.mono (by decide)), ?_, hspray.trans ?_⟩
  · exact hconn.trans (by rw [conn_of_keeps hstores.keeps (by decide)])
  · exact sprayNow_of_net (hstores.keeps .network (by decide)) (congrArg Dev.inService (hstores.keeps .faults (by decide))) c

namespace Placed

variable {s u w : State} {c : Nat} {o : RxOp} (h : Placed u w c o)
include h

theorem part_eq (x : Nat) : w.part x = u.part x := part_of_keeps h.keeps (by decide) x
theorem connPart_eq : connPart (w.conn c) = connPart (u.conn c) := by rw [h.conn]; rfl

theorem dmaOf_eq : w.dmaOf c = u.dmaOf c := by
  unfold State.dmaOf
  rw [h.part_eq, h.connPart_eq, h.conn]

end Placed

/-- A WRITE packet that is placed, or refused, on arrival: its operation then ends from the state that this leaves. -/
theorem receive_write {s w z : State} {rx : Rx} {p : Pkt} {c st : Nat} {o : RxOp} (h : InOrder s rx p c) (hop : p.op = opWrite)
    (hfree : s.dmaOf c = Dma.reset) (hput : (s.dataArrived c rx p).placeWrite c p rx.errs = (true, w))
    (hplaced : Placed (s.dataArrived c rx p) w c o) (hid : o.opid = pktOp p) (hlast : o.lastPsn = some p.psn) (hkind : o.op = opWrite)
    (hfin : w.finishOp c o = (st, z)) (hspray : z.sprayNow c ≠ []) :
    Runs (.writeReceive rx) s fun t => DoneSent t c (pktOp p) st ∧ Keeps [.network, .stewards] z t := by
  obtain ⟨htaken, hst, hbound, -⟩ := inOrder_taken h
  have hcontent : (s.dataArrived c rx p).takeContent c p rx.errs = w := by
    have hnow : placedNow p = true := by rw [placedNow, hop]; rfl
    unfold State.takeContent
    dsimp only
    rw [if_pos hnow, htaken.deliverPkt_write hop hfree, hput, if_pos rfl]
  have hheld : (w.conn c).rxHeld = [] := by rw [hplaced.conn]; exact htaken.rxHeld
  have hready : w.opReady c o = true := opReady_alone hlast hbound (by rw [hkind]; decide) (by rw [hplaced.conn]; exact htaken.rxNext) hheld
    (hplaced.dmaOf_eq.trans (htaken.dmaOf_eq.trans hfree))
  rw [← hid]
  exact runs_writeReceive (receive_done h (by rw [hop]; decide) (by rw [hop]; decide) (by rw [hop]; rfl) (by rw [hcontent])
    (by rw [hplaced.conn]; exact htaken.st.trans hst) hheld (by rw [hplaced.conn]) hready hfin hspray)

/-- A TOKEN waits for its turn, which has come, and its operation ends (R317). -/
theorem receive_token {s z : State} {rx : Rx} {p : Pkt} {c st : Nat} (h : InOrder s rx p c) (hop : p.op = opToken) (hfree : s.dmaOf c = Dma.reset)
    (hfin : (s.dataArrived c rx p).finishOp c (s.dataOp c p) = (st, z)) (hspray : z.sprayNow c ≠ []) :
    Runs (.tokenReceive rx) s fun t => DoneSent t c (pktOp p) st ∧ Keeps [.network, .stewards] z t := by
  obtain ⟨htaken, hst, hbound, -⟩ := inOrder_taken h
  have hlater : placedNow p = false := by rw [placedNow, hop]; rfl
  have hpass : (s.dataArrived c rx p).deliverPkt c p rx.errs = (true, s.dataArrived c rx p) := by
    have hholds : (s.dataArrived c rx p).dmaHolds c p = false := by simp [State.dmaHolds, htaken.dmaOf_eq, hfree, Dma.reset]
    unfold State.deliverPkt
    rw [hholds, hop]
    rfl
  have hcontent : (s.dataArrived c rx p).takeContent c p rx.errs =
      (s.dataArrived c rx p).updConn c fun k => { k with rxHeld := k.rxHeld ++ [p] } := by
    unfold State.takeContent
    dsimp only
    rw [hlater, if_neg Bool.false_ne_true, if_neg (by rw [hop]; decide)]
  refine runs_tokenReceive (receive_done (o := s.dataOp c p) h (by rw [hop]; decide) (by rw [hop]; decide) (by rw [hop]; rfl) ?_
    (htaken.st.trans hst) htaken.rxHeld htaken.rxOps (htaken.ready hbound (by rw [hop]; decide) hfree) hfin hspray)
  rw [hcontent]
  obtain ⟨m, f, hlast⟩ : ∃ m f, s.dataArrived c rx p = State.updConn m c f := by
    unfold State.dataArrived State.dataTaken
    exact ⟨_, _, rfl⟩
  exact settleRx_passes rx.errs hlast hlater (htaken.st.trans hst) htaken.rxHeld htaken.rxNext hbound hpass

/-- A WRITE or a TOKEN that its gate refuses ends with the gate's status, and nothing of it is done (R305). -/
theorem receive_refused {s : State} {rx : Rx} {p : Pkt} {c : Nat} (h : InOrder s rx p c) (hgate : s.opGate c p ≠ 0)
    (hfree : s.dmaOf c = Dma.reset) (hspray : s.sprayNow c ≠ []) :
    (p.op = opWrite → Runs (.writeReceive rx) s fun t =>
        DoneSent t c (pktOp p) (s.opGate c p) ∧ Keeps [.network, .stewards] (s.dataArrived c rx p) t) ∧
      (p.op = opToken → Runs (.tokenReceive rx) s fun t =>
        DoneSent t c (pktOp p) (s.opGate c p) ∧ Keeps [.network, .stewards] (s.dataArrived c rx p) t) := by
  obtain ⟨htaken, -, -, -⟩ := inOrder_taken h
  have hfin := finishOp_failed (s.dataArrived c rx p) c (o := s.dataOp c p) hgate rfl
  have hspray' : (s.dataArrived c rx p).sprayNow c ≠ [] := htaken.spray ▸ hspray
  refine ⟨fun hop => ?_, fun hop => receive_token h hop hfree hfin hspray'⟩
  exact receive_write h hop hfree (htaken.placeWrite_refused rx.errs hgate) (placed_refl htaken) rfl rfl hop hfin hspray'

/-- The partition of a connection once the Token of its operation, if it names one, has been released (R321). -/
def tokenIn (p : Pkt) (q : Part) : Part :=
  if nfld p.w3 31 10 = relNone then q else
    releaseTok q (nfld p.w3 31 10) (nearStep (streamStep q (streamOf q (nfld p.w3 31 10 / 512))) (nfld p.w3 9 0)) p.prov

theorem tokenIn_streams (p : Pkt) (q : Part) (x : Table Nat) : (tokenIn p { q with roundIn := x }).streams = (tokenIn p q).streams := by
  unfold tokenIn
  split
  · rfl
  · exact releaseTok_streams q _ _ _ x

/-- The state that a WRITE or a TOKEN leaves: its partition has its Token, and no other partition has changed. -/
theorem tokenFreed_dataOp {s u w : State} {c : Nat} {p : Pkt} {l : List Undo} (hop : p.op = opWrite ∨ p.op = opToken) (htaken : Taken s u c p)
    (hplaced : Placed u w c { s.dataOp c p with undo := l }) :
    (w.tokenFreed c { s.dataOp c p with undo := l }).part (connPart (s.conn c)) = tokenIn p (u.part (connPart (s.conn c))) ∧
      (∀ x, x ≠ connPart (s.conn c) → (w.tokenFreed c { s.dataOp c p with undo := l }).part x = u.part x) ∧
      (w.tokenFreed c { s.dataOp c p with undo := l }).sprayNow c = s.sprayNow c := by
  have hq : connPart (w.conn c) = connPart (s.conn c) := hplaced.connPart_eq.trans htaken.connPart_eq
  have hkeeps := tokenFreed_keeps w c { s.dataOp c p with undo := l }
  refine ⟨?_, fun x hx => ?_, ?_⟩
  · rw [← hq, tokenFreed_part_same, hplaced.part_eq]
    simp only [Part.released, State.dataOp, if_pos hop, tokenIn]
  · rw [tokenFreed_part_ne w _ (hq ▸ hx), hplaced.part_eq]
  · refine (sprayNow_of_net (hkeeps .network (by decide)) (congrArg Dev.inService (hkeeps .faults (by decide))) c).trans ?_
    exact hplaced.spray.trans htaken.spray

/-- Between two states in which memory and device are the same, no granule moves. -/
theorem onlyGranule_of_stores {s u t : State} {r : Region} {a : Nat} {g : Gran} {v : Cover} (hu : u.mem = s.mem)
    (hstores : StoresAt (ownAt u r a 4 ++ sideAt r a) u (u.storeGran r a g v)) (hmem : t.mem = (u.storeGran r a g v).mem)
    (hphys : t.phys (rgnDpa r a) = u.phys (rgnDpa r a)) : OnlyGranule s t r a := by
  intro b hout hside
  rw [byteAt_of_mem hmem, hstores.bytes b ?_, byteAt_of_mem hu]
  intro d hd
  rcases List.mem_append.mp hd with hd | hd
  · obtain ⟨i, hi, rfl⟩ := List.mem_map.mp hd
    have := List.mem_range.mp hi
    omega
  · obtain ⟨x, hx, rfl⟩ := List.mem_map.mp hd
    exact hside x hx

/-- A WRITE of one granule to an open region stands there, and its Token is released (R245, R270, R320, R321). -/
theorem receive_write_placed {s : State} {rx : Rx} {p : Pkt} {c q a : Nat} {r : Region} {g : Gran} (h : Sys2Proof.DataIn s rx p c q opWrite)
    (hgrans : p.grans = [g]) (hspray : s.sprayNow c ≠ []) (hat : GranAt s c q (pktAddr p) true r a) (hfits : Sys2Proof.RegionFits r) :
    Runs (.writeReceive rx) s fun t =>
      t.peek (t.phys (rgnDpa r a)) 256 = g.data ∧ OnlyGranule s t r a ∧ DoneSent t c (pktOp p) 0 ∧
        (t.part q).streams = (tokenIn p (s.part q)).streams ∧
        t.mem.regions = s.mem.regions ∧ (∀ x, x ≠ q → t.part x = s.part x) ∧ Keeps [.memory, .network, .partitions, .stewards] s t := by
  obtain ⟨hin, hop, rfl, hgate, hfree, herrs, hworks, hwf⟩ := h
  obtain ⟨htaken, -, -, hp⟩ := inOrder_taken hin
  have hlen : g.data.length = 256 := rxPkt_gran_length (rx := rx) (by rw [← hp, hgrans]; exact List.mem_singleton_self g)
  obtain ⟨l, hput⟩ := htaken.placeWrite_placed hop hgate hgrans hlen hworks hwf hfits hat
  obtain ⟨i, hplace, -⟩ := hat
  obtain ⟨-, -, -, hdlen⟩ := place_spec hplace
  have halign := place_aligned hop hgate hplace
  obtain ⟨hstores, hbytes⟩ := storeGran_stores hfits halign hdlen (fun k => by rw [htaken.col_eq]; exact hworks k) g ⟨a, a + 256, []⟩
  have hplaced := placed_granPlaced hstores c { s.dataOp c p with undo := l }
  obtain ⟨hpart, hrest, hroute⟩ := tokenFreed_dataOp (.inl hop) htaken hplaced
  generalize hw : (s.dataArrived c rx p).granPlaced c r a g { s.dataOp c p with undo := l } = w at hput hplaced hpart hrest hroute
  have hfreed := tokenFreed_keeps w c { s.dataOp c p with undo := l }
  refine (receive_write hin hop hfree (by rw [herrs]; exact hput) hplaced rfl rfl hop (finishOp_freed w c hgate (.inl hop))
    (hroute ▸ hspray)).mono fun t ⟨hdone, hsent⟩ => ?_
  have hmem : t.mem = ((s.dataArrived c rx p).storeGran r a g ⟨a, a + 256, []⟩).mem :=
    (hsent .memory (by decide)).trans ((hfreed .memory (by decide)).trans (hw ▸ rfl))
  have hkeeps : Keeps [.memory, .network, .partitions, .stewards] s t :=
    (htaken.keeps.mono (by decide)).trans <| (hplaced.keeps.mono (by decide)).trans <| (hfreed.mono (by decide)).trans (hsent.mono (by decide))
  have hphys : t.phys (rgnDpa r a) = (s.dataArrived c rx p).phys (rgnDpa r a) :=
    phys_of_dev ((hkeeps .faults (by decide)).trans htaken.dev_eq.symm) _
  have hparts : ∀ x, t.part x = (w.tokenFreed c { s.dataOp c p with undo := l }).part x := part_of_keeps hsent (by decide)
  refine ⟨peek_of_bytes hlen fun i hi => ?_, onlyGranule_of_stores htaken.mem_eq hstores hmem hphys, hdone, ?_, ?_, ?_, hkeeps⟩
  · rw [hphys, byteAt_of_mem hmem, hbytes i hi]
  · rw [hparts, hpart, htaken.parts, tokenIn_streams]
  · rw [hmem, hstores.regions, htaken.mem_eq]
  · intro x hx
    rw [hparts, hrest x hx, htaken.others x hx]

/-- A WRITE of one granule to an address outside the open regions ends as an access fault (R245). -/
theorem receive_write_outside {s : State} {rx : Rx} {p : Pkt} {c q : Nat} {g : Gran} (h : Sys2Proof.DataIn s rx p c q opWrite)
    (hgrans : p.grans = [g]) (hspray : s.sprayNow c ≠ []) (hplace : s.place q (pktAddr p) = none) :
    Runs (.writeReceive rx) s fun t =>
      DoneSent t c (pktOp p) 1 ∧ (t.part q).streams = (s.part q).streams ∧ Keeps [.network, .partitions, .stewards] s t := by
  obtain ⟨hin, hop, rfl, hgate, hfree, -, -, -⟩ := h
  obtain ⟨htaken, -, -, -⟩ := inOrder_taken hin
  have hput := htaken.placeWrite_outside rx.errs hgate hgrans hplace
  have hplaced := placed_setRxOps (s.dataArrived c rx p) c { s.dataOp c p with status := 1 }
  have hfin := finishOp_failed ((s.dataArrived c rx p).updConn c fun k => { k with rxOps := [{ s.dataOp c p with status := 1 }] }) c
    (o := { s.dataOp c p with status := 1 }) (show 1 ≠ 0 by decide) rfl
  refine (receive_write hin hop hfree hput hplaced rfl rfl hop hfin ?_).mono fun t ⟨hdone, hsent⟩ => ⟨hdone, ?_, ?_⟩
  · rwa [hplaced.spray, htaken.spray]
  · rw [part_of_keeps hsent (by decide), hplaced.part_eq, htaken.parts]
  · refine (htaken.keeps.mono (by decide)).trans (.trans ?_ (hsent.mono (by decide)))
    exact .of_patch rfl

/-- A TOKEN that its connection may send is released in its partition (R321). -/
theorem receive_token_released {s : State} {rx : Rx} {p : Pkt} {c q : Nat} (h : Sys2Proof.DataIn s rx p c q opToken) (hspray : s.sprayNow c ≠ []) :
    Runs (.tokenReceive rx) s fun t =>
      DoneSent t c (pktOp p) 0 ∧ t.part q = tokenIn p (s.part q) ∧ (∀ x, x ≠ q → t.part x = s.part x) ∧
        Keeps [.network, .partitions, .stewards] s t := by
  obtain ⟨hin, hop, rfl, hgate, hfree, -, -, -⟩ := h
  obtain ⟨htaken, -, -, -⟩ := inOrder_taken hin
  have huncharged := part_of_keeps (dataArrived_keeps (by rw [placedNow, hop]; rfl) s c rx) (by decide)
  obtain ⟨hpart, hrest, hroute⟩ := tokenFreed_dataOp (l := []) (.inr hop) htaken (placed_refl htaken)
  have hfreed := tokenFreed_keeps (s.dataArrived c rx p) c (s.dataOp c p)
  refine (receive_token hin hop hfree (finishOp_freed _ c hgate (.inr hop)) (hroute ▸ hspray)).mono fun t ⟨hdone, hsent⟩ => ?_
  have hparts := part_of_keeps hsent (by decide)
  refine ⟨hdone, ?_, fun x hx => ?_, ?_⟩
  · rw [hparts, ← huncharged]
    exact hpart
  · rw [hparts, ← huncharged]
    exact hrest x hx
  · exact (htaken.keeps.mono (by decide)).trans ((hfreed.mono (by decide)).trans (hsent.mono (by decide)))

/-- Settles O46: the packet is taken in, its granule stored whole or its operation refused, and its one operation, alone on its connection, ends
at once. -/
theorem writesAndTokensArrive : Obligations.WritesAndTokensArrive := by
  unfold Obligations.WritesAndTokensArrive
  refine ⟨fun s rx p c q a r g h hgrans hspray hat hfits => ?_, fun s rx p c q g h hgrans hspray hplace => ?_,
    fun s rx p c st hin hop hgate hst hfree hspray => ?_, fun s rx p c q h hspray htok => ?_⟩
  · refine (receive_write_placed h hgrans hspray hat hfits).mono fun t ht => ?_
    rwa [tokenIn, apply_ite Part.streams] at ht
  · exact receive_write_outside h hgrans hspray hplace
  · subst hgate
    obtain ⟨htaken, -, -, -⟩ := inOrder_taken hin
    obtain ⟨hwrite, htoken⟩ := receive_refused hin hst hfree hspray
    refine ⟨fun hop => (hwrite hop).mono fun t ⟨hdone, hsent⟩ => ⟨hdone, ?_⟩, fun hop => (htoken hop).mono fun t ⟨hdone, hsent⟩ => ?_⟩
    · exact (htaken.keeps.mono (by decide)).trans (hsent.mono (by decide))
    · have hkeeps : Keeps [.network, .stewards] s t :=
        ((dataArrived_keeps (by rw [placedNow, hop]; rfl) s c rx).mono (by decide)).trans (hsent.mono (by decide))
      exact ⟨hdone, hkeeps .partitions (by decide), hkeeps⟩
  · refine (receive_token_released h hspray).mono fun t ht => ?_
    rwa [tokenIn, if_neg htok] at ht

end Sys2Proof.Machine
